-- ==== Sys2Proof/Word.lean ====
section
/-! DEFINITION. The word types of the device (R8: registers are 32 bits wide, structures little-endian). -/

namespace Sys2Proof

/-- One byte. -/
abbrev Byte := BitVec 8
/-- A 16-bit field. -/
abbrev U16 := BitVec 16
/-- A register or 4-byte field (R8). -/
abbrev U32 := BitVec 32
/-- An 8-byte field. -/
abbrev U64 := BitVec 64

end Sys2Proof
end

