-- ==== Sys2Proof/Machine/Tab.lean ====
section
/-! DEFINITION. Sparse tables in one canonical form: keys strictly rising, and no entry equal to the value that an
unlisted key reads as. Registers, memory, pages, Herd entries, windows and connections are all held in them. -/

namespace Sys2Proof.Machine

/-- A sparse table: pairs of a key and a value, the keys strictly rising. -/
abbrev Tab (α : Type) := List (Nat × α)

/-- The value at `k`; an unlisted key reads as `d`. -/
def Tab.look {α : Type} (d : α) (k : Nat) : Tab α → α
  | [] => d
  | (j, v) :: t => if j = k then v else Tab.look d k t

/-- Writes `v` at `k`, keeping the keys rising; writing the unlisted value `d` removes the entry. -/
def Tab.place {α : Type} [DecidableEq α] (d : α) (k : Nat) (v : α) : Tab α → Tab α
  | [] => if v = d then [] else [(k, v)]
  | (j, w) :: t =>
    if j < k then (j, w) :: Tab.place d k v t
    else if j = k then (if v = d then t else (k, v) :: t)
    else if v = d then (j, w) :: t else (k, v) :: (j, w) :: t

/-- Every key of the table lies above `lo`, the keys rise strictly, and no entry holds its unlisted value. -/
def Tab.wfFrom {α : Type} [DecidableEq α] (d : Nat → α) : Nat → Tab α → Bool
  | _, [] => true
  | lo, (j, v) :: t => decide (lo ≤ j) && decide (v ≠ d j) && Tab.wfFrom d (j + 1) t

/-- The canonical form, for a table whose unlisted key `k` reads as `d k`. -/
def Tab.wfBy {α : Type} [DecidableEq α] (d : Nat → α) (t : Tab α) : Bool := Tab.wfFrom d 0 t

/-- The value at `k` of a table whose unlisted value is the type's default. -/
def Tab.get {α : Type} [Inhabited α] (t : Tab α) (k : Nat) : α := Tab.look default k t

/-- Writes `v` at `k` in a table whose unlisted value is the type's default. -/
def Tab.set {α : Type} [Inhabited α] [DecidableEq α] (t : Tab α) (k : Nat) (v : α) : Tab α :=
  Tab.place default k v t

/-- Changes the value at `k` by `f`. -/
def Tab.mod {α : Type} [Inhabited α] [DecidableEq α] (t : Tab α) (k : Nat) (f : α → α) : Tab α :=
  t.set k (f (t.get k))

/-- The canonical form of a table whose unlisted value is the type's default. -/
def Tab.wf {α : Type} [Inhabited α] [DecidableEq α] (t : Tab α) : Bool := Tab.wfBy (fun _ => default) t

/-- Applies `f` to every listed entry, dropping those that come to the default. -/
def Tab.mapAll {α : Type} [Inhabited α] [DecidableEq α] (f : Nat → α → α) : Tab α → Tab α
  | [] => []
  | (j, v) :: t => if f j v = default then Tab.mapAll f t else (j, f j v) :: Tab.mapAll f t

/-- The keys of the listed entries that satisfy `p`, in rising order. -/
def Tab.keysWhere {α : Type} (t : Tab α) (p : Nat → α → Bool) : List Nat :=
  (t.filter fun e => p e.1 e.2).map Prod.fst

/-- How many listed entries satisfy `p`. -/
def Tab.countWhere {α : Type} (t : Tab α) (p : Nat → α → Bool) : Nat := (t.keysWhere p).length

/-- Whether some listed entry satisfies `p`. -/
def Tab.anyWhere {α : Type} (t : Tab α) (p : Nat → α → Bool) : Bool := t.any fun e => p e.1 e.2

/-- The least key below `n` whose value satisfies `p`, searching from `i` with `fuel` steps. -/
def Tab.firstFrom {α : Type} [Inhabited α] (t : Tab α) (p : α → Bool) : Nat → Nat → Option Nat
  | _, 0 => none
  | i, fuel + 1 => if p (t.get i) then some i else Tab.firstFrom t p (i + 1) fuel

/-- The least number from `i` on that satisfies `p`, among `fuel` of them. -/
def firstNat (p : Nat → Bool) : Nat → Nat → Option Nat
  | _, 0 => none
  | i, fuel + 1 => if p i then some i else firstNat p (i + 1) fuel

/-- The least key below `n` whose value satisfies `p`. -/
def Tab.first {α : Type} [Inhabited α] (t : Tab α) (p : α → Bool) (n : Nat) : Option Nat := Tab.firstFrom t p 0 n

end Sys2Proof.Machine
end

