-- ==== Sys2Proof/Machine/TypesEngine.lean ====
section
/-! DEFINITION. Plain data of the Eland array and the Springbok lanes (chapters 04, 05 and 06). -/

namespace Sys2Proof.Machine

/-! ### The Eland array (04) -/

/-- Eland operation kinds (R102). -/
inductive ElandKind where
  | gemm | groupedGemm | attnFwd | attnTree | attnBwd | kvPack | distTable | sample
  deriving DecidableEq, Repr, Inhabited

/-- Code of an operation kind (R102). -/
def ElandKind.code : ElandKind → Nat
  | .gemm => 1 | .groupedGemm => 2 | .attnFwd => 3 | .attnTree => 4 | .attnBwd => 5 | .kvPack => 6
  | .distTable => 7 | .sample => 8

/-- An Eland operation descriptor (R102). -/
structure ElandDesc where
  level : Byte := 1
  kind : Byte := 0
  flags : Byte := 0
  partition : Byte := 0
  aFmt : Byte := 0
  bFmt : Byte := 0
  outFmt : Byte := 0
  mode : Byte := 0
  m : U32 := 0
  n : U32 := 0
  k : U32 := 0
  g : U16 := 0
  h : U16 := 0
  aAddr : U64 := 0
  bAddr : U64 := 0
  cAddr : U64 := 0
  auxAddr : U64 := 0
  param0 : U32 := 0
  serial : U32 := 0
  deriving DecidableEq, Repr, Inhabited

/-- Who adds an operation to the Eland queue (R96). -/
inductive ElandSource where
  | sequencer | chamois | firmware
  deriving DecidableEq, Repr, Inhabited

/-- An operation completion (R101). -/
structure ElandCompletion where
  source : ElandSource := .sequencer
  serial : U32 := 0
  status : Byte := 0
  kind : Byte := 0
  replays : Nat := 0
  poisonTiles : Nat := 0
  saturated : Nat := 0
  nans : Nat := 0
  deriving DecidableEq, Repr, Inhabited

/-- Where an output tile stands after a mismatch (R118): it is replayed on the same sub-array, or rerun on another. -/
inductive TilePhase where
  | replay | rerun
  deriving DecidableEq, Repr, Inhabited

/-- What went wrong in a run of a tile: sums of its matrix step that came out as other FP32 bits than a sound run gives, by row
and column of the tile. A sound run has none. -/
structure TileRun where
  upsets : List (Nat × Nat × U32) := []
  deriving DecidableEq, Repr, Inhabited

/-- Rows of the token matrix that an operation computes for a Herd slot: the first, and how many. -/
structure RowSpan where
  slot : Nat := 0
  first : Nat := 0
  count : Nat := 0
  deriving DecidableEq, Repr, Inhabited

/-- A partial row (R168): m, λ and the normalised output, all FP32, and whether it is poisoned (R145). -/
structure PRow where
  m : U32 := 0xFF800000
  lse : U32 := 0xFF800000
  out : List U32 := []
  poisoned : Bool := false
  deriving DecidableEq, Repr, Inhabited

/-! ### Attention (06) -/

/-- What a layer's attention is (R103, R154-R157): heads, widths, mask and softmax scale. -/
structure AttnShape where
  /-- KV heads H and query heads G. -/
  heads : Nat := 0
  queryHeads : Nat := 0
  /-- K, the head width. -/
  width : Nat := 0
  latent : Bool := false
  /-- VALUE_WIDTH of the latent layout. -/
  valueWidth : Nat := 0
  /-- Mask kind, W, s and PREFIX_LEN. -/
  mask : Nat := 1
  window : Nat := 0
  sinks : Nat := 0
  prefixLen : Nat := 0
  /-- First committed position that is read. -/
  kvStart : Nat := 0
  /-- Address of the BLOCK_SPARSE bitmap (R158). -/
  sparseAt : Option Nat := none
  /-- σ, FP32. -/
  scale : U32 := 0
  /-- Keys are rotated (R51). -/
  rotated : Bool := false
  /-- Addresses of the rotary table (R165) and the KV scale table (R46), 0 for none. -/
  rope : Nat := 0
  kvScale : Nat := 0
  /-- Address and format of the rows that the operation itself writes (R161, R163). -/
  newKv : Nat := 0
  newFmt : Nat := 0
  deriving DecidableEq, Repr, Inhabited

/-- Where the keys and values of committed positions lie: a page-list root and a layer, or dense tiles from an address, with
the first tile position they hold and their tile format (R163, R164). -/
inductive KvSource where
  | pages (root layer : Nat)
  | dense (at_ : Nat) (first : Nat) (format : Nat)
  /-- Pages of a root and layer, with `count` tile positions from `first` staged in a dense buffer (R229). -/
  | staged (root layer : Nat) (at_ first count : Nat)
  deriving DecidableEq, Repr, Inhabited

/-! ### Lane work units (05) -/

/-- The partial rows that a run of a lane unit ended with (R140, R142). -/
structure UnitResult where
  /-- By query row × G + query head; two runs mismatch when they differ in any bit (R147). -/
  rows : List (Nat × PRow) := []
  deriving DecidableEq, Repr, Inhabited

/-- Phases of a lane work unit (R138, R146, R147). -/
inductive UnitPhase where
  | queued | checking | arbitration
  deriving DecidableEq, Repr, Inhabited

/-- A lane work unit: one entry, one layer, one KV head, one lane (R138). -/
structure LaneUnit where
  id : Nat := 0
  /-- The reduction that its partials go to, with its entry and layer. -/
  red : Nat := 0
  slot : Nat := 0
  layer : Nat := 0
  head : Nat := 0
  /-- Lane whose pseudo-channel holds the tiles. -/
  lane : Nat := 0
  /-- Tile positions, in ascending order. -/
  tps : List Nat := []
  /-- Query rows of the unit, Qr of R135. -/
  rows : Nat := 0
  /-- Number of the free choices that fix the order of its sums (R140). -/
  draw : Nat := 0
  /-- Chosen for a spot check (R146). -/
  checked : Bool := false
  phase : UnitPhase := .queued
  primary : UnitResult := {}
  checker : UnitResult := {}
  /-- Lane of the primary run, of the check, and of the arbitration. -/
  mainLane : Nat := 0
  checkLane : Nat := 0
  arbLane : Nat := 0
  deriving DecidableEq, Repr, Inhabited

/-- A lane buffer (R129): the prepared queries, the accumulators and statistics of the running unit, and its tile reads,
double-buffered. It is empty while no unit runs. -/
structure LaneBuffer where
  queries : List (BitVec 16) := []
  sums : List U32 := []
  tiles : List (List Byte) := []
  deriving DecidableEq, Repr, Inhabited

/-- An operation in the queue, with its tiles' progress (R96-R98). -/
structure ElandOp where
  /-- Number of the operation, by which the sub-arrays name it. -/
  id : Nat := 0
  desc : ElandDesc := {}
  source : ElandSource := .sequencer
  /-- The array has begun to issue its output tiles. -/
  begun : Bool := false
  /-- Output tiles in all, those not issued to a sub-array, and those that are done. -/
  total : Nat := 0
  waiting : List Nat := []
  doneTiles : List Nat := []
  /-- Tiles that mismatched: the tile, the sub-array, and what comes next (R118). -/
  retries : List (Nat × Nat × TilePhase) := []
  /-- Tiles written with poison. -/
  poison : List Nat := []
  /-- Status to report once every tile is done. -/
  status : Byte := 0
  replays : Nat := 0
  saturated : Nat := 0
  nans : Nat := 0
  /-- Rows of the token matrix that the operation computes, in row order (R122, R374). -/
  rows : List RowSpan := []
  /-- Rows of the step's token matrix; operand A is read, and the output written, at the token rows of the operation's rows (log
  entry 85). -/
  tokens : Nat := 0
  gather : Bool := false
  scatter : Bool := false
  /-- Format of the new keys and values that attention reads: that of the layer's KV_PACK (R161). -/
  newFmt : Nat := 0
  /-- Layer of the operation in its plan. -/
  layer : Nat := 0
  /-- The plan operation that it is, as (model, place in the sequence), for the sequencer's (R87). -/
  seq : Option (Nat × Nat) := none
  /-- Lane units that the array computes in the lanes' place (R137, R149). -/
  units : List LaneUnit := []
  /-- Tenant of the search batch of a DIST_TABLE (R374). -/
  tenant : Option (BitVec 10) := none
  /-- Global time at which the operation began. -/
  beganAt : Nat := 0
  /-- Number of the free choices that fix the order of its sums (R108). -/
  draw : Nat := 0
  deriving DecidableEq, Repr, Inhabited

/-- The tile that a sub-array runs: its operation, its number, and whether it was taken from another quadrant (R95). -/
structure RunTile where
  op : Nat := 0
  tile : Nat := 0
  stolen : Bool := false
  deriving DecidableEq, Repr, Inhabited

/-- The Eland array. -/
structure ElandSt where
  /-- The operation queue, at most 256, head first (R96). -/
  queue : List ElandOp := []
  /-- Operations whose sources are held until an entry frees, in order. -/
  heldOps : List ElandOp := []
  /-- Number of the next operation. -/
  nextOp : Nat := 0
  /-- The tile that each sub-array 4q + s runs (R93). -/
  running : Tab (Option RunTile) := []
  /-- ELAND_FENCED: bit 4q + s. -/
  fenced : BitVec 16 := 0
  /-- Fences recorded in the life log, by sub-array (R121). -/
  fences : Tab Nat := []
  /-- Status of the operation completed last (R100). -/
  lastStatus : Byte := 0
  /-- Completions reported, latest first. -/
  completions : List ElandCompletion := []
  deriving DecidableEq, Repr, Inhabited

/-- What a plan operation does to a step's entries (R87). -/
inductive SeqKind where
  /-- A matrix operation over every token row, one over the sample rows alone, a KV_PACK, attention, sampling, and the
  attachment of the trees that the plan's own draft operations wrote (R172). -/
  | matrix | project | pack | attention | sample | draft
  deriving DecidableEq, Repr, Inhabited

/-- An operation of a model plan's sequence, as the sequencer takes it from the plan (R87): its layer, its descriptor and,
for attention, the descriptor for the entries with trees. -/
structure SeqOp where
  layer : Nat := 0
  kind : SeqKind := .matrix
  /-- Earlier operations of the sequence, by place, that must have completed before this one is queued (R87). -/
  needs : List Nat := []
  desc : ElandDesc := {}
  treeDesc : ElandDesc := {}
  /-- The operation reads each entry's adapter. -/
  adapters : Bool := false
  /-- First tree handle of a draft operation. -/
  out : Nat := 0
  /-- Offset of each Herd slot's BLOCK_SPARSE bitmap in the sparse area, in units of 8 B (R158). -/
  sparseOff : Tab Nat := []
  /-- Addresses for the ragged length table (R161): new keys and values, rotary table, sparse area and KV scales. -/
  newKv : U64 := 0
  rope : U64 := 0
  sparse : U64 := 0
  kvScale : U64 := 0
  deriving DecidableEq, Repr, Inhabited

/-! ### The Springbok lanes (05) -/

/-- What a home reducer awaits for one entry and layer, or for one QUERY at a lower-range holder (R143, R144, R253). -/
structure Reduction where
  active : Bool := false
  slot : Nat := 0
  layer : Nat := 0
  shape : AttnShape := {}
  /-- Positions of the query rows, and the rows prepared by steps 1 and 2 of R139, in BF16, by query row × G + query head. -/
  positions : List Nat := []
  queries : List (List (BitVec 16)) := []
  /-- Lane units not yet dispatched: KV head and the lane of the tiles. -/
  todo : List (Nat × Nat) := []
  /-- Units of each quadrant whose partials its reducer still awaits, and the partial rows that it holds, by query row × G +
  query head. -/
  units : Tab Nat := []
  quads : Tab (List (Nat × PRow)) := []
  /-- The Eland array's part is still to come. -/
  eland : Bool := false
  /-- Peers whose partials are awaited. -/
  peers : List U16 := []
  /-- Partial rows at the home reducer. -/
  parts : List (Nat × PRow) := []
  /-- A peer's partial timed out or was refused: every row is poisoned (R144, R171). -/
  lost : Bool := false
  /-- First row of the entry in the step's token matrix, and the descriptor that says where the output goes. -/
  first : Nat := 0
  desc : ElandDesc := {}
  /-- The plan operation that it completes, as (model, place in the sequence) (R87). -/
  seq : Nat × Nat := (0, 0)
  /-- A QUERY's: who asked, its slot and request, and its step; OUT_FP32; the range covered (R171, R252). -/
  asker : Option (U16 × U32 × U64 × Nat) := none
  fp32 : Bool := false
  range : Nat × Nat := (0, 0)
  deriving DecidableEq, Repr, Inhabited

/-- A barrier in progress (R397): when the local partials of its layer were merged, and for each peer that has arrived,
in order, when its last partial did and whether its slot timed out. -/
structure LayerWait where
  readyAt : Nat := 0
  arrived : List (U16 × Nat × Bool) := []
  deriving DecidableEq, Repr, Inhabited

/-- The Springbok lanes. -/
structure SpringSt where
  /-- Unit queues by lane ℓ, at most 64 units each; the first of them runs (R138). -/
  queues : Tab (List LaneUnit) := []
  /-- Lane buffers by lane ℓ (R127, R129). -/
  buffers : Tab LaneBuffer := []
  /-- Units under spot check or arbitration. -/
  checks : List LaneUnit := []
  /-- Each quadrant's choice of spot checks (R146): units dispatched in the current group of 2^n, and the one chosen. -/
  picks : Tab (Nat × Nat) := []
  /-- Fenced lanes: bit ℓ. -/
  fenced : BitVec 640 := 0
  /-- Lanes fenced permanently (R150). -/
  permanent : BitVec 640 := 0
  strikes : Tab Nat := []
  /-- Fences recorded in the life log, by lane (R150). -/
  fences : Tab Nat := []
  /-- Reductions in progress, by number. -/
  reductions : Tab Reduction := []
  nextRed : Nat := 0
  /-- Barriers in progress, by layer. -/
  waits : Tab LayerWait := []
  /-- Busy lane cycles by quadrant. -/
  busy : Tab Nat := []
  /-- Next lane unit number. -/
  nextUnit : Nat := 0
  deriving DecidableEq, Repr, Inhabited

end Sys2Proof.Machine
end

