-- ==== Sys2Proof/Machine/TypesHost.lean ====
section
/-! DEFINITION. Plain data of the host interface, faults, observation and tenants (chapters 13, 14, 15 and 18). -/

namespace Sys2Proof.Machine

/-! ### Host interface (18) -/

/-- A command window of a function: port, function number (0 PF0, 1 PF1, 2-64 VF0-VF62), window (R464, R466). -/
structure WinRef where
  port : Fin 2
  fn : Fin 65
  win : Fin 64
  deriving DecidableEq, Repr, Inhabited

/-- The window's key, laid out as HOSTIF_WIN_SEL (R480). -/
def WinRef.key (w : WinRef) : Nat := w.port.val + 2 * w.fn.val + 256 * w.win.val

/-- Kinds of completion record (R472). -/
inductive RecKind where
  | command | tokens | endRec | decisionReq | windowError
  deriving DecidableEq, Repr, Inhabited

/-- A completion record (R472). PHASE and CONSUMED are set when the record is written (R473). -/
structure HostRec where
  kind : RecKind := .command
  status : Byte := 0
  phase : Bool := false
  /-- Token count − 1, for TOKENS. -/
  more : Fin 3 := 0
  cancel : Bool := false
  notify : Bool := false
  window : Byte := 0
  opcode : Byte := 0
  consumed : U16 := 0
  tag : U64 := 0
  result0 : U64 := 0
  result1 : U64 := 0
  /-- The request record that a TOKENS or END record reports on (the model's own; no byte of the record). -/
  about : Option Nat := none
  deriving DecidableEq, Repr, Inhabited

/-- A command consumed and not yet completed (R471). -/
structure HostRun where
  /-- The device's own number for it, given at consumption. -/
  id : Nat := 0
  opcode : Byte := 0
  tag : U64 := 0
  notify : Bool := false
  deriving DecidableEq, Repr, Inhabited

/-- A command window and its completion ring (R466, R467, R472, R473, R480). -/
structure HostWin where
  /-- HOSTIF_WIN_CFG ENABLE. -/
  enable : Bool := false
  /-- HOSTIF_WIN_CFG SIZE: the ring holds 2^(SIZE+6) records. -/
  size : Fin 16 := 0
  /-- HOSTIF_WIN_CFG VECTOR. -/
  vector : BitVec 11 := 0
  /-- HOSTIF_WIN_CFG ERROR. -/
  error : Bool := false
  /-- HOSTIF_RING_BASE. -/
  ringBase : U64 := 0
  /-- HOSTIF_RING_HEAD: records consumed by the host. -/
  head : Nat := 0
  /-- HOSTIF_RING_TAIL: records written. -/
  tail : Nat := 0
  /-- HOSTIF_WIN_CONSUMED: commands consumed since the window's reset. -/
  consumed : Nat := 0
  /-- The 64 slots' content, 64 B each; slots read as zero after a reset. -/
  slots : Tab (BitVec 512) := []
  /-- How many commands have been taken in each slot. -/
  laps : Tab Nat := []
  /-- Commands consumed and not yet completed (R471). -/
  running : List HostRun := []
  /-- The ring in host memory: record i at position i mod size (R473). -/
  ring : Tab HostRec := []
  /-- Records that wait while the ring is full, oldest first (R473). -/
  waiting : List HostRec := []
  /-- A raise of the ring's vector is delayed under HOSTIF_MSI_DELAY (R474). -/
  msiPending : Bool := false
  deriving DecidableEq, Repr, Inhabited

/-- A command as its window's slot holds it (R468). -/
structure HostCmd where
  level : Byte
  opcode : Byte
  flags : Byte
  partition : Byte
  tenant : U16
  reserved6 : U16
  tag : U64
  arg0 : U64
  arg1 : U64
  arg2 : U64
  arg3 : U64
  arg4 : U64
  arg5 : U32
  reserved3C : BitVec 24
  seq : Byte
  deriving DecidableEq, Repr, Inhabited

/-- A host port (R463, R477-R480). -/
structure HostPort where
  /-- HOSTIF_Hp_STATUS SPEED: 0 down, 1 16 GT/s, 2 32 GT/s, 3 64 GT/s. -/
  speed : Fin 4 := 0
  /-- HOSTIF_Hp_STATUS WIDTH. -/
  width : Fin 32 := 0
  /-- HOSTIF_Hp_STATUS IDE_SECURE. -/
  ideSecure : Bool := false
  /-- HOSTIF_Hp_STATUS LOSSES; saturates at 65,535. -/
  losses : Nat := 0
  /-- The port is lost (R477) and its link has not trained again. -/
  lost : Bool := false
  deriving DecidableEq, Repr, Inhabited

/-- A raised MSI-X vector of a port (R474, R385). -/
structure Msi where
  port : Fin 2
  vector : BitVec 11
  deriving DecidableEq, Repr, Inhabited

/-- The host interface. -/
structure HostIf where
  /-- Command windows by `WinRef.key`. -/
  wins : Tab HostWin := []
  /-- Commands consumed since reset, in every window. -/
  nextCmd : Nat := 0
  /-- The two ports. -/
  ports : Tab HostPort := []
  /-- The BAR4 base in force (R465; moved when HI is written). -/
  bar4Base : U64 := 0
  /-- MSI-X vectors raised, latest first. -/
  msi : List Msi := []
  /-- Answers to BAR4 reads, latest first: the bytes, and whether the TLP carries EP (R465). -/
  reads : List (List Byte × Bool) := []
  deriving DecidableEq, Repr, Inhabited

/-- A value written to a register, with the host port whose PF0 writes it, where it is one (R29). -/
structure PortWrite where
  port : Option (Fin 2) := none
  value : U32 := 0
  deriving DecidableEq, Repr, Inhabited

/-! ### Faults and recovery (14) -/

/-- Severity classes (R380). -/
inductive Severity where
  | corrected | deferred | contained | fatal
  deriving DecidableEq, Repr, Inhabited

/-- Code of a severity class (R380). -/
def Severity.code : Severity → Nat
  | .corrected => 0 | .deferred => 1 | .contained => 2 | .fatal => 3

/-- What a block reports of a fault; the FAULT block adds SEQ, TIDE, COUNT and the flags (R381). -/
structure FaultInfo where
  severity : Severity
  block : U16
  cause : U16
  status : Byte := 0
  fence : Bool := false
  /-- The record is also entered in the life log (FLAGS [3]). -/
  lifeLog : Bool := false
  requestId : U64 := 0
  detail0 : U64 := 0
  detail1 : U64 := 0
  tenant : Option (BitVec 10) := none
  unit : U16 := 0xFFFF
  islet : Byte := 0xFF
  die : Byte := 0
  deriving DecidableEq, Repr, Inhabited

/-- A fault record (R381). -/
structure FaultRec where
  info : FaultInfo
  /-- FLAGS [1]: records were lost before this one. -/
  overflow : Bool := false
  /-- FLAGS [2]: raised while a recovery ran. -/
  recovery : Bool := false
  seq : Nat := 0
  tide : Nat := 0
  /-- Occurrences the record stands for; saturates at 65,535. -/
  count : Nat := 0
  epoch : U32 := 0
  deriving DecidableEq, Repr, Inhabited

/-- What is held back for one pair of cause and UNIT (R383). -/
structure FaultHold where
  /-- 1 + the millisecond of global time of the pair's last record; 0 when none. -/
  lastMs : Nat := 0
  /-- Occurrences since, that no record stands for yet. -/
  held : Nat := 0
  deriving DecidableEq, Repr, Inhabited

/-- The fence of a tenant and its CONTAINED occurrences in the current second (R387). -/
structure TenantFence where
  fenced : Bool := false
  /-- 0 software, 1 limit, 2 partition. -/
  reason : Fin 3 := 0
  contained : Nat := 0
  /-- The whole second of global time in which `contained` counts. -/
  second : Nat := 0
  deriving DecidableEq, Repr, Inhabited

/-- Recovery kinds (R403). -/
inductive RecoveryKind where
  | peerLost | map | entry | pool
  deriving DecidableEq, Repr, Inhabited

/-- Code of a recovery kind (R403). -/
def RecoveryKind.code : RecoveryKind → Nat
  | .peerLost => 1 | .map => 2 | .entry => 3 | .pool => 4

/-- A cause of R403: its kind and its targets (device IDs; or the Herd slots of ENTRY causes). -/
structure RecoveryCause where
  kind : RecoveryKind
  targets : List Nat := []
  /-- ENTRY: each Herd slot with its status and the RELEASE_ENTRY command to complete. -/
  entries : List (Nat × Byte × Nat × Nat) := []
  deriving DecidableEq, Repr, Inhabited

/-- The recovery sequencer (R402-R406). -/
structure Recovery where
  /-- 0 when IDLE, else the current step 1-5. -/
  step : Fin 6 := 0
  cause : RecoveryCause := { kind := .peerLost }
  /-- Kind of the current or last recovery, 0 before the first. -/
  lastKind : Nat := 0
  /-- Global times of the restarts of the last second. -/
  restarts : List Nat := []
  /-- ENTRY and POOL causes that wait until the running recovery is IDLE (R405). -/
  queued : List RecoveryCause := []
  /-- The last step completed under the current epoch. -/
  doneStep : Nat := 0
  deriving DecidableEq, Repr, Inhabited

/-- The FAULT block. -/
structure FaultSt where
  /-- The ring's 1,024 positions (R384). -/
  ring : Tab FaultRec := []
  /-- FAULT_RING_HEAD and FAULT_RING_TAIL, modulo 2^32. -/
  head : Nat := 0
  tail : Nat := 0
  /-- SEQ of the last record produced; the first record of a cold reset takes 1. -/
  seq : Nat := 0
  /-- A record was lost since the last one written. -/
  overflow : Bool := false
  /-- FAULT_LOST by severity code; each saturates at 255. -/
  lost : Tab Nat := []
  /-- Pairs of cause and UNIT, keyed cause × 65,536 + UNIT (R383). -/
  holds : Tab FaultHold := []
  /-- FAULT_CAUSE_COUNT by cause; saturates. -/
  causes : Tab Nat := []
  /-- Fences by tenant (R387). -/
  fences : Tab TenantFence := []
  recovery : Recovery := {}
  /-- The device is in FATAL (R389). -/
  fatal : Bool := false
  /-- HOST_ASSIST functions whose status is NOT_READY for want of a decision (R30), by function row. -/
  notReady : Tab Bool := []
  deriving DecidableEq, Repr, Inhabited

/-! ### Observation (15) -/

/-- Time states (R414); their codes are OBS_TIME_STATUS STATE. -/
inductive TimeState where
  | unset | locking | locked | holdover | unlocked | free
  deriving DecidableEq, Repr, Inhabited

/-- Code of a time state (OBS_TIME_STATUS). -/
def TimeState.code : TimeState → Nat
  | .unset => 0 | .locking => 1 | .locked => 2 | .holdover => 3 | .unlocked => 4 | .free => 5

/-- A trace record as offered to the writer, without its SEQ (R421, R422). -/
structure TraceRec where
  type : Nat := 0
  trigger : Bool := false
  die : Byte := 0
  tide : Nat := 0
  /-- The 16-byte payload. -/
  payload : BitVec 128 := 0
  deriving DecidableEq, Repr, Inhabited

/-- States of a locked window (OBS_WIN_INFO). -/
inductive WinState where
  | free | filling | locked
  deriving DecidableEq, Repr, Inhabited

/-- A trace window (R427, R428). -/
structure TraceWin where
  state : WinState := .free
  start : Nat := 0
  stop : Nat := 0
  capped : Bool := false
  deriving DecidableEq, Repr, Inhabited

/-- The pending loss (R430). -/
structure TraceLoss where
  seq : Nat := 0
  tide : Nat := 0
  lastTide : Nat := 0
  count : Nat := 0
  /-- 0 locked window, 1 stopped, 2 rate. -/
  cause : Nat := 0
  deriving DecidableEq, Repr, Inhabited

/-- The twelve device-wide counters and the Tide of a snapshot (R411). -/
structure ObsSnap where
  counters : Tab Nat := []
  tide : Nat := 0
  deriving DecidableEq, Repr, Inhabited

/-- The OBS block. -/
structure ObsSt where
  /-- The Tide: nanoseconds since the domain epoch, 64 bits (R413). -/
  tide : Nat := 0
  state : TimeState := .unset
  /-- Consecutive pulses within ±20 ns of the expected edge while LOCKING. -/
  lockRun : Nat := 0
  /-- Tide of the last accepted pulse. -/
  lastPulse : Nat := 0
  /-- An armed TIDE_NEXT value (R414, R415). -/
  tideNext : Option Nat := none
  /-- Error still to be slewed out, in ns, signed (R415). -/
  slew : Int := 0
  /-- The last values of d, latest first (R417). -/
  ptp : List Int := []
  ptpLocked : Bool := false
  /-- PTP time − Tide as the slave clock last found it (R417). -/
  ptpClock : Option Int := none
  /-- Nanoseconds of true time since the last correction slot (the model's own, R413, R415; log entry 5). -/
  ticks : Nat := 0
  /-- The alarm codes driven on SB2, latest first (R417). -/
  alarms : List U32 := []
  /-- The counters of R410, by index 0-11; 64 bits, wrapping. -/
  counters : Tab Nat := []
  snap : Option ObsSnap := none
  /-- Records offered and not yet taken by the writer (R420). -/
  offers : List TraceRec := []
  /-- Index of the next record to be written, modulo M (OBS_TRACE_WPOS). -/
  wpos : Nat := 0
  /-- Consumed index of STOP mode (OBS_TRACE_RPOS). -/
  rpos : Nat := 0
  /-- SEQ of the next record offered (R423). -/
  seq : Nat := 0
  /-- How many records were written since the trace reset, so whether index w − 1 exists. -/
  written : Nat := 0
  /-- The record most recently written, and its SEQ (R425). -/
  last : Option (TraceRec × Nat) := none
  windows : Tab TraceWin := []
  /-- END of the latest window opened since the trace reset, with whether there is one (R427). -/
  lastEnd : Option Nat := none
  loss : Option TraceLoss := none
  deriving DecidableEq, Repr, Inhabited

/-! ### Tenants (13) -/

/-- Counts of one account (R374-R376). Fields 0-5 are the energy classes of R375. -/
structure Usage where
  promptRows : Nat := 0
  genRows : Nat := 0
  elandCycles : Nat := 0
  laneCycles : Nat := 0
  scanCycles : Nat := 0
  moved : Nat := 0
  netTx : Nat := 0
  netRx : Nat := 0
  energy : Nat := 0
  deferred : Nat := 0
  poisonRows : Nat := 0
  admits : Nat := 0
  delivered : Nat := 0
  /-- HBM 64-byte accesses: energy class 3. -/
  hbm : Nat := 0
  deriving DecidableEq, Repr, Inhabited

/-- A tenant table entry (R365, R370, R371, R378). -/
structure Tenant where
  enable : Bool := false
  partition : Fin 8 := 0
  share : U16 := 0x0100
  tokQuota : Nat := 0
  tokCap : Nat := 0
  tok : Int := 0
  admQuota : Nat := 0
  admCap : Nat := 0
  adm : Int := 0
  /-- V(t), 64 bits (R370). -/
  vtime : Nat := 0
  /-- A share written and not yet in effect (R370). -/
  sharePending : Option U16 := none
  /-- A token balance written and not yet in effect (R373). -/
  tokPending : Option Int := none
  deriving DecidableEq, Repr

/-- The binding of a virtual function (R366). -/
structure FnMap where
  tenant : BitVec 10 := 0
  bound : Bool := false
  deriving DecidableEq, Repr, Inhabited

/-- A snapshot of a counter record (R376). -/
structure AcctSnap where
  account : Nat := 0
  closed : Bool := false
  isOpen : Bool := false
  interval : Nat := 0
  use : Usage := {}
  deriving DecidableEq, Repr, Inhabited

/-- The TENANT block. -/
structure TenantSt where
  /-- The tenant table by tenant 0-1,023; an unlisted tenant reads as after reset. -/
  table : Tab Tenant := []
  /-- Bindings, keyed port + 2 × function. -/
  fnMap : Tab FnMap := []
  /-- Totals of the closed intervals, by account 0-1,024. -/
  closed : Tab Usage := []
  /-- Activity of the interval in progress, by account. -/
  current : Tab Usage := []
  /-- Number of the last closed interval. -/
  interval : Nat := 0
  /-- PWR energy meter reading at the last close, in µJ. -/
  meterAt : Nat := 0
  /-- Cycles that sub-arrays, lanes and scan units spent in the interval (R395). -/
  spent : Nat := 0
  snap : Option AcctSnap := none
  /-- TENANT_PERIOD in force, in ms (R372). -/
  period : Nat := 1000
  /-- A new period that waits for the next boundary. -/
  periodNext : Option Nat := none
  /-- The last period boundary applied, in ns of global time. -/
  boundary : Nat := 0
  /-- Boundaries passed while a step runs, applied at the step boundary. -/
  due : Nat := 0
  deriving DecidableEq, Repr, Inhabited

end Sys2Proof.Machine
end

