-- ==== Sys2Proof/Machine/TypesNet.lean ====
section
/-! DEFINITION. Plain data of the Strait fabric and of Ethernet, RDMA and traffic control (chapters 10 and 11). -/

namespace Sys2Proof.Machine

/-! ### Strait (10) -/

/-- States of a Strait port (R277, STRAIT_SPn_STATUS). -/
inductive PortState where
  | down | training | up | retraining
  deriving DecidableEq, Repr, Inhabited

/-- Code of a port state. -/
def PortState.code : PortState → Nat
  | .down => 0 | .training => 1 | .up => 2 | .retraining => 3

/-- Flit types (R271). -/
inductive FlitType where
  | idle | data | linkCtrl | reserved
  deriving DecidableEq, Repr, Inhabited

/-- A flit as it arrives (R271): its header fields, whether its CRC matches, and its 15 slots. -/
structure Flit where
  type : FlitType := .idle
  seq : Nat := 0
  ack : Nat := 0
  nak : Bool := false
  crcOk : Bool := true
  /-- Slot credits returned, by channel in the order of R273. -/
  credits : List Nat := []
  slots : List (List Byte) := []
  deriving DecidableEq, Repr, Inhabited

/-- Where a receiver stands in the slot stream of a link (R272): the channel of the transaction under way, its slots still to
come, and how many of them precede the LENGTH of a mover unit (R284). -/
structure SlotStream where
  channel : Nat := 0
  left : Nat := 0
  unit : Nat := 0
  deriving DecidableEq, Repr, Inhabited

/-- A Strait port and its link (R268-R277). -/
structure StraitPort where
  state : PortState := .down
  half : Bool := false
  /-- The bitstream assigns the port. -/
  allocated : Bool := false
  /-- SEQ of the last DATA flit sent, modulo 4,096; the first after training has SEQ 1. -/
  sendSeq : Nat := 0
  /-- The retry buffer: DATA flits not acknowledged, oldest first, each with its channel and its slots. -/
  buffer : List (Nat × Nat) := []
  /-- Last ACK received. -/
  acked : Nat := 0
  /-- The port is DOWN and tries a retrain. -/
  attempt : Bool := false
  /-- Replays since ACK last advanced. -/
  replaysNow : Nat := 0
  /-- SEQ of the last DATA flit received good and in order. -/
  recvSeq : Nat := 0
  /-- A NAK is outstanding: flits are discarded until the replay arrives. -/
  nakSent : Bool := false
  /-- Sender credits by channel 0-3. -/
  credits : Tab Nat := []
  /-- Slots sent by channel since training, modulo 2^32. -/
  sentSlots : Tab Nat := []
  /-- Slots received by channel since training, modulo 2^32; each is freed, and its credit returned, on receipt. -/
  received : Tab Nat := []
  stream : SlotStream := {}
  /-- Transactions that wait for credit or for the retry buffer, oldest first: channel and slots. -/
  backlog : List (Nat × Nat) := []
  replays : Nat := 0
  retrains : Nat := 0
  auditErrs : Nat := 0
  fecUncorr : Nat := 0
  deriving DecidableEq, Repr, Inhabited

/-- States of a window (R285, R312). -/
inductive WindowState where
  | free | opened | revoking
  deriving DecidableEq, Repr, Inhabited

/-- A Strait window (R285). -/
structure StraitWin where
  state : WindowState := .free
  load : Bool := false
  store : Bool := false
  atomic : Bool := false
  privileged : Bool := false
  space : Fin 16 := 0
  partition : Fin 8 := 0
  source : U16 := 0
  gen : U16 := 0
  base : Nat := 0
  size : Nat := 0
  inflight : Nat := 0
  /-- The host window that opened it, and the REVOKE command to complete. -/
  opener : Nat := 0
  revoke : Option (Nat × Nat) := none
  deriving DecidableEq, Repr, Inhabited

/-- Strait request opcodes that hold a tag or are answered (R282). -/
inductive StraitOp where
  | load | store | fetchAdd | swap | cas | fetchAnd | fetchOr | fetchXor | fetchMin | fetchMax
  deriving DecidableEq, Repr, Inhabited

/-- Opcode of a memory request (R282). -/
def StraitOp.code : StraitOp → Nat
  | .load => 0x10 | .store => 0x11 | .fetchAdd => 0x20 | .swap => 0x21 | .cas => 0x22 | .fetchAnd => 0x23
  | .fetchOr => 0x24 | .fetchXor => 0x25 | .fetchMin => 0x26 | .fetchMax => 0x27

/-- A Strait memory request as received (R280). -/
structure StraitReq where
  sizeFlags : Byte := 0
  src : U16 := 0
  tag : U16 := 0
  key : U16 := 0
  /-- Strait address: device [63:48], space [47:44], offset [43:0]. -/
  address : U64 := 0
  data : List Byte := []
  deriving DecidableEq, Repr, Inhabited

/-- A Strait response, received or sent (R281). -/
structure StraitResp where
  opcode : Byte := 0
  sizeFlags : Byte := 0
  src : U16 := 0
  tag : U16 := 0
  status : Byte := 0
  dst : U16 := 0
  data : List Byte := []
  deriving DecidableEq, Repr, Inhabited

/-- A mover unit (R284), received or sent. -/
structure MoverUnit where
  opcode : Byte := 0
  poison : Bool := false
  src : U16 := 0
  slot : U32 := 0
  target : U64 := 0
  requestId : U64 := 0
  epoch : U32 := 0
  creditId : U32 := 0
  check : U64 := 0
  tileSlot : Nat := 0
  status : Byte := 0
  key : U16 := 0
  data : List Byte := []
  deriving DecidableEq, Repr, Inhabited

/-- What the Strait ports have sent. -/
inductive StraitOut where
  | response (r : StraitResp)
  | request (op : StraitOp) (r : StraitReq) (plane : Nat)
  | unit (u : MoverUnit)
  | ping (dst : U16) (plane : Nat)
  | pong (dst : U16)
  | lastGasp (cause : Nat) (port : Nat) (tide : Nat)
  | audit (port : Nat) (sent : Tab Nat)
  | replay (port : Nat) (fromSeq : Nat)
  | nak (port : Nat) (ack : Nat)
  /-- Slot credits returned on the four channels. -/
  | credits (port : Nat) (slots : List Nat)
  deriving DecidableEq, Repr, Inhabited

/-- Issuers of memory requests (R289); the gateway issues for other devices' stores too. -/
inductive Issuer where
  | control (core : Nat) | sequencer | chamois | gateway
  deriving DecidableEq, Repr, Inhabited

/-- Tag states (R292). -/
inductive TagState where
  | free | waiting
  deriving DecidableEq, Repr, Inhabited

/-- A tag and the request that holds it (R292). -/
structure StraitTag where
  state : TagState := .free
  gen : Nat := 0
  op : StraitOp := .load
  issuer : Issuer := .sequencer
  dst : U16 := 0
  address : U64 := 0
  size : Nat := 0
  /-- Order of issue. -/
  order : Nat := 0
  /-- The request goes through the gateway. -/
  viaGateway : Bool := false
  deriving DecidableEq, Repr, Inhabited

/-- An answered request, as its issuer sees it (R293, R294). -/
structure StraitDone where
  issuer : Issuer := .sequencer
  op : StraitOp := .load
  dst : U16 := 0
  order : Nat := 0
  status : Byte := 0
  data : List Byte := []
  poison : Bool := false
  deriving DecidableEq, Repr, Inhabited

/-- A request held for want of a tag or for order (R289, R292), or paused (R291). -/
structure StraitHeld where
  op : StraitOp := .load
  issuer : Issuer := .sequencer
  address : U64 := 0
  /-- Bytes accessed. -/
  size : Nat := 0
  key : U16 := 0
  data : List Byte := []
  /-- Store data that is poisoned. -/
  poison : Bool := false
  /-- Order of issue, given when the device takes the request. -/
  order : Nat := 0
  deriving DecidableEq, Repr, Inhabited

/-- A fence that waits (R290). -/
structure StraitFence where
  issuer : Issuer := .sequencer
  dest : Option U16 := none
  /-- Stores and atomics issued before this order are covered. -/
  before : Nat := 0
  deriving DecidableEq, Repr, Inhabited

/-- A peer of the domain (R270, R291, R295). -/
structure StraitPeer where
  unreachable : Bool := false
  timeouts : Nat := 0
  /-- Issuing is paused while the live mask changes. -/
  paused : Bool := false
  /-- 1 + the millisecond of the last POISON_LOAD record. -/
  poisonMs : Nat := 0
  deriving DecidableEq, Repr, Inhabited

/-- A gateway route (R298). -/
structure Route where
  valid : Bool := false
  dst : U16 := 0
  base : Nat := 0
  size : Nat := 0
  conn : Nat := 0
  key : U32 := 0
  deriving DecidableEq, Repr, Inhabited

/-- A gateway write that gathers stores (R299). -/
structure GwWrite where
  active : Bool := false
  addr : Nat := 0
  data : List Byte := []
  /-- Tags of the stores it gathers, oldest first: generation in [15:12], number in [11:0]. -/
  stores : List Nat := []
  since : Nat := 0
  poison : Bool := false
  deriving DecidableEq, Repr, Inhabited

/-- The Strait fabric. -/
structure StraitSt where
  ports : Tab StraitPort := []
  windows : Tab StraitWin := []
  /-- Last value written of the device-wide 16-bit key counter (R285). -/
  keyCounter : U16 := 0
  tags : Tab StraitTag := []
  order : Nat := 0
  /-- Round-robin position of mover units over the live planes (R288). -/
  rr : Nat := 0
  heldReqs : List StraitHeld := []
  fences : List StraitFence := []
  /-- Fence outcomes, latest first. -/
  fenceDone : List (Issuer × Byte) := []
  /-- Failing statuses of answered stores and atomics, by order (R290). -/
  failed : List StraitDone := []
  answered : List StraitDone := []
  peers : Tab StraitPeer := []
  routes : Tab Route := []
  /-- Gathering writes by route. -/
  writes : Tab GwWrite := []
  /-- What was sent, latest first. -/
  out : List StraitOut := []
  snap : Option StraitWin := none
  deriving DecidableEq, Repr, Inhabited

/-! ### Ethernet, RDMA and traffic control (11) -/

/-- Connection states (R309). -/
inductive ConnState where
  | free | connecting | ready | closing | error
  deriving DecidableEq, Repr, Inhabited

/-- Code of a connection state (NET_CONN_INFO). -/
def ConnState.code : ConnState → Nat
  | .free => 0 | .connecting => 1 | .ready => 2 | .closing => 3 | .error => 4

/-- Connection attributes (R307). -/
structure ConnAttr where
  /-- MESSAGE class; else STATE. -/
  message : Bool := false
  multipath : Bool := false
  peer : U16 := 0
  peerQp : U32 := 0
  ports : U16 := 0
  paths : Nat := 0
  priority : Fin 8 := 0
  dscp : BitVec 6 := 0
  spaceKey : U32 := 0
  mtu : Nat := 0
  tenant : BitVec 10 := 0
  /-- Designated for the device's own agents (R308). -/
  ownAgents : Bool := false
  deriving DecidableEq, Repr, Inhabited

/-- A packet sent and not acknowledged (R322). -/
structure SentPacket where
  msn : Nat := 0
  index : Nat := 0
  path : Nat := 0
  size : Nat := 0
  retx : Nat := 0
  sendTime : U32 := 0
  /-- Packets sent after it on other paths and acknowledged. -/
  passed : Nat := 0
  /-- It is part of a response, which the request's own repetition recovers. -/
  resp : Bool := false
  deriving DecidableEq, Repr, Inhabited

/-- What a message of the sender carries, and where its outcome goes (R323). -/
inductive NetItem where
  | none
  /-- A unit of a remote write of a completion slot, by the slot's reference and the unit's number in its descriptor. -/
  | put (slot : U32) (unit : Nat)
  /-- A unit of a remote read of a completion slot; its data comes in the read response. -/
  | get (slot : U32) (unit : Nat)
  /-- A gateway write, with the tags of the stores that it gathers. -/
  | write (tags : List Nat)
  /-- A gateway read or atomic, with its tag. -/
  | read (tag : Nat)
  | atomic (tag : Nat)
  deriving DecidableEq, Repr, Inhabited

/-- A message of the sender (R310, R323). -/
structure OutMsg where
  item : NetItem := .none
  /-- Packets not yet acknowledged. -/
  left : Nat := 0
  /-- First refusal among its acknowledgements. -/
  status : Byte := 0
  total : Nat := 0
  deriving DecidableEq, Repr, Inhabited

/-- A packet of the multipath extension (R310). -/
structure MpPacket where
  conn : Nat := 0
  /-- Its opcode, 0xC0-0xC5. -/
  op : Byte := 0
  /-- Of an MP_ATOMIC: CMP_SWAP, else FETCH_ADD. -/
  cas : Bool := false
  /-- The packet's source matches the connection (R313). -/
  srcOk : Bool := true
  level : Byte := 1
  last : Bool := false
  retx : Bool := false
  poison : Bool := false
  path : Nat := 0
  message : Bool := false
  msn : Nat := 0
  totalLen : Nat := 0
  offset : Nat := 0
  windowKey : U32 := 0
  sendTime : U32 := 0
  target : Nat := 0
  payload : List Byte := []
  /-- Frame length for the policer (R332). -/
  frameLen : Nat := 0
  deriving DecidableEq, Repr, Inhabited

/-- A message that arrives, incomplete or complete (R316-R318). -/
structure RecvMsg where
  known : Bool := false
  op : Byte := 0
  total : Nat := 0
  key : U32 := 0
  target : Nat := 0
  /-- Indices of the packets received, and the refusals among them. -/
  bits : List Nat := []
  refused : List (Nat × Byte) := []
  /-- Distinct bytes received. -/
  bytes : Nat := 0
  poison : Bool := false
  complete : Bool := false
  /-- Index of the packet whose acknowledgement waits for the message's unit (R265). -/
  due : Option Nat := none
  /-- Kept result of a READ or atomic (R318). -/
  result : List Byte := []
  resultPoison : Bool := false
  /-- The message buffer: what its packets brought, by offset. -/
  body : List (Nat × List Byte) := []
  deriving DecidableEq, Repr, Inhabited

/-- An entry of an MP_ACK (R321). -/
structure AckEntry where
  msn : Nat := 0
  index : Nat := 0
  status : Byte := 0
  echo : U32 := 0
  deriving DecidableEq, Repr, Inhabited

/-- An MP_ACK (R321). -/
structure MpAckPkt where
  conn : Nat := 0
  srcOk : Bool := true
  level : Byte := 1
  cumMsn : Nat := 0
  granted : Nat := 0
  consumed : Nat := 0
  entries : List AckEntry := []
  deriving DecidableEq, Repr, Inhabited

/-- An MP_CREDIT (R325). -/
structure MpCreditPkt where
  conn : Nat := 0
  srcOk : Bool := true
  level : Byte := 1
  kind : Nat := 0
  granted : Nat := 0
  consumed : Nat := 0
  returned : Nat := 0
  demand : Nat := 0
  deriving DecidableEq, Repr, Inhabited

/-- An MP_HELLO (R309): the queue pair it names is the connection's. -/
structure MpHelloPkt where
  conn : Nat := 0
  srcOk : Bool := true
  message : Bool := false
  spaceKey : U32 := 0
  deriving DecidableEq, Repr, Inhabited

/-- A packet of standard RoCE v2 (R304). -/
structure RocePkt where
  conn : Nat := 0
  srcOk : Bool := true
  /-- It uses nothing that R304 lists as not supported. -/
  supported : Bool := true
  psn : Nat := 0
  key : U32 := 0
  /-- Byte offset in the window. -/
  target : Nat := 0
  /-- Bytes to read. -/
  length : Nat := 0
  payload : List Byte := []
  frameLen : Nat := 0
  deriving DecidableEq, Repr, Inhabited

/-- What a FETCH_ADD comes as: a Strait atomic (R283), or the atomic of standard RoCE v2 (R304). -/
inductive FetchAddReq where
  | strait (r : StraitReq)
  | roce (p : RocePkt)
  deriving DecidableEq, Repr, Inhabited

/-- Where the response to a unit goes that came on a connection: its message and the packet to acknowledge. -/
structure UnitRoute where
  conn : Nat := 0
  msn : Nat := 0
  index : Nat := 0
  echo : U32 := 0
  deriving DecidableEq, Repr, Inhabited

/-- A connection (R307-R309, R316-R328). -/
structure Conn where
  state : ConnState := .free
  attr : ConnAttr := {}
  /-- Window and command number of the CONNECT, and of the CLOSEs that wait. -/
  connectCmd : Option (Nat × Nat) := none
  closeCmds : List (Nat × Nat) := []
  /-- Host window that created it. -/
  creator : Nat := 0
  /-- Sender side. -/
  nextMsn : Nat := 0
  unacked : List SentPacket := []
  /-- Paths avoided, and until when. -/
  avoided : List (Nat × Nat) := []
  /-- Packets of the sender that wait for a credit or for the window, oldest first. -/
  toSend : List SentPacket := []
  /-- Messages of the sender not yet resolved, by MSN. -/
  out : Tab OutMsg := []
  /-- CUM_MSN of the peer, as last received. -/
  peerCum : Nat := 0
  /-- Read responses that arrive, by the MSN of their request. -/
  resps : Tab RecvMsg := []
  window : Nat := 0
  lastDecrease : Nat := 0
  delay : Nat := 0
  /-- STATE class, sender: credits granted, as last received, used and returned; the receiver's totals as last received. -/
  granted : Nat := 0
  used : Nat := 0
  returned : Nat := 0
  seenConsumed : Nat := 0
  seenReturned : Nat := 0
  demand : Nat := 0
  /-- STATE class, receiver. -/
  rGranted : Nat := 0
  rConsumed : Nat := 0
  rReturned : Nat := 0
  rDemand : Nat := 0
  /-- Messages below this MSN are complete (CUM_MSN). -/
  cumMsn : Nat := 0
  msgs : Tab RecvMsg := []
  /-- Packets held for overlap (R319). -/
  heldPkts : List MpPacket := []
  /-- READs and atomics that wait for earlier messages (R319). -/
  waitingOps : List MpPacket := []
  deriving DecidableEq, Repr, Inhabited

/-- An RDMA window (R312). -/
structure RdmaWin where
  state : WindowState := .free
  read : Bool := false
  write : Bool := false
  atomic : Bool := false
  space : Fin 16 := 0
  partition : Fin 8 := 0
  gen : U16 := 0
  spaceKey : U32 := 0
  base : Nat := 0
  size : Nat := 0
  inflight : Nat := 0
  opener : Nat := 0
  revoke : Option (Nat × Nat) := none
  deriving DecidableEq, Repr, Inhabited

/-- An Ethernet port (R303). -/
structure EthPort where
  state : PortState := .down
  allocated : Bool := false
  /-- Priorities paused by PFC. -/
  paused : Byte := 0
  pfcRx : Nat := 0
  pfcTx : Nat := 0
  fecUncorr : Nat := 0
  fcsErr : Nat := 0
  deriving DecidableEq, Repr, Inhabited

/-- A credit-based shaper (R331, R333); unwritten settings are the reset values of R336. -/
structure Shaper where
  slope : Nat := 0
  hi : Nat := 16384
  lo : Nat := 16384
  adj : Int := 20
  credit : Int := 0
  /-- Settings written and not yet in effect. -/
  pending : Option (Nat × Nat × Nat × Int) := none
  deriving DecidableEq, Repr

/-- A policer (R332, R333). -/
structure Policer where
  rate : Nat := 0
  burst : Nat := 65536
  adj : Int := 20
  /-- Tokens missing from a full bucket at the time `since`, in 1/8,000 byte, so that an untouched bucket is full. -/
  missing : Nat := 0
  since : Nat := 0
  drops : Nat := 0
  deriving DecidableEq, Repr

/-- What the Ethernet side has sent. -/
inductive NetOut where
  | hello (conn : Nat)
  | ack (conn : Nat) (msn : Nat) (index : Nat) (status : Byte) (echo : U32) (cumMsn : Nat)
  | credit (conn : Nat) (kind : Nat) (granted consumed returned demand : Nat)
  /-- One packet of a message, first sent or retransmitted. -/
  | packet (conn : Nat) (msn : Nat) (index : Nat) (path : Nat) (retx : Bool)
  /-- A message handed to a connection: its opcode, window key, target offset and payload. -/
  | message (conn : Nat) (msn : Nat) (opcode : Byte) (key : U32) (target : Nat) (data : List Byte) (poison : Bool)
  | unit (conn : Nat) (msn : Nat) (u : MoverUnit)
  | readResp (conn : Nat) (msn : Nat) (poison : Bool) (data : List Byte)
  | atomicResp (conn : Nat) (msn : Nat) (data : List Byte)
  | roceAck (conn : Nat) (psn : Nat) (status : Byte)
  deriving DecidableEq, Repr, Inhabited

/-- Ethernet, RDMA and traffic control. -/
structure NetSt where
  conns : Tab Conn := []
  windows : Tab RdmaWin := []
  ports : Tab EthPort := []
  /-- Shapers keyed port × 8 + priority, and policers by tenant. -/
  shapers : Tab Shaper := []
  policers : Tab Policer := []
  /-- Bytes of the hold buffer in use (R319). -/
  holdBytes : Nat := 0
  /-- Round-robin position of R327. -/
  rr : Nat := 0
  out : List NetOut := []
  snap : Option RdmaWin := none
  deriving DecidableEq, Repr, Inhabited

end Sys2Proof.Machine
end

