-- ==== Sys2Proof/Machine/TypesTable.lean ====
section
/-! DEFINITION. Plain data of request records, pages, memory tiers and the Herd table (chapters 01, 02, 03 and 07). -/

namespace Sys2Proof.Machine

/-- Roles (R14); `none` before a bitstream is loaded. -/
inductive Role where
  | none | prompt | generate | cache | mixed
  deriving DecidableEq, Repr, Inhabited

/-- Code of a role in owner entries and pool maps (R36, R476). -/
def Role.code : Role → Nat
  | .none => 0 | .prompt => 1 | .generate => 2 | .cache => 3 | .mixed => 4

/-- The role of a code; reserved codes name none. -/
def Role.ofCode : Nat → Role
  | 1 => .prompt | 2 => .generate | 3 => .cache | 4 => .mixed | _ => .none

/-- Function modes (R28). -/
inductive FnMode where
  | hw | firmware | hostAssist
  deriving DecidableEq, Repr, Inhabited

/-! ### Request records (02) -/

/-- An owner entry (R36). -/
structure OwnerEntry where
  device : U16 := 0
  role : Role := .none
  start : Nat := 0
  epoch : U32 := 0
  slot : Nat := 0
  deriving DecidableEq, Repr, Inhabited

/-- A replica entry (R36). -/
structure ReplicaEntry where
  device : U16 := 0
  complete : Bool := false
  covered : Nat := 0
  epoch : U32 := 0
  deriving DecidableEq, Repr, Inhabited

/-- PENDING of a request record: the handoff in progress (R36). -/
structure PendingHandoff where
  sender : U16 := 0
  receiver : U16 := 0
  id : U32 := 0
  start : Nat := 0
  /-- What the anchor knows of it beyond the 16 bytes: the transfer's kind and range, redirects so far (R249), the devices
  that failed it (R246), a re-prefill (R262), the local commit of R17, and a restore from a replica (R261). -/
  kind : Nat := 1
  rangeStart : Nat := 0
  rangeEnd : Nat := 0
  redirects : Nat := 0
  tried : List U16 := []
  reprefill : Bool := false
  selfOwned : Bool := false
  recovery : Bool := false
  epoch : U32 := 0
  deriving DecidableEq, Repr, Inhabited

/-- Sampling parameters and state of a request (R36, R112). FP32 values are held as their bits. -/
structure Sampling where
  temperature : U32 := 0
  topP : U32 := 0
  repPenalty : U32 := 0
  topK : U16 := 0
  flags : U16 := 0
  seed : U64 := 0
  sampled : Nat := 0
  endToken : U32 := 0
  deriving DecidableEq, Repr, Inhabited

/-- RECORD_STATE (R36). -/
inductive RecordState where
  | free | active | ended
  deriving DecidableEq, Repr, Inhabited

/-- A request record (R36, R37): its header and its token array. -/
structure Record where
  state : RecordState := .free
  endStatus : Byte := 0
  cancel : Bool := false
  specAllowed : Bool := false
  replicaRequested : Bool := false
  tenant : BitVec 10 := 0
  model : BitVec 6 := 0
  priority : BitVec 4 := 0
  adapter : BitVec 12 := 0
  partition : Fin 8 := 0
  requestId : U64 := 0
  admitTide : Nat := 0
  deadline : Nat := 0
  promptLen : Nat := 0
  maxNew : Nat := 0
  /-- Generated tokens delivered to the host: those in TOKENS records written to its ring. -/
  delivered : Nat := 0
  admitEpoch : U32 := 0
  budgetAccount : U32 := 0
  sampling : Sampling := {}
  owners : List OwnerEntry := []
  pending : Option PendingHandoff := none
  replicas : List ReplicaEntry := []
  tokenAddr : U64 := 0
  /-- Prompt tokens, then generated tokens (R37). -/
  tokens : List U32 := []
  submitter : U32 := 0
  /-- TAG of the ADMIT command (R472). -/
  tag : U64 := 0
  endTide : Nat := 0
  /-- Recoveries used by this request (R249). -/
  recoveries : Nat := 0
  /-- A restore from a replica asked for: the new device and the replica holder (R261). -/
  restoreTo : Option (U16 × U16) := none
  /-- CACHE device of a REPLICA_REQ not yet answered by COVERED (R255). -/
  replicaWant : Option U16 := none
  /-- Transfers that have committed (R246). -/
  committed : List U32 := []
  /-- Devices told END by a recovery, whose RELEASED is still to come (R259). -/
  freeing : List U16 := []
  /-- Generated tokens held for a TOKENS record (R474). -/
  held : List U32 := []
  /-- Generated tokens that arrived ahead of their turn, by generated index (R21). -/
  ahead : Tab (Option U32) := []
  deriving DecidableEq, Repr, Inhabited

/-! ### Pages (02) -/

/-- Page states (R55, R61). -/
inductive PageState where
  | free | allocated | inFlight | quarantined
  deriving DecidableEq, Repr, Inhabited

/-- A page descriptor (R55). -/
structure PageDesc where
  state : PageState := .free
  format : BitVec 4 := 0
  /-- Sealed bits, one per slot. -/
  sealed : BitVec 3 := 0
  rotated : Bool := false
  partition : Fin 8 := 0
  replica : Bool := false
  owner : Option Nat := none
  requestId : U64 := 0
  layer : Nat := 0
  firstTile : Nat := 0
  tileCount : Nat := 0
  /-- 0 none, 1 uncorrectable data, 2 tag mismatch at rest, 3 retired. -/
  qcause : Fin 4 := 0
  tilePos : Nat := 0
  /-- Check tags of slots 0, 1 and 2. -/
  tags : List U64 := []
  changed : Nat := 0
  /-- A release or return to FREE waits for the transfers that touch the page (R62). -/
  releasing : Bool := false
  deriving DecidableEq, Repr, Inhabited

/-- A root block and the page lists it heads (R56, R57): the local pages of each layer in tile-position order. -/
structure RootBlock where
  inUse : Bool := false
  layers : Nat := 0
  heads : Nat := 0
  slices : Nat := 0
  format : BitVec 4 := 0
  firstTp : Nat := 0
  filled : Nat := 0
  lists : Tab (List Nat) := []
  /-- Segments of each layer's list, in the order of their chain (R57). -/
  segs : Tab (List Nat) := []
  deriving DecidableEq, Repr, Inhabited

/-! ### Memory tiers (07) -/

/-- A region entry (R185), with the channels of its set and the map it came from. -/
structure Region where
  id : U16 := 0
  kind : Byte := 0
  init : Bool := false
  zero : Bool := false
  readOnly : Bool := false
  partition : Fin 8 := 0
  /-- 0 HBM, 1 tile store. -/
  space : Fin 2 := 0
  /-- Granule code (R185). -/
  granule : Fin 4 := 0
  /-- HBM: bit ℓ names lane index ℓ of the channel set. -/
  channels : BitVec 640 := 0
  /-- HBM: index of the channel set in its map (PLACE). -/
  chset : Byte := 0
  /-- Tile store: quadrant. -/
  quadrant : Fin 4 := 0
  base : Nat := 0
  size : Nat := 0
  chBase : Nat := 0
  initOff : U64 := 0
  initCheck : U64 := 0
  /-- `none` for a region of the device map, else the model of its plan map. -/
  model : Option (BitVec 6) := none
  deriving DecidableEq, Repr, Inhabited

/-- A placement map (R185) as it is read from a bitstream or a plan image. -/
structure PlaceMap where
  level : Byte := 1
  /-- CHECK of the map. -/
  check : U64 := 0
  /-- 0 device map, 1 plan map. -/
  scope : Byte := 0
  model : BitVec 6 := 0
  partition : Fin 8 := 0
  regions : List Region := []
  /-- HBM_BYTES and TS_BYTES of the header. -/
  hbmBytes : Nat := 0
  tsBytes : Nat := 0
  /-- CHECK matches (R188 check 1). -/
  checkOk : Bool := true
  /-- Every field is within its range, reserved fields are zero, and every channel set and INIT_CHECK is valid (R188 check 2). -/
  fieldsOk : Bool := true
  /-- Content of INIT regions, by region ID. -/
  content : Tab (List Byte) := []
  deriving DecidableEq, Repr, Inhabited

/-- A partition as the bitstream defines it (R191, R194, R203). -/
structure Partition where
  active : Bool := false
  encrypt : Bool := false
  keyReady : Bool := false
  /-- The partition's key became unusable (R387, R507). -/
  keyLost : Bool := false
  channels : BitVec 640 := 0
  deriving DecidableEq, Repr, Inhabited

/-- A pseudo-channel (R197, R203). -/
structure Channel where
  partition : Fin 8 := 0
  /-- Uncorrectable errors since cold reset. -/
  ue : Nat := 0
  /-- Corrected errors in hour `ceHour`. -/
  ce : Nat := 0
  ceHour : Nat := 0
  deriving DecidableEq, Repr, Inhabited

/-- A loaded model plan (R42, R46, R50, R87, R188, R189, R239). -/
structure Plan where
  loaded : Bool := false
  loading : Bool := false
  /-- Last status (HOSTIF_PLAN_STATUS). -/
  status : Byte := 0
  /-- CHECK of its placement map, which is measured (R520). -/
  check : U64 := 0
  partition : Fin 8 := 0
  layers : Nat := 0
  heads : Nat := 0
  /-- Head width D. -/
  width : Nat := 0
  format : BitVec 4 := 0
  /-- Layers with key rotation. -/
  rotated : List Nat := []
  /-- Adapters resident. -/
  adapters : List Nat := []
  /-- Mask kind of its attention, with W, s and PREFIX_LEN (R157). -/
  mask : Nat := 1
  window : Nat := 0
  sinks : Nat := 0
  prefixLen : Nat := 0
  /-- VALUE_WIDTH in the latent layout, 0 otherwise (R156, R162). -/
  valueWidth : Nat := 0
  /-- Softmax scale, FP32 (R139). -/
  scale : U32 := 0
  /-- Query heads (R155); R135 counts them per KV head. -/
  queryHeads : Nat := 0
  /-- Vocabulary of its sampling (R103). -/
  vocabulary : Nat := 0
  /-- Where the attachment of trees comes from (R172): 1 the plan's own draft operations, 0 the TREE_ATTACH command. -/
  drafts : Bool := false
  /-- Staging areas that the plan declares in the tile stores, by quadrant: address and size (R228). -/
  staging : Tab (Nat × Nat) := []
  /-- The operation sequence over all layers, in plan order (R87). -/
  ops : List SeqOp := []
  /-- PLAN_UNLOAD that waits until nothing names the plan's regions (R189): its window and command. -/
  unload : Option (Nat × Nat) := none
  deriving DecidableEq, Repr, Inhabited

/-- A model plan as the device reads it from the host (R185, R189): its placement map with its content, and its attributes. -/
structure PlanImage where
  /-- Bytes of the image, and of its placement map. -/
  image : List Byte := []
  mapBytes : List Byte := []
  /-- The parts of the image other than its map, whose layout the spec does not give, are well formed (log entry 34). -/
  formed : Bool := true
  plan : Plan := {}
  deriving DecidableEq, Repr, Inhabited

/-- What a scrub read finds (R197, R198). -/
inductive ScrubFound where
  | clean | corrected | uncorrectable
  deriving DecidableEq, Repr, Inhabited

/-- What a patrol scrub reads (R200): a 64-byte unit of a channel, or a tile-store word at a device-local address. -/
inductive ScrubAt where
  | hbm (lane : Fin 640) (unit : Nat)
  | tile (addr : Nat)
  deriving DecidableEq, Repr, Inhabited

/-- The TIER block. -/
structure TierSt where
  /-- TIER_POOL_TOTAL and the four counts (R63, R66). -/
  total : Nat := 0
  free : Nat := 0
  alloc : Nat := 0
  inFlight : Nat := 0
  quar : Nat := 0
  /-- Page descriptors by local page number. -/
  pages : Tab PageDesc := []
  /-- Root blocks by index. -/
  roots : Tab RootBlock := []
  /-- Allocations are held (R64 step 2). -/
  held : Bool := false
  recounting : Bool := false
  /-- The auditor's first sample differed (R64). -/
  suspect : Bool := false
  /-- The region table (R189). -/
  regions : Tab (Option Region) := []
  partitions : Tab Partition := []
  channels : Tab Channel := []
  /-- Loaded plans by model. -/
  plans : Tab Plan := []
  /-- Poisoned units: base address of the 64-byte HBM unit or 32-byte tile-store word (R196, R198). -/
  poison : Tab Bool := []
  /-- Poisoned units of a channel that no loaded region holds, by ℓ × 2^32 + unit; frames of retired pages, by channel and byte; and
  rows that soft repairs replace, by channel, bank and row (R198, R200, R202). -/
  badUnits : Tab Bool := []
  retired : List (Nat × Nat) := []
  softRows : List (Nat × Nat × Nat) := []
  /-- PAGE_BASE and the number of pages of each partition's pool (R190). -/
  pools : Tab (Nat × Nat) := []
  /-- HBM stacks that have finished training since the cold reset (R530). -/
  trained : BitVec 20 := 0
  /-- Snapshot in TIER_REGION_DATA. -/
  regionSnap : Option Region := none
  deriving DecidableEq, Repr, Inhabited

/-! ### The Herd table (03) -/

/-- Herd states, in the order of their codes (R69). -/
inductive HState where
  | idle | admitted | prefilling | handoffOut | handoffCommitted | handoffIn | decoding | speculating
  | preempted | offloaded | restoring | draining | done | failed
  deriving DecidableEq, Repr, Inhabited

/-- Code of a Herd state (R69). -/
def HState.code : HState → Nat
  | .idle => 0 | .admitted => 1 | .prefilling => 2 | .handoffOut => 3 | .handoffCommitted => 4 | .handoffIn => 5
  | .decoding => 6 | .speculating => 7 | .preempted => 8 | .offloaded => 9 | .restoring => 10 | .draining => 11
  | .done => 12 | .failed => 13

/-- A Herd entry (R68). -/
structure HerdEntry where
  state : HState := .idle
  prevState : Option HState := none
  specAllowed : Bool := false
  rotated : Bool := false
  replica : Bool := false
  rangePending : Bool := false
  endOrdered : Bool := false
  tenant : BitVec 10 := 0
  model : BitVec 6 := 0
  priority : BitVec 4 := 0
  partition : Fin 8 := 0
  adapter : BitVec 12 := 0
  anchorDev : U16 := 0
  mapEpoch : U32 := 0
  requestId : U64 := 0
  deadline : Nat := 0
  length : Nat := 0
  limit : Nat := 0
  promptLen : Nat := 0
  prefilled : Nat := 0
  pageRoot : Option Nat := none
  budgetAccount : U32 := 0
  specTree : Option U32 := none
  peerDev : Option U16 := none
  recordIndex : Nat := 0
  handoffId : U32 := 0
  recoveryEpoch : U32 := 0
  stepSerial : Nat := 0
  poisonRun : Nat := 0
  status : Byte := 0
  admitTide : Nat := 0
  stateTide : Nat := 0
  rangeStart : Nat := 0
  /-- Devices holding lower ranges, lowest first; at most three. -/
  lowerPeers : List U16 := []
  preemptCount : Nat := 0
  /-- Prompt token IDs that have arrived, in index order (R565). -/
  promptTokens : List U32 := []
  sampling : Sampling := {}
  /-- Preempted by the builder (R85 case 2), so resumed under R86. -/
  byBuilder : Bool := false
  /-- P of the request record, which PROMPT_LEN exceeds in a re-prefill (R262). -/
  recordP : Nat := 0
  /-- Offload targets that failed (R251, R244). -/
  offloadAvoid : List U16 := []
  /-- An offload that committed and takes effect at the next step boundary: D and the receiver (R243). -/
  offloaded : Option (Nat × U16) := none
  /-- First positions of the ranges of LOWER_PEERS (the device's own; no byte of the entry). -/
  lowerStarts : List Nat := []
  /-- A restore of the lower ranges is ordered or under way (R254). -/
  restoring : Bool := false
  /-- Owner: CACHE device of its replica, and what that holds (R255). Replica holder: COVERED. -/
  replicaDev : Option U16 := none
  covered : Nat := 0
  /-- Requests for pages of this entry's work were left out of the last build. -/
  shortOfPages : Bool := false
  /-- The last tokens of the sequence, latest first, at most 256; the first stands at position LENGTH (R112, R113, R173). -/
  recent : List U32 := []
  /-- Tokens that the anchor holds of the positions after LENGTH, in order (R258). -/
  heldTokens : List U32 := []
  /-- The slot had work in this step number and is not given out until it closes (R71). -/
  busyStep : Nat := 0
  deriving DecidableEq, Repr, Inhabited

/-- Kinds of work-list entry (R77). -/
inductive WorkKind where
  | decode | tree | chunk
  deriving DecidableEq, Repr, Inhabited

/-- A work-list entry (R77). -/
structure WorkEntry where
  kind : WorkKind := .decode
  eland : Bool := false
  lower : Bool := false
  sample : Bool := false
  rotated : Bool := false
  model : BitVec 6 := 0
  slot : Nat := 0
  pos : Nat := 0
  count : Nat := 0
  tokenOffset : Nat := 0
  pageRoot : Option Nat := none
  tenant : BitVec 10 := 0
  adapter : BitVec 12 := 0
  tree : Option U32 := none
  /-- Dropped by R88 or failed by R87: it keeps its place and does no work. -/
  dropped : Bool := false
  /-- Its inputs proved poisoned (R76). -/
  poisoned : Bool := false
  /-- Pages reserved for the step (R79). -/
  pages : List Nat := []
  /-- Request of the slot when the list was built (no field of the list). -/
  requestId : U64 := 0
  deriving DecidableEq, Repr, Inhabited

/-- A sample row of a step (R112, R114): its Herd slot and tree node, and the token once it is drawn. -/
structure SampleRow where
  slot : Nat := 0
  node : Nat := 0
  token : U32 := 0
  status : Byte := 0
  /-- The token is known; a host's is awaited until then (R115). -/
  known : Bool := false
  deriving DecidableEq, Repr, Inhabited

/-- Tile positions that the step stages for an Eland-routed entry (R228, R229): those of a layer from `first` on, in the tile store
at `at_`; the TAG of their PREFETCH, and whether its slot is DONE. -/
structure Staged where
  root : Nat := 0
  layer : Nat := 0
  quad : Nat := 0
  at_ : Nat := 0
  first : Nat := 0
  count : Nat := 0
  tag : U32 := 0
  done : Bool := false
  deriving DecidableEq, Repr, Inhabited

/-- The step in progress (R73, R77, R87). -/
structure Step where
  number : Nat := 0
  source : FnMode := .hw
  entries : List WorkEntry := []
  buildTide : Nat := 0
  /-- How many operations of each model's sequence have been taken (R87). -/
  taken : Tab Nat := []
  /-- Parts of taken operations that have not completed, as (model, place in the sequence): an Eland operation, or a reduction. -/
  open_ : List (Nat × Nat) := []
  /-- Longest barrier wait of the step in ns, the peer waited for, and the layer. -/
  maxWait : Nat := 0
  lastPeer : U16 := 0
  lastLayer : Nat := 0
  /-- Window and command of a STEP_SUBMIT, and how many entries were dropped. -/
  submit : Option (Nat × Nat) := none
  droppedCount : Nat := 0
  /-- TOKENS of the list, what was charged to tenants for it, and the part of it charged to tenants that had no balance at the
  build (R395). -/
  tokens : Nat := 0
  charged : Nat := 0
  overdrawn : Nat := 0
  /-- Sample rows drawn, in work-list order. -/
  samples : List SampleRow := []
  /-- The assisting host has been asked for the paths of the step's trees, and those it has given: Herd slot, path and
  bonus (R176). -/
  pathsAsked : Bool := false
  paths : List (Nat × List Nat × U32) := []
  /-- Staged tiles; the step's close discards them (R229). -/
  staged : List Staged := []
  deriving DecidableEq, Repr, Inhabited

/-- What is kept of a barrier for a peer (R397, R398): its arrival rank, its wait in ns, and whether it was last. -/
structure BarrierOut where
  rank : Nat := 0
  wait : Nat := 0
  last : Bool := false
  deriving DecidableEq, Repr, Inhabited

/-- A peer's entry of the 512-entry peer table (R83, R398, R400). -/
structure Peer where
  present : Bool := false
  /-- W(p) as a reduction from 255, so that an absent peer has weight 255. -/
  reduce : Nat := 0
  pinned : Bool := false
  suspect : Bool := false
  /-- Outcomes of the last barriers, latest first. -/
  barriers : List BarrierOut := []
  /-- Barriers taken part in since the entry was made; saturates at 16 for R398. -/
  seen : Nat := 0
  /-- Order stamp of the last barrier (R400). -/
  stamp : Nat := 0
  deriving DecidableEq, Repr, Inhabited

/-- A node of a speculation tree (R172). -/
structure TreeNode where
  token : U32 := 0
  parent : Nat := 0xFF
  depth : Nat := 0
  deriving DecidableEq, Repr, Inhabited

/-- STATE of a tree record (R172). -/
inductive TreeState where
  | empty | ready | decided
  deriving DecidableEq, Repr, Inhabited

/-- A speculation tree record as its bytes in the TREES region spell it (R172). -/
structure Tree where
  /-- FORMAT_LEVEL and NODES are known, and STATE is not reserved. -/
  formed : Bool := false
  state : TreeState := .empty
  levels : Nat := 0
  slot : Nat := 0
  requestId : U64 := 0
  baseLen : Nat := 0
  nodes : List TreeNode := []
  deriving DecidableEq, Repr, Inhabited

/-- The sampling state and tokens that a sequence's anchor supplies with a step's work (R20, R113, R258): the last tokens
up to position LENGTH, latest first, and the tokens that the anchor holds of the positions after it. -/
structure SampleSupply where
  slot : Nat := 0
  sampled : Nat := 0
  recent : List U32 := []
  held : List U32 := []
  deriving DecidableEq, Repr, Inhabited

/-- A token sent to a request's anchor at a step's close (R75). -/
structure TokenOut where
  anchor : U16 := 0
  requestId : U64 := 0
  /-- Generated index, from 1. -/
  index : Nat := 0
  token : U32 := 0
  deriving DecidableEq, Repr, Inhabited

/-- Host commands that change entries (R73, R85, R86, R172). -/
inductive OrderKind where
  | preempt | resume | attach
  deriving DecidableEq, Repr, Inhabited

/-- A host command that waits for the next boundary. -/
structure HerdOrder where
  kind : OrderKind := .preempt
  /-- Window and number of the command. -/
  cmd : Nat × Nat := (0, 0)
  /-- PREEMPT and RESUME: 0 slot, 1 request, 2 tenant; and the value. TREE_ATTACH: the Herd slot. -/
  selector : Nat := 0
  value : U64 := 0
  /-- TREE_ATTACH: the tree handle. -/
  handle : U64 := 0
  /-- The one tenant whose entries the function may name (R366). -/
  tenant : Option (BitVec 10) := none
  deriving DecidableEq, Repr, Inhabited

/-- The HERD block. -/
structure HerdSt where
  /-- Entries by slot: 0-4,095 in HW and HOST_ASSIST modes, 0-65,535 in FIRMWARE mode. -/
  entries : Tab HerdEntry := []
  step : Option Step := none
  /-- Step number of the last step that ran (HERD_STEP_NUM); the next is one more. -/
  stepNum : Nat := 0
  /-- Exactly one step may be built though paused (SINGLE). -/
  single : Bool := false
  /-- A host-written list that STEP_SUBMIT has offered is awaited (R89). -/
  waitHost : Bool := false
  /-- The peer table by global device ID. -/
  peers : Tab Peer := []
  /-- Barrier order stamps given so far. -/
  stamp : Nat := 0
  /-- Tenants that were eligible at the last build (R81). -/
  eligible : List Nat := []
  /-- Snapshot in HERD_ENTRY_DATA. -/
  snap : Option HerdEntry := none
  /-- The work-list buffer that the next list goes to (R77). -/
  buffer : Fin 2 := 0
  /-- Pages that the assisting host has supplied, by Herd slot, for the step's reservation (R65, R79). -/
  supplied : Tab (List Nat) := []
  /-- Lists that STEP_SUBMIT has offered and no boundary has taken yet: window and command, step, entry count (R88). -/
  submits : List (Nat × Nat × Nat × Nat) := []
  /-- Tokens sent to other devices' anchors, latest first (R75). -/
  tokensOut : List TokenOut := []
  /-- Host commands that change entries and wait for the next boundary (R73). -/
  orders : List HerdOrder := []
  deriving DecidableEq, Repr, Inhabited

end Sys2Proof.Machine
end

