-- ==== Sys2Proof/Machine/TypesMove.lean ====
section
/-! DEFINITION. Plain data of the Ibex movers and of state handoff between pools (chapters 08 and 09). -/

namespace Sys2Proof.Machine

/-! ### Ibex (08) -/

/-- Ibex operations (R210). -/
inductive IbexOp where
  | copy | gather | scatter | pack | unpack | compact | check | remotePut | remoteGet | prefetch
  deriving DecidableEq, Repr, Inhabited

/-- Code of an Ibex operation (R210). -/
def IbexOp.code : IbexOp → Nat
  | .copy => 1 | .gather => 2 | .scatter => 3 | .pack => 4 | .unpack => 5 | .compact => 6 | .check => 7
  | .remotePut => 8 | .remoteGet => 9 | .prefetch => 10

/-- An Ibex descriptor (R208). -/
structure IbexDesc where
  level : Byte := 1
  op : Byte := 0
  flags : Byte := 0
  partition : Byte := 0
  srcFmt : Byte := 0
  dstFmt : Byte := 0
  layer : Byte := 0
  depth : Byte := 0
  count : U32 := 0
  timeout : U32 := 0
  src : U64 := 0
  dst : U64 := 0
  aux : U64 := 0
  firstTp : U32 := 0
  creditId : U32 := 0
  requestId : U64 := 0
  epoch : U32 := 0
  tag : U32 := 0
  /-- Window and number of the MOVE command that queued it (no byte of the descriptor). -/
  cmd : Option (Nat × Nat) := none
  /-- Function that submitted it by MOVE, and the account it is charged to (no bytes of the descriptor). -/
  fn : Option Nat := none
  account : Nat := 1024
  deriving DecidableEq, Repr, Inhabited

/-- An Ibex completion (R217). -/
structure IbexCompletion where
  queue : Nat := 0
  tag : U32 := 0
  status : Byte := 0
  op : Byte := 0
  slot : Nat := 0
  done : Nat := 0
  retries : Nat := 0
  poisoned : Nat := 0
  saturated : Nat := 0
  nans : Nat := 0
  /-- It is also sent to the control firmware (NOTIFY). -/
  firmware : Bool := false
  deriving DecidableEq, Repr, Inhabited

/-- States of a completion slot (R214). -/
inductive SlotState where
  | free | waiting | done | timedOut
  deriving DecidableEq, Repr, Inhabited

/-- What a completion slot awaits (R214, R566). -/
inductive AwaitKind where
  | none
  /-- A descriptor of a queue. -/
  | descriptor
  /-- The REPLY to a protocol message. -/
  | reply
  /-- The COMMIT a holder awaits (R243). -/
  | commit
  /-- A host decision (R30). -/
  | decision
  /-- The PARTIAL of a QUERY (R144). -/
  | peerPartial
  deriving DecidableEq, Repr, Inhabited

/-! ### Handoff (09) -/

/-- Transfer kinds (R232). -/
inductive TransferKind where
  | handoff | offload | replica | restore
  deriving DecidableEq, Repr, Inhabited

/-- Code of a transfer kind (R232). -/
def TransferKind.code : TransferKind → Nat
  | .handoff => 1 | .offload => 2 | .replica => 3 | .restore => 4

/-- The transfer kind of a code. -/
def TransferKind.ofCode : Nat → Option TransferKind
  | 1 => some .handoff | 2 => some .offload | 3 => some .replica | 4 => some .restore | _ => none

/-- States of the two ends of a transfer (R244, R245). -/
inductive TransferPhase where
  | closed
  /-- Holder. -/
  | opening | sending | waitCommit | committed
  /-- Receiver. -/
  | granting | committing | owning
  deriving DecidableEq, Repr, Inhabited

/-- A credit request: a layer, its first tile position and how many (R238). -/
structure CreditReq where
  layer : Nat := 0
  firstTp : Nat := 0
  tps : Nat := 0
  /-- Its pages have been asked of the assisting host (R65). -/
  posted : Bool := false
  deriving DecidableEq, Repr, Inhabited

/-- A grant (R236, R238). -/
structure Grant where
  req : CreditReq := {}
  creditId : U32 := 0
  refs : List U64 := []
  /-- Local pages behind the references, at the receiver. -/
  pages : List Nat := []
  deriving DecidableEq, Repr, Inhabited

/-- One end of a transfer. -/
structure Transfer where
  kind : TransferKind := .handoff
  id : U32 := 0
  phase : TransferPhase := .closed
  /-- This device is the holder. -/
  holder : Bool := true
  slot : Nat := 0
  requestId : U64 := 0
  peer : U16 := 0
  anchor : U16 := 0
  start : Nat := 0
  stop : Nat := 0
  layers : Nat := 0
  heads : Nat := 0
  slices : Nat := 0
  format : BitVec 4 := 0
  rotated : Bool := false
  partition : Fin 8 := 0
  /-- Holder: credit requested and not granted. Receiver: requests queued for want of pages. -/
  requests : List CreditReq := []
  /-- Holder: grants received. Receiver: grants given. -/
  grants : List Grant := []
  /-- Holder: end of the positions for which credit was requested (R239). -/
  requestedTo : Nat := 0
  /-- Pages requested and not yet arrived (HANDOFF_CREDIT_MAX). -/
  outstanding : Nat := 0
  /-- Tiles and pages of the range arrived at the receiver. -/
  arrived : Nat := 0
  /-- Transfer descriptors queued and not yet done. -/
  moving : Nat := 0
  /-- SENT has been sent (holder) or has arrived (receiver). -/
  sent : Bool := false
  /-- Slot number at which COMMIT is awaited (holder), or its REPLY (receiver). -/
  commitSlot : Option Nat := none
  /-- A COMMIT that awaits the host's go-ahead (R247), with the slot references to answer. -/
  goAhead : List U32 := []
  /-- Targets that failed this transfer (R244, R246). -/
  tried : List U16 := []
  /-- Redirects so far (R249). -/
  redirects : Nat := 0
  /-- CREDIT_WAIT has passed for a request (R238). -/
  stalled : Bool := false
  /-- Holder: end tile position packed, and queued to be sent, by layer (R239). -/
  packed : Tab Nat := []
  queuedTo : Tab Nat := []
  /-- Holder: the credit window's first tile position, and the layer and tile position to request next (R238, R239). -/
  winStart : Nat := 0
  curLayer : Nat := 0
  curTp : Nat := 0
  /-- Holder: end of the positions emitted in CHUNK entries (R239). -/
  emitted : Nat := 0
  /-- REGISTER has been accepted, or is not needed (R233). -/
  registered : Bool := true
  /-- REGISTER was refused NOT_READY, or REDIRECT found no candidate: to be sent again at a step boundary (R233, R246). -/
  again : Bool := false
  /-- A REDIRECT is out (R244). -/
  redirecting : Bool := false
  cause : Byte := 0
  /-- Offload: the positions of R251 step 3 still untried. -/
  cands : List U16 := []
  /-- The range is restored from a replica (R261). -/
  fromReplica : Bool := false
  /-- Receiver: the Herd slot existed before this transfer opened. -/
  joined : Bool := false
  deriving DecidableEq, Repr, Inhabited

/-- The kept outcome of a transfer that ended here as holder (R243, R264). -/
structure KeptOutcome where
  kept : Bool := false
  committed : Bool := false
  peer : U16 := 0
  /-- Request of the transfer. -/
  requestId : U64 := 0
  tide : Nat := 0
  deriving DecidableEq, Repr, Inhabited

/-- The query parameter block and rows of a QUERY (R252). -/
structure Query where
  step : Nat := 0
  layer : Nat := 0
  model : BitVec 6 := 0
  mode : Byte := 0
  sinks : Byte := 0
  rows : Nat := 0
  g : Nat := 0
  k : Nat := 0
  valueWidth : Nat := 0
  window : U32 := 0
  prefixLen : U32 := 0
  scale : U32 := 0
  positions : List U32 := []
  /-- Query rows in BF16. -/
  data : List (BitVec 16) := []
  deriving DecidableEq, Repr, Inhabited

/-- What a PARTIAL carries beyond bytes 0x00-0x17 (R171). -/
structure PartialBody where
  step : Nat := 0
  layer : Nat := 0
  width : Nat := 0
  rows : Nat := 0
  allEmpty : Bool := false
  fp32 : Bool := false
  start : Nat := 0
  stop : Nat := 0
  /-- The bytes of the partial rows: m, λ, then the output, in BF16 or with OUT_FP32 in FP32 (R168, R171). -/
  data : List Byte := []
  deriving DecidableEq, Repr, Inhabited

/-- A protocol message (R235, R236): its header and its body. -/
structure Msg where
  level : Byte := 1
  /-- Message kind code (R236). -/
  kind : Nat := 0
  status : Byte := 0
  flags : Byte := 0
  src : U16 := 0
  dst : U16 := 0
  mapEpoch : U32 := 0
  /-- Slot reference; for PARTIAL, QUERY_SLOT. -/
  slot : U32 := 0
  requestId : U64 := 0
  handoffId : U32 := 0
  tide : Nat := 0
  arg0 : U64 := 0
  arg1 : U64 := 0
  arg2 : U64 := 0
  /-- Request record header of an ADMIT, OPEN or RESTORE_REQ. -/
  header : Option Record := none
  /-- ANCHOR_DEV and RECORD_INDEX of that header (R36). -/
  anchor : U16 := 0
  index : Nat := 0
  /-- The device that an offload goes to, in REGISTER and in the COMMIT to the anchor: no field that R236 describes carries it,
  and R18 has the anchor record it (DESIGN CHOICE, log entry 17). -/
  receiver : Option U16 := none
  /-- Token IDs of an ADMIT or PROMPT_TOKENS. -/
  tokens : List U32 := []
  /-- Remote page references of a GRANT or REFS. -/
  refs : List U64 := []
  query : Option Query := none
  part : Option PartialBody := none
  /-- BODY_LEN; for PARTIAL, which has no such field, the bytes that follow its header. -/
  bodyLen : Nat := 0
  /-- The reserved bytes of header and body that no field here holds are zero. -/
  wellFormed : Bool := true
  deriving DecidableEq, Repr, Inhabited

/-- A completion slot, with the progress of what it awaits. -/
structure Slot where
  state : SlotState := .free
  /-- 1-65,535 once used. -/
  gen : Nat := 0
  awaits : AwaitKind := .none
  desc : IbexDesc := {}
  queue : Nat := 0
  /-- Order of acceptance in its queue (R219). -/
  order : Nat := 0
  /-- Mover that carries it (R205). -/
  mover : Nat := 0
  /-- Global time of its acceptance. -/
  since : Nat := 0
  /-- Units not yet committed, and units committed. -/
  left : Nat := 0
  done : Nat := 0
  /-- Under AWAIT, the reply has not come (R214). -/
  replyDue : Bool := false
  status : Byte := 0
  retries : Nat := 0
  poisoned : Nat := 0
  saturated : Nat := 0
  nans : Nat := 0
  /-- Retries of single tiles, by unit (R221). -/
  tileRetries : Tab Nat := []
  /-- Units resolved, and units committed, by their index in the descriptor. -/
  landed : Tab Bool := []
  arrived : Tab Bool := []
  /-- Pages the descriptor reads or writes (R220). -/
  pages : List Nat := []
  /-- The message that awaits a reply; sent once the slot is taken (R566). -/
  msg : Option Msg := none
  /-- Message kind that awaits a reply, its transfer and its request. -/
  msgKind : Nat := 0
  handoffId : U32 := 0
  requestId : U64 := 0
  peer : U16 := 0
  /-- Herd slot, step, layer and rows of an awaited PARTIAL; function row and item of an awaited decision. -/
  herdSlot : Nat := 0
  step : Nat := 0
  layer : Nat := 0
  rows : Nat := 0
  fn : Fin 10 := 0
  item : Nat := 0
  /-- EXCHANGE offset of an awaited decision's question (R475), and the question's bytes. -/
  exchange : Nat := 0
  question : List Byte := []
  deriving DecidableEq, Repr, Inhabited

/-- A descriptor queue (R206, R219). -/
structure IbexQueue where
  waiting : List IbexDesc := []
  /-- Descriptors whose sources are held until an entry frees. -/
  held : List IbexDesc := []
  /-- Descriptors accepted so far. -/
  accepted : Nat := 0
  /-- Statuses committed since the last FENCE, by order (R219). -/
  statuses : Tab Byte := []
  deriving DecidableEq, Repr, Inhabited

/-- The Ibex movers. -/
structure IbexSt where
  slots : Tab Slot := []
  /-- IBEX_SLOTS_FREE and IBEX_SLOTS_BUSY (R216). -/
  slotsFree : Nat := 65536
  slotsBusy : Nat := 0
  queues : Tab IbexQueue := []
  /-- Movers that failed self-test (R205). -/
  failedMovers : List Nat := []
  /-- Descriptors active on each mover. -/
  movers : Tab Nat := []
  /-- Items without a descriptor that wait for a FREE slot, in order (R566). -/
  slotWait : List Slot := []
  /-- Completions delivered, latest first (R217). -/
  completions : List IbexCompletion := []
  deriving DecidableEq, Repr

/-- An entry of the pool map (R476). -/
structure MapEntry where
  present : Bool := false
  role : Role := .none
  planes : U16 := 0
  partitions : Byte := 0
  models : U64 := 0
  deriving DecidableEq, Repr, Inhabited

/-- An entry of a pool map as the host's bytes spell it (R476). -/
structure PoolEntry where
  device : U16 := 0
  role : Byte := 0
  flags : Byte := 0
  planes : U16 := 0
  partitions : Byte := 0
  reserved : Byte := 0
  models : U64 := 0
  deriving DecidableEq, Repr, Inhabited

/-- A pool map as the device reads it from the host (R476). -/
structure PoolMap where
  level : Byte := 1
  epoch : U32 := 0
  count : U32 := 0
  /-- CHECK matches. -/
  checkOk : Bool := true
  /-- The reserved bytes of the header are zero. -/
  reservedOk : Bool := true
  entries : List PoolEntry := []
  deriving DecidableEq, Repr, Inhabited

/-- Prompt tokens an anchor still has to send to a PROMPT device (R565). -/
structure PromptSend where
  active : Bool := false
  device : U16 := 0
  total : Nat := 0
  next : Nat := 0
  deriving DecidableEq, Repr, Inhabited

/-- State handoff. -/
structure HandoffSt where
  /-- Open transfers by handoff ID. -/
  transfers : Tab Transfer := []
  outcomes : Tab KeptOutcome := []
  /-- This device's handoff counter (R232). -/
  counter : Nat := 0
  /-- CREDIT_IDs given so far. -/
  credits : Nat := 0
  /-- Protocol messages sent, latest first. -/
  outbox : List Msg := []
  /-- Messages held for a newer epoch, with a number each (R265). -/
  heldMsgs : List Msg := []
  /-- Units held for a newer epoch, with their way back; none for the Strait fabric (R265, R284). -/
  heldUnits : List (MoverUnit × Option UnitRoute) := []
  /-- The pool map, by global device ID, and its epoch (R263, R476). -/
  map : Tab MapEntry := []
  epoch : U32 := 0
  mapTide : Nat := 0
  /-- A pool map has been installed. -/
  mapped : Bool := false
  /-- Peers failed by TARGET_DEAD (R248), by device. -/
  failed : Tab Bool := []
  /-- ADMITs whose prompt tokens are still being sent, by record index. -/
  prompts : Tab PromptSend := []
  deriving DecidableEq, Repr, Inhabited

/-- The sampling state of a request, as its anchor sends it to the device that samples (R20): the seed, the count of tokens
sampled, and the last 256 tokens that the anchor holds, latest first. -/
structure SupplyOut where
  device : U16 := 0
  requestId : U64 := 0
  seed : U64 := 0
  sampled : Nat := 0
  /-- Tokens that the anchor holds in all, prompt and generated. -/
  total : Nat := 0
  recent : List U32 := []
  deriving DecidableEq, Repr, Inhabited

/-- The anchor's records (02). -/
structure AnchorSt where
  /-- Request records by RECORD_INDEX. -/
  records : Tab Record := []
  /-- Tokens counted LATE after an end (R26). -/
  late : Nat := 0
  /-- Sampling state sent to other devices, latest first (R20). -/
  supplyOut : List SupplyOut := []
  deriving DecidableEq, Repr, Inhabited

end Sys2Proof.Machine
end

