-- ==== Sys2Proof/Machine/TypesSearch.lean ====
section
/-! DEFINITION. Plain data of the Chamois search engine and of the health block (chapters 12 and 16). -/

namespace Sys2Proof.Machine

/-! ### Chamois (12) -/

/-- An index header (R340) as registration validated it, and where it lies; COMMITTED stays in memory, where the engine
maintains it. -/
structure IndexHeader where
  addr : Nat := 0
  level : Nat := 0
  /-- 1 is PREFIX (R361). -/
  kind : Nat := 0
  m : Nat := 0
  dist : Nat := 0
  dim : Nat := 0
  tableFmt : Nat := 0
  partition : Nat := 0
  nlist : Nat := 0
  itemCap : Nat := 0
  codebook : Nat := 0
  coarse : Nat := 0
  directory : Nat := 0
  items : Nat := 0
  segments : Nat := 0
  segCount : Nat := 0
  dellogCap : Nat := 0
  dellog : Nat := 0
  tables : Nat := 0
  combine : Nat := 0
  deriving DecidableEq, Repr, Inhabited

/-- A directory entry (R342). -/
structure DirEntry where
  first : Nat := 0
  last : Nat := 0
  count : Nat := 0
  compacting : Bool := false
  deriving DecidableEq, Repr, Inhabited

/-- An entry of a segment (R341), with its place. -/
structure ListEntry where
  seg : Nat := 0
  pos : Nat := 0
  code : List Byte := []
  slot : Nat := 0
  seq : Nat := 0
  tombstone : Bool := false
  deriving DecidableEq, Repr, Inhabited

/-- An item table entry (R343). -/
structure ItemEntry where
  id : U64 := 0
  seg : Nat := 0
  pos : Nat := 0
  used : Bool := false
  deleted : Bool := false
  holder : Nat := 0
  prefixLen : Nat := 0
  tokenCrc : Nat := 0
  deriving DecidableEq, Repr, Inhabited

/-- A MUTATE command in progress (R344): its buffer, how many records it has, and how many have been applied. -/
structure MutJob where
  cmd : Nat × Nat := (0, 0)
  addr : Nat := 0
  count : Nat := 0
  next : Nat := 0
  deriving DecidableEq, Repr, Inhabited

/-- A registered index. What it holds lies in memory; the engine keeps only what memory has no field for. -/
structure Index where
  registered : Bool := false
  header : IndexHeader := {}
  /-- Segment frames in use. -/
  usedSegs : List Nat := []
  /-- Old frames of compacted lists, each with the batches that must complete first (R358). -/
  oldSegs : List (List Nat × List Nat) := []
  /-- MUTATE commands not yet finished, oldest first. -/
  jobs : List MutJob := []
  /-- Lists that wait to be compacted, and lists being compacted (R358). -/
  ordered : List Nat := []
  compacting : List Nat := []
  /-- Highest horizon so far: delete-log entries at or below it are retired (R356). -/
  retired : Nat := 0
  deriving DecidableEq, Repr, Inhabited

/-- Phases of a search batch (R352). -/
inductive BatchPhase where
  | queued | tables | coarse | scan | widen
  deriving DecidableEq, Repr, Inhabited

/-- A batch header (R348). -/
structure BatchHeader where
  addr : Nat := 0
  level : Nat := 0
  index : Nat := 0
  flags : Nat := 0
  partition : Nat := 0
  queries : Nat := 0
  k : Nat := 0
  nprobe : Nat := 0
  widenCap : Nat := 0
  filters : Nat := 0
  snapshot : Nat := 0
  queryAddr : Nat := 0
  entryAddr : Nat := 0
  filterAddr : Nat := 0
  resultAddr : Nat := 0
  deriving DecidableEq, Repr, Inhabited

/-- A candidate, and so a result entry (R348): its distance as FP32 bits, and whether its item table entry is poisoned. -/
structure ResultEntry where
  id : U64 := 0
  dist : U32 := 0
  slot : Nat := 0
  exact : Bool := false
  bad : Bool := false
  deriving DecidableEq, Repr, Inhabited

/-- The progress of one query. -/
structure QueryState where
  widened : Bool := false
  /-- Lists in coarse-pass order up to its cap, and how many of them are probed. -/
  order : List Nat := []
  probed : Nat := 0
  scanned : Nat := 0
  /-- The query's table holds a NaN or a poisoned tile. -/
  poison : Bool := false
  /-- A fault left something out (R362). -/
  part : Bool := false
  /-- The nearest candidates so far, at most K. -/
  found : List ResultEntry := []
  deriving DecidableEq, Repr, Inhabited

/-- A search batch. -/
structure Batch where
  number : Nat := 0
  header : BatchHeader := {}
  tenant : BitVec 10 := 0
  snapshot : Nat := 0
  queries : List QueryState := []
  phase : BatchPhase := .queued
  cmd : Nat × Nat := (0, 0)
  /-- CHAM_WIDEN_MULT in force when the batch began. -/
  mult : Nat := 3
  /-- Segments of each list as the directory named them when the batch first read it (R353). -/
  lists : Tab (Option (List Nat)) := []
  deriving DecidableEq, Repr, Inhabited

/-- The CHAM block. -/
structure ChamSt where
  indexes : Tab Index := []
  /-- Batches admitted and not completed, oldest first. -/
  batches : List Batch := []
  nextBatch : Nat := 0
  /-- CHAM_SNAP_POINT in force (R357); moved when HI is written. -/
  snapPoint : Nat := 0
  /-- Lane index of the channel that received the previous segment (R341). -/
  lastChannel : Nat := 639
  /-- Scan units out, by number 4 × stack + unit. -/
  failedUnits : List Nat := []
  /-- Code-byte lookups performed. -/
  lookups : Nat := 0
  deriving DecidableEq, Repr, Inhabited

/-! ### Health (16) -/

/-- What an islet's monitors hold (R434, R441). -/
structure IsletHealth where
  /-- Temperature samples in 0.125 °C, signed. -/
  temp : Int := 0
  tempMax : Int := 0
  sampled : Bool := false
  stretches : Nat := 0
  longest : Nat := 0
  margin : Nat := 0
  /-- Least margin since cold reset, kept as a reduction from 1,023. -/
  marginDrop : Nat := 0
  age : Int := 0
  birth : Nat := 0
  /-- A crossing was written and the value has not returned past the hysteresis: temperature, margin. -/
  warned : Bool := false
  marginWarned : Bool := false
  /-- Milliseconds at or above 105 °C and 110 °C (R536). -/
  hotMs : Nat := 0
  tripMs : Nat := 0
  deriving DecidableEq, Repr, Inhabited

/-- A row history entry (R437). -/
structure RowEntry where
  used : Bool := false
  channel : Nat := 0
  bank : Nat := 0
  row : Nat := 0
  hot : Bool := false
  ueSeen : Bool := false
  softRepaired : Bool := false
  hardPending : Bool := false
  retired : Bool := false
  ceDay : Nat := 0
  ceTotal : Nat := 0
  ue : Nat := 0
  deriving DecidableEq, Repr, Inhabited

/-- A lane's eye (R439). -/
structure LaneEye where
  h : Nat := 0
  v : Nat := 0
  fec : Nat := 0
  low : Bool := false
  deriving DecidableEq, Repr, Inhabited

/-- What a die gathers for its histogram and its hourly SUMMARY (R436, R444). -/
structure DieHist where
  /-- Whole hours by bin since first power-on, and minutes by bin since the last whole hour of the bin. -/
  hours : Tab Nat := []
  minutes : Tab Nat := []
  /-- Minutes by bin in the current hour, for the SUMMARY record. -/
  hourMinutes : Tab Nat := []
  minuteMax : Int := 0
  hourMax : Int := 0
  tempSum : Int := 0
  samples : Nat := 0
  leastMargin : Nat := 1023
  longest : Nat := 0
  stretches : Nat := 0
  ce : Nat := 0
  ue : Nat := 0
  deriving DecidableEq, Repr, Inhabited

/-- A life-log record (R444); CHECK is computed when the record is read. -/
structure LifeRec where
  type : Nat := 0
  die : Byte := 0
  permanent : Bool := false
  /-- FLAGS [1]: a permanent record placed in the rolling area. -/
  moved : Bool := false
  /-- FLAGS [2]: records were lost before this one. -/
  lossBefore : Bool := false
  seq : Nat := 0
  tide : Nat := 0
  hours : Nat := 0
  boot : Nat := 0
  payload : List Byte := []
  /-- Its CHECK matches (false for a record whose programming was cut off, R445). -/
  checkOk : Bool := true
  deriving DecidableEq, Repr, Inhabited

/-- The life log (R443-R446). -/
structure LifeLog where
  /-- Records by position, sector × 1,024 + index. -/
  flash : Tab (Option LifeRec) := []
  /-- Next free position of the permanent area, and of the open rolling sector. -/
  permNext : Nat := 0
  rollNext : Nat := 16384
  nextSeq : Nat := 0
  /-- Records that wait for the writer, oldest first. -/
  buffer : List LifeRec := []
  /-- A record was lost since the last one written. -/
  lost : Bool := false
  /-- The sector being erased; and whether the erase was suspended by a total loss (R445). -/
  erasing : Option Nat := none
  suspended : Option Nat := none
  boots : Nat := 0
  /-- Power-on seconds, from which HEALTH_HOURS follows. -/
  hours : Nat := 0
  deriving DecidableEq, Repr, Inhabited

/-- The HEALTH block. -/
structure HealthSt where
  islets : Tab IsletHealth := []
  rows : Tab RowEntry := []
  lanes : Tab LaneEye := []
  dies : Tab DieHist := []
  log : LifeLog := {}
  rowSnap : RowEntry := {}
  logSnap : Option LifeRec := none
  deriving DecidableEq, Repr, Inhabited

end Sys2Proof.Machine
end

