-- ==== Sys2Proof/Machine/TypesSys.lean ====
section
/-! DEFINITION. Plain data of the structure bitstream, firmware, security, power and the pins (chapters 17, 19, 20, 21
and 22). -/

namespace Sys2Proof.Machine

/-! ### The structure bitstream (17) -/

/-- An entry of the FUNCTIONS section (R454). -/
structure FuncEntry where
  mode : FnMode := .hw
  port : Fin 2 := 0
  timeout : Nat := 0
  deriving DecidableEq, Repr, Inhabited

/-- An entry of the PARTITIONS section (R454), with the bytes of its wrapped key (R506). -/
structure PartEntry where
  channels : BitVec 640 := 0
  ways : U16 := 0
  encrypt : Bool := false
  importKey : Bool := false
  wrapped : List Byte := []
  deriving DecidableEq, Repr, Inhabited

/-- An entry of the CONTROL section (R454). -/
structure ControlEntry where
  block : Nat := 0
  expert : Bool := false
  profile : Nat := 0
  fields : List (Nat × U32) := []
  deriving DecidableEq, Repr, Inhabited

/-- An entry of the TENANTS section (R454). -/
structure TenantEntry where
  tenant : BitVec 10 := 0
  enable : Bool := false
  partition : Fin 8 := 0
  share : U16 := 0x0100
  tokQuota : Nat := 0
  tokCap : Nat := 0
  admQuota : Nat := 0
  admCap : Nat := 0
  deriving DecidableEq, Repr, Inhabited

/-- A shaper entry of the SHAPING section (R454). -/
structure ShaperEntry where
  port : Nat := 0
  priority : Fin 8 := 0
  adj : Int := 20
  slope : Nat := 0
  hi : Nat := 16384
  lo : Nat := 16384
  deriving DecidableEq, Repr, Inhabited

/-- A policer entry of the SHAPING section (R454). -/
structure PolicerEntry where
  tenant : BitVec 10 := 0
  adj : Int := 20
  rate : Nat := 0
  burst : Nat := 65536
  deriving DecidableEq, Repr, Inhabited

/-- A section's directory entry (R450). -/
structure SectionDir where
  type : Nat := 0
  level : Byte := 1
  offset : Nat := 0
  length : Nat := 0
  check : U64 := 0
  /-- CHECK matches the section's bytes. -/
  checkOk : Bool := true
  deriving DecidableEq, Repr, Inhabited

/-- The bytes of an image or a structure bitstream (R450, R487), of which those not listed are zero; of an image its manifest. With
them goes what cryptography finds (log entry 9): KEY_ID names an enrolled Novuo key, the signatures verify, and every block's tag
and BLOCKS_DIGEST verify. -/
structure SlotFile where
  bytes : List Byte := []
  keyOk : Bool := true
  ecdsaOk : Bool := true
  mldsaOk : Bool := true
  blocksOk : Bool := true
  deriving DecidableEq, Repr, Inhabited

/-- What a structure bitstream says (R450-R454). -/
structure Bitstream where
  bytes : List Byte := []
  magic : U32 := 0x4253574C
  level : Byte := 1
  role : Nat := 0
  preset : Nat := 0
  hwLevel : U16 := 0x0100
  steppings : U16 := 1
  totalLen : Nat := 0
  buildId : U64 := 0
  check : U64 := 0
  checkOk : Bool := true
  sigOff : Nat := 0
  sigLen : Nat := 0
  keyId : U64 := 0
  ecdsaOk : Bool := true
  mldsaOk : Bool := true
  dir : List SectionDir := []
  /-- DEVICE: ROLE, ENGINES, PARTITIONS, ANCHOR_MAX, LOW_WM, SC_WAYS_DEV. -/
  devRole : Nat := 0
  engines : Byte := 0
  partCount : Nat := 1
  anchorMax : Nat := 0
  lowWm : Nat := 0
  scWaysDev : U16 := 1
  functions : List FuncEntry := []
  lanes : List Byte := []
  partitions : List PartEntry := []
  map : PlaceMap := {}
  islets : List (Nat × Nat) := []
  control : List ControlEntry := []
  tenants : List TenantEntry := []
  /-- PFC of SHAPING, then its shaper and policer entries. -/
  pfc : U16 := 0
  shapers : List ShaperEntry := []
  policers : List PolicerEntry := []
  /-- Reserved fields of the header and the directory are zero. -/
  reservedOk : Bool := true
  /-- Types of the sections whose layout is broken. -/
  badLayouts : List Nat := []
  deriving DecidableEq, Repr, Inhabited

/-- The STRUCT block. -/
structure StructSt where
  /-- The loaded bitstream and its slot (0 or 1). -/
  loaded : Option Bitstream := none
  slot : Fin 2 := 0
  fallback : Bool := false
  unsigned : Bool := false
  lastStatus : Byte := 0
  lastSection : Nat := 0
  /-- A full load that waits for its drain: the new bitstream, its slot, and the command to complete. -/
  drain : Option (Bitstream × Fin 2 × Nat × Nat) := none
  /-- A partial load that waits for the step boundary. -/
  part : Option (Bitstream × Fin 2 × Nat × Nat) := none
  deriving DecidableEq, Repr, Inhabited

/-! ### Firmware (19) -/

/-- Content of an image slot (R487, R488), with the outcome of what cryptography checks in it. -/
structure Image where
  magic : U32 := 0x5746574C
  level : Byte := 1
  kind : Nat := 3
  blocks : Nat := 1
  imageId : U64 := 0
  svn : Nat := 0
  version : U32 := 0
  hwMin : U16 := 0x0100
  hwMax : U16 := 0x0100
  steppings : U16 := 1
  imgIf : U16 := 0
  schema : U16 := 0
  schemaMin : U16 := 0
  secIf : U16 := 0
  secIfMin : U16 := 0
  compat : List (U16 × U16) := []
  features : U64 := 0
  keyId : U64 := 0
  digest : BitVec 384 := 0
  payloadLen : Nat := 0
  sigLen : Nat := 96
  /-- R488's layout holds and reserved fields are zero. -/
  layoutOk : Bool := true
  /-- KEY_ID names an enrolled Novuo key; the signatures verify; every block's tag and BLOCKS_DIGEST verify. -/
  keyOk : Bool := true
  ecdsaOk : Bool := true
  mldsaOk : Bool := true
  blocksOk : Bool := true
  deriving DecidableEq, Repr, Inhabited

/-- What is staged into a slot. -/
inductive SlotContent where
  | none
  | image (i : Image)
  | bits (b : SlotFile)
  deriving DecidableEq, Repr, Inhabited

/-- Slot states (FW_SLOTS). -/
inductive FwSlotState where
  | empty | staging | valid | invalid
  deriving DecidableEq, Repr, Inhabited

/-- Code of a slot state. -/
def FwSlotState.code : FwSlotState → Nat
  | .empty => 0 | .staging => 1 | .valid => 2 | .invalid => 3

/-- A flash slot (R482). -/
structure FwSlot where
  state : FwSlotState := .empty
  content : SlotContent := .none
  deriving DecidableEq, Repr, Inhabited

/-- A copy of the boot record (R484). -/
structure BootCopy where
  valid : Bool := true
  active : Fin 4 := 2
  pending : Fin 4 := 0
  structBoot : Fin 2 := 0
  seq : Nat := 0
  /-- KEYS: structure slots whose public keys the copy holds, and ECDSA_PUB with MLDSA_PUB of each slot. -/
  keys : BitVec 4 := 0
  pubs : Tab (List Byte) := []
  /-- DEVICEID_CERT (R504). -/
  cert : List Byte := []
  deriving DecidableEq, Repr, Inhabited

/-- Service levels (R486). -/
inductive Service where
  | normal | recovery | minimal
  deriving DecidableEq, Repr, Inhabited

/-- Code of a service level. -/
def Service.code : Service → Nat
  | .normal => 0 | .recovery => 1 | .minimal => 2

/-- Handover states (R497). -/
inductive Handover where
  | idle | prepare | quiesce | pause | switched | confirming
  deriving DecidableEq, Repr, Inhabited

/-- Code of a handover state (FW_STATUS). -/
def Handover.code : Handover → Nat
  | .idle => 0 | .prepare => 1 | .quiesce => 2 | .pause => 3 | .switched => 4 | .confirming => 5

/-- A staging session (R492). -/
structure Session where
  slot : Nat := 0
  /-- Host port of its FW_BEGIN. -/
  port : Nat := 0
  length : Nat := 0
  hw : Bool := true
  next : Nat := 0
  /-- What has come: in HW mode the whole file, in HOST_ASSIST the blocks so far. -/
  file : SlotFile := {}
  /-- Command to complete in HW mode. -/
  cmd : Option (Nat × Nat) := none
  deriving DecidableEq, Repr, Inhabited

/-- One block of HOST_ASSIST staging: whether its tag verifies, and its bytes, with what cryptography finds once it has come. -/
structure StagedBlock where
  tagOk : Bool := true
  file : SlotFile := {}
  deriving DecidableEq, Repr, Inhabited

/-- The FW block. -/
structure FwSt where
  slots : Tab FwSlot := []
  boot0 : BootCopy := {}
  boot1 : BootCopy := {}
  service : Service := .normal
  recoveryCause : Nat := 0
  session : Option Session := none
  handover : Handover := .idle
  /-- The running control image, and its slot. -/
  run : Option Image := none
  runSlot : Nat := 2
  /-- The boot stage and the security firmware that the last boot started. -/
  bootRun : Option Image := none
  secRun : Option Image := none
  /-- The image being handed over to, its slot, and the image that runs until RUN. -/
  next : Option Image := none
  nextSlot : Nat := 0
  old : Option Image := none
  oldSlot : Nat := 2
  /-- The activation in progress is conservative (R494, R495). -/
  nextConservative : Bool := false
  conservative : Bool := false
  features : U64 := 0
  /-- Security-interface level in use (R496). -/
  secLevel : U16 := 0
  /-- SEC_IF and SEC_IF_MIN of the security firmware. -/
  secIf : U16 := 0
  secIfMin : U16 := 0
  /-- Command of the activation to complete, when FW_ACTIVATE began it. -/
  cmd : Option (Nat × Nat) := none
  pauseStart : Nat := 0
  pauseLast : Nat := 0
  completed : Nat := 0
  abandoned : Nat := 0
  lastStatus : Byte := 0
  incompatible : Bool := false
  reverted : Bool := false
  hdrSnap : Option Image := none
  /-- Security version fuse counter (R500, R511). -/
  svn : Nat := 0
  /-- Content of the board recovery flash: boot stage and security firmware (R551). -/
  boardBoot : SlotContent := .none
  boardSec : SlotContent := .none
  deriving DecidableEq, Repr, Inhabited

/-! ### Security (20) -/

/-- An SPDM transport (R519). -/
inductive Spdm where
  | doe (port : Fin 2)
  | mctp
  deriving DecidableEq, Repr, Inhabited

/-- Key of a transport in tables. -/
def Spdm.key : Spdm → Nat
  | .doe p => p.val | .mctp => 2

/-- SPDM sessions a transport may hold (R519). -/
def Spdm.limit : Spdm → Nat
  | .doe _ => 4 | .mctp => 2

/-- A session on a transport; `ready` after FINISH. -/
structure SpdmSession where
  id : Nat := 0
  ready : Bool := false
  /-- Key updates made. -/
  updates : Nat := 0
  deriving DecidableEq, Repr, Inhabited

/-- How far the connection of a transport has been negotiated (SPDM 1.3). -/
structure SpdmConn where
  version : Bool := false
  capabilities : Bool := false
  algorithms : Bool := false
  sessions : List SpdmSession := []
  deriving DecidableEq, Repr, Inhabited

/-- An SPDM request's parameters: the certificate slot, the session, and whether it is well-formed and verifies. -/
structure SpdmReq where
  slot : Nat := 0
  session : Nat := 0
  /-- Its format is valid and every algorithm it names is supported. -/
  ok : Bool := true
  /-- Its MAC or signature verifies. -/
  verifies : Bool := true
  /-- Measurement indices requested; 0xFF for all. -/
  indices : List Nat := []
  /-- A VENDOR_DEFINED_REQUEST is IDE_KM's K_SET_GO, after which the port's IDE stream is secure. -/
  keySetGo : Bool := false
  deriving DecidableEq, Repr, Inhabited

/-- An SPDM response. -/
inductive SpdmResp where
  | error (code : Nat)
  | reply (request : Nat)
  /-- Digests of the certificates, and the chain: Novuo root, DeviceID, L1 alias (R519). -/
  | digests (ds : List (BitVec 384))
  | certificates (chain : List (List Byte))
  /-- Answers that the L1 alias key signs, with its public key (R503). -/
  | signed (request : Nat) (key : List Byte)
  | measurements (blocks : List (Nat × List Byte)) (key : List Byte)
  deriving DecidableEq, Repr, Inhabited

/-- A structure-key slot (R508). -/
structure SkeySlot where
  /-- The fused hash: SHA-384 of both public keys. -/
  hash : BitVec 384 := 0
  used : Bool := false
  revoked : Bool := false
  /-- The hash was partly blown and USED is intact: spent. -/
  spent : Bool := false
  /-- The public keys are present and carry an ML-DSA key. -/
  present : Bool := false
  deriving DecidableEq, Repr, Inhabited

/-- KEY_ID of a structure slot: the first 8 B of its hash (R508). -/
def SkeySlot.keyId (k : SkeySlot) : U64 := k.hash.truncate 64

/-- The keys that the security islet holds (R503, R504). A key pair stands by its private key; no agent outside the islet reads one. -/
structure KeySt where
  /-- Fuses: UDS and IMAGE_ROOT. -/
  uds : BitVec 384 := 0
  imageRoot : BitVec 256 := 0
  /-- DeviceID's public key; its private key is erased. -/
  deviceId : List Byte := []
  /-- The L1 alias key and its certificate, which DeviceID signs. -/
  l1Key : BitVec 384 := 0
  l1Cert : List Byte := []
  /-- The import key. -/
  importKey : BitVec 384 := 0
  /-- Image keys by KIND. -/
  images : Tab (BitVec 256) := []
  /-- Partition keys. -/
  parts : Tab (BitVec 512) := []
  deriving DecidableEq, Repr, Inhabited

/-- An enrolment record (R509). -/
structure EnrolRec where
  level : Byte := 1
  op : Byte := 0
  slot : Nat := 0
  authKeyId : U64 := 0
  /-- ECDSA_PUB and MLDSA_PUB. -/
  pub : List Byte := []
  /-- Reserved fields are zero, and public keys are zero in a REVOKE. -/
  layoutOk : Bool := true
  deriving DecidableEq, Repr, Inhabited

/-- The SEC block. -/
structure SecSt where
  debugLock : Bool := true
  mldsaReq : Bool := false
  novuoRevoke : BitVec 4 := 0
  skeys : Tab SkeySlot := []
  keys : KeySt := {}
  error : Bool := false
  /-- Self-test results (SEC_SELFTEST [9:0]) and failures. -/
  passed : BitVec 10 := 0
  failures : Nat := 0
  /-- A self-test failed since reset. -/
  failedSince : Bool := false
  keyReady : BitVec 8 := 0
  keyUnusable : BitVec 8 := 0
  keyImported : BitVec 8 := 0
  enrollStatus : Byte := 0
  conns : Tab SpdmConn := []
  nextSession : Nat := 1
  /-- Responses sent, latest first. -/
  responses : List (Nat × SpdmResp) := []
  errors : Nat := 0
  sessionFails : Nat := 0
  /-- DIE_ID by die 0-4, and birth margins by global islet (R512). -/
  dieId : Tab U64 := []
  birth : Tab Nat := []
  /-- Temperature coefficients by die, and test dates. -/
  coef : Tab Int := []
  testDate : Tab Nat := []
  /-- Energy coefficients by class, and static power in mW (R511). -/
  ecoef : Tab Nat := []
  staticMw : Nat := 0
  macBase : BitVec 48 := 0
  deriving DecidableEq, Repr, Inhabited

/-! ### Power (21) -/

/-- Supply states (R531). -/
inductive Supply where
  | onA | onB | holdUp | off
  deriving DecidableEq, Repr, Inhabited

/-- Code of a supply state on SB[5:4] (R531, R547). -/
def Supply.code : Supply → Nat
  | .onA => 0 | .onB => 1 | .holdUp => 2 | .off => 3

/-- The PWR block. -/
structure PwrSt where
  supply : Supply := .onA
  vinAGood : Bool := true
  vinBGood : Bool := true
  /-- Input voltages in 0.1 V. -/
  vinA : Nat := 540
  vinB : Nat := 540
  auxA : Bool := true
  auxB : Bool := true
  /-- SUPPLY_DEGRADED reported for the present stay on VIN_B (R531). -/
  degradedSaid : Bool := false
  capLevel : Fin 4 := 0
  capI3c : Nat := 0
  /-- Cap limits by class 0-3 as a reduction in MHz, and thermal limits by die × 8 + class likewise. -/
  capCut : Tab Nat := []
  thermCut : Tab Nat := []
  /-- Dies whose class 0 and class 2 limits fall (R536). -/
  throttling : BitVec 5 := 0
  /-- Milliseconds for which every capped class has been at 500 MHz above the cap (R535). -/
  unmetMs : Nat := 0
  unmetSaid : Bool := false
  /-- Last minute of global time, plus one, in which THERMAL_THROTTLE was written, by die. -/
  throttleMin : Tab Nat := []
  /-- Power readings of the last 10 ms, latest first, in W. -/
  samples : List Nat := []
  energy : Nat := 0
  switchOvers : Nat := 0
  returns : Nat := 0
  /-- LAST_RESET of PWR_STATUS. -/
  lastReset : Nat := 0
  /-- Bitstream limits by class in MHz; 0 keeps the fused maximum (R454). -/
  structLimit : Tab Nat := []
  deriving DecidableEq, Repr, Inhabited

/-- What the parts of the device find as a reset runs: the islet's tests, the engine self-tests of a cold reset and the
margins it measures (R121, R150, R202, R205, R338, R441, R516). -/
structure BootEnv where
  /-- Passed self-tests by bit of SEC_SELFTEST. -/
  tests : BitVec 10 := 0x3FF
  /-- Partitions whose inline-engine test fails. -/
  inlineFail : BitVec 8 := 0
  failedSa : BitVec 16 := 0
  failedLanes : BitVec 640 := 0
  failedMovers : List Nat := []
  failedUnits : List Nat := []
  /-- Rows, by channel, bank and row, for whose hard repair a spare is left, each with the spares left after it. -/
  spares : List ((Nat × Nat × Nat) × Nat) := []
  /-- Ageing of islets in ps; an islet not listed has not aged. -/
  ages : List (Nat × Int) := []
  deriving DecidableEq, Repr, Inhabited

/-- What lies outside a register write and decides the outcome of a write that acts: the results of the tests that it
starts, the enrolment record in memory as checked, what a reset meets, and the eyes measured. -/
structure WriteEnv where
  pass : BitVec 10 := 0x3FF
  inlineFail : BitVec 8 := 0
  /-- Both signatures of the enrolment record verify. -/
  enrolSigs : Bool := true
  boot : BootEnv := {}
  eyes : List (U16 × U16 × U64) := []
  deriving DecidableEq, Repr, Inhabited

/-! ### Pins (22) -/

/-- Phases of SB[7:0] (R547). -/
inductive PinPhase where
  | aux | strap | boot | run | off
  deriving DecidableEq, Repr, Inhabited

/-- An answer on I3C: the status byte and the data that follow it (R552). -/
structure I3cAnswer where
  status : Byte := 0
  data : List Byte := []
  deriving DecidableEq, Repr, Inhabited

/-- The sideband pins and I3C. -/
structure PinSt where
  phase : PinPhase := .boot
  resetN : Bool := true
  sbrun : Bool := false
  /-- ALERT_N is low (R385). -/
  alertLow : Bool := false
  /-- Dynamic address assigned by ENTDAA. -/
  i3cAddr : Option (BitVec 7) := none
  answers : List I3cAnswer := []
  /-- Straps as sampled: slot, SB6, SB7 (R547). -/
  slot : BitVec 6 := 0
  sb6 : Bool := false
  sb7 : Bool := false
  deriving DecidableEq, Repr, Inhabited

/-- What a host decision is awaited for (R30): a completion slot, the work list of a step (R89), the window of a connection
(R330), or the next block of a staging session (R492). -/
inductive Awaited where
  | slot (n : Fin 65536)
  | workList
  | window (conn : Fin 8192)
  | block
  deriving DecidableEq, Repr, Inhabited

end Sys2Proof.Machine
end

