-- ==== Sys2Proof/Syntax.lean ====
section
/-! DEFINITION. The commands of the device, one constructor per row of the opcode table. A command carries what its
row's rule says arrives with it: a window, a register value, a message, the content read by DMA. -/

namespace Sys2Proof
open Sys2Proof.Machine

/-- A command (event) that the device takes. -/
inductive Instr where
  /-- NOP (R470). Host command that does nothing and completes OK. -/
  | nop (w : WinRef)
  /-- ADMIT (R23). Host command that runs the admission checks, writes the request record and chooses the PROMPT and GENERATE devices. -/
  | admitCmd (w : WinRef) (hdr : Record) (formed : Bool) (tokens : List U32)
  /-- CANCEL (R25). Host command that commits cancellation as the request's end reason if no end was committed before. -/
  | cancel (w : WinRef)
  /-- PREEMPT (R85). Host command that preempts the entries named by slot, request or tenant. -/
  | preempt (w : WinRef)
  /-- RESUME (R86). Host command that resumes preempted entries at the next step boundary. -/
  | resume (w : WinRef)
  /-- RESTORE (R254). Host command that starts a restore of an entry's lower ranges. -/
  | restore (w : WinRef)
  /-- STEP_SUBMIT (R88). Host command that submits a host-written work list, which is validated and then run. -/
  | stepSubmit (w : WinRef)
  /-- DECIDE (R475). Host command that answers an awaited decision from the EXCHANGE region, or completes LATE if the slot left WAITING. -/
  | decideCmd (w : WinRef)
  /-- MAP_INSTALL (R476). Host command that validates and installs a newer pool map and starts the MAP recovery. -/
  | mapInstall (w : WinRef) (bytes : List Byte)
  /-- WINDOW_OPEN (R285). Host command that creates a Strait or RDMA window and returns its key. -/
  | windowOpen (w : WinRef)
  /-- WINDOW_REVOKE (R287). Host command that writes a window's new generation, which sets REVOKING. -/
  | windowRevoke (w : WinRef)
  /-- CONNECT (R309). Host command that writes a connection entry and moves it to CONNECTING or READY. -/
  | connect (w : WinRef) (attr : ConnAttr) (ok : Bool)
  /-- CLOSE (R309). Host command that closes a connection according to its state. -/
  | close (w : WinRef)
  /-- ROUTE_SET (R298). Host command that programs a gateway route table entry. -/
  | routeSet (w : WinRef) (r : Route) (ok : Bool)
  /-- PLAN_LOAD (R189). Host command that validates and loads a model plan and its placement map. -/
  | planLoad (w : WinRef) (p : PlanImage)
  /-- PLAN_UNLOAD (R189). Host command that removes a plan's regions once every operation and transfer naming them has committed. -/
  | planUnload (w : WinRef)
  /-- REGION_LOAD (R199). Host command that reloads the content of a plan region. -/
  | regionLoad (w : WinRef) (content : List Byte)
  /-- INDEX_REGISTER (R340). Host command that validates and registers a search index. -/
  | indexRegister (w : WinRef)
  /-- MUTATE (R344). Host command that applies a buffer of mutation records to an index in order. -/
  | mutate (w : WinRef)
  /-- INSERT (R345). Mutation record that takes a slot, appends the entry and commits it at the COMMITTED write. -/
  | insert (index : Fin 16)
  /-- DELETE (R346). Mutation record that writes a delete-log entry, sets the tombstone and commits. -/
  | delete (index : Fin 16)
  /-- SEARCH (R348). Host command that admits a query batch and fixes its snapshot. -/
  | search (w : WinRef)
  /-- MOVE (R209). Host command that places an Ibex descriptor into the function's host queue. -/
  | move (w : WinRef) (d : IbexDesc)
  /-- TREE_ATTACH (R172). Host command that attaches a speculation tree to a Herd entry. -/
  | treeAttach (w : WinRef)
  /-- RECOVER (R402). Host command that runs one recovery step under a recovery epoch in HOST_ASSIST mode. -/
  | recover (w : WinRef) (targets : List Nat)
  /-- LOAD_STRUCT (R458). Host command that validates a staged bitstream and starts a partial or full load. -/
  | loadStruct (w : WinRef)
  /-- FW_BEGIN (R492). Firmware command that opens a staging session and erases the target slot. -/
  | fwBegin (w : WinRef) (file : SlotFile)
  /-- FW_BLOCK (R492). Firmware command that writes one image block in HOST_ASSIST staging. -/
  | fwBlock (w : WinRef) (blk : StagedBlock)
  /-- FW_END (R492). Firmware command that runs the final check of a HOST_ASSIST staging. -/
  | fwEnd (w : WinRef)
  /-- FW_ACTIVATE (R494). Firmware command that starts an activation of the staged control image. -/
  | fwActivate (w : WinRef)
  /-- RELEASE_ENTRY (R470). PF0 command that starts an ENTRY recovery for a Herd slot. -/
  | releaseEntry (w : WinRef)
  /-- COMMAND_SLOT_WRITE (R467). A 64-byte host write to a command-window slot, taken as the next command when its lap matches. -/
  | commandSlotWrite (w : WinRef) (slot : Fin 64) (bytes : Nat) (data : BitVec 512)
  /-- WINDOW_RESET (R467). Write of RESET in HOSTIF_WIN_CFG, which clears the window and restarts its command count. -/
  | windowReset (w : WinRef)
  /-- RING_HEAD_WRITE (R473). Host returns consumed completion records, which lets waiting records be written and commands be consumed. -/
  | ringHeadWrite (w : WinRef) (v : U32)
  /-- MSI_DELAY_EXPIRY (R474). Coalescing delay ends and the ring's MSI-X vector is raised. -/
  | msiDelayExpiry (w : WinRef)
  /-- TOKEN_HOLD_EXPIRY (R474). Token hold time ends and the held tokens are written in a TOKENS record. -/
  | tokenHoldExpiry (record : Fin 65536)
  /-- PORT_LOSS (R477). A host port's link goes down or PERST# is asserted, so its functions are lost. -/
  | portLoss (p : Fin 2)
  /-- FUNCTION_LEVEL_RESET (R477). A function level reset loses that function's commands, windows, connections and requests. -/
  | functionLevelReset (p : Fin 2) (fn : Fin 65)
  /-- PORT_LINK_RETURN (R478). A lost port's link trains again and its HOSTIF state starts at reset values. -/
  | portLinkReturn (p : Fin 2) (speed : Fin 4) (width : Fin 32)
  /-- IDE_STREAM_INSECURE (R479). A port's IDE stream leaves the secure state, so the port is lost. -/
  | ideStreamInsecure (p : Fin 2)
  /-- BAR4_READ (R465). Host read through the HBM aperture, checked against regions, returning poison with EP where needed. -/
  | bar4Read (p : Fin 2) (fn : Fin 65) (off n : Nat)
  /-- BAR4_WRITE (R465). Host write through the HBM aperture, dropped when it reaches no permitted region. -/
  | bar4Write (p : Fin 2) (fn : Fin 65) (off : Nat) (data : List Byte) (ep : Bool)
  /-- BAR4_BASE_HI_WRITE (R465). Write of HOSTIF_BAR4_BASE_HI, which moves the BAR4 base. -/
  | bar4BaseHiWrite (v : U32)
  /-- QUERY (R252). Protocol message that asks a lower-range holder to compute attention over its range. -/
  | query (m : Msg)
  /-- PARTIAL (R171). Partial-result message, checked against the awaited query and merged. -/
  | partialMsg (m : Msg)
  /-- ADMIT_MESSAGE (R565). Protocol ADMIT that enters a sequence at a PROMPT device with its first token IDs. -/
  | admitMessage (m : Msg)
  /-- PROMPT_TOKENS (R565). Protocol message that carries further prompt token IDs in index order. -/
  | promptTokens (m : Msg)
  /-- OPEN (R237). Protocol message that opens a transfer at its peer, which fills a Herd entry. -/
  | openMsg (m : Msg)
  /-- CREDIT_REQ (R238). Protocol message by which a holder asks for credit, and the receiver pre-allocates pages or queues the request. -/
  | creditReq (m : Msg)
  /-- QUEUED_CREDIT_GRANT (R238). A queued credit request is granted once pages become free. -/
  | queuedCreditGrant (id : U32)
  /-- CREDIT_WAIT_EXPIRY (R238). A credit request waited HANDOFF_CREDIT_WAIT, which sets CREDIT_STALL. -/
  | creditWaitExpiry (id : U32)
  /-- GRANT (R238). Protocol message carrying granted page references, checked by the holder. -/
  | grant (m : Msg)
  /-- REFS (R241). Protocol message by which a restore holder sends its page references. -/
  | refs (m : Msg)
  /-- SENT (R242). Protocol message by which the holder declares its last transfer done. -/
  | sent (m : Msg)
  /-- COMMIT (R243). Protocol message that commits a transfer at the holder or the anchor. -/
  | commit (m : Msg)
  /-- REPLY (R245). Protocol answer to a message that named a slot. -/
  | reply (m : Msg)
  /-- ABORT (R245). Protocol message that ends a transfer attempt at the peer or the anchor. -/
  | abort (m : Msg)
  /-- KEEPALIVE (R241). Protocol message from the holder that restarts the receiver's timer. -/
  | keepalive (m : Msg)
  /-- KEEPALIVE_TIMER (R241). HANDOFF_KEEPALIVE interval elapses and the holder sends KEEPALIVE. -/
  | keepaliveTimer (id : U32)
  /-- RECEIVER_HANDOFF_TIMER (R245). A receiver heard nothing from its holder for HANDOFF_TIMER, so it frees its pages and aborts. -/
  | receiverHandoffTimer (id : U32)
  /-- REGISTER (R233). Protocol message that asks the anchor to set PENDING for an offload or restore. -/
  | register (m : Msg)
  /-- REDIRECT (R246). Protocol message that asks the anchor for a new handoff receiver. -/
  | redirect (m : Msg)
  /-- END (R70). Protocol message from the anchor that orders every holder to free the request's state. -/
  | endMsg (m : Msg)
  /-- RELEASED (R250). Protocol message by which a holder reports its release to the anchor. -/
  | released (m : Msg)
  /-- RESTORE_REQ (R261). Protocol message that asks a new GENERATE device to restore from a replica. -/
  | restoreReq (m : Msg)
  /-- REPLICA_REQ (R255). Protocol message that asks an owner to open a replica to a CACHE device. -/
  | replicaReq (m : Msg)
  /-- COVERED (R255). Protocol message that reports a replica's covered length to the anchor. -/
  | covered (m : Msg)
  /-- HELD_MESSAGE_TIMEOUT (R265). A newer-epoch message was held for HANDOFF_GRACE without an install, so it is refused NOT_READY. -/
  | heldMessageTimeout (item : Nat)
  /-- DEADLINE_EXPIRY (R25). A request's deadline passes at the anchor, which commits TIMEOUT as its end reason. -/
  | deadlineExpiry (record : Fin 65536)
  /-- TOKEN_ARRIVAL (R21). A generated token reaches the anchor, which delivers it once and in position order. -/
  | tokenArrival (request : U64) (k : Nat) (token : U32)
  /-- DECISION_TIMEOUT (R30). A host decision is awaited beyond its timeout, so a CONTAINED record is written and the device keeps waiting. -/
  | decisionTimeout (item : Awaited)
  /-- IDLE_BOUNDARY (R35). An idle device passes a boundary within 10 µs of a control write and applies the write. -/
  | idleBoundary
  /-- STEP_BOUNDARY (R73). Boundary after a step closes, at which control changes, releases, resumptions and offloads are applied before the next build. -/
  | stepBoundary (buildNs : Nat) (given : List SampleSupply)
  /-- PREEMPT_MAX_EXPIRY (R86). An entry preempted longer than HERD_PREEMPT_MAX fails with NO_PAGES. -/
  | preemptMaxExpiry (slot : Fin 65536)
  /-- SEQUENCER_ISSUE_OP (R87). The step sequencer binds a plan operation to the list and queues it once its dependencies allow. -/
  | sequencerIssueOp (model : Fin 64)
  /-- STEP_CLOSE (R75). The last layer completes and transfers commit, so tokens are sampled and sent and lengths and accounts advance. -/
  | stepClose
  /-- STEP_RUN (R91). Write of HERD_STEP_CTRL RUN, which allows or stops steps. -/
  | stepRun (on : Bool)
  /-- STEP_PAUSE (R91). Write of HERD_STEP_CTRL PAUSE, which stops building after the running step. -/
  | stepPause (on : Bool)
  /-- STEP_SINGLE (R91). Write of SINGLE while paused, which builds and runs one step. -/
  | stepSingle
  /-- CLEAR_MAX (R91). Write of CLEAR_MAX, which sets HERD_BUILD_MAX to 0. -/
  | clearMax
  /-- HERD_ENTRY_SEL_WRITE (R91). Write of HERD_ENTRY_SEL, which snapshots an entry into HERD_ENTRY_DATA. -/
  | herdEntrySelWrite (slot : Fin 65536)
  /-- HERD_PEER_WEIGHT_WRITE (R83). Write of a peer's weight or pin, which adds the peer to the table if there is room. -/
  | herdPeerWeightWrite (v : U32)
  /-- GEMM (R103). Eland GEMM operation, issued as output tiles with its epilogue. -/
  | gemm
  /-- GROUPED_GEMM (R105). Eland grouped GEMM, tiled group by group. -/
  | groupedGemm
  /-- ATTN_FWD (R154). Eland forward attention over ragged entries, writing outputs and row statistics. -/
  | attnFwd
  /-- ATTN_TREE (R174). Eland attention over speculative tree nodes under the tree mask. -/
  | attnTree
  /-- ATTN_BWD (R180). Eland attention backward, computing dQ, dK and dV. -/
  | attnBwd
  /-- KV_PACK (R106). Eland operation that encodes, rotates, quantises and seals new KV rows into pages. -/
  | kvPack
  /-- DIST_TABLE (R349). Eland operation that builds per-query distance tables. -/
  | distTable
  /-- SAMPLE (R113). Eland operation that samples a token for each row, or runs tree acceptance in MODE 1. -/
  | sample
  /-- ELAND_OP_ENQUEUE (R96). A source adds an operation to the Eland queue, held until an entry frees. -/
  | elandOpEnqueue (d : ElandDesc)
  /-- OUTPUT_TILE_DONE (R118). An output tile finishes and its checksum is checked, so it commits, replays, reruns or is poisoned. -/
  | outputTileDone (quad sub : Fin 4) (tile : Nat) (run : TileRun)
  /-- ELAND_FENCED_WRITE (R121). Software fences sub-arrays through ELAND_FENCED. -/
  | elandFencedWrite (v : U32)
  /-- ELAND_HOLD (R125). Write of ELAND_CTRL HOLD, which stops dequeuing operations. -/
  | elandHold (on : Bool)
  /-- ELAND_CLEAR_HWM (R125). Write of CLEAR_HWM, which sets ELAND_QUEUE_HWM to 0. -/
  | elandClearHwm
  /-- LANE_UNIT_DISPATCH (R138). A dispatcher places a lane work unit in a lane queue when there is room. -/
  | laneUnitDispatch (red head : Nat) (quad : Fin 4) (stack : Fin 5) (pc : Fin 32)
  /-- LANE_UNIT_DONE (R140). A lane finishes a unit and writes its partials. -/
  | laneUnitDone (lane : Fin 640) (upset : Option UnitResult)
  /-- SPOT_CHECK_RESULT (R147). A checker or arbitration run finishes, and the unit is released, rerun or poisoned. -/
  | spotCheckResult (unit : Nat) (upset : Option UnitResult)
  /-- REDUCER_MERGE_COMPLETE (R143). The home reducer has every awaited partial and writes the merged rows. -/
  | reducerMergeComplete (home : Fin 4) (red : Nat)
  /-- SPRING_FENCED_WRITE (R150). Software fences lanes through SPRING_FENCED_k. -/
  | springFencedWrite (stack : Fin 20) (v : U32)
  /-- SPRING_CLEAR_COUNTS (R152). Write of SPRING_CTRL CLEAR_COUNTS. -/
  | springClearCounts
  /-- PATROL_SCRUB_READ (R200). Patrol scrub reads and writes back 64 B of HBM or a tile-store word. -/
  | patrolScrubRead (u : ScrubAt) (flips : List (Nat × BitVec 4)) (bank row : Nat)
  /-- QUARANTINE_TEST (R201). A released quarantined page is tested with patterns, so it returns to FREE or is retired. -/
  | quarantineTest (page : U32) (repaired failed : List (Nat × Nat))
  /-- POOL_AUDIT_SAMPLE (R64). The page auditor samples the four counts every 1 ms. -/
  | poolAuditSample
  /-- POOL_AUDIT_RESAMPLE (R64). 1 µs after a mismatch the auditor samples again and, if needed, starts a recount. -/
  | poolAuditResample
  /-- RECOUNT (R67). Write of TIER_POOL_AUDIT RECOUNT, which starts a recount with allocations held. -/
  | recount
  /-- RECOUNT_DONE (R64). A recount ends, so allocation resumes or LOST raises a FATAL fault. -/
  | recountDone (bad : Option Nat)
  /-- TIER_REGION_SEL_WRITE (R203). Write of TIER_REGION_SEL, which snapshots a region entry. -/
  | tierRegionSelWrite (v : U32)
  /-- COPY (R210). Ibex operation that copies bytes between device addresses. -/
  | copy (q : Fin 256)
  /-- GATHER (R221). Ibex operation that gathers pages into a dense buffer. -/
  | gather (q : Fin 256)
  /-- SCATTER (R221). Ibex operation that scatters a dense buffer into pages. -/
  | scatter (q : Fin 256)
  /-- PACK (R224). Ibex operation that converts tiles to another format. -/
  | pack (q : Fin 256)
  /-- UNPACK (R225). Ibex operation that writes dense rows from tiles. -/
  | unpack (q : Fin 256)
  /-- COMPACT (R226). Ibex operation that moves the accepted tree rows into place. -/
  | compact (q : Fin 256)
  /-- CHECK (R227). Ibex operation that seals pages or verifies their tags. -/
  | check (q : Fin 256)
  /-- REMOTE_PUT (R223). Ibex operation that sends tiles into grants, or bytes to a peer. -/
  | remotePut (q : Fin 256)
  /-- REMOTE_GET (R223). Ibex operation that fetches tiles from a peer's pages. -/
  | remoteGet (q : Fin 256)
  /-- PREFETCH (R228). Ibex operation that stages the tiles of a later layer in a tile store. -/
  | prefetch (q : Fin 256)
  /-- DESCRIPTOR_COMPLETE (R214). A descriptor's last unit commits or it fails, so its slot goes DONE and a completion is written. -/
  | descriptorComplete (slot : Fin 65536)
  /-- SLOT_TIMER_EXPIRY (R393). A completion slot's timer expires first, so it commits TIMED_OUT. -/
  | slotTimerExpiry (slot : Fin 65536)
  /-- SLOT_AUDIT (R216). The auditor checks the slot counts every 1 ms, and a mismatch is FATAL. -/
  | slotAudit
  /-- IBEX_HOLD (R230). Write of IBEX_CTRL HOLD, which stops accepting descriptors. -/
  | ibexHold (on : Bool)
  /-- IBEX_CLEAR_HWM (R230). Write of IBEX_CTRL CLEAR_HWM. -/
  | ibexClearHwm
  /-- IBEX_CLEAR_COUNTS (R230). Write of IBEX_CTRL CLEAR_COUNTS. -/
  | ibexClearCounts
  /-- DATA_FLIT_RECEIVED (R276). A flit arrives and is checked for CRC and order, with ACK, NAK and credits processed. -/
  | dataFlitReceived (port : Fin 16) (flit : List Byte)
  /-- REPLAY_TIMEOUT (R276). ACK has not advanced for 2 µs, so the sender replays. -/
  | replayTimeout (port : Fin 16)
  /-- RETRAIN_COMPLETE (R277). A retrain finishes, credits are exchanged again and replay resumes. -/
  | retrainComplete (port : Fin 16) (half : Bool) (ack : Fin 4096) (grants : List Nat)
  /-- RETRAIN_TIMEOUT (R277). A retrain not done in 10 ms leaves the port DOWN. -/
  | retrainTimeout (port : Fin 16)
  /-- RETRAIN_ATTEMPT (R277). A DOWN port tries a retrain every 100 ms. -/
  | retrainAttempt (port : Fin 16)
  /-- RETRAIN (R277). Write of STRAIT_CTRL RETRAIN, which retrains a port at once. -/
  | retrain (ports : U16)
  /-- AUDIT_SEND (R275). Every 100 µs a sender sends AUDIT on the control channel. -/
  | auditSend (port : Fin 16)
  /-- AUDIT (R275). Received AUDIT is compared with the slots freed, and a mismatch retrains the link. -/
  | audit (port : Fin 16) (totals : List Nat)
  /-- PING (R282). Strait PING, answered with PONG. -/
  | ping (src : U16)
  /-- PONG (R295). A PONG clears a peer's unreachable mark. -/
  | pong (src : U16)
  /-- LOAD (R286). Strait LOAD request, checked against a window and answered with data. -/
  | load (r : StraitReq)
  /-- LOAD_DATA (R292). A load response resolves its tag. -/
  | loadData (r : StraitResp)
  /-- STORE (R286). Strait STORE request, checked and written. -/
  | store (r : StraitReq) (env : WriteEnv)
  /-- STORE_ACK (R292). A store response resolves its tag. -/
  | storeAck (r : StraitResp)
  /-- FETCH_ADD (R283). Strait atomic fetch-add on an 8-byte word. -/
  | fetchAdd (x : FetchAddReq)
  /-- SWAP (R283). Strait atomic swap. -/
  | swap (r : StraitReq)
  /-- CAS (R283). Strait atomic compare and swap. -/
  | cas (r : StraitReq)
  /-- FETCH_AND (R283). Strait atomic fetch-and. -/
  | fetchAnd (r : StraitReq)
  /-- FETCH_OR (R283). Strait atomic fetch-or. -/
  | fetchOr (r : StraitReq)
  /-- FETCH_XOR (R283). Strait atomic fetch-xor. -/
  | fetchXor (r : StraitReq)
  /-- FETCH_MIN (R283). Strait atomic signed fetch-min. -/
  | fetchMin (r : StraitReq)
  /-- FETCH_MAX (R283). Strait atomic signed fetch-max. -/
  | fetchMax (r : StraitReq)
  /-- ATOMIC_DATA (R292). An atomic response resolves its tag with the old value. -/
  | atomicData (r : StraitResp)
  /-- TILE_PUT (R284). A mover unit lands a tile in a granted IN_FLIGHT page after its tag is verified. -/
  | tilePut (u : MoverUnit)
  /-- TILE_GET (R284). A mover unit request, served from an ALLOCATED page. -/
  | tileGet (u : MoverUnit)
  /-- TILE_DATA (R215). A fetched tile lands only if its slot is still WAITING. -/
  | tileData (u : MoverUnit) (unit : Nat)
  /-- BYTE_PUT (R284). A mover unit lands bytes in the message window or a window. -/
  | bytePut (u : MoverUnit)
  /-- UNIT_ACK (R219). A unit acknowledgement commits a unit of a remote write. -/
  | unitAck (u : MoverUnit) (unit : Nat)
  /-- LAST_GASP (R392). Received LAST_GASP marks the sender unreachable and fails transfers with it. -/
  | lastGasp (src : U16) (cause : Byte)
  /-- STRAIT_REQUEST_ISSUE (R292). An issuer sends a memory request once it holds a tag. -/
  | straitRequestIssue (r : StraitHeld)
  /-- FENCE (R290). Issuer fence, which completes when earlier stores and atomics are answered. -/
  | fence (issuer : Issuer)
  /-- FENCE_DEST (R290). Issuer fence for one named device. -/
  | fenceDest (issuer : Issuer) (dest : U16)
  /-- TAG_TIMEOUT (R292). A Strait or gateway tag times out, so the request completes TIMEOUT with the poison word. -/
  | tagTimeout (n : Fin 4096)
  /-- PEER_PING_TIMER (R295). Every 1 ms a marked peer is pinged on each live plane. -/
  | peerPingTimer (d : U16)
  /-- LIVE_MASK_CHANGE (R291). A peer's live mask changes, so issuing to it pauses. -/
  | liveMaskChange (d : U16)
  /-- ISSUE_RESUME (R291). Every outstanding transaction to the peer is resolved, so issuing resumes with the new mask. -/
  | issueResume (d : U16)
  /-- GATEWAY_FLUSH (R299). A gateway write is sent when full, broken, fenced or STRAIT_GW_FLUSH old. -/
  | gatewayFlush (route : Fin 1024)
  /-- REVOCATION_COMPLETE (R287). A revoking window's INFLIGHT reaches zero, so it becomes FREE and the completion is reported. -/
  | revocationComplete (rdma : Bool) (index : Fin 4096)
  /-- STRAIT_WIN_SEL_WRITE (R301). Write of STRAIT_WIN_SEL, which snapshots a window entry. -/
  | straitWinSelWrite (v : U32)
  /-- STRAIT_CLEAR_COUNTS (R301). Write of STRAIT_CTRL CLEAR_COUNTS. -/
  | straitClearCounts
  /-- MP_WRITE (R316). Multipath write packet, checked and placed by offset. -/
  | mpWrite (p : MpPacket)
  /-- MP_SEND (R234). Multipath protocol message packet into the message window. -/
  | mpSend (p : MpPacket)
  /-- MP_READ_REQ (R319). Multipath read request, executed after earlier messages complete. -/
  | mpReadReq (p : MpPacket)
  /-- MP_READ_RESP (R323). Read response data written if the slot is still WAITING. -/
  | mpReadResp (p : MpPacket)
  /-- MP_ATOMIC (R318). Multipath atomic, executed once. -/
  | mpAtomic (p : MpPacket)
  /-- MP_ATOMIC_RESP (R323). Atomic response returning the old value. -/
  | mpAtomicResp (p : MpPacket)
  /-- MP_ACK (R321). Acknowledgements, which give delay samples, update the window and carry grants. -/
  | mpAck (p : MpAckPkt)
  /-- MP_CREDIT (R325). Cumulative credit grant, return and demand packet. -/
  | mpCredit (p : MpCreditPkt)
  /-- MP_HELLO (R309). Connection handshake packet, which moves CONNECTING to READY. -/
  | mpHello (p : MpHelloPkt)
  /-- SEND (R304). Standard RoCE v2 SEND on an RC connection. -/
  | send (p : RocePkt)
  /-- RDMA_WRITE (R304). Standard RoCE v2 RDMA WRITE. -/
  | rdmaWrite (p : RocePkt)
  /-- RDMA_READ (R304). Standard RoCE v2 RDMA READ. -/
  | rdmaRead (p : RocePkt)
  /-- CMP_SWAP (R304). Standard RoCE v2 compare-and-swap atomic. -/
  | cmpSwap (p : RocePkt)
  /-- MP_HELLO_TIMER (R309). Every 10 ms a connecting connection sends MP_HELLO. -/
  | mpHelloTimer (conn : Fin 8192)
  /-- CONNECT_TIMEOUT (R309). No matching MP_HELLO within 1 s, so CONNECT completes TIMEOUT. -/
  | connectTimeout (conn : Fin 8192)
  /-- RETRANSMIT_TIMEOUT (R322). NET_RTO passes without an acknowledgement, so the packet is retransmitted on another path. -/
  | retransmitTimeout (conn : Fin 8192) (msn index : Nat)
  /-- CLOSING_RESOLVED (R309). A closing connection's last message resolves, so CLOSE completes. -/
  | closingResolved (conn : Fin 8192)
  /-- HELD_PACKET_RELEASE (R319). An overlapping write held for an earlier message is released for its check. -/
  | heldPacketRelease (conn : Fin 8192)
  /-- CREDIT_GRANT_TICK (R327). Every 1 µs the receiver shares the state-class credit pool. -/
  | creditGrantTick
  /-- CREDIT_RETURN (R325). A sender that held credits unused for 100 µs returns them. -/
  | creditReturn (conn : Fin 8192)
  /-- CREDIT_RESYNC (R326). After 4 × NET_RTO of disagreement the sender adopts the receiver's totals. -/
  | creditResync (conn : Fin 8192)
  /-- PTP_MESSAGE (R417). A PTP frame is timestamped and processed by the slave clock. -/
  | ptpMessage (port : Fin 16) (offset : Int)
  /-- PFC_FRAME (R303). A priority flow control frame pauses a priority. -/
  | pfcFrame (port : Fin 16) (classes : Byte) (pause : Byte)
  /-- ETHERNET_LINK_CHANGE (R303). An Ethernet port trains up or goes down. -/
  | ethernetLinkChange (port : Fin 16) (up : Option Bool)
  /-- CBS_SETTING_APPLY (R333). A written shaper setting takes effect when the port's current frame ends. -/
  | cbsSettingApply (port : Fin 16) (prio : Fin 8)
  /-- POLICER_WRITE (R333). A policer setting takes effect at once and its bucket is set full. -/
  | policerWrite (field : Fin 3) (v : U32)
  /-- SHAPE_CONN_WINDOW_WRITE (R330). The host sets a connection's window in HOST_ASSIST mode. -/
  | shapeConnWindowWrite (x : PortWrite)
  /-- SHAPE_CLEAR_DROPS (R336). Write of SHAPE_CTRL CLEAR_DROPS. -/
  | shapeClearDrops
  /-- NET_WIN_SEL_WRITE (R334). Write of NET_WIN_SEL, which snapshots an RDMA window. -/
  | netWinSelWrite (v : U32)
  /-- NET_CLEAR_COUNTS (R334). Write of NET_CTRL CLEAR_COUNTS. -/
  | netClearCounts
  /-- BATCH_BEGIN (R352). The next admitted batch begins and queues its DIST_TABLE. -/
  | batchBegin
  /-- BATCH_TABLES_DONE (R352). Distance tables are complete and the coarse pass starts. -/
  | batchTablesDone
  /-- COARSE_PASS_DONE (R352). The coarse pass picks the probed lists and the list scan starts. -/
  | coarsePassDone
  /-- LIST_SCAN_DONE (R353). The list scan ends, and widening rounds or the merge follow. -/
  | listScanDone
  /-- WIDEN_ROUND_DONE (R359). A widening round ends and further rounds or the merge follow. -/
  | widenRoundDone
  /-- COMPACTION_DONE (R358). Compaction writes the directory entry and clears its flag. -/
  | compactionDone (index : Fin 16) (list : Nat)
  /-- OLD_SEGMENTS_FREED (R358). Batches admitted before a compaction complete, so its old segments are freed. -/
  | oldSegmentsFreed (index : Fin 16)
  /-- CHAM_COMPACT_CMD (R358). Write that orders compaction of a list. -/
  | chamCompactCmd (v : U32)
  /-- CHAM_SNAP_POINT_HI_WRITE (R357). Write of the HOST_ASSIST compaction point, which never decreases. -/
  | chamSnapPointHiWrite (x : PortWrite)
  /-- CHAM_HOLD (R363). Write of CHAM_CTRL HOLD, which stops further batches from beginning. -/
  | chamHold (on : Bool)
  /-- CHAM_CLEAR_COUNTS (R363). Write of CHAM_CTRL CLEAR_COUNTS. -/
  | chamClearCounts
  /-- PERIOD_BOUNDARY (R372). A period boundary refills the token and admission balances. -/
  | periodBoundary
  /-- TENANT_TOK_BALANCE_WRITE (R373). A token balance write, applied at the next step boundary. -/
  | tenantTokBalanceWrite (v : U32)
  /-- TENANT_ADM_BALANCE_WRITE (R373). An admission balance write, applied at once. -/
  | tenantAdmBalanceWrite (v : U32)
  /-- TENANT_CFG_WRITE (R370). Write of a tenant's share, partition or enable. -/
  | tenantCfgWrite (v : U32)
  /-- TENANT_PERIOD_WRITE (R372). New TENANT_PERIOD, which takes effect at the next boundary. -/
  | tenantPeriodWrite (v : U32)
  /-- TENANT_SEL_WRITE (R378). Write of TENANT_SEL, which snapshots a counter record. -/
  | tenantSelWrite (v : U32)
  /-- ACCOUNTING_INTERVAL_CLOSE (R374). An interval closes at step close or after 1 ms, and counters and energy are added. -/
  | accountingIntervalClose
  /-- FAULT_RING_TAIL_WRITE (R384). Software consumes fault records and ALERT_N may rise. -/
  | faultRingTailWrite (v : U32)
  /-- INJECT (R408). Write of FAULT_CTRL INJECT, which writes a TEST record. -/
  | inject
  /-- CLEAR_LOST (R407). Write of FAULT_CTRL CLEAR_LOST. -/
  | clearLost
  /-- FAULT_TENANT_FENCE_WRITE (R387). PF0 fences or lifts the fence of a tenant. -/
  | faultTenantFenceWrite (v : U32)
  /-- RECOVERY_START (R405). A cause of R403 starts a recovery with a new epoch. -/
  | recoveryStart
  /-- RECOVERY_STEP_DONE (R404). A recovery step completes and the next runs, or the sequencer returns to IDLE. -/
  | recoveryStepDone
  /-- EPOCH_PULSE (R414). A 1 kHz pulse on SB2 is judged and corrects the Tide. -/
  | epochPulse (tide : Nat)
  /-- PULSE_ABSENCE (R414). No accepted pulse for 2 ms, so the time state enters HOLDOVER. -/
  | pulseAbsence
  /-- HOLDOVER_EXPIRY (R414). Holdover lasts OBS_HOLDOVER_MAX, so the time state enters UNLOCKED. -/
  | holdoverExpiry
  /-- TIDE_NEXT_WRITE (R415). Write of OBS_TIDE_NEXT_HI, which arms the Tide value for the next pulse. -/
  | tideNextWrite (hi : U32)
  /-- ALARM_CODE_SEND (R417). The module drives the 32-bit alarm code on SB2 each millisecond. -/
  | alarmCodeSend
  /-- SNAP (R411). Write of OBS_CTRL SNAP, which copies the counters to the snapshot bank. -/
  | snap
  /-- TRACE_RECORD_WRITE (R420). The trace writer writes an offered record, or loses it. -/
  | traceRecordWrite (overRate : Bool)
  /-- OBS_TRACE_TRIGGER (R425). Write that fires a software trigger. -/
  | obsTraceTrigger (port : Fin 2)
  /-- OBS_WIN_UNLOCK (R431). PF0 releases a trace window. -/
  | obsWinUnlock (win : Fin 4)
  /-- MARK (R422). Write of MARK, which offers a MARK record. -/
  | mark
  /-- TRACE_RESET (R431). Write of RESET while EN is 0, which zeroes the reserve and indices. -/
  | traceReset
  /-- OBS_TRACE_RPOS_WRITE (R429). Software frees STOP-mode positions. -/
  | obsTraceRposWrite (v : U32)
  /-- MONITOR_SAMPLE (R434). Every 1 ms each islet samples temperature, droop and margin against thresholds. -/
  | monitorSample (islet : Fin 112) (temp : Int) (margin : Fin 1024)
  /-- THERMAL_CEILING (R536). An islet at 105 °C for 10 ms sets its die's classes to 500 MHz. -/
  | thermalCeiling (islet : Fin 112)
  /-- THERMAL_TRIP (R536). An islet at 110 °C for 1 ms raises a FATAL fault. -/
  | thermalTrip (islet : Fin 112)
  /-- DROOP_STRETCH (R527). A supply droop lengthens an islet's clock cycle. -/
  | droopStretch (islet : Fin 112) (cycles : Nat)
  /-- HISTOGRAM_MINUTE (R436). Each minute the die's hottest-islet bin gains one minute. -/
  | histogramMinute (die : Fin 5)
  /-- SUMMARY (R444). Each hour a SUMMARY record is written per die. -/
  | summary (die : Fin 5)
  /-- DAY_END (R437). A day boundary clears CE_DAY in every row entry. -/
  | dayEnd
  /-- EYE_MEASURE (R439). Each lane measures its eye every HEALTH_EYE_PERIOD. -/
  | eyeMeasure (lane : Fin 192) (h v : U16) (fec : U64)
  /-- EYE_NOW (R439). Write of EYE_NOW, which measures every lane at once. -/
  | eyeNow (eyes : List (U16 × U16 × U64))
  /-- HEALTH_CLEAR_DROPPED (R448). Write of HEALTH_CTRL CLEAR_DROPPED. -/
  | healthClearDropped
  /-- HEALTH_ROW_SEL_WRITE (R448). Snapshot of a row history entry. -/
  | healthRowSelWrite (entry : Fin 4096)
  /-- HEALTH_LOG_SEL_WRITE (R447). PF0 snapshot of a life-log record. -/
  | healthLogSelWrite (pos : Fin 131072)
  /-- LIFE_LOG_WRITE (R446). The log writer programs a buffered record into flash. -/
  | lifeLogWrite
  /-- SECTOR_ERASE_DONE (R443). A rolling sector erase completes. -/
  | sectorEraseDone
  /-- DRAIN_COMPLETE (R461). A full load's drain finishes and the new bitstream is loaded. -/
  | drainComplete (inlineFail : BitVec 8)
  /-- DRAIN_TIMEOUT (R460). The drain is not done in STRUCT_DRAIN_MAX, so the load completes TIMEOUT. -/
  | drainTimeout
  /-- ABORT_DRAIN (R460). Write that ends a drain, so the old bitstream keeps serving. -/
  | abortDrain
  /-- BOOT_SLOT_WRITE (R462). Write of STRUCT_CTRL BOOT_SLOT, which is written to flash. -/
  | bootSlotWrite (slot : Fin 2)
  /-- FW_STAGING_DONE (R492). A HW-mode staging finishes its check, and an automatic activation may start. -/
  | fwStagingDone
  /-- STANDBY_READY (R497). The standby set reports ready and the handover enters QUIESCE. -/
  | standbyReady
  /-- PREPARE_TIMEOUT (R497). The standby set is not ready within 5 s, so the handover is abandoned. -/
  | prepareTimeout
  /-- QUIESCE_READY (R497). No firmware command or recovery runs, so state is written and the pause begins. -/
  | quiesceReady
  /-- QUIESCE_TIMEOUT (R497). FW_QUIESCE_MAX elapses, so the handover is abandoned. -/
  | quiesceTimeout
  /-- STATE_READ (R497). The new set has read the state, so ownership moves to it. -/
  | stateRead
  /-- PAUSE_TIMEOUT (R497). FW_PAUSE_MAX elapses, so the old set resumes. -/
  | pauseTimeout
  /-- NEW_SET_RUN (R497). The new set declares RUN, the pause ends and PENDING is set. -/
  | newSetRun
  /-- CONFIRM_ELAPSED (R497). FW_CONFIRM passes with no FATAL, so ACTIVE names the new slot. -/
  | confirmElapsed
  /-- FW_ABORT (R497). Write of FW_CTRL ABORT, which ends staging or abandons a handover. -/
  | fwAbort
  /-- FW_SVN_ADVANCE (R500). PF0 raises the security version fuse counter. -/
  | fwSvnAdvance (v : U32)
  /-- SELFTEST (R516). Write of SEC_CTRL SELFTEST, which runs the known-answer tests. -/
  | selftest (pass : BitVec 10) (inlineFail : BitVec 8)
  /-- ENROLL (R510). Write of SEC_CTRL ENROLL, which processes an enrolment or revocation record. -/
  | enroll (sigs : Bool)
  /-- BLOW_DEBUG_LOCK (R514). SEC_FUSE_CMD blows the DEBUG_LOCK fuse. -/
  | blowDebugLock (key : U16)
  /-- BLOW_MLDSA_REQ (R513). SEC_FUSE_CMD blows MLDSA_REQ when everything carries ML-DSA. -/
  | blowMldsaReq (key : U16)
  /-- GET_VERSION (R519). SPDM GET_VERSION request. -/
  | getVersion (t : Spdm) (q : SpdmReq)
  /-- GET_CAPABILITIES (R519). SPDM GET_CAPABILITIES request. -/
  | getCapabilities (t : Spdm) (q : SpdmReq)
  /-- NEGOTIATE_ALGORITHMS (R519). SPDM NEGOTIATE_ALGORITHMS request. -/
  | negotiateAlgorithms (t : Spdm) (q : SpdmReq)
  /-- GET_DIGESTS (R519). SPDM GET_DIGESTS request. -/
  | getDigests (t : Spdm) (q : SpdmReq)
  /-- GET_CERTIFICATE (R519). SPDM GET_CERTIFICATE request on slot 0. -/
  | getCertificate (t : Spdm) (q : SpdmReq)
  /-- CHALLENGE (R519). SPDM CHALLENGE request, signed by the L1 alias key. -/
  | challenge (t : Spdm) (q : SpdmReq)
  /-- GET_MEASUREMENTS (R520). SPDM GET_MEASUREMENTS, which always includes block 4. -/
  | getMeasurements (t : Spdm) (q : SpdmReq)
  /-- KEY_EXCHANGE (R519). SPDM KEY_EXCHANGE that opens a session. -/
  | keyExchange (t : Spdm) (q : SpdmReq)
  /-- FINISH (R519). SPDM FINISH request. -/
  | finish (t : Spdm) (q : SpdmReq)
  /-- HEARTBEAT (R519). SPDM HEARTBEAT request. -/
  | heartbeat (t : Spdm) (q : SpdmReq)
  /-- KEY_UPDATE (R519). SPDM KEY_UPDATE request. -/
  | keyUpdate (t : Spdm) (q : SpdmReq)
  /-- END_SESSION (R519). SPDM END_SESSION request. -/
  | endSession (t : Spdm) (q : SpdmReq)
  /-- VENDOR_DEFINED_REQUEST (R519). SPDM vendor request carrying IDE_KM on DOE. -/
  | vendorDefinedRequest (t : Spdm) (q : SpdmReq)
  /-- POWER_ON (R529). Power is applied, islets are released in order and a cold start runs. -/
  | powerOn (aGood bGood : Bool) (straps : Byte) (env : BootEnv)
  /-- RESET_N_RISE (R528). RESET_N rises, straps are sampled and a cold or warm reset runs by the low duration. -/
  | resetNRise (lowNs : Nat) (straps : Byte) (env : BootEnv)
  /-- RESET_N_FALL (R549). RESET_N falls, SB pins are released and SBRUN drops. -/
  | resetNFall
  /-- PWR_RESET_COLD (R528). PF0 writes PWR_RESET COLD with its key. -/
  | pwrResetCold (key : U16) (env : BootEnv)
  /-- PWR_RESET_WARM (R528). PF0 writes PWR_RESET WARM with its key. -/
  | pwrResetWarm (key : U16) (env : BootEnv)
  /-- STACK_TRAINING_DONE (R530). An HBM stack finishes training and its regions are written, or it fails. -/
  | stackTrainingDone (stack : Fin 20) (ok : Bool) (phase : Nat)
  /-- SUPPLY_NOT_GOOD (R531). A main supply stays out of range for 1 µs, which leads to switch-over, degradation or hold-up. -/
  | supplyNotGood (b : Bool) (volts : Nat)
  /-- SHUTDOWN_COMPLETE (R531). The hold-up shutdown ends and the supply state becomes OFF. -/
  | shutdownComplete
  /-- SUPPLY_RETURN (R531). VIN_A is good for PWR_RETURN_TIME, so the load returns to it. -/
  | supplyReturn (b : Bool) (volts : Nat)
  /-- SUPPLY_GOOD_IN_OFF (R531). A main supply good for 100 ms in OFF starts a cold reset. -/
  | supplyGoodInOff (b : Bool) (volts : Nat) (env : BootEnv)
  /-- AUX_SUPPLY_LOSS (R532). Loss of an AUX supply writes a SUPPLY record. -/
  | auxSupplyLoss (b : Bool) (volts : Nat)
  /-- CAP_LEVEL_CHANGE (R534). A level on SB[7:6] stable for 10 µs changes the cap in force. -/
  | capLevelChange (level : Fin 4)
  /-- CAP_CONTROL_TICK (R535). Every 1 ms the mean input is compared with the cap and class limits are moved. -/
  | capControlTick
  /-- ENERGY_METER_SAMPLE (R533). Every 10 µs the input meter adds to PWR_ENERGY. -/
  | energyMeterSample (watts : Fin 65536)
  /-- PWR_CAP_WRITE (R534). A software cap write takes effect at once. -/
  | pwrCapWrite (v : U32)
  /-- PREFER_B (R531). Write of PWR_CTRL PREFER_B, which moves the load to VIN_B while it is good. -/
  | preferB (on : Bool)
  /-- PWR_CLEAR_COUNTS (R537). Write of PWR_CTRL CLEAR_COUNTS. -/
  | pwrClearCounts
  /-- ENTDAA (R552). I3C dynamic address assignment of the device. -/
  | entdaa (addr : BitVec 7)
  /-- READ_STATUS (R552). I3C command that returns the module status. -/
  | readStatus (data : List Byte)
  /-- SET_CAP (R552). I3C command that sets the rack-manager cap. -/
  | setCap (data : List Byte)
  /-- SET_TIDE_NEXT (R552). I3C command that writes TIDE_NEXT. -/
  | setTideNext (data : List Byte)
  /-- LOG_READ (R552). I3C command that returns a life-log record. -/
  | logRead (data : List Byte)
  /-- LOG_NEXT (R552). I3C command that returns the next log SEQ and its position. -/
  | logNext (data : List Byte)
  /-- DEV_DEVICE_ID_WRITE (R558). PF0 sets the global device ID when nothing remote is open. -/
  | devDeviceIdWrite (v : U32)
  /-- PROFILE_SELECT (R34). Write of a block's profile register, which returns it to BASIC level. -/
  | profileSelect (addr : Nat) (v : U32)
  /-- EXPERT_FIELD_WRITE (R34). Write of an expert field, which moves the block to EXPERT level. -/
  | expertFieldWrite (addr : Nat) (v : U32)
  /-- FW_SEL_WRITE (R501). Write of FW_SEL, which snapshots a slot's image header. -/
  | fwSelWrite (v : U32)
  /-- REGISTER_WRITE (R560). Any other register write, applied in order with the range check. -/
  | registerWrite (port : Fin 2) (fn : Fin 65) (addr size : Nat) (v : U64) (env : WriteEnv)
  /-- STANDBY_SET_FAULT (R497). The standby control set faults during PREPARE or PAUSE, so it is reset, the old set keeps or resumes running and HANDOVER_ABANDONED is written. -/
  | standbySetFault
  /-- CONTINUOUS_ENTROPY_TEST (R516). A continuous entropy health test fails on an entropy sample, and the security islet enters its error state with every partition key unusable. -/
  | continuousEntropyTest
  /-- AUX_SUPPLY_RETURN (R532). An AUX supply returns after both were lost, so the life log is written again and I3C answers again. -/
  | auxSupplyReturn (b : Bool)
  deriving DecidableEq, Repr

end Sys2Proof
end

