-- ==== Sys2Proof/Config.lean ====
section
/-! DEFINITION. The free values: what the spec leaves open and the device nevertheless computes with. -/

namespace Sys2Proof

/-- The value drawn at the `n`-th use of a value the spec leaves open. It has no body: nothing is known of it.
DESIGN CHOICE, log entry 2. -/
opaque Config.freeValue (n : Nat) : BitVec 64

/-- The `i`-th choice of which values are added next, in sum `e` of the operation that drew `op`: the device may form the sums
of a dot product in any order and grouping (R108). It has no body. DESIGN CHOICE, log entry 2. -/
opaque Config.freeOrder (op e i : Nat) : Nat

/-- Which of the values within 2 ulp of the FP32 result a function unit gives for an operand (R111, R140, R166). It has no
body. DESIGN CHOICE, log entry 2. -/
opaque Config.freeUlp (fn operand : Nat) : Nat

/-- SHA-384 of bytes (R504, R508, R520). It has no body. DESIGN CHOICE, log entry 9. -/
opaque Config.sha384 (bytes : List Byte) : BitVec 384

/-- A secret derived by HKDF from a secret and what names its use (R503). It has no body. DESIGN CHOICE, log entry 90. -/
opaque Config.hkdf (secret : BitVec 384) (info : List Byte) : BitVec 384

/-- The image key of a KIND, by HKDF of IMAGE_ROOT (R503). It has no body. DESIGN CHOICE, log entry 90. -/
opaque Config.imageKey (root : BitVec 256) (kind : Nat) : BitVec 256

/-- The P-384 public key, 97 B uncompressed, of a private key. It has no body. DESIGN CHOICE, log entry 90. -/
opaque Config.publicKey (secret : BitVec 384) : List Byte

/-- The certificate of a public key under a signer's private key (R504). It has no body. DESIGN CHOICE, log entry 90. -/
opaque Config.certificate (signer : BitVec 384) (subject : List Byte) : List Byte

/-- Novuo's root certificate (R519). It has no body. DESIGN CHOICE, log entry 90. -/
opaque Config.rootCert : List Byte

/-- The key that a wrapped key of 192 bytes holds for an import key, by ECDH, HKDF and AES Key Wrap; none where the unwrap fails
its integrity check (R506, R507). It has no body. DESIGN CHOICE, log entry 90. -/
opaque Config.unwrapKey (importKey : BitVec 384) (wrapped : List Byte) : Option (BitVec 512)

/-- AES-XTS-256 of a 64-byte data unit under a key and a tweak (R194). It has no body. DESIGN CHOICE, log entry 90. -/
opaque Config.aesXts (key : BitVec 512) (tweak : Nat) (unit : List Byte) : List Byte

/-- The check bits, 32 or 16, that the symbol code gives a unit (R196). It has no body. DESIGN CHOICE, log entry 90. -/
opaque Config.symbolCode (width : Nat) (unit : List Byte) : BitVec 32

end Sys2Proof
end

