-- ==== Sys2Proof/Machine/Regs.lean ====
section
/-! DEFINITION. The register map of BAR0 (R555, R557 and every block's register table): the address of each register,
what each bit does on a write (R11), and the value each register reads as after a reset where its table states one. -/

namespace Sys2Proof.Machine

/-- One register, or one row of like registers, as its block's table gives it. -/
structure RegInfo where
  /-- BAR0 address of the register, or of the first of a row of like registers. -/
  addr : Nat
  /-- How many registers the row has. -/
  count : Nat
  /-- Distance between two registers of the row. -/
  stride : Nat
  /-- The value after reset; 0 where the table gives none. -/
  reset : U32
  /-- Bits of access type RW or RWS (R11). -/
  rw : U32
  /-- Bits of access type W1C. -/
  w1c : U32
  /-- Bits of access type WO or W1S: a write acts, and they read as zero. -/
  wo : U32
  /-- Bits of access type RWL: ignored once a bitstream is loaded. -/
  rwl : U32
  deriving DecidableEq, Repr

namespace Reg

/-- 23, R557, offset 0x100. -/
abbrev DEV_ORDER : Nat := 0x100
/-- 23, R557, offset 0x104. -/
abbrev DEV_STRAPS : Nat := 0x104
/-- 23, R557, offset 0x108. -/
abbrev DEV_DEVICE_ID : Nat := 0x108
/-- 23, R557, offset 0x10C. -/
abbrev DEV_STATUS : Nat := 0x10C
/-- 17, R462, offset 0x100. -/
abbrev STRUCT_CTRL : Nat := 0x100100
/-- 17, R462, offset 0x104. -/
abbrev STRUCT_STATUS : Nat := 0x100104
/-- 17, R462, offset 0x108. -/
abbrev STRUCT_ROLE : Nat := 0x100108
/-- 17, R462, offset 0x10C. -/
abbrev STRUCT_FUNC_MODES : Nat := 0x10010C
/-- 17, R462, offset 0x110. -/
abbrev STRUCT_FUNC_PORTS : Nat := 0x100110
/-- 17, R462, offset 0x114. -/
abbrev STRUCT_LG_0 : Nat := 0x100114
/-- 17, R462, offset 0x118. -/
abbrev STRUCT_LG_1 : Nat := 0x100118
/-- 17, R462, offset 0x11C. -/
abbrev STRUCT_LG_2 : Nat := 0x10011C
/-- 17, R462, offset 0x120. -/
abbrev STRUCT_BUILD_ID_LO : Nat := 0x100120
/-- 17, R462, offset 0x124. -/
abbrev STRUCT_BUILD_ID_HI : Nat := 0x100124
/-- 17, R462, offset 0x128. -/
abbrev STRUCT_CHECK_LO : Nat := 0x100128
/-- 17, R462, offset 0x12C. -/
abbrev STRUCT_CHECK_HI : Nat := 0x10012C
/-- 17, R462, offset 0x130. -/
abbrev STRUCT_LEVEL : Nat := 0x100130
/-- 17, R462, offset 0x134. -/
abbrev STRUCT_LOADS : Nat := 0x100134
/-- 17, R462, offset 0x138. -/
abbrev STRUCT_DRAIN_MAX : Nat := 0x100138
/-- 17, R462, offset 0x13C. -/
abbrev STRUCT_DRAIN_LEFT : Nat := 0x10013C
/-- 03, R91, offset 0x100. -/
abbrev HERD_STEP_CTRL : Nat := 0x200100
/-- 03, R91, offset 0x104. -/
abbrev HERD_STEP_STATUS : Nat := 0x200104
/-- 03, R91, offset 0x108. -/
abbrev HERD_PROFILE : Nat := 0x200108
/-- 03, R91, offset 0x10C. -/
abbrev HERD_STEP_CAP : Nat := 0x20010C
/-- 03, R91, offset 0x110. -/
abbrev HERD_CHUNK_MAX : Nat := 0x200110
/-- 03, R91, offset 0x114. -/
abbrev HERD_CHUNK_MIN : Nat := 0x200114
/-- 03, R91, offset 0x118. -/
abbrev HERD_URGENT_WINDOW : Nat := 0x200118
/-- 03, R91, offset 0x11C. -/
abbrev HERD_PREEMPT_MAX : Nat := 0x20011C
/-- 03, R91, offset 0x120. -/
abbrev HERD_POISON_RETRY : Nat := 0x200120
/-- 03, R91, offset 0x124. -/
abbrev HERD_SUSPECT_WEIGHT : Nat := 0x200124
/-- 03, R91, offset 0x128. -/
abbrev HERD_STEP_NUM_LO : Nat := 0x200128
/-- 03, R91, offset 0x12C. -/
abbrev HERD_STEP_NUM_HI : Nat := 0x20012C
/-- 03, R91, offset 0x130. -/
abbrev HERD_BUILD_TIME : Nat := 0x200130
/-- 03, R91, offset 0x134. -/
abbrev HERD_BUILD_MAX : Nat := 0x200134
/-- 03, R91, offset 0x138. -/
abbrev HERD_ACTIVE : Nat := 0x200138
/-- 03, R91, offset 0x13C. -/
abbrev HERD_LAST_ENTRIES : Nat := 0x20013C
/-- 03, R91, offset 0x140. -/
abbrev HERD_LAST_TOKENS : Nat := 0x200140
/-- 03, R91, offset 0x144. -/
abbrev HERD_DEFERRED : Nat := 0x200144
/-- 03, R91, offset 0x148. -/
abbrev HERD_WL_BASE_LO : Nat := 0x200148
/-- 03, R91, offset 0x14C. -/
abbrev HERD_WL_BASE_HI : Nat := 0x20014C
/-- 03, R91, offset 0x150. -/
abbrev HERD_PEER_SEL : Nat := 0x200150
/-- 03, R91, offset 0x154. -/
abbrev HERD_PEER_WEIGHT : Nat := 0x200154
/-- 03, R91, offset 0x158. -/
abbrev HERD_ENTRY_SEL : Nat := 0x200158
/-- 03, R91, offset 0x180–0x1FF. -/
abbrev HERD_ENTRY_DATA : Nat := 0x200180
/-- 04, R125, offset 0x100. -/
abbrev ELAND_CTRL : Nat := 0x400100
/-- 04, R125, offset 0x104. -/
abbrev ELAND_STATUS : Nat := 0x400104
/-- 04, R125, offset 0x108. -/
abbrev ELAND_PROFILE : Nat := 0x400108
/-- 04, R125, offset 0x10C. -/
abbrev ELAND_ABFT_TOL : Nat := 0x40010C
/-- 04, R125, offset 0x110. -/
abbrev ELAND_STEAL_MIN : Nat := 0x400110
/-- 04, R125, offset 0x114. -/
abbrev ELAND_FENCED : Nat := 0x400114
/-- 04, R125, offset 0x118. -/
abbrev ELAND_ACTIVE : Nat := 0x400118
/-- 04, R125, offset 0x11C. -/
abbrev ELAND_OPS_LO : Nat := 0x40011C
/-- 04, R125, offset 0x120. -/
abbrev ELAND_OPS_HI : Nat := 0x400120
/-- 04, R125, offset 0x124. -/
abbrev ELAND_CUR_SERIAL : Nat := 0x400124
/-- 04, R125, offset 0x128. -/
abbrev ELAND_QUEUE_HWM : Nat := 0x400128
/-- 04, R125, offset 0x12C. -/
abbrev ELAND_REPLAYS : Nat := 0x40012C
/-- 04, R125, offset 0x130. -/
abbrev ELAND_POISON_TILES : Nat := 0x400130
/-- 04, R125, offset n x 0x4_0000 + 0x200. -/
abbrev ELAND_Q_TILES_LO : Nat := 0x400200
/-- 04, R125, offset n x 0x4_0000 + 0x204. -/
abbrev ELAND_Q_TILES_HI : Nat := 0x400204
/-- 04, R125, offset n x 0x4_0000 + 0x208. -/
abbrev ELAND_Q_STOLEN : Nat := 0x400208
/-- 04, R125, offset n x 0x4_0000 + 0x20C. -/
abbrev ELAND_Q_CLOCK : Nat := 0x40020C
/-- 04, R125, offset n x 0x4_0000 + 0x210–0x21C. -/
abbrev ELAND_Q_SA_ABFT : Nat := 0x400210
/-- 04, R125, offset n x 0x4_0000 + 0x220. -/
abbrev ELAND_Q_BUSY_LO : Nat := 0x400220
/-- 04, R125, offset n x 0x4_0000 + 0x224. -/
abbrev ELAND_Q_BUSY_HI : Nat := 0x400224
/-- 05, R152, offset 0x100. -/
abbrev SPRING_CTRL : Nat := 0x600100
/-- 05, R152, offset 0x104. -/
abbrev SPRING_STATUS : Nat := 0x600104
/-- 05, R152, offset 0x108. -/
abbrev SPRING_PROFILE : Nat := 0x600108
/-- 05, R152, offset 0x10C. -/
abbrev SPRING_ROUTE_I : Nat := 0x60010C
/-- 05, R152, offset 0x110. -/
abbrev SPRING_CHECK_RATE : Nat := 0x600110
/-- 05, R152, offset 0x114. -/
abbrev SPRING_FENCE_STRIKES : Nat := 0x600114
/-- 05, R152, offset 0x118. -/
abbrev SPRING_REMOTE_WAIT : Nat := 0x600118
/-- 05, R152, offset 0x11C. -/
abbrev SPRING_UNITS_LO : Nat := 0x60011C
/-- 05, R152, offset 0x120. -/
abbrev SPRING_UNITS_HI : Nat := 0x600120
/-- 05, R152, offset 0x124. -/
abbrev SPRING_CHECKED : Nat := 0x600124
/-- 05, R152, offset 0x128. -/
abbrev SPRING_MISMATCH : Nat := 0x600128
/-- 05, R152, offset 0x12C. -/
abbrev SPRING_ROUTED : Nat := 0x60012C
/-- 05, R152, offset 0x130. -/
abbrev SPRING_POISON_UNITS : Nat := 0x600130
/-- 05, R152, offset 0x134. -/
abbrev SPRING_LATE : Nat := 0x600134
/-- 05, R152, offset 0x138. -/
abbrev SPRING_ACTIVE : Nat := 0x600138
/-- 05, R152, offset 0x13C. -/
abbrev SPRING_LANE_SEL : Nat := 0x60013C
/-- 05, R152, offset 0x140. -/
abbrev SPRING_LANE_INFO : Nat := 0x600140
/-- 05, R152, offset 0x200–0x24C. -/
abbrev SPRING_FENCED : Nat := 0x600200
/-- 05, R152, offset 0x300 + 0x10 x q. -/
abbrev SPRING_Q_MERGED_LO : Nat := 0x600300
/-- 05, R152, offset 0x304 + 0x10 x q. -/
abbrev SPRING_Q_MERGED_HI : Nat := 0x600304
/-- 05, R152, offset 0x308 + 0x10 x q. -/
abbrev SPRING_Q_BUSY : Nat := 0x600308
/-- 05, R152, offset 0x30C + 0x10 x q. -/
abbrev SPRING_Q_CLOCK : Nat := 0x60030C
/-- 02, R66, offset 0x100. -/
abbrev TIER_POOL_TOTAL : Nat := 0x800100
/-- 02, R66, offset 0x104. -/
abbrev TIER_POOL_FREE : Nat := 0x800104
/-- 02, R66, offset 0x108. -/
abbrev TIER_POOL_ALLOC : Nat := 0x800108
/-- 02, R66, offset 0x10C. -/
abbrev TIER_POOL_INFLIGHT : Nat := 0x80010C
/-- 02, R66, offset 0x110. -/
abbrev TIER_POOL_QUAR : Nat := 0x800110
/-- 02, R66, offset 0x114. -/
abbrev TIER_POOL_LOW_WM : Nat := 0x800114
/-- 02, R66, offset 0x118. -/
abbrev TIER_POOL_AUDIT : Nat := 0x800118
/-- 07, R203, offset 0x140. -/
abbrev TIER_MAP_STATUS : Nat := 0x800140
/-- 07, R203, offset 0x144. -/
abbrev TIER_PROFILE : Nat := 0x800144
/-- 07, R203, offset 0x148. -/
abbrev TIER_SCRUB_PERIOD : Nat := 0x800148
/-- 07, R203, offset 0x14C. -/
abbrev TIER_TS_SCRUB_PERIOD : Nat := 0x80014C
/-- 07, R203, offset 0x150. -/
abbrev TIER_CE_THRESH : Nat := 0x800150
/-- 07, R203, offset 0x154. -/
abbrev TIER_CE_TOTAL : Nat := 0x800154
/-- 07, R203, offset 0x158. -/
abbrev TIER_UE_TOTAL : Nat := 0x800158
/-- 07, R203, offset 0x15C. -/
abbrev TIER_REPAIRS : Nat := 0x80015C
/-- 07, R203, offset 0x160. -/
abbrev TIER_POISON_ADDR_LO : Nat := 0x800160
/-- 07, R203, offset 0x164. -/
abbrev TIER_POISON_ADDR_HI : Nat := 0x800164
/-- 07, R203, offset 0x168. -/
abbrev TIER_SC_HITS : Nat := 0x800168
/-- 07, R203, offset 0x16C. -/
abbrev TIER_SC_MISSES : Nat := 0x80016C
/-- 07, R203, offset 0x180 + 4k. -/
abbrev TIER_PART : Nat := 0x800180
/-- 07, R203, offset 0x1A0 + 4k. -/
abbrev TIER_SC_WAYS : Nat := 0x8001A0
/-- 07, R203, offset 0x1C0. -/
abbrev TIER_SC_WAYS_DEV : Nat := 0x8001C0
/-- 07, R203, offset 0x200. -/
abbrev TIER_CH_SEL : Nat := 0x800200
/-- 07, R203, offset 0x204. -/
abbrev TIER_CH_INFO : Nat := 0x800204
/-- 07, R203, offset 0x210. -/
abbrev TIER_REGION_SEL : Nat := 0x800210
/-- 07, R203, offset 0x240–0x27F. -/
abbrev TIER_REGION_DATA : Nat := 0x800240
/-- 08, R230, offset 0x100. -/
abbrev IBEX_CTRL : Nat := 0xA00100
/-- 08, R230, offset 0x104. -/
abbrev IBEX_STATUS : Nat := 0xA00104
/-- 08, R230, offset 0x108. -/
abbrev IBEX_PROFILE : Nat := 0xA00108
/-- 08, R230, offset 0x10C. -/
abbrev IBEX_TIMEOUT : Nat := 0xA0010C
/-- 08, R230, offset 0x110. -/
abbrev IBEX_TAG_RETRY : Nat := 0xA00110
/-- 08, R230, offset 0x114. -/
abbrev IBEX_PREFETCH_DEPTH : Nat := 0xA00114
/-- 08, R230, offset 0x118. -/
abbrev IBEX_SLOTS_FREE : Nat := 0xA00118
/-- 08, R230, offset 0x11C. -/
abbrev IBEX_SLOTS_BUSY : Nat := 0xA0011C
/-- 08, R230, offset 0x120. -/
abbrev IBEX_SLOTS_HWM : Nat := 0xA00120
/-- 08, R230, offset 0x124. -/
abbrev IBEX_DESC_LO : Nat := 0xA00124
/-- 08, R230, offset 0x128. -/
abbrev IBEX_DESC_HI : Nat := 0xA00128
/-- 08, R230, offset 0x12C. -/
abbrev IBEX_BYTES_LO : Nat := 0xA0012C
/-- 08, R230, offset 0x130. -/
abbrev IBEX_BYTES_HI : Nat := 0xA00130
/-- 08, R230, offset 0x134. -/
abbrev IBEX_LATE : Nat := 0xA00134
/-- 08, R230, offset 0x138. -/
abbrev IBEX_TIMEOUTS : Nat := 0xA00138
/-- 08, R230, offset 0x13C. -/
abbrev IBEX_CHECK_FAILS : Nat := 0xA0013C
/-- 08, R230, offset 0x140. -/
abbrev IBEX_POISONED : Nat := 0xA00140
/-- 08, R230, offset 0x144. -/
abbrev IBEX_MOVER_SEL : Nat := 0xA00144
/-- 08, R230, offset 0x148. -/
abbrev IBEX_MOVER_INFO : Nat := 0xA00148
/-- 08, R230, offset 0x14C. -/
abbrev IBEX_QUEUE_SEL : Nat := 0xA0014C
/-- 08, R230, offset 0x150. -/
abbrev IBEX_QUEUE_INFO : Nat := 0xA00150
/-- 09, R266, offset 0x100. -/
abbrev HANDOFF_CTRL : Nat := 0xC00100
/-- 09, R266, offset 0x104. -/
abbrev HANDOFF_STATUS : Nat := 0xC00104
/-- 09, R266, offset 0x108. -/
abbrev HANDOFF_PROFILE : Nat := 0xC00108
/-- 09, R266, offset 0x10C. -/
abbrev HANDOFF_TIMER : Nat := 0xC0010C
/-- 09, R266, offset 0x110. -/
abbrev HANDOFF_KEEPALIVE : Nat := 0xC00110
/-- 09, R266, offset 0x114. -/
abbrev HANDOFF_GRACE : Nat := 0xC00114
/-- 09, R266, offset 0x118. -/
abbrev HANDOFF_CREDIT_MAX : Nat := 0xC00118
/-- 09, R266, offset 0x11C. -/
abbrev HANDOFF_CREDIT_WAIT : Nat := 0xC0011C
/-- 09, R266, offset 0x120. -/
abbrev HANDOFF_RETRY_MAX : Nat := 0xC00120
/-- 09, R266, offset 0x124. -/
abbrev HANDOFF_CATCHUP_MAX : Nat := 0xC00124
/-- 09, R266, offset 0x128. -/
abbrev HANDOFF_OFFLOAD_KEEP : Nat := 0xC00128
/-- 09, R266, offset 0x12C. -/
abbrev HANDOFF_RESTORE_WM : Nat := 0xC0012C
/-- 09, R266, offset 0x130. -/
abbrev HANDOFF_MAP_EPOCH : Nat := 0xC00130
/-- 09, R266, offset 0x134. -/
abbrev HANDOFF_MAP_TIDE_LO : Nat := 0xC00134
/-- 09, R266, offset 0x138. -/
abbrev HANDOFF_MAP_TIDE_HI : Nat := 0xC00138
/-- 09, R266, offset 0x13C. -/
abbrev HANDOFF_OPEN : Nat := 0xC0013C
/-- 09, R266, offset 0x140. -/
abbrev HANDOFF_COMMITS : Nat := 0xC00140
/-- 09, R266, offset 0x144. -/
abbrev HANDOFF_ABORTS : Nat := 0xC00144
/-- 09, R266, offset 0x148. -/
abbrev HANDOFF_STALE : Nat := 0xC00148
/-- 09, R266, offset 0x14C. -/
abbrev HANDOFF_LATE : Nat := 0xC0014C
/-- 09, R266, offset 0x150. -/
abbrev HANDOFF_RECOVERY : Nat := 0xC00150
/-- 09, R266, offset 0x154. -/
abbrev HANDOFF_MOVES : Nat := 0xC00154
/-- 10, R301, offset 0x100. -/
abbrev STRAIT_CTRL : Nat := 0xE00100
/-- 10, R301, offset 0x104. -/
abbrev STRAIT_STATUS : Nat := 0xE00104
/-- 10, R301, offset 0x108. -/
abbrev STRAIT_PROFILE : Nat := 0xE00108
/-- 10, R301, offset 0x10C. -/
abbrev STRAIT_LOAD_TIMEOUT : Nat := 0xE0010C
/-- 10, R301, offset 0x110. -/
abbrev STRAIT_DEAD_COUNT : Nat := 0xE00110
/-- 10, R301, offset 0x114. -/
abbrev STRAIT_GW_FLUSH : Nat := 0xE00114
/-- 10, R301, offset 0x118. -/
abbrev STRAIT_GW_TIMEOUT : Nat := 0xE00118
/-- 10, R301, offset 0x11C. -/
abbrev STRAIT_PORTS : Nat := 0xE0011C
/-- 10, R301, offset 0x120. -/
abbrev STRAIT_TAGS_BUSY : Nat := 0xE00120
/-- 10, R301, offset 0x124. -/
abbrev STRAIT_TIMEOUTS : Nat := 0xE00124
/-- 10, R301, offset 0x128. -/
abbrev STRAIT_LATE : Nat := 0xE00128
/-- 10, R301, offset 0x12C. -/
abbrev STRAIT_POISON_LOADS : Nat := 0xE0012C
/-- 10, R301, offset 0x130. -/
abbrev STRAIT_REFUSED : Nat := 0xE00130
/-- 10, R301, offset 0x134. -/
abbrev STRAIT_PEER_SEL : Nat := 0xE00134
/-- 10, R301, offset 0x138. -/
abbrev STRAIT_PEER_INFO : Nat := 0xE00138
/-- 10, R301, offset 0x13C. -/
abbrev STRAIT_WIN_SEL : Nat := 0xE0013C
/-- 10, R301, offset 0x140–0x15F. -/
abbrev STRAIT_WIN_DATA : Nat := 0xE00140
/-- 10, R301, offset 0x200 + 0x10 x n. -/
abbrev STRAIT_SP_STATUS : Nat := 0xE00200
/-- 10, R301, offset 0x204 + 0x10 x n. -/
abbrev STRAIT_SP_REPLAYS : Nat := 0xE00204
/-- 10, R301, offset 0x208 + 0x10 x n. -/
abbrev STRAIT_SP_RETRAINS : Nat := 0xE00208
/-- 10, R301, offset 0x20C + 0x10 x n. -/
abbrev STRAIT_SP_FEC_UNCORR : Nat := 0xE0020C
/-- 11, R334, offset 0x100. -/
abbrev NET_CTRL : Nat := 0x1000100
/-- 11, R334, offset 0x104. -/
abbrev NET_STATUS : Nat := 0x1000104
/-- 11, R334, offset 0x108. -/
abbrev NET_PROFILE : Nat := 0x1000108
/-- 11, R334, offset 0x10C. -/
abbrev NET_RTO : Nat := 0x100010C
/-- 11, R334, offset 0x110. -/
abbrev NET_RETRY : Nat := 0x1000110
/-- 11, R334, offset 0x114. -/
abbrev NET_PATHS : Nat := 0x1000114
/-- 11, R334, offset 0x118. -/
abbrev NET_STATE_INIT : Nat := 0x1000118
/-- 11, R334, offset 0x11C. -/
abbrev NET_CONNS : Nat := 0x100011C
/-- 11, R334, offset 0x120. -/
abbrev NET_WINDOWS : Nat := 0x1000120
/-- 11, R334, offset 0x124. -/
abbrev NET_RETX : Nat := 0x1000124
/-- 11, R334, offset 0x128. -/
abbrev NET_DUP : Nat := 0x1000128
/-- 11, R334, offset 0x12C. -/
abbrev NET_LATE : Nat := 0x100012C
/-- 11, R334, offset 0x130. -/
abbrev NET_REFUSED : Nat := 0x1000130
/-- 11, R334, offset 0x134. -/
abbrev NET_DROPPED : Nat := 0x1000134
/-- 11, R334, offset 0x138. -/
abbrev NET_CONN_SEL : Nat := 0x1000138
/-- 11, R334, offset 0x13C. -/
abbrev NET_CONN_INFO : Nat := 0x100013C
/-- 11, R334, offset 0x140. -/
abbrev NET_CONN_CREDIT : Nat := 0x1000140
/-- 11, R334, offset 0x144. -/
abbrev NET_WIN_SEL : Nat := 0x1000144
/-- 11, R334, offset 0x160–0x17F. -/
abbrev NET_WIN_DATA : Nat := 0x1000160
/-- 11, R334, offset 0x200 + 0x10 x n. -/
abbrev NET_EP_STATUS : Nat := 0x1000200
/-- 11, R334, offset 0x204 + 0x10 x n. -/
abbrev NET_EP_FEC_UNCORR : Nat := 0x1000204
/-- 11, R334, offset 0x208 + 0x10 x n. -/
abbrev NET_EP_FCS_ERR : Nat := 0x1000208
/-- 11, R334, offset 0x20C + 0x10 x n. -/
abbrev NET_EP_PAUSE : Nat := 0x100020C
/-- 11, R336, offset 0x100. -/
abbrev SHAPE_CTRL : Nat := 0x1200100
/-- 11, R336, offset 0x104. -/
abbrev SHAPE_STATUS : Nat := 0x1200104
/-- 11, R336, offset 0x108. -/
abbrev SHAPE_PROFILE : Nat := 0x1200108
/-- 11, R336, offset 0x10C. -/
abbrev SHAPE_TARGET_DELAY : Nat := 0x120010C
/-- 11, R336, offset 0x110. -/
abbrev SHAPE_AI : Nat := 0x1200110
/-- 11, R336, offset 0x114. -/
abbrev SHAPE_BETA : Nat := 0x1200114
/-- 11, R336, offset 0x118. -/
abbrev SHAPE_WIN_MIN : Nat := 0x1200118
/-- 11, R336, offset 0x11C. -/
abbrev SHAPE_WIN_MAX : Nat := 0x120011C
/-- 11, R336, offset 0x120. -/
abbrev SHAPE_CONN_SEL : Nat := 0x1200120
/-- 11, R336, offset 0x124. -/
abbrev SHAPE_CONN_WINDOW : Nat := 0x1200124
/-- 11, R336, offset 0x128. -/
abbrev SHAPE_CONN_DELAY : Nat := 0x1200128
/-- 11, R336, offset 0x130. -/
abbrev SHAPE_CBS_SEL : Nat := 0x1200130
/-- 11, R336, offset 0x134. -/
abbrev SHAPE_CBS_SLOPE : Nat := 0x1200134
/-- 11, R336, offset 0x138. -/
abbrev SHAPE_CBS_HI : Nat := 0x1200138
/-- 11, R336, offset 0x13C. -/
abbrev SHAPE_CBS_LO : Nat := 0x120013C
/-- 11, R336, offset 0x140. -/
abbrev SHAPE_CBS_ADJ : Nat := 0x1200140
/-- 11, R336, offset 0x144. -/
abbrev SHAPE_CBS_CREDIT : Nat := 0x1200144
/-- 11, R336, offset 0x150. -/
abbrev SHAPE_POL_SEL : Nat := 0x1200150
/-- 11, R336, offset 0x154. -/
abbrev SHAPE_POL_RATE : Nat := 0x1200154
/-- 11, R336, offset 0x158. -/
abbrev SHAPE_POL_BURST : Nat := 0x1200158
/-- 11, R336, offset 0x15C. -/
abbrev SHAPE_POL_ADJ : Nat := 0x120015C
/-- 11, R336, offset 0x160. -/
abbrev SHAPE_POL_DROPS : Nat := 0x1200160
/-- 12, R363, offset 0x100. -/
abbrev CHAM_CTRL : Nat := 0x1400100
/-- 12, R363, offset 0x104. -/
abbrev CHAM_STATUS : Nat := 0x1400104
/-- 12, R363, offset 0x108. -/
abbrev CHAM_PROFILE : Nat := 0x1400108
/-- 12, R363, offset 0x10C. -/
abbrev CHAM_WIDEN_MULT : Nat := 0x140010C
/-- 12, R363, offset 0x110. -/
abbrev CHAM_COMPACT_PCT : Nat := 0x1400110
/-- 12, R363, offset 0x114. -/
abbrev CHAM_COMPACT_RATE : Nat := 0x1400114
/-- 12, R363, offset 0x118. -/
abbrev CHAM_QUEUE : Nat := 0x1400118
/-- 12, R363, offset 0x11C. -/
abbrev CHAM_BATCHES : Nat := 0x140011C
/-- 12, R363, offset 0x120. -/
abbrev CHAM_LOOKUPS_LO : Nat := 0x1400120
/-- 12, R363, offset 0x124. -/
abbrev CHAM_LOOKUPS_HI : Nat := 0x1400124
/-- 12, R363, offset 0x128. -/
abbrev CHAM_SHORT : Nat := 0x1400128
/-- 12, R363, offset 0x12C. -/
abbrev CHAM_FAILED : Nat := 0x140012C
/-- 12, R363, offset 0x130. -/
abbrev CHAM_SU_ACTIVE : Nat := 0x1400130
/-- 12, R363, offset 0x140. -/
abbrev CHAM_INDEX_SEL : Nat := 0x1400140
/-- 12, R363, offset 0x144. -/
abbrev CHAM_INDEX_INFO : Nat := 0x1400144
/-- 12, R363, offset 0x148. -/
abbrev CHAM_COMMITTED_LO : Nat := 0x1400148
/-- 12, R363, offset 0x14C. -/
abbrev CHAM_COMMITTED_HI : Nat := 0x140014C
/-- 12, R363, offset 0x150. -/
abbrev CHAM_HORIZON_LO : Nat := 0x1400150
/-- 12, R363, offset 0x154. -/
abbrev CHAM_HORIZON_HI : Nat := 0x1400154
/-- 12, R363, offset 0x158. -/
abbrev CHAM_SNAP_POINT_LO : Nat := 0x1400158
/-- 12, R363, offset 0x15C. -/
abbrev CHAM_SNAP_POINT_HI : Nat := 0x140015C
/-- 12, R363, offset 0x160. -/
abbrev CHAM_DELLOG_USED : Nat := 0x1400160
/-- 12, R363, offset 0x164. -/
abbrev CHAM_COMPACT_CMD : Nat := 0x1400164
/-- 13, R378, offset 0x100. -/
abbrev TENANT_CTRL : Nat := 0x1600100
/-- 13, R378, offset 0x104. -/
abbrev TENANT_STATUS : Nat := 0x1600104
/-- 13, R378, offset 0x108. -/
abbrev TENANT_PROFILE : Nat := 0x1600108
/-- 13, R378, offset 0x10C. -/
abbrev TENANT_PERIOD : Nat := 0x160010C
/-- 13, R378, offset 0x110. -/
abbrev TENANT_SEL : Nat := 0x1600110
/-- 13, R378, offset 0x114. -/
abbrev TENANT_CFG : Nat := 0x1600114
/-- 13, R378, offset 0x118. -/
abbrev TENANT_TOK_QUOTA : Nat := 0x1600118
/-- 13, R378, offset 0x11C. -/
abbrev TENANT_TOK_CAP : Nat := 0x160011C
/-- 13, R378, offset 0x120. -/
abbrev TENANT_TOK_BALANCE : Nat := 0x1600120
/-- 13, R378, offset 0x124. -/
abbrev TENANT_ADM_QUOTA : Nat := 0x1600124
/-- 13, R378, offset 0x128. -/
abbrev TENANT_ADM_CAP : Nat := 0x1600128
/-- 13, R378, offset 0x12C. -/
abbrev TENANT_ADM_BALANCE : Nat := 0x160012C
/-- 13, R378, offset 0x130. -/
abbrev TENANT_VTIME_LO : Nat := 0x1600130
/-- 13, R378, offset 0x134. -/
abbrev TENANT_VTIME_HI : Nat := 0x1600134
/-- 13, R378, offset 0x138. -/
abbrev TENANT_FN_SEL : Nat := 0x1600138
/-- 13, R378, offset 0x13C. -/
abbrev TENANT_FN_MAP : Nat := 0x160013C
/-- 13, R378, offset 0x140. -/
abbrev TENANT_ECOEF_SEL : Nat := 0x1600140
/-- 13, R378, offset 0x144. -/
abbrev TENANT_ECOEF : Nat := 0x1600144
/-- 13, R378, offset 0x180–0x1FF. -/
abbrev TENANT_CTR_DATA : Nat := 0x1600180
/-- 14, R407, offset 0x100. -/
abbrev FAULT_CTRL : Nat := 0x1800100
/-- 14, R407, offset 0x104. -/
abbrev FAULT_STATUS : Nat := 0x1800104
/-- 14, R407, offset 0x108. -/
abbrev FAULT_PROFILE : Nat := 0x1800108
/-- 14, R407, offset 0x10C. -/
abbrev FAULT_SUSPECT_PCT : Nat := 0x180010C
/-- 14, R407, offset 0x110. -/
abbrev FAULT_SUSPECT_WINDOW : Nat := 0x1800110
/-- 14, R407, offset 0x114. -/
abbrev FAULT_LAG_MIN : Nat := 0x1800114
/-- 14, R407, offset 0x118. -/
abbrev FAULT_TENANT_LIMIT : Nat := 0x1800118
/-- 14, R407, offset 0x11C. -/
abbrev FAULT_RECOVERY_MAX : Nat := 0x180011C
/-- 14, R407, offset 0x120. -/
abbrev FAULT_RING_HEAD : Nat := 0x1800120
/-- 14, R407, offset 0x124. -/
abbrev FAULT_RING_TAIL : Nat := 0x1800124
/-- 14, R407, offset 0x128. -/
abbrev FAULT_LOST : Nat := 0x1800128
/-- 14, R407, offset 0x12C. -/
abbrev FAULT_ALERT_MASK : Nat := 0x180012C
/-- 14, R407, offset 0x130. -/
abbrev FAULT_RECOVERY : Nat := 0x1800130
/-- 14, R407, offset 0x134. -/
abbrev FAULT_RECOVERY_EPOCH : Nat := 0x1800134
/-- 14, R407, offset 0x138. -/
abbrev FAULT_AUDIT : Nat := 0x1800138
/-- 14, R407, offset 0x13C. -/
abbrev FAULT_LATE_DECISIONS : Nat := 0x180013C
/-- 14, R407, offset 0x140. -/
abbrev FAULT_CAUSE_SEL : Nat := 0x1800140
/-- 14, R407, offset 0x144. -/
abbrev FAULT_CAUSE_COUNT : Nat := 0x1800144
/-- 14, R407, offset 0x148. -/
abbrev FAULT_PEER_SEL : Nat := 0x1800148
/-- 14, R407, offset 0x14C. -/
abbrev FAULT_PEER_INFO : Nat := 0x180014C
/-- 14, R407, offset 0x150. -/
abbrev FAULT_PEER_WAIT : Nat := 0x1800150
/-- 14, R407, offset 0x154. -/
abbrev FAULT_TENANT_SEL : Nat := 0x1800154
/-- 14, R407, offset 0x158. -/
abbrev FAULT_TENANT_FENCE : Nat := 0x1800158
/-- 14, R407, offset 0x1_0000–0x1_FFFF. -/
abbrev FAULT_RING : Nat := 0x1810000
/-- 15, R432, offset 0x100. -/
abbrev OBS_CTRL : Nat := 0x1A00100
/-- 15, R432, offset 0x104. -/
abbrev OBS_STATUS : Nat := 0x1A00104
/-- 15, R432, offset 0x108. -/
abbrev OBS_PROFILE : Nat := 0x1A00108
/-- 15, R432, offset 0x10C. -/
abbrev OBS_HOLDOVER_MAX : Nat := 0x1A0010C
/-- 15, R432, offset 0x110. -/
abbrev OBS_TRACE_PRE : Nat := 0x1A00110
/-- 15, R432, offset 0x114. -/
abbrev OBS_TRACE_POST : Nat := 0x1A00114
/-- 15, R432, offset 0x118. -/
abbrev OBS_TRACE_LOCK_CAP : Nat := 0x1A00118
/-- 15, R432, offset 0x11C. -/
abbrev OBS_TIME_CTRL : Nat := 0x1A0011C
/-- 15, R432, offset 0x120. -/
abbrev OBS_TIME_STATUS : Nat := 0x1A00120
/-- 15, R432, offset 0x124. -/
abbrev OBS_TIDE_LO : Nat := 0x1A00124
/-- 15, R432, offset 0x128. -/
abbrev OBS_TIDE_HI : Nat := 0x1A00128
/-- 15, R432, offset 0x12C. -/
abbrev OBS_TIDE_NEXT_LO : Nat := 0x1A0012C
/-- 15, R432, offset 0x130. -/
abbrev OBS_TIDE_NEXT_HI : Nat := 0x1A00130
/-- 15, R432, offset 0x134. -/
abbrev OBS_PULSE_COMP : Nat := 0x1A00134
/-- 15, R432, offset 0x138. -/
abbrev OBS_PULSE_ERR : Nat := 0x1A00138
/-- 15, R432, offset 0x13C. -/
abbrev OBS_PTP_OFFSET : Nat := 0x1A0013C
/-- 15, R432, offset 0x140. -/
abbrev OBS_TRACE_CTRL : Nat := 0x1A00140
/-- 15, R432, offset 0x144. -/
abbrev OBS_TRACE_STATUS : Nat := 0x1A00144
/-- 15, R432, offset 0x148. -/
abbrev OBS_TRACE_CLASS : Nat := 0x1A00148
/-- 15, R432, offset 0x14C. -/
abbrev OBS_TRACE_SIZE : Nat := 0x1A0014C
/-- 15, R432, offset 0x150. -/
abbrev OBS_TRACE_WPOS : Nat := 0x1A00150
/-- 15, R432, offset 0x154. -/
abbrev OBS_TRACE_RPOS : Nat := 0x1A00154
/-- 15, R432, offset 0x158. -/
abbrev OBS_TRACE_LOST : Nat := 0x1A00158
/-- 15, R432, offset 0x15C. -/
abbrev OBS_TRACE_SEQ : Nat := 0x1A0015C
/-- 15, R432, offset 0x160. -/
abbrev OBS_TRACE_TRIGGER : Nat := 0x1A00160
/-- 15, R432, offset 0x164. -/
abbrev OBS_WIN_SEL : Nat := 0x1A00164
/-- 15, R432, offset 0x168. -/
abbrev OBS_WIN_INFO : Nat := 0x1A00168
/-- 15, R432, offset 0x16C. -/
abbrev OBS_WIN_START : Nat := 0x1A0016C
/-- 15, R432, offset 0x170. -/
abbrev OBS_WIN_UNLOCK : Nat := 0x1A00170
/-- 15, R432, offset 0x180 + 8n. -/
abbrev OBS_TRIG_CFG : Nat := 0x1A00180
/-- 15, R432, offset 0x184 + 8n. -/
abbrev OBS_TRIG_THRESH : Nat := 0x1A00184
/-- 15, R432, offset 0x1C0–0x1CF. -/
abbrev OBS_MARK_DATA : Nat := 0x1A001C0
/-- 15, R432, offset 0x400–0x45F. -/
abbrev OBS_COUNTER : Nat := 0x1A00400
/-- 15, R432, offset 0x500–0x55F. -/
abbrev OBS_SNAP_BANK : Nat := 0x1A00500
/-- 15, R432, offset 0x560. -/
abbrev OBS_SNAP_TIDE_LO : Nat := 0x1A00560
/-- 15, R432, offset 0x564. -/
abbrev OBS_SNAP_TIDE_HI : Nat := 0x1A00564
/-- 16, R448, offset 0x100. -/
abbrev HEALTH_CTRL : Nat := 0x1C00100
/-- 16, R448, offset 0x104. -/
abbrev HEALTH_STATUS : Nat := 0x1C00104
/-- 16, R448, offset 0x108. -/
abbrev HEALTH_PROFILE : Nat := 0x1C00108
/-- 16, R448, offset 0x10C. -/
abbrev HEALTH_TEMP_WARN : Nat := 0x1C0010C
/-- 16, R448, offset 0x110. -/
abbrev HEALTH_MARGIN_MIN : Nat := 0x1C00110
/-- 16, R448, offset 0x114. -/
abbrev HEALTH_ROW_CE : Nat := 0x1C00114
/-- 16, R448, offset 0x118. -/
abbrev HEALTH_EYE_PERIOD : Nat := 0x1C00118
/-- 16, R448, offset 0x11C. -/
abbrev HEALTH_AGE_WARN : Nat := 0x1C0011C
/-- 16, R448, offset 0x120. -/
abbrev HEALTH_EYE_MIN : Nat := 0x1C00120
/-- 16, R448, offset 0x124. -/
abbrev HEALTH_HOURS : Nat := 0x1C00124
/-- 16, R448, offset 0x128. -/
abbrev HEALTH_BOOTS : Nat := 0x1C00128
/-- 16, R448, offset 0x130. -/
abbrev HEALTH_ISLET_SEL : Nat := 0x1C00130
/-- 16, R448, offset 0x134. -/
abbrev HEALTH_ISLET_TEMP : Nat := 0x1C00134
/-- 16, R448, offset 0x138. -/
abbrev HEALTH_ISLET_DROOP : Nat := 0x1C00138
/-- 16, R448, offset 0x13C. -/
abbrev HEALTH_ISLET_MARGIN : Nat := 0x1C0013C
/-- 16, R448, offset 0x140. -/
abbrev HEALTH_ISLET_AGE : Nat := 0x1C00140
/-- 16, R448, offset 0x150. -/
abbrev HEALTH_ROW_SEL : Nat := 0x1C00150
/-- 16, R448, offset 0x154. -/
abbrev HEALTH_ROWS_DROPPED : Nat := 0x1C00154
/-- 16, R448, offset 0x160–0x16F. -/
abbrev HEALTH_ROW_DATA : Nat := 0x1C00160
/-- 16, R448, offset 0x170. -/
abbrev HEALTH_LANE_SEL : Nat := 0x1C00170
/-- 16, R448, offset 0x174. -/
abbrev HEALTH_LANE_EYE : Nat := 0x1C00174
/-- 16, R448, offset 0x178. -/
abbrev HEALTH_LANE_FEC_LO : Nat := 0x1C00178
/-- 16, R448, offset 0x17C. -/
abbrev HEALTH_LANE_FEC_HI : Nat := 0x1C0017C
/-- 16, R448, offset 0x180. -/
abbrev HEALTH_LOG_NEXT : Nat := 0x1C00180
/-- 16, R448, offset 0x184. -/
abbrev HEALTH_LOG_LOST : Nat := 0x1C00184
/-- 16, R448, offset 0x188. -/
abbrev HEALTH_LOG_SEL : Nat := 0x1C00188
/-- 16, R448, offset 0x1C0–0x1FF. -/
abbrev HEALTH_LOG_DATA : Nat := 0x1C001C0
/-- 16, R448, offset 0x200 + 0x20d + 4b. -/
abbrev HEALTH_HIST : Nat := 0x1C00200
/-- 18, R480, offset 0x100. -/
abbrev HOSTIF_CTRL : Nat := 0x1E00100
/-- 18, R480, offset 0x104. -/
abbrev HOSTIF_STATUS : Nat := 0x1E00104
/-- 18, R480, offset 0x108. -/
abbrev HOSTIF_PROFILE : Nat := 0x1E00108
/-- 18, R480, offset 0x10C. -/
abbrev HOSTIF_MSI_DELAY : Nat := 0x1E0010C
/-- 18, R480, offset 0x110. -/
abbrev HOSTIF_TOKEN_HOLD : Nat := 0x1E00110
/-- 18, R480, offset 0x114. -/
abbrev HOSTIF_FAULT_VEC : Nat := 0x1E00114
/-- 18, R480, offset 0x118. -/
abbrev HOSTIF_DROPPED : Nat := 0x1E00118
/-- 18, R480, offset 0x11C. -/
abbrev HOSTIF_PLAN_SEL : Nat := 0x1E0011C
/-- 18, R480, offset 0x120. -/
abbrev HOSTIF_PLAN_STATUS : Nat := 0x1E00120
/-- 18, R480, offset 0x128. -/
abbrev HOSTIF_BAR4_BASE_LO : Nat := 0x1E00128
/-- 18, R480, offset 0x12C. -/
abbrev HOSTIF_BAR4_BASE_HI : Nat := 0x1E0012C
/-- 18, R480, offset 0x200 + 0x40 x p. -/
abbrev HOSTIF_H_STATUS : Nat := 0x1E00200
/-- 18, R480, offset 0x300. -/
abbrev HOSTIF_WIN_SEL : Nat := 0x1E00300
/-- 18, R480, offset 0x304. -/
abbrev HOSTIF_WIN_CFG : Nat := 0x1E00304
/-- 18, R480, offset 0x308. -/
abbrev HOSTIF_RING_BASE_LO : Nat := 0x1E00308
/-- 18, R480, offset 0x30C. -/
abbrev HOSTIF_RING_BASE_HI : Nat := 0x1E0030C
/-- 18, R480, offset 0x310. -/
abbrev HOSTIF_RING_HEAD : Nat := 0x1E00310
/-- 18, R480, offset 0x314. -/
abbrev HOSTIF_RING_TAIL : Nat := 0x1E00314
/-- 18, R480, offset 0x318. -/
abbrev HOSTIF_WIN_CONSUMED : Nat := 0x1E00318
/-- 19, R501, offset 0x100. -/
abbrev FW_CTRL : Nat := 0x2000100
/-- 19, R501, offset 0x104. -/
abbrev FW_STATUS : Nat := 0x2000104
/-- 19, R501, offset 0x108. -/
abbrev FW_PROFILE : Nat := 0x2000108
/-- 19, R501, offset 0x10C. -/
abbrev FW_PAUSE_MAX : Nat := 0x200010C
/-- 19, R501, offset 0x110. -/
abbrev FW_QUIESCE_MAX : Nat := 0x2000110
/-- 19, R501, offset 0x114. -/
abbrev FW_CONFIRM : Nat := 0x2000114
/-- 19, R501, offset 0x118. -/
abbrev FW_SLOTS : Nat := 0x2000118
/-- 19, R501, offset 0x11C. -/
abbrev FW_SVN_FUSE : Nat := 0x200011C
/-- 19, R501, offset 0x120. -/
abbrev FW_SVN_ADVANCE : Nat := 0x2000120
/-- 19, R501, offset 0x124. -/
abbrev FW_LEVELS : Nat := 0x2000124
/-- 19, R501, offset 0x128. -/
abbrev FW_RUN_VERSION : Nat := 0x2000128
/-- 19, R501, offset 0x12C. -/
abbrev FW_RUN_FEATURES_LO : Nat := 0x200012C
/-- 19, R501, offset 0x130. -/
abbrev FW_RUN_FEATURES_HI : Nat := 0x2000130
/-- 19, R501, offset 0x134. -/
abbrev FW_STAGE_NEXT : Nat := 0x2000134
/-- 19, R501, offset 0x138. -/
abbrev FW_PAUSE_LAST : Nat := 0x2000138
/-- 19, R501, offset 0x13C. -/
abbrev FW_HANDOVERS : Nat := 0x200013C
/-- 19, R501, offset 0x140. -/
abbrev FW_SEL : Nat := 0x2000140
/-- 19, R501, offset 0x180–0x1FF. -/
abbrev FW_HDR_DATA : Nat := 0x2000180
/-- 20, R523, offset 0x100. -/
abbrev SEC_CTRL : Nat := 0x2200100
/-- 20, R523, offset 0x104. -/
abbrev SEC_STATUS : Nat := 0x2200104
/-- 20, R523, offset 0x108. -/
abbrev SEC_FUSES : Nat := 0x2200108
/-- 20, R523, offset 0x10C. -/
abbrev SEC_FUSE_CMD : Nat := 0x220010C
/-- 20, R523, offset 0x110. -/
abbrev SEC_SELFTEST : Nat := 0x2200110
/-- 20, R523, offset 0x114. -/
abbrev SEC_PART_KEYS : Nat := 0x2200114
/-- 20, R523, offset 0x118. -/
abbrev SEC_ENROLL_ADDR_LO : Nat := 0x2200118
/-- 20, R523, offset 0x11C. -/
abbrev SEC_ENROLL_ADDR_HI : Nat := 0x220011C
/-- 20, R523, offset 0x120. -/
abbrev SEC_DIE_SEL : Nat := 0x2200120
/-- 20, R523, offset 0x124. -/
abbrev SEC_DIE_ID_LO : Nat := 0x2200124
/-- 20, R523, offset 0x128. -/
abbrev SEC_DIE_ID_HI : Nat := 0x2200128
/-- 20, R523, offset 0x12C. -/
abbrev SEC_IF_LEVEL : Nat := 0x220012C
/-- 20, R523, offset 0x130. -/
abbrev SEC_SPDM_ERRORS : Nat := 0x2200130
/-- 21, R537, offset 0x100. -/
abbrev PWR_CTRL : Nat := 0x2400100
/-- 21, R537, offset 0x104. -/
abbrev PWR_STATUS : Nat := 0x2400104
/-- 21, R537, offset 0x108. -/
abbrev PWR_PROFILE : Nat := 0x2400108
/-- 21, R537, offset 0x10C. -/
abbrev PWR_VIN_THRESH : Nat := 0x240010C
/-- 21, R537, offset 0x110. -/
abbrev PWR_RETURN_TIME : Nat := 0x2400110
/-- 21, R537, offset 0x114. -/
abbrev PWR_TJ_THROTTLE : Nat := 0x2400114
/-- 21, R537, offset 0x118. -/
abbrev PWR_CAP : Nat := 0x2400118
/-- 21, R537, offset 0x11C. -/
abbrev PWR_CAP_EFFECTIVE : Nat := 0x240011C
/-- 21, R537, offset 0x120. -/
abbrev PWR_CAP_I3C : Nat := 0x2400120
/-- 21, R537, offset 0x124. -/
abbrev PWR_INPUT : Nat := 0x2400124
/-- 21, R537, offset 0x128. -/
abbrev PWR_ENERGY_LO : Nat := 0x2400128
/-- 21, R537, offset 0x12C. -/
abbrev PWR_ENERGY_HI : Nat := 0x240012C
/-- 21, R537, offset 0x130. -/
abbrev PWR_VIN : Nat := 0x2400130
/-- 21, R537, offset 0x134. -/
abbrev PWR_EVENTS : Nat := 0x2400134
/-- 21, R537, offset 0x138. -/
abbrev PWR_RESET : Nat := 0x2400138
/-- 21, R537, offset 0x140. -/
abbrev PWR_ISLET_SEL : Nat := 0x2400140
/-- 21, R537, offset 0x144. -/
abbrev PWR_ISLET_CLOCK : Nat := 0x2400144

end Reg

/-- Part 0 of the register table, by address. -/
def regTable0 : List RegInfo := [
  ⟨0x100, 1, 0x4, 0x0, 0x0, 0x0, 0x0, 0x0⟩,
  ⟨0x104, 1, 0x4, 0x0, 0x0, 0x0, 0x0, 0x0⟩,
  ⟨0x108, 1, 0x4, 0xFFFF, 0xFFFF, 0x0, 0x0, 0x0⟩,
  ⟨0x10C, 1, 0x4, 0x2, 0x0, 0x4, 0x0, 0x0⟩,
  ⟨0x100100, 1, 0x4, 0x0, 0x2, 0x0, 0x1, 0x0⟩,
  ⟨0x100104, 1, 0x4, 0x0, 0x0, 0x40, 0x0, 0x0⟩,
  ⟨0x100108, 1, 0x4, 0x0, 0x0, 0x0, 0x0, 0x0⟩,
  ⟨0x10010C, 1, 0x4, 0x0, 0x0, 0x0, 0x0, 0x0⟩,
  ⟨0x100110, 1, 0x4, 0x0, 0x0, 0x0, 0x0, 0x0⟩,
  ⟨0x100114, 1, 0x4, 0x0, 0x0, 0x0, 0x0, 0x0⟩,
  ⟨0x100118, 1, 0x4, 0x0, 0x0, 0x0, 0x0, 0x0⟩,
  ⟨0x10011C, 1, 0x4, 0x0, 0x0, 0x0, 0x0, 0x0⟩,
  ⟨0x100120, 1, 0x4, 0x0, 0x0, 0x0, 0x0, 0x0⟩,
  ⟨0x100124, 1, 0x4, 0x0, 0x0, 0x0, 0x0, 0x0⟩,
  ⟨0x100128, 1, 0x4, 0x0, 0x0, 0x0, 0x0, 0x0⟩,
  ⟨0x10012C, 1, 0x4, 0x0, 0x0, 0x0, 0x0, 0x0⟩,
  ⟨0x100130, 1, 0x4, 0x100, 0x0, 0x0, 0x0, 0x0⟩,
  ⟨0x100134, 1, 0x4, 0x0, 0x0, 0x0, 0x0, 0x0⟩,
  ⟨0x100138, 1, 0x4, 0x3C, 0xFFFFFFFF, 0x0, 0x0, 0x0⟩,
  ⟨0x10013C, 1, 0x4, 0x0, 0x0, 0x0, 0x0, 0x0⟩,
  ⟨0x200100, 1, 0x4, 0x0, 0x3, 0x0, 0xC, 0x0⟩,
  ⟨0x200104, 1, 0x4, 0x0, 0x0, 0x38, 0x0, 0x0⟩,
  ⟨0x200108, 1, 0x4, 0x0, 0x0, 0x0, 0x0, 0x0⟩,
  ⟨0x20010C, 1, 0x4, 0x4000, 0xFFFFFFFF, 0x0, 0x0, 0x0⟩,
  ⟨0x200110, 1, 0x4, 0x4000, 0xFFFFFFFF, 0x0, 0x0, 0x0⟩,
  ⟨0x200114, 1, 0x4, 0x100, 0xFFFFFFFF, 0x0, 0x0, 0x0⟩,
  ⟨0x200118, 1, 0x4, 0x30D40, 0xFFFFFFFF, 0x0, 0x0, 0x0⟩,
  ⟨0x20011C, 1, 0x4, 0x2710, 0xFFFFFFFF, 0x0, 0x0, 0x0⟩,
  ⟨0x200120, 1, 0x4, 0x3, 0xFFFFFFFF, 0x0, 0x0, 0x0⟩,
  ⟨0x200124, 1, 0x4, 0x80, 0xFFFFFFFF, 0x0, 0x0, 0x0⟩,
  ⟨0x200128, 1, 0x4, 0x0, 0x0, 0x0, 0x0, 0x0⟩,
  ⟨0x20012C, 1, 0x4, 0x0, 0x0, 0x0, 0x0, 0x0⟩,
  ⟨0x200130, 1, 0x4, 0x0, 0x0, 0x0, 0x0, 0x0⟩,
  ⟨0x200134, 1, 0x4, 0x0, 0x0, 0x0, 0x0, 0x0⟩,
  ⟨0x200138, 1, 0x4, 0x0, 0x0, 0x0, 0x0, 0x0⟩,
  ⟨0x20013C, 1, 0x4, 0x0, 0x0, 0x0, 0x0, 0x0⟩,
  ⟨0x200140, 1, 0x4, 0x0, 0x0, 0x0, 0x0, 0x0⟩,
  ⟨0x200144, 1, 0x4, 0x0, 0x0, 0x0, 0x0, 0x0⟩,
  ⟨0x200148, 1, 0x4, 0x0, 0x0, 0x0, 0x0, 0x0⟩,
  ⟨0x20014C, 1, 0x4, 0x0, 0x0, 0x0, 0x0, 0x0⟩,
  ⟨0x200150, 1, 0x4, 0x0, 0xFFFF, 0x0, 0x0, 0x0⟩,
  ⟨0x200154, 1, 0x4, 0xFF, 0x2FF, 0x0, 0x0, 0x0⟩,
  ⟨0x200158, 1, 0x4, 0x0, 0xFFFF, 0x0, 0x0, 0x0⟩,
  ⟨0x200180, 32, 0x4, 0x0, 0x0, 0x0, 0x0, 0x0⟩,
  ⟨0x400100, 1, 0x4, 0x0, 0x1, 0x0, 0x2, 0x0⟩,
  ⟨0x400104, 1, 0x4, 0x0, 0x0, 0x70, 0x0, 0x0⟩,
  ⟨0x400108, 1, 0x4, 0x0, 0x0, 0x0, 0x0, 0x0⟩,
  ⟨0x40010C, 1, 0x4, 0xE, 0xFFFFFFFF, 0x0, 0x0, 0x0⟩,
  ⟨0x400110, 1, 0x4, 0x2, 0xFFFFFFFF, 0x0, 0x0, 0x0⟩,
  ⟨0x400114, 1, 0x4, 0x0, 0x0, 0x0, 0xFFFF, 0x0⟩,
  ⟨0x400118, 1, 0x4, 0x0, 0x0, 0x0, 0x0, 0x0⟩,
  ⟨0x40011C, 1, 0x4, 0x0, 0x0, 0x0, 0x0, 0x0⟩,
  ⟨0x400120, 1, 0x4, 0x0, 0x0, 0x0, 0x0, 0x0⟩,
  ⟨0x400124, 1, 0x4, 0x0, 0x0, 0x0, 0x0, 0x0⟩,
  ⟨0x400128, 1, 0x4, 0x0, 0x0, 0x0, 0x0, 0x0⟩,
  ⟨0x40012C, 1, 0x4, 0x0, 0x0, 0x0, 0x0, 0x0⟩,
  ⟨0x400130, 1, 0x4, 0x0, 0x0, 0x0, 0x0, 0x0⟩,
  ⟨0x400200, 4, 0x40000, 0x0, 0x0, 0x0, 0x0, 0x0⟩,
  ⟨0x400204, 4, 0x40000, 0x0, 0x0, 0x0, 0x0, 0x0⟩,
  ⟨0x400208, 4, 0x40000, 0x0, 0x0, 0x0, 0x0, 0x0⟩]
/-- Part 1 of the register table, by address. -/
def regTable1 : List RegInfo := [
  ⟨0x40020C, 4, 0x40000, 0x0, 0x0, 0x0, 0x0, 0x0⟩,
  ⟨0x400210, 4, 0x4, 0x0, 0x0, 0x0, 0x0, 0x0⟩,
  ⟨0x400220, 4, 0x40000, 0x0, 0x0, 0x0, 0x0, 0x0⟩,
  ⟨0x400224, 4, 0x40000, 0x0, 0x0, 0x0, 0x0, 0x0⟩,
  ⟨0x440210, 4, 0x4, 0x0, 0x0, 0x0, 0x0, 0x0⟩,
  ⟨0x480210, 4, 0x4, 0x0, 0x0, 0x0, 0x0, 0x0⟩,
  ⟨0x4C0210, 4, 0x4, 0x0, 0x0, 0x0, 0x0, 0x0⟩,
  ⟨0x600100, 1, 0x4, 0x0, 0x0, 0x0, 0x1, 0x0⟩,
  ⟨0x600104, 1, 0x4, 0x0, 0x0, 0x70, 0x0, 0x0⟩,
  ⟨0x600108, 1, 0x4, 0x0, 0x0, 0x0, 0x0, 0x0⟩,
  ⟨0x60010C, 1, 0x4, 0x85, 0xFFFFFFFF, 0x0, 0x0, 0x0⟩,
  ⟨0x600110, 1, 0x4, 0x6, 0xFFFFFFFF, 0x0, 0x0, 0x0⟩,
  ⟨0x600114, 1, 0x4, 0x2, 0xFFFFFFFF, 0x0, 0x0, 0x0⟩,
  ⟨0x600118, 1, 0x4, 0x7D0, 0xFFFFFFFF, 0x0, 0x0, 0x0⟩,
  ⟨0x60011C, 1, 0x4, 0x0, 0x0, 0x0, 0x0, 0x0⟩,
  ⟨0x600120, 1, 0x4, 0x0, 0x0, 0x0, 0x0, 0x0⟩,
  ⟨0x600124, 1, 0x4, 0x0, 0x0, 0x0, 0x0, 0x0⟩,
  ⟨0x600128, 1, 0x4, 0x0, 0x0, 0x0, 0x0, 0x0⟩,
  ⟨0x60012C, 1, 0x4, 0x0, 0x0, 0x0, 0x0, 0x0⟩,
  ⟨0x600130, 1, 0x4, 0x0, 0x0, 0x0, 0x0, 0x0⟩,
  ⟨0x600134, 1, 0x4, 0x0, 0x0, 0x0, 0x0, 0x0⟩,
  ⟨0x600138, 1, 0x4, 0x0, 0x0, 0x0, 0x0, 0x0⟩,
  ⟨0x60013C, 1, 0x4, 0x0, 0x3FF, 0x0, 0x0, 0x0⟩,
  ⟨0x600140, 1, 0x4, 0x0, 0x0, 0x0, 0x0, 0x0⟩,
  ⟨0x600200, 20, 0x4, 0x0, 0x0, 0x0, 0x0, 0x0⟩,
  ⟨0x600300, 4, 0x10, 0x0, 0x0, 0x0, 0x0, 0x0⟩,
  ⟨0x600304, 4, 0x10, 0x0, 0x0, 0x0, 0x0, 0x0⟩,
  ⟨0x600308, 4, 0x10, 0x0, 0x0, 0x0, 0x0, 0x0⟩,
  ⟨0x60030C, 4, 0x10, 0x0, 0x0, 0x0, 0x0, 0x0⟩,
  ⟨0x800100, 1, 0x4, 0x0, 0x0, 0x0, 0x0, 0x0⟩,
  ⟨0x800104, 1, 0x4, 0x0, 0x0, 0x0, 0x0, 0x0⟩,
  ⟨0x800108, 1, 0x4, 0x0, 0x0, 0x0, 0x0, 0x0⟩,
  ⟨0x80010C, 1, 0x4, 0x0, 0x0, 0x0, 0x0, 0x0⟩,
  ⟨0x800110, 1, 0x4, 0x0, 0x0, 0x0, 0x0, 0x0⟩,
  ⟨0x800114, 1, 0x4, 0x0, 0xFFFFFFFF, 0x0, 0x0, 0x0⟩,
  ⟨0x800118, 1, 0x4, 0x1, 0x1, 0x18, 0x2, 0x0⟩,
  ⟨0x800140, 1, 0x4, 0x0, 0x0, 0x6, 0x0, 0x0⟩,
  ⟨0x800144, 1, 0x4, 0x0, 0x0, 0x0, 0x0, 0x0⟩,
  ⟨0x800148, 1, 0x4, 0x18, 0xFFFFFFFF, 0x0, 0x0, 0x0⟩,
  ⟨0x80014C, 1, 0x4, 0xA, 0xFFFFFFFF, 0x0, 0x0, 0x0⟩,
  ⟨0x800150, 1, 0x4, 0x3E8, 0xFFFFFFFF, 0x0, 0x0, 0x0⟩,
  ⟨0x800154, 1, 0x4, 0x0, 0x0, 0x0, 0x0, 0x0⟩,
  ⟨0x800158, 1, 0x4, 0x0, 0x0, 0x0, 0x0, 0x0⟩,
  ⟨0x80015C, 1, 0x4, 0x0, 0x0, 0x0, 0x0, 0x0⟩,
  ⟨0x800160, 1, 0x4, 0x0, 0x0, 0x0, 0x0, 0x0⟩,
  ⟨0x800164, 1, 0x4, 0x0, 0x0, 0x0, 0x0, 0x0⟩,
  ⟨0x800168, 1, 0x4, 0x0, 0x0, 0x0, 0x0, 0x0⟩,
  ⟨0x80016C, 1, 0x4, 0x0, 0x0, 0x0, 0x0, 0x0⟩,
  ⟨0x800180, 8, 0x4, 0x0, 0x0, 0x0, 0x0, 0x0⟩,
  ⟨0x8001A0, 8, 0x4, 0xFFFF, 0x0, 0x0, 0x0, 0xFFFF⟩,
  ⟨0x8001C0, 1, 0x4, 0xFFFF, 0x0, 0x0, 0x0, 0xFFFF⟩,
  ⟨0x800200, 1, 0x4, 0x0, 0x3FF, 0x0, 0x0, 0x0⟩,
  ⟨0x800204, 1, 0x4, 0x0, 0x0, 0x0, 0x0, 0x0⟩,
  ⟨0x800210, 1, 0x4, 0x0, 0x3FF, 0x0, 0x0, 0x0⟩,
  ⟨0x800240, 16, 0x4, 0x0, 0x0, 0x0, 0x0, 0x0⟩,
  ⟨0xA00100, 1, 0x4, 0x0, 0x1, 0x0, 0x6, 0x0⟩,
  ⟨0xA00104, 1, 0x4, 0x0, 0x0, 0x38, 0x0, 0x0⟩,
  ⟨0xA00108, 1, 0x4, 0x0, 0x0, 0x0, 0x0, 0x0⟩,
  ⟨0xA0010C, 1, 0x4, 0x2710, 0xFFFFFFFF, 0x0, 0x0, 0x0⟩,
  ⟨0xA00110, 1, 0x4, 0x2, 0xFFFFFFFF, 0x0, 0x0, 0x0⟩]
/-- Part 2 of the register table, by address. -/
def regTable2 : List RegInfo := [
  ⟨0xA00114, 1, 0x4, 0x2, 0xFFFFFFFF, 0x0, 0x0, 0x0⟩,
  ⟨0xA00118, 1, 0x4, 0x10000, 0x0, 0x0, 0x0, 0x0⟩,
  ⟨0xA0011C, 1, 0x4, 0x0, 0x0, 0x0, 0x0, 0x0⟩,
  ⟨0xA00120, 1, 0x4, 0x0, 0x0, 0x0, 0x0, 0x0⟩,
  ⟨0xA00124, 1, 0x4, 0x0, 0x0, 0x0, 0x0, 0x0⟩,
  ⟨0xA00128, 1, 0x4, 0x0, 0x0, 0x0, 0x0, 0x0⟩,
  ⟨0xA0012C, 1, 0x4, 0x0, 0x0, 0x0, 0x0, 0x0⟩,
  ⟨0xA00130, 1, 0x4, 0x0, 0x0, 0x0, 0x0, 0x0⟩,
  ⟨0xA00134, 1, 0x4, 0x0, 0x0, 0x0, 0x0, 0x0⟩,
  ⟨0xA00138, 1, 0x4, 0x0, 0x0, 0x0, 0x0, 0x0⟩,
  ⟨0xA0013C, 1, 0x4, 0x0, 0x0, 0x0, 0x0, 0x0⟩,
  ⟨0xA00140, 1, 0x4, 0x0, 0x0, 0x0, 0x0, 0x0⟩,
  ⟨0xA00144, 1, 0x4, 0x0, 0x7F, 0x0, 0x0, 0x0⟩,
  ⟨0xA00148, 1, 0x4, 0x0, 0x0, 0x0, 0x0, 0x0⟩,
  ⟨0xA0014C, 1, 0x4, 0x0, 0xFF, 0x0, 0x0, 0x0⟩,
  ⟨0xA00150, 1, 0x4, 0x0, 0x0, 0x0, 0x0, 0x0⟩,
  ⟨0xC00100, 1, 0x4, 0x0, 0x3, 0x0, 0x4, 0x0⟩,
  ⟨0xC00104, 1, 0x4, 0x0, 0x0, 0x1C, 0x0, 0x0⟩,
  ⟨0xC00108, 1, 0x4, 0x0, 0x0, 0x0, 0x0, 0x0⟩,
  ⟨0xC0010C, 1, 0x4, 0xC350, 0xFFFFFFFF, 0x0, 0x0, 0x0⟩,
  ⟨0xC00110, 1, 0x4, 0x2710, 0xFFFFFFFF, 0x0, 0x0, 0x0⟩,
  ⟨0xC00114, 1, 0x4, 0x1F4, 0xFFFFFFFF, 0x0, 0x0, 0x0⟩,
  ⟨0xC00118, 1, 0x4, 0x20000, 0xFFFFFFFF, 0x0, 0x0, 0x0⟩,
  ⟨0xC0011C, 1, 0x4, 0x3E8, 0xFFFFFFFF, 0x0, 0x0, 0x0⟩,
  ⟨0xC00120, 1, 0x4, 0x3, 0xFFFFFFFF, 0x0, 0x0, 0x0⟩,
  ⟨0xC00124, 1, 0x4, 0x100, 0xFFFFFFFF, 0x0, 0x0, 0x0⟩,
  ⟨0xC00128, 1, 0x4, 0x2000, 0xFFFFFFFF, 0x0, 0x0, 0x0⟩,
  ⟨0xC0012C, 1, 0x4, 0x0, 0xFFFFFFFF, 0x0, 0x0, 0x0⟩,
  ⟨0xC00130, 1, 0x4, 0x0, 0x0, 0x0, 0x0, 0x0⟩,
  ⟨0xC00134, 1, 0x4, 0x0, 0x0, 0x0, 0x0, 0x0⟩,
  ⟨0xC00138, 1, 0x4, 0x0, 0x0, 0x0, 0x0, 0x0⟩,
  ⟨0xC0013C, 1, 0x4, 0x0, 0x0, 0x0, 0x0, 0x0⟩,
  ⟨0xC00140, 1, 0x4, 0x0, 0x0, 0x0, 0x0, 0x0⟩,
  ⟨0xC00144, 1, 0x4, 0x0, 0x0, 0x0, 0x0, 0x0⟩,
  ⟨0xC00148, 1, 0x4, 0x0, 0x0, 0x0, 0x0, 0x0⟩,
  ⟨0xC0014C, 1, 0x4, 0x0, 0x0, 0x0, 0x0, 0x0⟩,
  ⟨0xC00150, 1, 0x4, 0x0, 0x0, 0x0, 0x0, 0x0⟩,
  ⟨0xC00154, 1, 0x4, 0x0, 0x0, 0x0, 0x0, 0x0⟩,
  ⟨0xE00100, 1, 0x4, 0x0, 0x0, 0x0, 0x1FFFF, 0x0⟩,
  ⟨0xE00104, 1, 0x4, 0x0, 0x0, 0x1E, 0x0, 0x0⟩,
  ⟨0xE00108, 1, 0x4, 0x0, 0x0, 0x0, 0x0, 0x0⟩,
  ⟨0xE0010C, 1, 0x4, 0xA, 0xFFFFFFFF, 0x0, 0x0, 0x0⟩,
  ⟨0xE00110, 1, 0x4, 0x4, 0xFFFFFFFF, 0x0, 0x0, 0x0⟩,
  ⟨0xE00114, 1, 0x4, 0x7D0, 0xFFFFFFFF, 0x0, 0x0, 0x0⟩,
  ⟨0xE00118, 1, 0x4, 0x64, 0xFFFFFFFF, 0x0, 0x0, 0x0⟩,
  ⟨0xE0011C, 1, 0x4, 0x0, 0x0, 0x0, 0x0, 0x0⟩,
  ⟨0xE00120, 1, 0x4, 0x0, 0x0, 0x0, 0x0, 0x0⟩,
  ⟨0xE00124, 1, 0x4, 0x0, 0x0, 0x0, 0x0, 0x0⟩,
  ⟨0xE00128, 1, 0x4, 0x0, 0x0, 0x0, 0x0, 0x0⟩,
  ⟨0xE0012C, 1, 0x4, 0x0, 0x0, 0x0, 0x0, 0x0⟩,
  ⟨0xE00130, 1, 0x4, 0x0, 0x0, 0x0, 0x0, 0x0⟩,
  ⟨0xE00134, 1, 0x4, 0x0, 0x1FF, 0x0, 0x0, 0x0⟩,
  ⟨0xE00138, 1, 0x4, 0x0, 0x0, 0x0, 0x0, 0x0⟩,
  ⟨0xE0013C, 1, 0x4, 0x0, 0xFF, 0x0, 0x0, 0x0⟩,
  ⟨0xE00140, 8, 0x4, 0x0, 0x0, 0x0, 0x0, 0x0⟩,
  ⟨0xE00200, 16, 0x10, 0x0, 0x0, 0x0, 0x0, 0x0⟩,
  ⟨0xE00204, 16, 0x10, 0x0, 0x0, 0x0, 0x0, 0x0⟩,
  ⟨0xE00208, 16, 0x10, 0x0, 0x0, 0x0, 0x0, 0x0⟩,
  ⟨0xE0020C, 16, 0x10, 0x0, 0x0, 0x0, 0x0, 0x0⟩,
  ⟨0x1000100, 1, 0x4, 0x0, 0x0, 0x0, 0x1, 0x3FE⟩]
/-- Part 3 of the register table, by address. -/
def regTable3 : List RegInfo := [
  ⟨0x1000104, 1, 0x4, 0x0, 0x0, 0x17, 0x0, 0x0⟩,
  ⟨0x1000108, 1, 0x4, 0x0, 0x0, 0x0, 0x0, 0x0⟩,
  ⟨0x100010C, 1, 0x4, 0xC8, 0xFFFFFFFF, 0x0, 0x0, 0x0⟩,
  ⟨0x1000110, 1, 0x4, 0x7, 0xFFFFFFFF, 0x0, 0x0, 0x0⟩,
  ⟨0x1000114, 1, 0x4, 0x10, 0xFFFFFFFF, 0x0, 0x0, 0x0⟩,
  ⟨0x1000118, 1, 0x4, 0x40, 0xFFFFFFFF, 0x0, 0x0, 0x0⟩,
  ⟨0x100011C, 1, 0x4, 0x0, 0x0, 0x0, 0x0, 0x0⟩,
  ⟨0x1000120, 1, 0x4, 0x0, 0x0, 0x0, 0x0, 0x0⟩,
  ⟨0x1000124, 1, 0x4, 0x0, 0x0, 0x0, 0x0, 0x0⟩,
  ⟨0x1000128, 1, 0x4, 0x0, 0x0, 0x0, 0x0, 0x0⟩,
  ⟨0x100012C, 1, 0x4, 0x0, 0x0, 0x0, 0x0, 0x0⟩,
  ⟨0x1000130, 1, 0x4, 0x0, 0x0, 0x0, 0x0, 0x0⟩,
  ⟨0x1000134, 1, 0x4, 0x0, 0x0, 0x0, 0x0, 0x0⟩,
  ⟨0x1000138, 1, 0x4, 0x0, 0x1FFF, 0x0, 0x0, 0x0⟩,
  ⟨0x100013C, 1, 0x4, 0x0, 0x0, 0x0, 0x0, 0x0⟩,
  ⟨0x1000140, 1, 0x4, 0x0, 0x0, 0x0, 0x0, 0x0⟩,
  ⟨0x1000144, 1, 0x4, 0x0, 0xFFF, 0x0, 0x0, 0x0⟩,
  ⟨0x1000160, 8, 0x4, 0x0, 0x0, 0x0, 0x0, 0x0⟩,
  ⟨0x1000200, 16, 0x10, 0x0, 0x0, 0x0, 0x0, 0x0⟩,
  ⟨0x1000204, 16, 0x10, 0x0, 0x0, 0x0, 0x0, 0x0⟩,
  ⟨0x1000208, 16, 0x10, 0x0, 0x0, 0x0, 0x0, 0x0⟩,
  ⟨0x100020C, 16, 0x10, 0x0, 0x0, 0x0, 0x0, 0x0⟩,
  ⟨0x1200100, 1, 0x4, 0x0, 0x0, 0x0, 0x1, 0x0⟩,
  ⟨0x1200104, 1, 0x4, 0x0, 0x0, 0x6, 0x0, 0x0⟩,
  ⟨0x1200108, 1, 0x4, 0x0, 0x0, 0x0, 0x0, 0x0⟩,
  ⟨0x120010C, 1, 0x4, 0x61A8, 0xFFFFFFFF, 0x0, 0x0, 0x0⟩,
  ⟨0x1200110, 1, 0x4, 0x1000, 0xFFFFFFFF, 0x0, 0x0, 0x0⟩,
  ⟨0x1200114, 1, 0x4, 0xCD, 0xFFFFFFFF, 0x0, 0x0, 0x0⟩,
  ⟨0x1200118, 1, 0x4, 0x1000, 0xFFFFFFFF, 0x0, 0x0, 0x0⟩,
  ⟨0x120011C, 1, 0x4, 0x400000, 0xFFFFFFFF, 0x0, 0x0, 0x0⟩,
  ⟨0x1200120, 1, 0x4, 0x0, 0x1FFF, 0x0, 0x0, 0x0⟩,
  ⟨0x1200124, 1, 0x4, 0x0, 0xFFFFFFFF, 0x0, 0x0, 0x0⟩,
  ⟨0x1200128, 1, 0x4, 0x0, 0x0, 0x0, 0x0, 0x0⟩,
  ⟨0x1200130, 1, 0x4, 0x0, 0x7F, 0x0, 0x0, 0x0⟩,
  ⟨0x1200134, 1, 0x4, 0x0, 0xFFFFFFFF, 0x0, 0x0, 0x0⟩,
  ⟨0x1200138, 1, 0x4, 0x4000, 0xFFFFFFFF, 0x0, 0x0, 0x0⟩,
  ⟨0x120013C, 1, 0x4, 0x4000, 0xFFFFFFFF, 0x0, 0x0, 0x0⟩,
  ⟨0x1200140, 1, 0x4, 0x14, 0xFF, 0x0, 0x0, 0x0⟩,
  ⟨0x1200144, 1, 0x4, 0x0, 0x0, 0x0, 0x0, 0x0⟩,
  ⟨0x1200150, 1, 0x4, 0x0, 0x3FF, 0x0, 0x0, 0x0⟩,
  ⟨0x1200154, 1, 0x4, 0x0, 0xFFFFFFFF, 0x0, 0x0, 0x0⟩,
  ⟨0x1200158, 1, 0x4, 0x10000, 0xFFFFFFFF, 0x0, 0x0, 0x0⟩,
  ⟨0x120015C, 1, 0x4, 0x14, 0xFF, 0x0, 0x0, 0x0⟩,
  ⟨0x1200160, 1, 0x4, 0x0, 0x0, 0x0, 0x0, 0x0⟩,
  ⟨0x1400100, 1, 0x4, 0x0, 0x5, 0x0, 0x2, 0x0⟩,
  ⟨0x1400104, 1, 0x4, 0x0, 0x0, 0x38, 0x0, 0x0⟩,
  ⟨0x1400108, 1, 0x4, 0x0, 0x0, 0x0, 0x0, 0x0⟩,
  ⟨0x140010C, 1, 0x4, 0x3, 0xFFFFFFFF, 0x0, 0x0, 0x0⟩,
  ⟨0x1400110, 1, 0x4, 0x14, 0xFFFFFFFF, 0x0, 0x0, 0x0⟩,
  ⟨0x1400114, 1, 0x4, 0xA, 0xFFFFFFFF, 0x0, 0x0, 0x0⟩,
  ⟨0x1400118, 1, 0x4, 0x0, 0x0, 0x0, 0x0, 0x0⟩,
  ⟨0x140011C, 1, 0x4, 0x0, 0x0, 0x0, 0x0, 0x0⟩,
  ⟨0x1400120, 1, 0x4, 0x0, 0x0, 0x0, 0x0, 0x0⟩,
  ⟨0x1400124, 1, 0x4, 0x0, 0x0, 0x0, 0x0, 0x0⟩,
  ⟨0x1400128, 1, 0x4, 0x0, 0x0, 0x0, 0x0, 0x0⟩,
  ⟨0x140012C, 1, 0x4, 0x0, 0x0, 0x0, 0x0, 0x0⟩,
  ⟨0x1400130, 1, 0x4, 0x0, 0x0, 0x0, 0x0, 0x0⟩,
  ⟨0x1400140, 1, 0x4, 0x0, 0xF, 0x0, 0x0, 0x0⟩,
  ⟨0x1400144, 1, 0x4, 0x0, 0x0, 0x0, 0x0, 0x0⟩,
  ⟨0x1400148, 1, 0x4, 0x0, 0x0, 0x0, 0x0, 0x0⟩]
/-- Part 4 of the register table, by address. -/
def regTable4 : List RegInfo := [
  ⟨0x140014C, 1, 0x4, 0x0, 0x0, 0x0, 0x0, 0x0⟩,
  ⟨0x1400150, 1, 0x4, 0x0, 0x0, 0x0, 0x0, 0x0⟩,
  ⟨0x1400154, 1, 0x4, 0x0, 0x0, 0x0, 0x0, 0x0⟩,
  ⟨0x1400158, 1, 0x4, 0x0, 0xFFFFFFFF, 0x0, 0x0, 0x0⟩,
  ⟨0x140015C, 1, 0x4, 0x0, 0xFFFFFFFF, 0x0, 0x0, 0x0⟩,
  ⟨0x1400160, 1, 0x4, 0x0, 0x0, 0x0, 0x0, 0x0⟩,
  ⟨0x1400164, 1, 0x4, 0x0, 0x0, 0x0, 0xFFFFF, 0x0⟩,
  ⟨0x1600100, 1, 0x4, 0x1, 0x1, 0x0, 0x0, 0x0⟩,
  ⟨0x1600104, 1, 0x4, 0x0, 0x0, 0x1, 0x0, 0x0⟩,
  ⟨0x1600108, 1, 0x4, 0x0, 0x0, 0x0, 0x0, 0x0⟩,
  ⟨0x160010C, 1, 0x4, 0x3E8, 0xFFFFFFFF, 0x0, 0x0, 0x0⟩,
  ⟨0x1600110, 1, 0x4, 0x0, 0x107FF, 0x0, 0x0, 0x0⟩,
  ⟨0x1600114, 1, 0x4, 0x100, 0x8FFFF, 0x0, 0x0, 0x70000⟩,
  ⟨0x1600118, 1, 0x4, 0x0, 0xFFFFFFFF, 0x0, 0x0, 0x0⟩,
  ⟨0x160011C, 1, 0x4, 0x0, 0xFFFFFFFF, 0x0, 0x0, 0x0⟩,
  ⟨0x1600120, 1, 0x4, 0x0, 0xFFFFFFFF, 0x0, 0x0, 0x0⟩,
  ⟨0x1600124, 1, 0x4, 0x0, 0xFFFFFFFF, 0x0, 0x0, 0x0⟩,
  ⟨0x1600128, 1, 0x4, 0x0, 0xFFFFFFFF, 0x0, 0x0, 0x0⟩,
  ⟨0x160012C, 1, 0x4, 0x0, 0xFFFFFFFF, 0x0, 0x0, 0x0⟩,
  ⟨0x1600130, 1, 0x4, 0x0, 0x0, 0x0, 0x0, 0x0⟩,
  ⟨0x1600134, 1, 0x4, 0x0, 0x0, 0x0, 0x0, 0x0⟩,
  ⟨0x1600138, 1, 0x4, 0x0, 0xFF, 0x0, 0x0, 0x0⟩,
  ⟨0x160013C, 1, 0x4, 0x0, 0x83FF, 0x0, 0x0, 0x0⟩,
  ⟨0x1600140, 1, 0x4, 0x0, 0x7, 0x0, 0x0, 0x0⟩,
  ⟨0x1600144, 1, 0x4, 0x0, 0x0, 0x0, 0x0, 0x0⟩,
  ⟨0x1600180, 32, 0x4, 0x0, 0x0, 0x0, 0x0, 0x0⟩,
  ⟨0x1800100, 1, 0x4, 0x0, 0x0, 0x0, 0x3, 0x0⟩,
  ⟨0x1800104, 1, 0x4, 0x0, 0x0, 0x20, 0x0, 0x0⟩,
  ⟨0x1800108, 1, 0x4, 0x0, 0x0, 0x0, 0x0, 0x0⟩,
  ⟨0x180010C, 1, 0x4, 0x19, 0xFFFFFFFF, 0x0, 0x0, 0x0⟩,
  ⟨0x1800110, 1, 0x4, 0x40, 0xFFFFFFFF, 0x0, 0x0, 0x0⟩,
  ⟨0x1800114, 1, 0x4, 0x64, 0xFFFFFFFF, 0x0, 0x0, 0x0⟩,
  ⟨0x1800118, 1, 0x4, 0x100, 0xFFFFFFFF, 0x0, 0x0, 0x0⟩,
  ⟨0x180011C, 1, 0x4, 0x8, 0xFFFFFFFF, 0x0, 0x0, 0x0⟩,
  ⟨0x1800120, 1, 0x4, 0x0, 0x0, 0x0, 0x0, 0x0⟩,
  ⟨0x1800124, 1, 0x4, 0x0, 0xFFFFFFFF, 0x0, 0x0, 0x0⟩,
  ⟨0x1800128, 1, 0x4, 0x0, 0x0, 0x0, 0x0, 0x0⟩,
  ⟨0x180012C, 1, 0x4, 0xC0E, 0xF0F, 0x0, 0x0, 0x0⟩,
  ⟨0x1800130, 1, 0x4, 0x0, 0x0, 0x0, 0x0, 0x0⟩,
  ⟨0x1800134, 1, 0x4, 0x0, 0x0, 0x0, 0x0, 0x0⟩,
  ⟨0x1800138, 1, 0x4, 0x0, 0x0, 0x3F, 0x0, 0x0⟩,
  ⟨0x180013C, 1, 0x4, 0x0, 0x0, 0x0, 0x0, 0x0⟩,
  ⟨0x1800140, 1, 0x4, 0x0, 0xFFFF, 0x0, 0x0, 0x0⟩,
  ⟨0x1800144, 1, 0x4, 0x0, 0x0, 0x0, 0x0, 0x0⟩,
  ⟨0x1800148, 1, 0x4, 0x0, 0xFFFF, 0x0, 0x0, 0x0⟩,
  ⟨0x180014C, 1, 0x4, 0x0, 0x0, 0x0, 0x0, 0x0⟩,
  ⟨0x1800150, 1, 0x4, 0x0, 0x0, 0x0, 0x0, 0x0⟩,
  ⟨0x1800154, 1, 0x4, 0x0, 0x3FF, 0x0, 0x0, 0x0⟩,
  ⟨0x1800158, 1, 0x4, 0x0, 0x1, 0x0, 0x0, 0x0⟩,
  ⟨0x1810000, 16384, 0x4, 0x0, 0x0, 0x0, 0x0, 0x0⟩,
  ⟨0x1A00100, 1, 0x4, 0x0, 0x0, 0x0, 0x1, 0x0⟩,
  ⟨0x1A00104, 1, 0x4, 0x0, 0x0, 0x2, 0x0, 0x0⟩,
  ⟨0x1A00108, 1, 0x4, 0x0, 0x0, 0x0, 0x0, 0x0⟩,
  ⟨0x1A0010C, 1, 0x4, 0x3E8, 0xFFFFFFFF, 0x0, 0x0, 0x0⟩,
  ⟨0x1A00110, 1, 0x4, 0x1000, 0xFFFFFFFF, 0x0, 0x0, 0x0⟩,
  ⟨0x1A00114, 1, 0x4, 0x1000, 0xFFFFFFFF, 0x0, 0x0, 0x0⟩,
  ⟨0x1A00118, 1, 0x4, 0x4000, 0xFFFFFFFF, 0x0, 0x0, 0x0⟩,
  ⟨0x1A0011C, 1, 0x4, 0x0, 0xF7, 0x0, 0x0, 0x0⟩,
  ⟨0x1A00120, 1, 0x4, 0x0, 0x0, 0x8, 0x0, 0x0⟩,
  ⟨0x1A00124, 1, 0x4, 0x0, 0x0, 0x0, 0x0, 0x0⟩]
/-- Part 5 of the register table, by address. -/
def regTable5 : List RegInfo := [
  ⟨0x1A00128, 1, 0x4, 0x0, 0x0, 0x0, 0x0, 0x0⟩,
  ⟨0x1A0012C, 1, 0x4, 0x0, 0xFFFFFFFF, 0x0, 0x0, 0x0⟩,
  ⟨0x1A00130, 1, 0x4, 0x0, 0xFFFFFFFF, 0x0, 0x0, 0x0⟩,
  ⟨0x1A00134, 1, 0x4, 0x0, 0xFFFFFFFF, 0x0, 0x0, 0x0⟩,
  ⟨0x1A00138, 1, 0x4, 0x0, 0x0, 0x0, 0x0, 0x0⟩,
  ⟨0x1A0013C, 1, 0x4, 0x0, 0x0, 0x0, 0x0, 0x0⟩,
  ⟨0x1A00140, 1, 0x4, 0x0, 0x3, 0x0, 0xC, 0x0⟩,
  ⟨0x1A00144, 1, 0x4, 0x0, 0x0, 0x0, 0x0, 0x0⟩,
  ⟨0x1A00148, 1, 0x4, 0x0, 0xFFFFFFFF, 0x0, 0x0, 0x0⟩,
  ⟨0x1A0014C, 1, 0x4, 0x0, 0x0, 0x0, 0x0, 0x0⟩,
  ⟨0x1A00150, 1, 0x4, 0x0, 0x0, 0x0, 0x0, 0x0⟩,
  ⟨0x1A00154, 1, 0x4, 0x0, 0xFFFFFFFF, 0x0, 0x0, 0x0⟩,
  ⟨0x1A00158, 1, 0x4, 0x0, 0x0, 0x0, 0x0, 0x0⟩,
  ⟨0x1A0015C, 1, 0x4, 0x0, 0x0, 0x0, 0x0, 0x0⟩,
  ⟨0x1A00160, 1, 0x4, 0x0, 0x0, 0x0, 0x1, 0x0⟩,
  ⟨0x1A00164, 1, 0x4, 0x0, 0x3, 0x0, 0x0, 0x0⟩,
  ⟨0x1A00168, 1, 0x4, 0x0, 0x0, 0x0, 0x0, 0x0⟩,
  ⟨0x1A0016C, 1, 0x4, 0x0, 0x0, 0x0, 0x0, 0x0⟩,
  ⟨0x1A00170, 1, 0x4, 0x0, 0x0, 0x0, 0x3, 0x0⟩,
  ⟨0x1A00180, 8, 0x8, 0x0, 0x87FF, 0x0, 0x0, 0x0⟩,
  ⟨0x1A00184, 8, 0x8, 0x0, 0xFFFFFFFF, 0x0, 0x0, 0x0⟩,
  ⟨0x1A001C0, 4, 0x4, 0x0, 0xFFFFFFFF, 0x0, 0x0, 0x0⟩,
  ⟨0x1A00400, 24, 0x4, 0x0, 0x0, 0x0, 0x0, 0x0⟩,
  ⟨0x1A00500, 24, 0x4, 0x0, 0x0, 0x0, 0x0, 0x0⟩,
  ⟨0x1A00560, 1, 0x4, 0x0, 0x0, 0x0, 0x0, 0x0⟩,
  ⟨0x1A00564, 1, 0x4, 0x0, 0x0, 0x0, 0x0, 0x0⟩,
  ⟨0x1C00100, 1, 0x4, 0x0, 0x0, 0x0, 0x3, 0x0⟩,
  ⟨0x1C00104, 1, 0x4, 0x0, 0x0, 0x18, 0x0, 0x0⟩,
  ⟨0x1C00108, 1, 0x4, 0x0, 0x0, 0x0, 0x0, 0x0⟩,
  ⟨0x1C0010C, 1, 0x4, 0x5F, 0xFFFFFFFF, 0x0, 0x0, 0x0⟩,
  ⟨0x1C00110, 1, 0x4, 0x14, 0xFFFFFFFF, 0x0, 0x0, 0x0⟩,
  ⟨0x1C00114, 1, 0x4, 0x40, 0xFFFFFFFF, 0x0, 0x0, 0x0⟩,
  ⟨0x1C00118, 1, 0x4, 0x258, 0xFFFFFFFF, 0x0, 0x0, 0x0⟩,
  ⟨0x1C0011C, 1, 0x4, 0xF, 0xFFFFFFFF, 0x0, 0x0, 0x0⟩,
  ⟨0x1C00120, 1, 0x4, 0xF0096, 0xFFFFFFFF, 0x0, 0x0, 0x0⟩,
  ⟨0x1C00124, 1, 0x4, 0x0, 0x0, 0x0, 0x0, 0x0⟩,
  ⟨0x1C00128, 1, 0x4, 0x0, 0x0, 0x0, 0x0, 0x0⟩,
  ⟨0x1C00130, 1, 0x4, 0x0, 0x7F, 0x0, 0x0, 0x0⟩,
  ⟨0x1C00134, 1, 0x4, 0x0, 0x0, 0x0, 0x0, 0x0⟩,
  ⟨0x1C00138, 1, 0x4, 0x0, 0x0, 0x0, 0x0, 0x0⟩,
  ⟨0x1C0013C, 1, 0x4, 0x0, 0x0, 0x0, 0x0, 0x0⟩,
  ⟨0x1C00140, 1, 0x4, 0x0, 0x0, 0x0, 0x0, 0x0⟩,
  ⟨0x1C00150, 1, 0x4, 0x0, 0xFFF, 0x0, 0x0, 0x0⟩,
  ⟨0x1C00154, 1, 0x4, 0x0, 0x0, 0x0, 0x0, 0x0⟩,
  ⟨0x1C00160, 4, 0x4, 0x0, 0x0, 0x0, 0x0, 0x0⟩,
  ⟨0x1C00170, 1, 0x4, 0x0, 0xFF, 0x0, 0x0, 0x0⟩,
  ⟨0x1C00174, 1, 0x4, 0x0, 0x0, 0x0, 0x0, 0x0⟩,
  ⟨0x1C00178, 1, 0x4, 0x0, 0x0, 0x0, 0x0, 0x0⟩,
  ⟨0x1C0017C, 1, 0x4, 0x0, 0x0, 0x0, 0x0, 0x0⟩,
  ⟨0x1C00180, 1, 0x4, 0x0, 0x0, 0x0, 0x0, 0x0⟩,
  ⟨0x1C00184, 1, 0x4, 0x0, 0x0, 0x0, 0x0, 0x0⟩,
  ⟨0x1C00188, 1, 0x4, 0x0, 0x1FFFF, 0x0, 0x0, 0x0⟩,
  ⟨0x1C001C0, 16, 0x4, 0x0, 0x0, 0x0, 0x0, 0x0⟩,
  ⟨0x1C00200, 40, 0x4, 0x0, 0x0, 0x0, 0x0, 0x0⟩,
  ⟨0x1E00100, 1, 0x4, 0x0, 0x3, 0x0, 0x4, 0x0⟩,
  ⟨0x1E00104, 1, 0x4, 0x0, 0x0, 0xE, 0x0, 0x0⟩,
  ⟨0x1E00108, 1, 0x4, 0x0, 0x0, 0x0, 0x0, 0x0⟩,
  ⟨0x1E0010C, 1, 0x4, 0x2, 0xFFFFFFFF, 0x0, 0x0, 0x0⟩,
  ⟨0x1E00110, 1, 0x4, 0x0, 0xFFFFFFFF, 0x0, 0x0, 0x0⟩,
  ⟨0x1E00114, 1, 0x4, 0x0, 0x7FF, 0x0, 0x0, 0x0⟩]
/-- Part 6 of the register table, by address. -/
def regTable6 : List RegInfo := [
  ⟨0x1E00118, 1, 0x4, 0x0, 0x0, 0x0, 0x0, 0x0⟩,
  ⟨0x1E0011C, 1, 0x4, 0x0, 0x3F, 0x0, 0x0, 0x0⟩,
  ⟨0x1E00120, 1, 0x4, 0x0, 0x0, 0x0, 0x0, 0x0⟩,
  ⟨0x1E00128, 1, 0x4, 0x0, 0xFFFFFFFF, 0x0, 0x0, 0x0⟩,
  ⟨0x1E0012C, 1, 0x4, 0x0, 0xFFFFFFFF, 0x0, 0x0, 0x0⟩,
  ⟨0x1E00200, 2, 0x40, 0x0, 0x0, 0x0, 0x0, 0x0⟩,
  ⟨0x1E00300, 1, 0x4, 0x0, 0xFFFF, 0x0, 0x0, 0x0⟩,
  ⟨0x1E00304, 1, 0x4, 0x0, 0x1FFFD, 0x0, 0x2, 0x0⟩,
  ⟨0x1E00308, 1, 0x4, 0x0, 0xFFFFFFFF, 0x0, 0x0, 0x0⟩,
  ⟨0x1E0030C, 1, 0x4, 0x0, 0xFFFFFFFF, 0x0, 0x0, 0x0⟩,
  ⟨0x1E00310, 1, 0x4, 0x0, 0xFFFFFFFF, 0x0, 0x0, 0x0⟩,
  ⟨0x1E00314, 1, 0x4, 0x0, 0x0, 0x0, 0x0, 0x0⟩,
  ⟨0x1E00318, 1, 0x4, 0x0, 0x0, 0x0, 0x0, 0x0⟩,
  ⟨0x2000100, 1, 0x4, 0x0, 0x3, 0x0, 0x4, 0x0⟩,
  ⟨0x2000104, 1, 0x4, 0x0, 0x0, 0x508, 0x0, 0x0⟩,
  ⟨0x2000108, 1, 0x4, 0x0, 0x0, 0x0, 0x0, 0x0⟩,
  ⟨0x200010C, 1, 0x4, 0xA, 0xFFFFFFFF, 0x0, 0x0, 0x0⟩,
  ⟨0x2000110, 1, 0x4, 0x3E8, 0xFFFFFFFF, 0x0, 0x0, 0x0⟩,
  ⟨0x2000114, 1, 0x4, 0x258, 0xFFFFFFFF, 0x0, 0x0, 0x0⟩,
  ⟨0x2000118, 1, 0x4, 0x0, 0x0, 0x0, 0x0, 0x0⟩,
  ⟨0x200011C, 1, 0x4, 0x0, 0x0, 0x0, 0x0, 0x0⟩,
  ⟨0x2000120, 1, 0x4, 0x0, 0x0, 0x0, 0x7F, 0x0⟩,
  ⟨0x2000124, 1, 0x4, 0x0, 0x0, 0x0, 0x0, 0x0⟩,
  ⟨0x2000128, 1, 0x4, 0x0, 0x0, 0x0, 0x0, 0x0⟩,
  ⟨0x200012C, 1, 0x4, 0x0, 0x0, 0x0, 0x0, 0x0⟩,
  ⟨0x2000130, 1, 0x4, 0x0, 0x0, 0x0, 0x0, 0x0⟩,
  ⟨0x2000134, 1, 0x4, 0x0, 0x0, 0x0, 0x0, 0x0⟩,
  ⟨0x2000138, 1, 0x4, 0x0, 0x0, 0x0, 0x0, 0x0⟩,
  ⟨0x200013C, 1, 0x4, 0x0, 0x0, 0x0, 0x0, 0x0⟩,
  ⟨0x2000140, 1, 0x4, 0x0, 0x7, 0x0, 0x0, 0x0⟩,
  ⟨0x2000180, 32, 0x4, 0x0, 0x0, 0x0, 0x0, 0x0⟩,
  ⟨0x2200100, 1, 0x4, 0x0, 0x0, 0x0, 0x3, 0x0⟩,
  ⟨0x2200104, 1, 0x4, 0x0, 0x0, 0x10, 0x0, 0x0⟩,
  ⟨0x2200108, 1, 0x4, 0x0, 0x0, 0x0, 0x0, 0x0⟩,
  ⟨0x220010C, 1, 0x4, 0x0, 0x0, 0x0, 0xFFFF000F, 0x0⟩,
  ⟨0x2200110, 1, 0x4, 0x0, 0x0, 0x0, 0x0, 0x0⟩,
  ⟨0x2200114, 1, 0x4, 0x0, 0x0, 0x0, 0x0, 0x0⟩,
  ⟨0x2200118, 1, 0x4, 0x0, 0xFFFFFFFF, 0x0, 0x0, 0x0⟩,
  ⟨0x220011C, 1, 0x4, 0x0, 0xFFFFFFFF, 0x0, 0x0, 0x0⟩,
  ⟨0x2200120, 1, 0x4, 0x0, 0x7, 0x0, 0x0, 0x0⟩,
  ⟨0x2200124, 1, 0x4, 0x0, 0x0, 0x0, 0x0, 0x0⟩,
  ⟨0x2200128, 1, 0x4, 0x0, 0x0, 0x0, 0x0, 0x0⟩,
  ⟨0x220012C, 1, 0x4, 0x0, 0x0, 0x0, 0x0, 0x0⟩,
  ⟨0x2200130, 1, 0x4, 0x0, 0x0, 0x0, 0x0, 0x0⟩,
  ⟨0x2400100, 1, 0x4, 0x0, 0x1, 0x0, 0x2, 0x0⟩,
  ⟨0x2400104, 1, 0x4, 0x0, 0x0, 0xC0, 0x0, 0x0⟩,
  ⟨0x2400108, 1, 0x4, 0x0, 0x0, 0x0, 0x0, 0x0⟩,
  ⟨0x240010C, 1, 0x4, 0x1B8, 0xFFFFFFFF, 0x0, 0x0, 0x0⟩,
  ⟨0x2400110, 1, 0x4, 0x64, 0xFFFFFFFF, 0x0, 0x0, 0x0⟩,
  ⟨0x2400114, 1, 0x4, 0x64, 0xFFFFFFFF, 0x0, 0x0, 0x0⟩,
  ⟨0x2400118, 1, 0x4, 0x0, 0xFFFFFFFF, 0x0, 0x0, 0x0⟩,
  ⟨0x240011C, 1, 0x4, 0x0, 0x0, 0x0, 0x0, 0x0⟩,
  ⟨0x2400120, 1, 0x4, 0x0, 0x0, 0x0, 0x0, 0x0⟩,
  ⟨0x2400124, 1, 0x4, 0x0, 0x0, 0x0, 0x0, 0x0⟩,
  ⟨0x2400128, 1, 0x4, 0x0, 0x0, 0x0, 0x0, 0x0⟩,
  ⟨0x240012C, 1, 0x4, 0x0, 0x0, 0x0, 0x0, 0x0⟩,
  ⟨0x2400130, 1, 0x4, 0x0, 0x0, 0x0, 0x0, 0x0⟩,
  ⟨0x2400134, 1, 0x4, 0x0, 0x0, 0x0, 0x0, 0x0⟩,
  ⟨0x2400138, 1, 0x4, 0x0, 0x0, 0x0, 0xFFFF0003, 0x0⟩,
  ⟨0x2400140, 1, 0x4, 0x0, 0x7F, 0x0, 0x0, 0x0⟩]
/-- Part 7 of the register table, by address. -/
def regTable7 : List RegInfo := [
  ⟨0x2400144, 1, 0x4, 0x0, 0x0, 0x0, 0x0, 0x0⟩]
/-- Every register the spec's tables list beyond the common pair (R556), by address. -/
def regTable : List RegInfo :=
  regTable0 ++ regTable1 ++ regTable2 ++ regTable3 ++ regTable4 ++ regTable5 ++ regTable6 ++ regTable7

/-- The row's register at address `a`, if it has one. -/
def RegInfo.holds (i : RegInfo) (a : Nat) : Bool :=
  i.addr ≤ a && a < i.addr + i.count * i.stride && (a - i.addr) % i.stride == 0

/-- The table's row for address `a` (R555: no row means that it reads as zero and ignores writes). -/
def regInfo? (a : Nat) : Option RegInfo := regTable.find? (·.holds a)

/-- Registers whose reset value is not zero (the DEFAULT profile's values among them). -/
def resetTab : Tab U32 := [
  (0x108, 0xFFFF),
  (0x10C, 0x2),
  (0x100130, 0x100),
  (0x100138, 0x3C),
  (0x20010C, 0x4000),
  (0x200110, 0x4000),
  (0x200114, 0x100),
  (0x200118, 0x30D40),
  (0x20011C, 0x2710),
  (0x200120, 0x3),
  (0x200124, 0x80),
  (0x200154, 0xFF),
  (0x40010C, 0xE),
  (0x400110, 0x2),
  (0x60010C, 0x85),
  (0x600110, 0x6),
  (0x600114, 0x2),
  (0x600118, 0x7D0),
  (0x800118, 0x1),
  (0x800148, 0x18),
  (0x80014C, 0xA),
  (0x800150, 0x3E8),
  (0x8001A0, 0xFFFF),
  (0x8001A4, 0xFFFF),
  (0x8001A8, 0xFFFF),
  (0x8001AC, 0xFFFF),
  (0x8001B0, 0xFFFF),
  (0x8001B4, 0xFFFF),
  (0x8001B8, 0xFFFF),
  (0x8001BC, 0xFFFF),
  (0x8001C0, 0xFFFF),
  (0xA0010C, 0x2710),
  (0xA00110, 0x2),
  (0xA00114, 0x2),
  (0xA00118, 0x10000),
  (0xC0010C, 0xC350),
  (0xC00110, 0x2710),
  (0xC00114, 0x1F4),
  (0xC00118, 0x20000),
  (0xC0011C, 0x3E8),
  (0xC00120, 0x3),
  (0xC00124, 0x100),
  (0xC00128, 0x2000),
  (0xE0010C, 0xA),
  (0xE00110, 0x4),
  (0xE00114, 0x7D0),
  (0xE00118, 0x64),
  (0x100010C, 0xC8),
  (0x1000110, 0x7),
  (0x1000114, 0x10),
  (0x1000118, 0x40),
  (0x120010C, 0x61A8),
  (0x1200110, 0x1000),
  (0x1200114, 0xCD),
  (0x1200118, 0x1000),
  (0x120011C, 0x400000),
  (0x1200138, 0x4000),
  (0x120013C, 0x4000),
  (0x1200140, 0x14),
  (0x1200158, 0x10000),
  (0x120015C, 0x14),
  (0x140010C, 0x3),
  (0x1400110, 0x14),
  (0x1400114, 0xA),
  (0x1600100, 0x1),
  (0x160010C, 0x3E8),
  (0x1600114, 0x100),
  (0x180010C, 0x19),
  (0x1800110, 0x40),
  (0x1800114, 0x64),
  (0x1800118, 0x100),
  (0x180011C, 0x8),
  (0x180012C, 0xC0E),
  (0x1A0010C, 0x3E8),
  (0x1A00110, 0x1000),
  (0x1A00114, 0x1000),
  (0x1A00118, 0x4000),
  (0x1C0010C, 0x5F),
  (0x1C00110, 0x14),
  (0x1C00114, 0x40),
  (0x1C00118, 0x258),
  (0x1C0011C, 0xF),
  (0x1C00120, 0xF0096),
  (0x1E0010C, 0x2),
  (0x200010C, 0xA),
  (0x2000110, 0x3E8),
  (0x2000114, 0x258),
  (0x240010C, 0x1B8),
  (0x2400110, 0x64),
  (0x2400114, 0x64)]

/-- What register `a` reads as after a reset, before anything writes it. -/
def resetOf (a : Nat) : U32 := Tab.look 0 a resetTab

end Sys2Proof.Machine
end

