-- ==== Sys2Proof/Machine/State.lean ====
section
/-! DEFINITION. The state of the device: the queue of waiting commands, the plain registers, memory, and one
structure per block; the reasons a step can stop; and the state right after reset. -/

namespace Sys2Proof.Machine

/-- The reasons a step can stop with a fault. The spec gives every command an effect, and reports its faults in fault
records and statuses, which are state: no command of this device stops the model, so no reason exists. Safe: nothing
raises one. -/
inductive Fault where
  deriving DecidableEq, Repr

/-- The reasons a step can be refused. -/
inductive Refusal where
  /-- The named command has no meaning yet. Raised by its arm of `exec`; safe, since the step then has no next state. -/
  | notModelled (mnemonic : String)
  deriving DecidableEq, Repr

/-- The state of the device. -/
structure State where
  /-- Commands that wait, first in, first out. -/
  pending : List Instr := []
  /-- Free values drawn so far (the model's own counter; log entry 2). -/
  fresh : Nat := 0
  /-- ORDER_CODE of the fuses (R511): 0 LW20-A1, 1 LW20-A1E, 2 LW20-A1C. -/
  order : Fin 3 := 0
  /-- READY of BLOCK_STATUS, by block type (R556). -/
  ready : Tab Bool := []
  /-- RUN has been declared (R485). -/
  run : Bool := false
  /-- The registers that are plain storage, by BAR0 address; an unlisted one holds its reset value. -/
  regs : Tab U32 := []
  /-- HI words latched by reads of their LO words, by reader · 2^26 + BAR0 address of HI (R562). -/
  latches : Tab (Option U32) := []
  /-- Control writes received and not yet in effect, oldest first (R35). -/
  staged : List (Nat × U32) := []
  /-- Bytes of every space by device-local address (R182); an unlisted byte reads as 0 (log entry 3). -/
  mem : List Host.Cell := []
  hostif : HostIf := {}
  fault : FaultSt := {}
  obs : ObsSt := {}
  tenant : TenantSt := {}
  tier : TierSt := {}
  herd : HerdSt := {}
  anchor : AnchorSt := {}
  eland : ElandSt := {}
  spring : SpringSt := {}
  ibex : IbexSt := {}
  handoff : HandoffSt := {}
  strait : StraitSt := {}
  net : NetSt := {}
  cham : ChamSt := {}
  health : HealthSt := {}
  struct : StructSt := {}
  fw : FwSt := {}
  sec : SecSt := {}
  pwr : PwrSt := {}
  pins : PinSt := {}
  deriving DecidableEq, Repr

/-- The device right after a cold reset: every register at its stated value, nothing loaded, nothing waiting. Values
the spec does not state are those of log entry 4. -/
def State.reset : State := {}

end Sys2Proof.Machine
end

