-- ==== Sys2Proof/Machine/Ops.lean ====
section
/-! DEFINITION. Named operations over registers, memory, free values and time, which every block uses. -/

namespace Sys2Proof.Machine

/-! ### Numbers and bytes -/

/-- Saturating addition below 2^`w`. -/
def satAdd (w a b : Nat) : Nat := if a + b < 2 ^ w then a + b else 2 ^ w - 1

/-- A signed value as `w` bits, saturated. -/
def satInt (w : Nat) (x : Int) : Int :=
  if x < -(2 ^ (w - 1) : Int) then -(2 ^ (w - 1) : Int) else if (2 ^ (w - 1) : Int) - 1 < x then 2 ^ (w - 1) - 1 else x

/-- `n` bytes of a value, least significant first (R8). -/
def leBytes : Nat → Nat → List Byte
  | 0, _ => []
  | n + 1, v => BitVec.ofNat 8 v :: leBytes n (v / 256)

/-- The value of bytes, least significant first (R8). -/
def leNat : List Byte → Nat
  | [] => 0
  | b :: bs => b.toNat + 256 * leNat bs

/-- Fields of (size in bytes, value), one after the other (R8). -/
def packBytes : List (Nat × Nat) → List Byte
  | [] => []
  | (n, v) :: fs => leBytes n v ++ packBytes fs

/-- A 16-byte payload made of fields (R421). -/
def payload (fs : List (Nat × Nat)) : BitVec 128 := BitVec.ofNat 128 (leNat (packBytes fs))

/-- One bit of the reflected CRC-64/XZ register (R48). -/
def crcBit (c : Nat) : Nat := if c % 2 = 1 then (c / 2) ^^^ 0xC96C5795D7870F42 else c / 2

/-- One byte of CRC-64/XZ (R48). -/
def crcByte (c : Nat) (b : Byte) : Nat :=
  crcBit (crcBit (crcBit (crcBit (crcBit (crcBit (crcBit (crcBit (c ^^^ b.toNat))))))))

/-- CRC-64/XZ (R48): initial value and final exclusive-or all ones. -/
def crc64 (bs : List Byte) : Nat := (bs.foldl crcByte 0xFFFFFFFFFFFFFFFF) ^^^ 0xFFFFFFFFFFFFFFFF

/-- Bits [hi:lo] of a word (R7). -/
def bits (v hi lo : Nat) : Nat := v / 2 ^ lo % 2 ^ (hi + 1 - lo)

/-- Puts an element in a list before the first that it may precede. -/
def insertBy {α : Type} (le : α → α → Bool) (x : α) : List α → List α
  | [] => [x]
  | y :: ys => if le x y then x :: y :: ys else y :: insertBy le x ys

/-- Sorts a list; elements of equal rank keep their order. -/
def sortBy {α : Type} (le : α → α → Bool) : List α → List α
  | [] => []
  | x :: xs => insertBy le x (sortBy le xs)

/-- A reader can read a structure of this format level: one above its own it reads by the fields of its own level (R10). No
structure has level 0 (log entry 81). -/
def readable (level : Nat) : Bool := decide (1 ≤ level)

/-- A reserved field of a structure holds zero; a level above the reader's own may define it, and the reader ignores it then
(R9, R10). -/
def reserved (level : Nat) (zero : Bool) : Bool := decide (1 < level) || zero

/-! ### Registers that are plain storage -/

/-- The value held at a register's address. -/
def State.rd (s : State) (a : Nat) : U32 := Tab.look (resetOf a) a s.regs

/-- The value held at a register's address, as a number. -/
def State.rdN (s : State) (a : Nat) : Nat := (s.rd a).toNat

/-- Sets the value held at a register's address. -/
def State.wr (s : State) (a : Nat) (v : U32) : State := { s with regs := Tab.place (resetOf a) a v s.regs }

/-- Bit `i` of a register. -/
def State.flag (s : State) (a i : Nat) : Bool := (s.rd a).getLsbD i

/-- Sets or clears bit `i` of a register. -/
def State.setFlag (s : State) (a i : Nat) (b : Bool) : State :=
  s.wr a (if b then s.rd a ||| (1#32 <<< i) else s.rd a &&& ~~~(1#32 <<< i))

/-- Replaces field [lo + width − 1 : lo] of a register. -/
def State.setField (s : State) (a lo width v : Nat) : State :=
  let m : U32 := BitVec.ofNat 32 ((2 ^ width - 1) * 2 ^ lo)
  s.wr a ((s.rd a &&& ~~~m) ||| (BitVec.ofNat 32 (v * 2 ^ lo) &&& m))

/-- Field [lo + width − 1 : lo] of a register. -/
def State.field (s : State) (a lo width : Nat) : Nat := s.rdN a / 2 ^ lo % 2 ^ width

/-- Adds to a saturating counter held in a register field (R409). -/
def State.bump (s : State) (a lo width n : Nat) : State :=
  s.setField a lo width (satAdd width (s.field a lo width) n)

/-- Adds to a saturating 32-bit counter register. -/
def State.count (s : State) (a n : Nat) : State := s.wr a (BitVec.ofNat 32 (satAdd 32 (s.rdN a) n))

/-- Adds to a 64-bit counter held in a LO and HI pair at `a` and `a + 4`; it wraps (R409). -/
def State.count64 (s : State) (a n : Nat) : State :=
  let v := s.rdN a + 2 ^ 32 * s.rdN (a + 4) + n
  (s.wr a (BitVec.ofNat 32 v)).wr (a + 4) (BitVec.ofNat 32 (v / 2 ^ 32))

/-! ### Memory -/

/-- The byte at a device-local address. -/
def State.byte (s : State) (a : Nat) : Byte := Tab.look 0 a s.mem

/-- Writes one byte. -/
def State.setByte (s : State) (a : Nat) (b : Byte) : State := { s with mem := Tab.place 0 a b s.mem }

/-- Reads `n` bytes. -/
def State.bytes (s : State) (a : Nat) : Nat → List Byte
  | 0 => []
  | n + 1 => s.byte a :: s.bytes (a + 1) n

/-- Writes bytes, lowest address first. -/
def State.setBytes (s : State) (a : Nat) : List Byte → State
  | [] => s
  | b :: bs => (s.setByte a b).setBytes (a + 1) bs

/-- The little-endian value of `n` bytes (R8). -/
def State.loadLE (s : State) (a n : Nat) : Nat := leNat (s.bytes a n)

/-- Writes a value in `n` bytes (R8). -/
def State.storeLE (s : State) (a n v : Nat) : State := s.setBytes a (leBytes n v)

/-! ### Free values, time and identity -/

/-- A value the spec leaves open, drawn afresh (log entry 2). -/
def State.freeNow (s : State) : BitVec 64 := Config.freeValue s.fresh

/-- Moves on to the next free value. -/
def State.drawn (s : State) : State := { s with fresh := s.fresh + 1 }

/-- `n` free words drawn from `k` on. -/
def freeWords (k n : Nat) : List U32 := (List.range n).map fun i => (Config.freeValue (k + i)).truncate 32

/-- `n` free bytes drawn from `k` on. -/
def freeBytes (k n : Nat) : List Byte := (List.range n).map fun i => (Config.freeValue (k + i)).truncate 8

/-- Draws `n` free values. -/
def State.drawN (s : State) (n : Nat) : State := { s with fresh := s.fresh + n }

/-- Global time in ns (R413). -/
def State.now (s : State) : Nat := s.obs.tide

/-- This device's global ID (R557). -/
def State.devId (s : State) : U16 := (s.rd Reg.DEV_DEVICE_ID).truncate 16

/-- The device has no global ID (R558). -/
def State.unassigned (s : State) : Bool := s.devId == 0xFFFF

/-- The engines and protocol run: the device is neither in FATAL (R389) nor held in reset (R528). -/
def State.alive (s : State) : Bool := !s.fault.fatal && s.pins.resetN

/-- READY of a block, by its type (R556). -/
def State.isReady (s : State) (block : Nat) : Bool := s.ready.get block

/-- Sets READY of a block. -/
def State.setReady (s : State) (block : Nat) (b : Bool) : State := { s with ready := s.ready.set block b }

/-- The mode of function `i` of R28: HW without a bitstream and under a preset (R455), else as FUNCTIONS gives. -/
def State.fnEntry (s : State) (i : Nat) : FuncEntry :=
  match s.struct.loaded with
  | none => {}
  | some b => if b.preset = 0 then (b.functions[i]?).getD {} else {}

/-- The mode of function `i` of R28. -/
def State.fnMode (s : State) (i : Nat) : FnMode := (s.fnEntry i).mode

/-- A register write that came through PF0 of `port`, or with `none` by another way, may decide for function `i`: in HOST_ASSIST
mode only PF0 of the assisting port does (R29). A register write has no status, so one that R29 refuses has no effect. -/
def State.mayDecide (s : State) (i : Nat) (port : Option (Fin 2)) : Bool :=
  decide (s.fnMode i ≠ .hostAssist) || decide (port = some (s.fnEntry i).port)

/-- A host decision for function `i` was accepted: its status is no longer NOT_READY (R30). -/
def State.decided (s : State) (i : Nat) : State := { s with fault := { s.fault with notReady := s.fault.notReady.set i false } }

/-- The role loaded (R14). -/
def State.role (s : State) : Role :=
  match s.struct.loaded with
  | none => .none
  | some b => Role.ofCode b.role

/-- The control-plane pause is on, or QUIESCE has stopped the consumption of commands (R497, R498). -/
def State.paused (s : State) : Bool :=
  match s.fw.handover with
  | .quiesce | .pause | .switched => true
  | _ => false

/-- The device's maximum sustained power in W (R2). -/
def State.codeMax (s : State) : Nat := if s.order = 2 then 2200 else 2900

/-! ### The trace (R420-R424) -/

/-- Whether records of a type are enabled: TRIGGER and LOSS whenever tracing is (R422). -/
def State.traces (s : State) (type : Nat) : Bool :=
  s.flag Reg.OBS_TRACE_CTRL 0 && (type == 9 || type == 11 || s.flag Reg.OBS_TRACE_CLASS type)

/-- Offers a record to the trace writer when its type is enabled. -/
def State.offer (s : State) (type : Nat) (p : List (Nat × Nat)) (die : Byte := 0) : State :=
  if s.traces type then
    { s with obs := { s.obs with
        offers := s.obs.offers ++ [{ type := type, die := die, tide := s.now, payload := payload p }] } }
  else s

/-- Adds to a device-wide counter (R410); 64 bits, wrapping. -/
def State.obsCount (s : State) (i n : Nat) : State :=
  { s with obs := { s.obs with counters := s.obs.counters.set i ((s.obs.counters.get i + n) % 2 ^ 64) } }

/-! ### Status codes (R563) -/

/-- OK. -/
abbrev stOK : Byte := 0x00
/-- SHORT. -/
abbrev stSHORT : Byte := 0x01
/-- PARTIAL. -/
abbrev stPARTIAL : Byte := 0x02
/-- POISON. -/
abbrev stPOISON : Byte := 0x10
/-- TIMEOUT. -/
abbrev stTIMEOUT : Byte := 0x11
/-- TARGET_DEAD. -/
abbrev stTARGET_DEAD : Byte := 0x12
/-- KEY_REVOKED. -/
abbrev stKEY_REVOKED : Byte := 0x13
/-- STALE_MAP. -/
abbrev stSTALE_MAP : Byte := 0x14
/-- LEN_LIMIT. -/
abbrev stLEN_LIMIT : Byte := 0x15
/-- NO_PAGES. -/
abbrev stNO_PAGES : Byte := 0x16
/-- BUDGET. -/
abbrev stBUDGET : Byte := 0x17
/-- CHECK_FAIL. -/
abbrev stCHECK_FAIL : Byte := 0x18
/-- LATE. -/
abbrev stLATE : Byte := 0x19
/-- ANCHOR_LOST. -/
abbrev stANCHOR_LOST : Byte := 0x1A
/-- INCOMPATIBLE. -/
abbrev stINCOMPATIBLE : Byte := 0x1B
/-- FENCED. -/
abbrev stFENCED : Byte := 0x1C
/-- NOT_READY. -/
abbrev stNOT_READY : Byte := 0x1D
/-- PRIVILEGE. -/
abbrev stPRIVILEGE : Byte := 0x1E
/-- MALFORMED. -/
abbrev stMALFORMED : Byte := 0x1F

end Sys2Proof.Machine
end

