-- ==== Sys2Proof/Machine/HostOps.lean ====
section
/-! DEFINITION. Shared operations of the host interface: MSI-X, completion rings, consumption of commands and the checks
every command passes (R466-R474, R469). -/

namespace Sys2Proof.Machine

/-! ### Tenants' budgets and counters -/

/-- A tenant's table entry; an unlisted one is as after reset (R378). -/
def State.tenantOf (s : State) (t : Nat) : Tenant := Tab.look {} t s.tenant.table

/-- Replaces a tenant's table entry. -/
def State.setTenant (s : State) (t : Nat) (e : Tenant) : State :=
  { s with tenant := { s.tenant with table := Tab.place {} t e s.tenant.table } }

/-- Adds to the counts of an account's current interval (R374, R376). -/
def State.tally (s : State) (account : Nat) (f : Usage → Usage) : State :=
  { s with tenant := { s.tenant with current := s.tenant.current.mod account f } }

/-- Counts cycles that an engine spent (R395). -/
def State.spend (s : State) (c : Nat) : State := { s with tenant := { s.tenant with spent := s.tenant.spent + c } }

/-- Charges a tenant's admission budget (R371); the balance saturates (R372). -/
def State.chargeAdm (s : State) (t n : Nat) : State :=
  let e := s.tenantOf t
  s.setTenant t { e with adm := satInt 32 (e.adm - n) }

/-! ### Request records that the ring reports on -/

/-- The record at an index of the anchor's region. -/
def State.recordAt (s : State) (i : Nat) : Record := s.anchor.records.get i

/-- Replaces a record. -/
def State.setRecord (s : State) (i : Nat) (r : Record) : State :=
  { s with anchor := { s.anchor with records := s.anchor.records.set i r } }

/-- What follows for its request when a record has been written to the ring: tokens count as delivered and are charged to
the admission budget (R36, R371); with its END record the request record is freed and counted (R20, R410). -/
def State.reported (s : State) (r : HostRec) : State :=
  match r.kind, r.about with
  | .tokens, some i =>
    let n := r.more.val + 1
    let x := s.recordAt i
    let s := s.setRecord i { x with delivered := x.delivered + n }
    (s.chargeAdm x.tenant.toNat n).tally x.tenant.toNat fun u => { u with delivered := u.delivered + n }
  | .endRec, some i => (s.setRecord i {}).obsCount 5 1
  | _, _ => s

/-- The window at a key (`WinRef.key`). -/
def State.win (s : State) (k : Nat) : HostWin := s.hostif.wins.get k

/-- Replaces a window. -/
def State.setWin (s : State) (k : Nat) (w : HostWin) : State :=
  { s with hostif := { s.hostif with wins := s.hostif.wins.set k w } }

/-- The window on HOSTIF_WIN_SEL's layout: port of a window key. -/
def winPort (k : Nat) : Nat := k % 2

/-- Function number of a window key (R464). -/
def winFn (k : Nat) : Nat := k / 2 % 128

/-- Window number of a window key. -/
def winNum (k : Nat) : Nat := k / 256

/-- Raises an MSI-X vector of a port (R474). -/
def State.raiseMsi (s : State) (port : Nat) (vec : BitVec 11) : State :=
  { s with hostif := { s.hostif with msi := { port := if port % 2 = 0 then 0 else 1, vector := vec } :: s.hostif.msi } }

/-- Records the ring holds: 2^(SIZE + 6) (R472, R480). -/
def HostWin.ringSize (w : HostWin) : Nat := 2 ^ (w.size.val + 6)

/-- The ring is full (R473); HEAD and TAIL count modulo 2^32. -/
def HostWin.full (w : HostWin) : Bool := (w.tail + 2 ^ 32 - w.head) % 2 ^ 32 == w.ringSize

/-- Writes a record at the tail of the ring with its PHASE, WINDOW and CONSUMED (R472, R473), and raises or delays the
vector (R474). -/
def State.ringWrite (s : State) (k : Nat) (r : HostRec) : State :=
  let w := s.win k
  let i := w.tail
  let r := { r with
    result0 := match r.kind, r.about with
      | .endRec, some a => BitVec.ofNat 64 (s.recordAt a).delivered
      | _, _ => r.result0
    phase := decide ((i / w.ringSize + 1) % 2 = 1)
    window := BitVec.ofNat 8 (winNum k)
    consumed := BitVec.ofNat 16 w.consumed }
  let raises := r.notify || decide (r.kind = .endRec) || decide (r.kind = .decisionReq) || decide (r.kind = .windowError)
  let w := { w with ring := w.ring.set (i % w.ringSize) r, tail := (i + 1) % 2 ^ 32 }
  let s := s.reported r
  if raises then
    if s.rdN Reg.HOSTIF_MSI_DELAY = 0 then (s.setWin k w).raiseMsi (winPort k) w.vector
    else s.setWin k { w with msiPending := true }
  else s.setWin k w

/-- Puts a record on a window's ring, or lets it wait while the ring is full or others wait before it (R473). The record of a
lost port is not written, and counted (R477). -/
def State.putRec (s : State) (k : Nat) (r : HostRec) : State :=
  let w := s.win k
  if (s.hostif.ports.get (winPort k)).lost then s.bump Reg.HOSTIF_DROPPED 16 16 1
  else if w.full || !w.waiting.isEmpty then s.setWin k { w with waiting := w.waiting ++ [r] } else s.ringWrite k r

/-- Writes the records that wait, while the ring has room (R473); `fuel` bounds them by the ring's size. -/
def State.drainWaiting : Nat → Nat → State → State
  | 0, _, s => s
  | fuel + 1, k, s =>
    match (s.win k).waiting with
    | [] => s
    | r :: rs =>
      if (s.win k).full then s
      else State.drainWaiting fuel k ((s.setWin k { s.win k with waiting := rs }).ringWrite k r)

/-- A consumed command that runs: its window's key and the device's number for it. -/
abbrev CmdRef := Nat × Nat

/-- The command's arguments, from its slot (R468). -/
def HostCmd.ofSlot (v : BitVec 512) : HostCmd :=
  { level := v.extractLsb' 0 8, opcode := v.extractLsb' 8 8, flags := v.extractLsb' 16 8
    partition := v.extractLsb' 24 8, tenant := v.extractLsb' 32 16, reserved6 := v.extractLsb' 48 16
    tag := v.extractLsb' 64 64, arg0 := v.extractLsb' 128 64, arg1 := v.extractLsb' 192 64
    arg2 := v.extractLsb' 256 64, arg3 := v.extractLsb' 320 64, arg4 := v.extractLsb' 384 64
    arg5 := v.extractLsb' 448 32, reserved3C := v.extractLsb' 480 24, seq := v.extractLsb' 504 8 }

/-- Completes a running command: its record goes to the ring of its window (R472) and a HOSTCMD record is offered
(R422). A command whose window was lost leaves no record and is counted in HOSTIF_DROPPED (R477). -/
def State.complete (s : State) (c : CmdRef) (status : Byte) (r0 : U64 := 0) (r1 : U64 := 0) : State :=
  match (s.win c.1).running.find? (·.id == c.2) with
  | none => s.bump Reg.HOSTIF_DROPPED 16 16 1
  | some r =>
    let w := s.win c.1
    let s := s.setWin c.1 { w with running := w.running.filter (fun x => !(x.id == c.2)) }
    let s := s.putRec c.1 { kind := .command, status := status, notify := r.notify, opcode := r.opcode,
                            tag := r.tag, result0 := r0, result1 := r1 }
    s.offer 7 [(1, r.opcode.toNat), (1, status.toNat), (1, c.1 % 256), (1, 0), (4, winNum c.1), (8, r.tag.toNat)]

/-- Completes a command when there is one. -/
def State.completeOpt (s : State) (c : Option CmdRef) (status : Byte) (r0 : U64 := 0) (r1 : U64 := 0) : State :=
  match c with
  | none => s
  | some c => s.complete c status r0 r1

/-- Whether the device may take the next command of a window (R466, R467, R471, R473, R486, R498). -/
def State.canConsume (s : State) (k : Nat) (c : HostCmd) : Bool :=
  let w := s.win k
  w.enable && !w.error && !w.full && s.alive && !s.paused
    && decide (w.consumed / 64 < w.laps.get (w.consumed % 64))
    && !(c.flags.getLsbD 1 && !w.running.isEmpty)
    && (decide (s.fw.service ≠ .minimal) || (decide (0x18 ≤ c.opcode.toNat) && decide (c.opcode.toNat ≤ 0x1B)))

/-- The command at the front of a window. -/
def State.frontCmd (s : State) (k : Nat) : HostCmd :=
  let w := s.win k
  HostCmd.ofSlot (w.slots.get (w.consumed % 64))

/-- Takes the command at the front of a window off it: it now runs. -/
def State.take (s : State) (k : Nat) : State :=
  let w := s.win k
  let c := s.frontCmd k
  let s := s.setWin k { w with
    consumed := w.consumed + 1
    running := w.running ++ [{ id := s.hostif.nextCmd, opcode := c.opcode, tag := c.tag, notify := c.flags.getLsbD 0 }] }
  { s with hostif := { s.hostif with nextCmd := s.hostif.nextCmd + 1 } }

/-- Check 1 of R469: the level, the opcode and the reserved fields. -/
def HostCmd.formed (c : HostCmd) : Bool :=
  c.level == 1 && decide (c.opcode.toNat ≤ 0x1C) && c.flags.extractLsb' 2 6 == 0 && c.partition.extractLsb' 3 5 == 0
    && c.tenant.extractLsb' 10 6 == 0 && c.reserved6 == 0 && c.reserved3C == 0

/-- Tenant a command names. -/
def HostCmd.tenantId (c : HostCmd) : BitVec 10 := c.tenant.truncate 10

/-- Partition a command names. -/
def HostCmd.part (c : HostCmd) : Nat := c.partition.toNat % 8

/-- A tenant is fenced (R387). -/
def State.isFenced (s : State) (t : Nat) : Bool := (s.fault.fences.get t).fenced

/-- The binding of a function (R366), keyed port + 2 × function. -/
def State.binding (s : State) (k : Nat) : FnMap := s.tenant.fnMap.get (k % 256)

/-- The tenant and partition a command names are allowed to its function (R366, R368). -/
def State.mayActFor (s : State) (k : Nat) (c : HostCmd) : Bool :=
  let t := c.tenantId.toNat
  let e := s.tenantOf t
  if winFn k = 0 then true
  else if winFn k = 1 then e.enable
  else
    let b := s.binding k
    b.bound && b.tenant == c.tenantId && decide (e.partition.val = c.part)

/-- The function is PF0 of the assisting port of function `i` of R28, which is in HOST_ASSIST mode (R29). -/
def State.assists (s : State) (k i : Nat) : Bool :=
  decide (s.fnMode i = .hostAssist) && decide (winFn k = 0) && decide (winPort k = (s.fnEntry i).port.val)

/-- Functions permitted for an opcode (R470), where the opcode's column names functions alone. The image blocks and the
activation command are decisions of firmware staging, which in HOST_ASSIST mode only PF0 of the assisting port may give (R28,
R29). -/
def State.permits (s : State) (k : Nat) (c : HostCmd) : Bool :=
  let f := winFn k
  match c.opcode.toNat with
  | 0x06 => s.assists k 0
  | 0x16 => s.assists k 8
  | 0x07 => decide (c.arg0.toNat % 16 ≤ 9) && s.assists k (c.arg0.toNat % 16)
  | 0x05 | 0x11 | 0x15 => decide (f ≤ 1)
  | 0x19 | 0x1A | 0x1B => if s.fnMode 9 = .hostAssist then s.assists k 9 else decide (f = 0)
  | 0x08 | 0x0B | 0x0C | 0x0D | 0x0E | 0x0F | 0x10 | 0x17 | 0x18 | 0x1C => decide (f = 0)
  | 0x14 => decide (f ≤ 31)
  | _ => true

/-- Commands that read or write HBM, with what they name or what they change (R530, log entry 95). -/
def hbmOpcode (op : Nat) : Bool :=
  [0x01, 0x05, 0x06, 0x07, 0x0E, 0x0F, 0x10, 0x11, 0x12, 0x13, 0x14, 0x15].contains op

/-- The checks 1 to 3 of R469, the service check of R486 and, after them, that HBM is ready for the commands that use it (R530): the
status of the first that fails. -/
def State.cmdStatus (s : State) (k : Nat) (c : HostCmd) : Option Byte :=
  if !c.formed then some stMALFORMED
  else if decide (s.fw.service = .recovery) && !(c.opcode == 0 || (decide (0x18 ≤ c.opcode.toNat) && decide (c.opcode.toNat ≤ 0x1B)))
  then some stNOT_READY
  else if !s.permits k c then some stPRIVILEGE
  else if !s.mayActFor k c then some stPRIVILEGE
  else if s.isFenced c.tenantId.toNat then some stFENCED
  else if hbmOpcode c.opcode.toNat && !s.isReady 0x008 then some stNOT_READY
  else none

/-- Takes the command of opcode `op` at the front of window `w` and runs it: a command that fails a check of R469
completes with that check's status, and otherwise `run` gives the opcode's own effect. Where the front of the window is
not such a command, or the device may not consume it, nothing happens. -/
def State.hostCmd (s : State) (w : WinRef) (op : Byte) (run : HostCmd → CmdRef → State → State) : State :=
  let c := s.frontCmd w.key
  if s.canConsume w.key c && c.opcode == op then
    let ref : CmdRef := (w.key, s.hostif.nextCmd)
    match s.cmdStatus w.key c with
    | some st => (s.take w.key).complete ref st
    | none => run c ref (s.take w.key)
  else s

/-- Takes a command of a reserved opcode at the front of window `w`: it completes MALFORMED (R469, R470). -/
def State.takeReserved (s : State) (w : WinRef) : State :=
  let c := s.frontCmd w.key
  if s.canConsume w.key c && decide (0x1C < c.opcode.toNat) then
    (s.take w.key).complete (w.key, s.hostif.nextCmd) stMALFORMED
  else s

end Sys2Proof.Machine
end

