-- ==== Sys2Proof/Machine/MsgOps.lean ====
section
/-! DEFINITION. Shared operations of protocol messages, completion slots and host decisions (R30, R214, R234, R475,
R566), and of the pool map (R476). -/

namespace Sys2Proof.Machine

/-! ### Messages (R234-R236) -/

/-- Message kind codes (R236). -/
abbrev mQUERY : Nat := 0x01
/-- PARTIAL. -/
abbrev mPARTIAL : Nat := 0x02
/-- ADMIT. -/
abbrev mADMIT : Nat := 0x10
/-- OPEN. -/
abbrev mOPEN : Nat := 0x11
/-- CREDIT_REQ. -/
abbrev mCREDIT_REQ : Nat := 0x12
/-- GRANT. -/
abbrev mGRANT : Nat := 0x13
/-- REFS. -/
abbrev mREFS : Nat := 0x14
/-- SENT. -/
abbrev mSENT : Nat := 0x15
/-- COMMIT. -/
abbrev mCOMMIT : Nat := 0x16
/-- REPLY. -/
abbrev mREPLY : Nat := 0x17
/-- ABORT. -/
abbrev mABORT : Nat := 0x18
/-- KEEPALIVE. -/
abbrev mKEEPALIVE : Nat := 0x19
/-- REGISTER. -/
abbrev mREGISTER : Nat := 0x1A
/-- REDIRECT. -/
abbrev mREDIRECT : Nat := 0x1B
/-- END. -/
abbrev mEND : Nat := 0x1C
/-- RELEASED. -/
abbrev mRELEASED : Nat := 0x1D
/-- RESTORE_REQ. -/
abbrev mRESTORE_REQ : Nat := 0x1E
/-- REPLICA_REQ. -/
abbrev mREPLICA_REQ : Nat := 0x1F
/-- COVERED. -/
abbrev mCOVERED : Nat := 0x20
/-- PROMPT_TOKENS. -/
abbrev mPROMPT_TOKENS : Nat := 0x21

/-- Bits [hi:lo] of a 64-bit argument. -/
def fieldOf (a : U64) (hi lo : Nat) : Nat := bits a.toNat hi lo

/-- Bytes of a message after its header (R171, R235, R236, R252, R565). -/
def Msg.bodySize (m : Msg) : Nat :=
  (if m.header.isSome then 256 else 0) + 4 * m.tokens.length + 8 * m.refs.length
    + (match m.query with | some q => 32 + 4 * q.positions.length + 2 * q.data.length | none => 0)
    + (match m.part with | some b => b.data.length | none => 0)

/-- FLAGS that a kind of message defines (R236, R171, R252). -/
def msgFlags (kind : Nat) : Byte :=
  if kind = mADMIT ∨ kind = mCOMMIT ∨ kind = mQUERY then 1 else if kind = mPARTIAL then 3 else 0

/-- Bits of ARG0 that a kind of message defines (R236). -/
def msgArg0 (kind : Nat) : U64 :=
  if kind = mADMIT then 0xFFFFFFFFFFFF
  else if kind = mOPEN ∨ kind = mREGISTER then 0x3FFFFFFFF
  else if kind = mCREDIT_REQ ∨ kind = mGRANT ∨ kind = mREFS then 0xFFFFFFFF000000FF
  else if kind = mSENT ∨ kind = mCOVERED ∨ kind = mPROMPT_TOKENS then 0xFFFFFFFF
  else if kind = mCOMMIT then 0xFFFFFFFFFFFFFFFF
  else if kind = mREPLY ∨ kind = mRESTORE_REQ then 0xFFFFFFFF0000FFFF
  else if kind = mREPLICA_REQ then 0xFFFF
  else 0

/-- Bits of ARG1 that a kind of message defines (R236). -/
def msgArg1 (kind : Nat) : U64 :=
  if kind = mOPEN ∨ kind = mREGISTER then 0xFFFFFFFFFFFFFFFF
  else if kind = mCREDIT_REQ ∨ kind = mGRANT ∨ kind = mREFS ∨ kind = mCOMMIT then 0xFFFFFFFF
  else 0

/-- Bits of ARG2 that a kind of message defines (R236). -/
def msgArg2 (kind : Nat) : U64 :=
  if kind = mGRANT then 0xFFFFFFFFFFFFFFFF else if kind = mREFS then 0xFFFFFFFF00000000 else 0

/-- Kinds whose STATUS says something; the others are requests, whose STATUS is OK (R235, R236). -/
def msgStatus (kind : Nat) : Bool := [mPARTIAL, mREPLY, mABORT, mREDIRECT, mEND, mRELEASED].contains kind

/-- The body is the kind's own, and of its length (R171, R236, R252, R565). -/
def Msg.bodyOk (m : Msg) : Bool :=
  let k := m.kind
  decide (m.header.isSome = ([mADMIT, mOPEN, mRESTORE_REQ].contains k))
    && (if k = mADMIT then decide (m.tokens.length = min (fieldOf m.arg0 47 16) 262064)
        else if k = mPROMPT_TOKENS then decide (1 ≤ m.tokens.length) && decide (m.tokens.length ≤ 262128) else m.tokens.isEmpty)
    && (if k = mGRANT ∨ k = mREFS then decide (m.refs.length = fieldOf m.arg2 63 32) else m.refs.isEmpty)
    && (match m.query with
      | some q => decide (k = mQUERY) && decide (1 ≤ q.rows) && decide (q.rows ≤ 64) && decide (q.mode.toNat % 16 ≤ 3) && decide (q.mode.toNat < 32)
          && decide (q.positions.length = q.rows) && decide (q.data.length = q.rows * q.g * (if q.valueWidth = 0 then q.k else 2 * q.k))
      | none => decide (k ≠ mQUERY))
    && (match m.part with
      | some b => decide (k = mPARTIAL) && decide (b.rows ≤ 16384)
          && decide (b.data.length = if m.status = stOK then b.rows * (8 + b.width * (if b.fp32 then 4 else 2)) else 0)
      | none => decide (k ≠ mPARTIAL))

/-- A message is laid out as its kind says, and within 1 MiB (R171, R234-R236, R252, R565); of a higher level only what level 1
defines is looked at (R10). -/
def Msg.formed (m : Msg) : Bool :=
  decide (m.bodyLen = m.bodySize) && decide (64 + m.bodySize ≤ 2 ^ 20) && m.bodyOk && (msgStatus m.kind || m.status == stOK)
    && reserved m.level.toNat (m.wellFormed && m.flags &&& ~~~(msgFlags m.kind) == 0 && m.arg0 &&& ~~~(msgArg0 m.kind) == 0
      && m.arg1 &&& ~~~(msgArg1 m.kind) == 0 && m.arg2 &&& ~~~(msgArg2 m.kind) == 0)

/-- Offers the MSG trace record of a message sent (`dir` 0) or taken (`dir` 1) (R422). -/
def State.msgTrace (s : State) (dir : Nat) (m : Msg) : State :=
  s.offer 5 [(1, m.kind), (1, dir), (2, (if dir = 0 then m.dst else m.src).toNat), (1, m.status.toNat), (3, 0), (8, m.requestId.toNat)]

/-- Sends a message: its source, epoch and time are this device's. A device without an ID sends nothing (R558). A
message to this device itself arrives as any other does. -/
def State.send (s : State) (m : Msg) : State :=
  if s.unassigned || !s.alive then s
  else
    let m := { m with src := s.devId, mapEpoch := s.handoff.epoch, tide := s.now, bodyLen := m.bodySize }
    ({ s with handoff := { s.handoff with outbox := m :: s.handoff.outbox } }).msgTrace 0 m

/-- Answers a message that names a slot (R234). -/
def State.reply (s : State) (m : Msg) (st : Byte) (arg0 : U64 := 0) : State :=
  if m.slot = 0 then s
  else s.send { kind := mREPLY, status := st, dst := m.src, slot := m.slot, requestId := m.requestId
                handoffId := m.handoffId, arg0 := arg0 }

/-! ### Completion slots (R214, R216, R566) -/

/-- A completion slot. -/
def State.slot (s : State) (n : Nat) : Slot := s.ibex.slots.get n

/-- Replaces a completion slot. -/
def State.setSlotAt (s : State) (n : Nat) (x : Slot) : State :=
  { s with ibex := { s.ibex with slots := s.ibex.slots.set n x } }

/-- The slot's next generation: 1 to 65,535, never 0 (R214). -/
def nextGen (g : Nat) : Nat := if 65535 ≤ g then 1 else g + 1

/-- The reference of a slot: generation in [31:16], number in [15:0] (R214). -/
def State.slotRef (s : State) (n : Nat) : U32 := BitVec.ofNat 32 ((s.slot n).gen * 65536 + n)

/-- Takes a FREE slot, the lowest-numbered one (log entry 15): it goes to WAITING with the next generation (R214). -/
def State.claim (s : State) (x : Slot) : Option (Nat × State) :=
  match s.ibex.slots.first (fun y => decide (y.state = .free)) 65536 with
  | none => none
  | some n =>
    let s := s.setSlotAt n { x with state := .waiting, gen := nextGen (s.slot n).gen }
    let busy := s.ibex.slotsBusy + 1
    let s := { s with ibex := { s.ibex with slotsFree := s.ibex.slotsFree - 1, slotsBusy := busy } }
    some (n, if s.rdN Reg.IBEX_SLOTS_HWM < busy then s.wr Reg.IBEX_SLOTS_HWM (BitVec.ofNat 32 busy) else s)

/-- Returns a slot to FREE once its completion is delivered; it keeps its generation (R214). -/
def State.unclaim (s : State) (n : Nat) : State :=
  if (s.slot n).state = .free then s
  else
    let s := s.setSlotAt n { gen := (s.slot n).gen }
    { s with ibex := { s.ibex with slotsFree := s.ibex.slotsFree + 1, slotsBusy := s.ibex.slotsBusy - 1 } }

/-- A slot reference names a slot that is WAITING under that generation (R214). -/
def State.waitingAt (s : State) (ref : U32) : Option Nat :=
  let n := ref.toNat % 65536
  if (s.slot n).state = .waiting ∧ (s.slot n).gen = ref.toNat / 65536 then some n else none

/-- A unit or reply counted LATE (R214, R393). -/
def State.ibexLate (s : State) : State := s.count Reg.IBEX_LATE 1

/-- The EXCHANGE region's start and size (R187). -/
def State.exchange (s : State) : Option (Nat × Nat) :=
  s.tier.regions.findSome? fun e => (e.2.filter fun r => decide (r.kind = 0x0D)).map fun r => (r.base, r.size)

/-- The lowest offset of the EXCHANGE region, a multiple of 64, at which the question of a slot, of `n` bytes, meets none
that still waits; the place is the device's choice (log entry 15). -/
def State.questionPlace (s : State) (slot n : Nat) : Nat :=
  let used := s.ibex.slots.filterMap fun (k, y) =>
    if k ≠ slot ∧ y.state = .waiting ∧ y.awaits = .decision then some (y.exchange, y.question.length) else none
  let ends := used.map fun u => (u.1 + u.2 + 63) / 64 * 64
  ((0 :: ends).filter fun a => used.all fun u => !(decide (a < u.1 + u.2) && decide (u.1 < a + n))).foldl min (ends.foldl max 0)

/-- Posts a decision on ring 0 of PF0 of the assisting port, its question in EXCHANGE (R475). A question for which the region
has no room is not written. -/
def State.postDecision (s : State) (n : Nat) : State :=
  let x := s.slot n
  let off := s.questionPlace n x.question.length
  let s := s.setSlotAt n { x with exchange := off }
  let s := match s.exchange with
    | some (a, size) => if off + x.question.length ≤ size then s.setBytes (a + off) x.question else s
    | none => s
  s.putRec (s.fnEntry x.fn.val).port.val
    { kind := .decisionReq, result0 := (s.slotRef n).zeroExtend 64, result1 := BitVec.ofNat 64 (x.fn.val + 2 ^ 32 * off) }

/-- What follows when an item without a descriptor has taken its slot: its message is sent, its decision posted, or the
transfer that awaits a COMMIT learns its slot (R566). -/
def State.begun (s : State) (n : Nat) : State :=
  let x := s.slot n
  match x.awaits with
  | .decision => s.postDecision n
  | .commit =>
    let t := s.handoff.transfers.get x.handoffId.toNat
    { s with handoff := { s.handoff with
        transfers := s.handoff.transfers.set x.handoffId.toNat { t with commitSlot := some n } } }
  | _ =>
    match x.msg with
    | some m => s.send { m with slot := s.slotRef n }
    | none => s

/-- An item takes a slot, or waits in order until one is FREE (R566). -/
def State.await (s : State) (x : Slot) : State :=
  if s.ibex.slotWait.isEmpty then
    match s.claim x with
    | some (n, s) => s.begun n
    | none => { s with ibex := { s.ibex with slotWait := [x] } }
  else { s with ibex := { s.ibex with slotWait := s.ibex.slotWait ++ [x] } }

/-- A slot that fell FREE goes to the first item that waits (R566). -/
def State.serveWait (s : State) : State :=
  match s.ibex.slotWait with
  | [] => s
  | x :: xs =>
    match ({ s with ibex := { s.ibex with slotWait := xs } }).claim x with
    | some (n, s) => s.begun n
    | none => s

/-- Sends a message that awaits a REPLY (R214, R234). -/
def State.sendAwait (s : State) (m : Msg) (herdSlot : Nat := 0) : State :=
  if s.unassigned then s
  else s.await { awaits := .reply, msg := some m, msgKind := m.kind, handoffId := m.handoffId, requestId := m.requestId
                 peer := m.dst, herdSlot := herdSlot }

/-- Awaits a host decision for function `fn` of R28 (R30, R475). -/
def State.askHost (s : State) (fn : Fin 10) (item : Slot) : State :=
  s.await { item with awaits := .decision, fn := fn }

/-! ### The pool map (R263, R476) -/

/-- The map's entry for a device. -/
def State.peerMap (s : State) (d : U16) : MapEntry := s.handoff.map.get d.toNat

/-- The peer is failed under R248: the installed map lists it absent, or a transfer to it completed TARGET_DEAD. -/
def State.isFailed (s : State) (d : U16) : Bool :=
  (s.handoff.mapped && !(s.peerMap d).present) || s.handoff.failed.get d.toNat

/-- A role prefills, or generates. -/
def Role.prefills (r : Role) : Bool := r == .prompt || r == .mixed

/-- GENERATE or MIXED. -/
def Role.generates (r : Role) : Bool := r == .generate || r == .mixed

/-- Devices of the map that are present, satisfy `p` and serve a model (R23, R24), in order of their IDs. -/
def State.servingModel (s : State) (p : Role → Bool) (model : BitVec 6) : List U16 :=
  (s.handoff.map.keysWhere fun _ e => e.present && p e.role && e.models.getLsbD model.toNat).map fun d => BitVec.ofNat 16 d

/-- Those of them that also serve a partition: the CACHE devices of R251 and R255. -/
def State.serving (s : State) (p : Role → Bool) (model : BitVec 6) (part : Nat) : List U16 :=
  (s.servingModel p model).filter fun d => (s.peerMap d).partitions.getLsbD part

/-- The suspect mark of a peer (R398). -/
def State.suspect (s : State) (d : U16) : Bool := (s.herd.peers.get d.toNat).suspect

/-- Chooses a device (R24, R399): devices marked SUSPECT or failed, and those of `avoid`, are passed over while another
candidate serves. Which of the others is taken the spec leaves to the anchor: the one at position REQUEST_ID mod n
(log entry 16). -/
def State.choose (s : State) (cands avoid : List U16) (seed : Nat) : Option U16 :=
  let live := cands.filter fun d => !s.isFailed d
  let fresh := live.filter fun d => !avoid.contains d
  let best := fresh.filter fun d => !s.suspect d
  let from_ := if !best.isEmpty then best else if !fresh.isEmpty then fresh else if !live.isEmpty then live else cands
  from_[seed % from_.length]?

end Sys2Proof.Machine
end

