-- ==== Sys2Proof/Machine/AnchorOps.lean ====
section
/-! DEFINITION. Shared operations of the anchor: the delivery of tokens (R21, R474) and the end of a request
(R25-R27). -/

namespace Sys2Proof.Machine

/-- The index of the live record of a request, when this device anchors it. -/
def State.findRequest (s : State) (id : U64) : Option Nat :=
  (s.anchor.records.find? fun (_, r) => decide (r.state ≠ .free) && r.requestId == id).map Prod.fst

/-- Generated tokens the anchor holds (R37). -/
def Record.generated (r : Record) : Nat := r.tokens.length - r.promptLen

/-- Writes the held tokens of a request in one TOKENS record of up to three (R472, R474). -/
def State.flushTokens (s : State) (i : Nat) : State :=
  let r := s.recordAt i
  match r.held with
  | [] => s
  | t :: ts =>
    let first := r.generated - r.held.length + 1
    let s := s.setRecord i { r with held := [] }
    s.putRec r.submitter.toNat
      { kind := .tokens, more := if ts.length = 0 then 0 else if ts.length = 1 then 1 else 2, tag := r.tag, about := some i
        result0 := BitVec.ofNat 64 (first + 2 ^ 32 * t.toNat)
        result1 := BitVec.ofNat 64 ((ts.getD 0 0).toNat + 2 ^ 32 * (ts.getD 1 0).toNat) }

/-- Devices that hold state of a request, or may (R20, R27): owners, both ends of a pending transfer, and replica
holders. -/
def Record.holders (r : Record) : List U16 :=
  ((r.owners.map OwnerEntry.device)
    ++ (match r.pending with
      | some p => [p.sender, p.receiver]
      | none => [])
    ++ r.replicas.map ReplicaEntry.device).eraseDups

/-- Sends END to a device (R236). -/
def State.sendEnd (s : State) (r : Record) (d : U16) (st : Byte) : State :=
  s.send { kind := mEND, status := st, dst := d, requestId := r.requestId }

/-- Commits an end reason (R25): the first one wins. Held tokens and the END record go to the ring of the submitting
window, and every holder is told to free its state (R20, R27). The record is freed when its END record is written. A
request of a lost function (`mute`) leaves no records: they are counted in HOSTIF_DROPPED (R477). -/
def State.endRequest (s : State) (i : Nat) (st : Byte) (cancel : Bool := false) (mute : Bool := false) : State :=
  let r := s.recordAt i
  if r.state ≠ .active then s
  else
    let s := r.holders.foldl (fun s d => s.sendEnd r d st) s
    let s := { s with handoff := { s.handoff with prompts := s.handoff.prompts.set i {} } }
    if mute then (s.setRecord i {}).bump Reg.HOSTIF_DROPPED 16 16 1
    else
      let s := s.flushTokens i
      let s := s.setRecord i { s.recordAt i with
          state := .ended, endStatus := st, cancel := cancel, endTide := s.now, ahead := [] }
      s.putRec r.submitter.toNat { kind := .endRec, status := st, cancel := cancel, tag := r.tag, about := some i }

/-- Ends every request of a tenant that this device anchors (R388). -/
def State.endTenant (s : State) (t : Nat) : State :=
  (s.anchor.records.keysWhere fun _ r => decide (r.state = .active) && decide (r.tenant.toNat = t)).foldl
    (fun s i => s.endRequest i stFENCED) s

/-- The next generated token in position order is taken (R21, R37): it joins the token array and the held tokens, and the
final one ends the request (R25). -/
def State.takeToken (s : State) (i : Nat) (token : U32) : State :=
  let r := s.recordAt i
  let k := r.generated + 1
  let s := s.setRecord i { r with
      tokens := r.tokens ++ [token], held := r.held ++ [token], ahead := r.ahead.set k none
      sampling := { r.sampling with sampled := max r.sampling.sampled k } }
  let s := if s.rdN Reg.HOSTIF_TOKEN_HOLD = 0 ∨ r.held.length = 2 then s.flushTokens i else s
  if (r.sampling.flags.getLsbD 0 && token == r.sampling.endToken) || decide (k = r.maxNew) then s.endRequest i stOK else s

/-- Takes every token that is now in order; `fuel` bounds them by the request's maximum. -/
def State.takeInOrder : Nat → Nat → State → State
  | 0, _, s => s
  | fuel + 1, i, s =>
    let r := s.recordAt i
    match r.ahead.get (r.generated + 1), decide (r.state = .active) with
    | some t, true => State.takeInOrder fuel i (s.takeToken i t)
    | _, _ => s

/-- A generated token reaches the anchor (R21, R25, R26): `k` counts generated tokens from 1. Each position is delivered
once and in order: one that comes ahead of its turn waits for it, and one that has been delivered, or waits already, is
discarded. After the end it is counted LATE. -/
def State.deliver (s : State) (i k : Nat) (token : U32) : State :=
  let r := s.recordAt i
  if r.state ≠ .active then { s with anchor := { s.anchor with late := satAdd 32 s.anchor.late 1 } }
  else if k ≤ r.generated ∨ r.maxNew < k ∨ (r.ahead.get k).isSome = true then s
  else State.takeInOrder (r.maxNew - r.generated) i (s.setRecord i { r with ahead := r.ahead.set k (some token) })

end Sys2Proof.Machine
end

