-- ==== Sys2Proof/Machine/FaultOps.lean ====
section
/-! DEFINITION. Shared operations of faults and of the life log: writing a fault record (R381-R385), entering a life-log
record (R443-R446), fencing a tenant (R387) and stopping the device (R389). -/

namespace Sys2Proof.Machine

/-! ### The life log's buffer (R446) -/

/-- Types of life-log record that are permanent, but for FAULT (R444). -/
def lifePermanent (type : Nat) : Bool := type == 1 || type == 4 || type == 5 || type == 9

/-- Offers a record to the log writer: it waits in the 256-record buffer. A full buffer loses a record that is not
permanent; a permanent one displaces the newest that is not. Answers whether a record was lost (R446). -/
def LifeLog.offer (l : LifeLog) (r : LifeRec) : LifeLog × Bool :=
  if l.buffer.length < 256 then ({ l with buffer := l.buffer ++ [r] }, false)
  else if r.permanent then
    match l.buffer.reverse.findIdx? (fun x => !x.permanent) with
    | none => ({ l with lost := true }, true)
    | some i => ({ l with buffer := l.buffer.eraseIdx (l.buffer.length - 1 - i) ++ [r], lost := true }, true)
  else ({ l with lost := true }, true)

/-- Severity of a code (R380). -/
def Severity.ofCode : Nat → Severity
  | 0 => .corrected | 1 => .deferred | 2 => .contained | _ => .fatal

/-! ### Fault records -/

/-- Some unread record of the ring satisfies `p` (R385). -/
def State.unread (s : State) (p : FaultRec → Bool) : Bool :=
  (List.range ((s.fault.head + 2 ^ 32 - s.fault.tail) % 2 ^ 32)).any fun i =>
    p (Tab.look { info := { severity := .corrected, block := 0, cause := 0 } } ((s.fault.tail + i) % 1024) s.fault.ring)

/-- Unread records of a severity code. -/
def State.unreadCount (s : State) (sev : Nat) : Nat :=
  ((List.range ((s.fault.head + 2 ^ 32 - s.fault.tail) % 2 ^ 32)).filter fun i =>
    (Tab.look { info := { severity := .corrected, block := 0, cause := 0 } }
      ((s.fault.tail + i) % 1024) s.fault.ring).info.severity.code == sev).length

/-- Drives ALERT_N: low while an unread record of a severity enabled in FAULT_ALERT_MASK [11:8] remains (R385). -/
def State.driveAlert (s : State) : State :=
  { s with pins := { s.pins with
      alertLow := s.unread fun r => s.flag Reg.FAULT_ALERT_MASK (8 + r.info.severity.code) } }

/-- The ring has no room (R384). -/
def State.faultFull (s : State) : Bool := (s.fault.head + 2 ^ 32 - s.fault.tail) % 2 ^ 32 == 1024

/-- Writes one record: it takes the next SEQ and goes to the ring, with the FAULT vector and ALERT_N, or is counted in
FAULT_LOST when the ring is full (R381, R384, R385); a FAULT trace record is offered (R422). -/
def State.writeRecord (s : State) (f : FaultInfo) (n : Nat) : State :=
  let recovering := decide (s.fault.recovery.step.val ≠ 0)
  let seq := s.fault.seq + 1
  let r : FaultRec := { info := f, overflow := s.fault.overflow, recovery := recovering, seq := seq, tide := s.now,
                        count := min n 65535, epoch := if recovering then s.rd Reg.FAULT_RECOVERY_EPOCH else 0 }
  let s := s.offer 6 [(1, f.severity.code), (1, f.status.toNat), (2, f.cause.toNat), (2, f.unit.toNat), (2, 0), (8, seq)]
             f.die
  if s.faultFull then
    { s with fault := { s.fault with
        seq := seq, overflow := true
        lost := s.fault.lost.set f.severity.code (min 255 (s.fault.lost.get f.severity.code + 1)) } }
  else
    let s := { s with fault := { s.fault with
        seq := seq, overflow := false
        ring := Tab.place { info := { severity := .corrected, block := 0, cause := 0 } } (s.fault.head % 1024) r s.fault.ring
        head := (s.fault.head + 1) % 2 ^ 32 } }
    let s := if s.flag Reg.FAULT_ALERT_MASK f.severity.code then
        let v : BitVec 11 := (s.rd Reg.HOSTIF_FAULT_VEC).truncate 11
        (s.raiseMsi 0 v).raiseMsi 1 v
      else s
    s.driveAlert

/-- Millisecond of global time, plus one. -/
def State.msStamp (s : State) : Nat := s.now / 1000000 + 1

/-- Counts an occurrence and writes a record unless one of the pair of cause and UNIT was written in this millisecond
(R383); answers whether a record was written. -/
def State.occur (s : State) (f : FaultInfo) : State :=
  let k := f.cause.toNat * 65536 + f.unit.toNat
  let h := s.fault.holds.get k
  let s := { s with fault := { s.fault with
      causes := s.fault.causes.set f.cause.toNat (satAdd 32 (s.fault.causes.get f.cause.toNat) 1) } }
  if decide (f.severity ≠ .fatal) && decide (h.lastMs = s.msStamp) then
    { s with fault := { s.fault with holds := s.fault.holds.set k { h with held := h.held + 1 } } }
  else
    let s := s.writeRecord f (h.held + 1)
    { s with fault := { s.fault with holds := s.fault.holds.set k { lastMs := s.msStamp, held := 0 } } }

/-- Enters a record in the life log's buffer; a loss is counted and LOG_LOSS is raised (R435, R446). -/
def State.lifeRecord (s : State) (type : Nat) (die : Byte) (permanent : Bool) (body : List Byte) : State :=
  let (l, lost) := s.health.log.offer
    { type := type, die := die, permanent := permanent, tide := s.now, hours := s.health.log.hours / 3600
      boot := s.health.log.boots, payload := body }
  let s := { s with health := { s.health with log := l } }
  if lost then
    let s := s.count Reg.HEALTH_LOG_LOST 1
    s.occur { severity := .corrected, block := 0x01C, cause := 0x0115, detail0 := BitVec.ofNat 64 (s.rdN Reg.HEALTH_LOG_LOST) }
  else s

/-- Bytes 0x01-0x20 of a fault record, as a FAULT record of the life log holds them (R381, R444); `overflow` is its OVERFLOW. -/
def FaultInfo.logBytes (f : FaultInfo) (overflow : Bool) (s : State) : List Byte :=
  packBytes [(1, f.severity.code), (1, f.status.toNat),
    (1, (if f.fence then 1 else 0) + (if overflow then 2 else 0) + (if decide (s.fault.recovery.step.val ≠ 0) then 4 else 0) + 8),
    (2, f.block.toNat), (2, f.cause.toNat), (8, s.fault.seq), (8, s.now), (8, f.requestId.toNat),
    (1, f.detail0.toNat % 256)]

/-- Fences a tenant and writes TENANT_FENCED (R387); a tenant already fenced keeps its reason. Every
request of the tenant that this device anchors ends with FENCED (R388). -/
def State.fenceTenant (s : State) (t : Nat) (reason : Fin 3) : State :=
  let e := s.fault.fences.get t
  if e.fenced then s
  else
    let s := { s with fault := { s.fault with fences := s.fault.fences.set t { e with fenced := true, reason := reason } } }
    (s.endTenant t).occur { severity := .contained, block := 0x018, cause := 0x004A, status := stFENCED
                            tenant := some (BitVec.ofNat 10 t), unit := BitVec.ofNat 16 t, detail1 := BitVec.ofNat 64 reason.val }

/-- Counts a CONTAINED occurrence of a tenant in the current whole second, and fences the tenant when the count reaches
FAULT_TENANT_LIMIT (R387). -/
def State.chargeContained (s : State) (t : Nat) : State :=
  let e := s.fault.fences.get t
  let sec := s.now / 1000000000
  let n := if e.second = sec then satAdd 16 e.contained 1 else 1
  let s := { s with fault := { s.fault with fences := s.fault.fences.set t { e with contained := n, second := sec } } }
  let lim := s.rdN Reg.FAULT_TENANT_LIMIT
  if decide (lim ≠ 0) && decide (lim ≤ n) then s.fenceTenant t 1 else s

/-- Reports a fault that lets the device go on (R380-R387); a record that sets LIFE_LOG is also entered in the life log, and an
occurrence that is held back is no record (R383, R384). -/
def State.raise (s : State) (f : FaultInfo) : State :=
  let n := s.fault.seq
  let lossy := s.fault.overflow
  let s := s.occur f
  let s := if f.lifeLog && decide (s.fault.seq ≠ n) then s.lifeRecord 7 f.die (decide (f.severity = .fatal)) (f.logBytes lossy s) else s
  match f.severity, f.tenant with
  | .contained, some t => s.chargeContained t.toNat
  | _, _ => s

/-! ### Stopping the device (R389-R391) -/

/-- Ports on which LAST_GASP is sent: allocated Strait ports that are UP (R296). -/
def State.livePorts (s : State) : List Nat := s.strait.ports.keysWhere fun _ p => p.allocated && decide (p.state = .up)

/-- Sends LAST_GASP twice on every live Strait port (R296, R391). -/
def State.sendGasp (s : State) (cause : Nat) : State :=
  { s with strait := { s.strait with
      out := (s.livePorts.flatMap fun p => [StraitOut.lastGasp cause p s.now, StraitOut.lastGasp cause p s.now]) ++ s.strait.out } }

/-- Every request that the device anchors ends with an ANCHOR_LOST completion record (R389, step 4); no message is sent,
since the engines have stopped. -/
def State.anchorsLost (s : State) : State :=
  (s.anchor.records.keysWhere fun _ r => decide (r.state = .active)).foldl (fun s i => s.endRequest i stANCHOR_LOST) s

/-- Takes the device to FATAL: engines stop and their work is abandoned, LAST_GASP is sent, the record is written to the
ring and the life log, and, unless both supplies are lost, anchored requests are reported ANCHOR_LOST (R389, R391). In
FATAL a further FATAL cause only adds its record. -/
def State.fatal (s : State) (f : FaultInfo) (supply : Bool := false) : State :=
  let first := !s.fault.fatal
  let s := { s with fault := { s.fault with fatal := true } }
  let s := if first then
      { s with
        herd := { s.herd with step := none }
        eland := { s.eland with queue := [], heldOps := [], running := [] }
        spring := { s.spring with queues := [], buffers := [], checks := [], reductions := [], waits := [] } }
    else s
  let s := if first then s.sendGasp (if supply then 0 else 1) else s
  let s := s.raise { f with severity := .fatal, lifeLog := true }
  if first && !supply then s.anchorsLost else s

/-- Location of a Springbok lane ℓ (R524, R567): its Springbok and Chamois islet. -/
def laneIslet (l : Nat) : Nat := let m := l / 32; 32 + 20 * (m / 5) + 9 + m % 5

/-- Location of the HBM controller of channel ℓ's stack (R524, R567). -/
def hbmIslet (l : Nat) : Nat := let m := l / 32; 32 + 20 * (m / 5) + 4 + m % 5

/-- Location of Eland sub-array 4q + s (R524, R567). -/
def saIslet (u : Nat) : Nat := 32 + 20 * (u / 4) + u % 4

/-- Location of Strait port n: hub islets 17-24, two ports each (R524; the pairing is log entry 30). -/
def straitIslet (n : Nat) : Nat := 17 + n / 2

/-- The die of an islet: 0 H, 1-4 Q0-Q3 (R381, R524). -/
def isletDie (i : Nat) : Nat := if i < 32 then 0 else (i - 32) / 20 + 1

/-- Places a fault at an islet (R567). -/
def FaultInfo.onIslet (f : FaultInfo) (islet : Nat) : FaultInfo :=
  { f with islet := BitVec.ofNat 8 islet, die := BitVec.ofNat 8 (isletDie islet) }

/-- AUDIT_IMBALANCE (R395, R396): the FAULT_AUDIT bit is set, and the record names it. -/
def State.imbalance (s : State) (bit : Nat) (severity : Severity) (observed expected : Nat) : State :=
  (s.setFlag Reg.FAULT_AUDIT bit true).raise
    { severity := severity, block := 0x018, cause := 0x004B, unit := BitVec.ofNat 16 bit
      detail0 := BitVec.ofNat 64 observed, detail1 := BitVec.ofNat 64 expected }

end Sys2Proof.Machine
end

