-- ==== Sys2Proof/Machine/TierOps.lean ====
section
/-! DEFINITION. Shared operations of the memory tiers: addresses, regions, interleave, access checks, poison and memory
errors (R182-R198). -/

namespace Sys2Proof.Machine

/-- Space of a device-local address (R182). -/
def addrSpace (a : Nat) : Nat := a / 2 ^ 44 % 16

/-- Offset of a device-local address (R182). -/
def addrOff (a : Nat) : Nat := a % 2 ^ 44

/-- Bits [63:48] are zero and the space is HBM or the tile store (R182). -/
def addrFormed (a : Nat) : Bool := decide (a < 2 ^ 48) && decide (addrSpace a ≤ 1)

/-- Bytes of a granule (R185). -/
def granuleBytes (g : Fin 4) : Nat :=
  match g with
  | 0 => 4096 | 1 => 16384 | 2 => 65536 | 3 => 1048576

/-- Lane index of the channel at place j of the list of R130 (j = 20 × PC + stack; ℓ = 32 × stack + PC). -/
def laneOfPlace (j : Nat) : Nat := 32 * (j % 20) + j / 20

/-- The channels of a set in list order (R130, R186). -/
def chList (c : BitVec 640) : List Nat := ((List.range 640).map laneOfPlace).filter fun l => c.getLsbD l

/-- Device-local address of the first byte of a region; a tile-store region lies at BASE within its quadrant's window
(R182, R184, R186). -/
def Region.start (r : Region) : Nat :=
  if r.space = 0 then r.base else 2 ^ 44 + 0x20000000 * r.quadrant.val + r.base

/-- The region holds device-local addresses `a` to `a + n − 1`. -/
def Region.holds (r : Region) (a n : Nat) : Bool := decide (r.start ≤ a) && decide (a + n ≤ r.start + r.size)

/-- Channel and in-channel byte of a device-local HBM address of a region (R186). -/
def Region.place (r : Region) (a : Nat) : Nat × Nat :=
  let x := a - r.start
  let g := granuleBytes r.granule
  let cs := chList r.channels
  let c := cs.length
  (cs.getD (x / g % c) 0, r.chBase + x / (g * c) * g + x % g)

/-- Regions in the region table. -/
def State.regionList (s : State) : List Region := s.tier.regions.filterMap fun e => e.2

/-- Regions an access may name: PLAN_SPACE is never accessed as such (R187). -/
def State.regionAt (s : State) (a n : Nat) : Option Region :=
  s.regionList.find? fun r => decide (r.kind ≠ 0x0E) && r.holds a n

/-- The first region of a kind, in the table's order. -/
def State.regionOfKind (s : State) (k : Nat) : Option Region := s.regionList.find? fun r => decide (r.kind.toNat = k)

/-- Kinds reached only by the device's own agents and by privileged functions (R191). -/
def privilegedKind (k : Nat) : Bool := (decide (5 ≤ k) && decide (k ≤ 0x0D)) || decide (k = 0x0F)

/-- Kinds marked "device" (R187). -/
def deviceKind (k : Nat) : Bool := decide (4 ≤ k) && decide (k ≤ 0x0F)

/-- Device-local address of a byte of a channel, where a loaded region holds it (R186). -/
def State.addrOfChannel (s : State) (l b : Nat) : Option Nat :=
  (s.regionList.find? fun r => decide (r.kind ≠ 0x0E) && decide (r.space = 0) && r.channels.getLsbD l && decide (r.chBase ≤ b)
      && decide (b < r.chBase + r.size / (chList r.channels).length)).map fun r =>
    let g := granuleBytes r.granule
    let x := b - r.chBase
    r.start + (x / g * (chList r.channels).length + (chList r.channels).idxOf l) * g + x % g

/-- The unit that a poison marker covers: 64 B of HBM or a 32-byte tile-store word (R196). -/
def poisonUnit (a : Nat) : Nat := if addrSpace a = 1 then a / 32 * 32 else a / 64 * 64

/-- Bytes of the poison unit. -/
def poisonSize (a : Nat) : Nat := if addrSpace a = 1 then 32 else 64

/-- The byte reads as poison (R198). -/
def State.poisonedAt (s : State) (a : Nat) : Bool := s.tier.poison.get (poisonUnit a)

/-- Some byte of `n` from `a` reads as poison. -/
def State.poisoned (s : State) (a n : Nat) : Bool :=
  s.tier.poison.anyWhere fun u p => p && decide (u < a + n) && decide (a < u + poisonSize u)

/-- Clears the markers of every unit that `n` bytes from `a` cover in full (R198). -/
def State.clearPoison (s : State) (a n : Nat) : State :=
  { s with tier := { s.tier with
      poison := s.tier.poison.filter fun (u, _) => !(decide (a ≤ u) && decide (u + poisonSize u ≤ a + n)) } }

/-- Marks the units that hold `n` bytes from `a`. -/
def State.setPoison (s : State) (a n : Nat) : State :=
  let u := poisonUnit a
  let k := poisonSize a
  let m := (a + n - u + k - 1) / k
  { s with tier := { s.tier with
      poison := (List.range m).foldl (fun t i => t.set (u + k * i) true) s.tier.poison } }

/-- Writes bytes of memory: data goes in, and a unit written in full loses its poison marker (R198). -/
def State.write (s : State) (a : Nat) (bs : List Byte) : State := (s.setBytes a bs).clearPoison a bs.length

/-- Clears a stretch of memory to the value unlisted bytes read as. -/
def State.zero (s : State) (a n : Nat) : State :=
  ({ s with mem := s.mem.filter fun c => !(decide (a ≤ c.1) && decide (c.1 < a + n)) }).clearPoison a n

/-- Writes bytes, poisoned or not. -/
def State.writeP (s : State) (a : Nat) (bs : List Byte) (poison : Bool) : State :=
  if poison then (s.setBytes a bs).setPoison a bs.length else s.write a bs

/-- The region lies in HBM whose training, or whose ZERO and INIT contents, are not done: TIER is not READY (R530). -/
def State.untrained (s : State) (r : Region) : Bool := decide (r.space = 0) && !s.isReady 0x008

/-- What an access is refused with, when it is (R182, R183, R191, R507): MALFORMED for an address that is not
device-local, PRIVILEGE for no region, another partition or a device region, FENCED for a partition whose key is
unusable. `privileged` accesses reach every partition and device region. -/
def State.accessStatus (s : State) (a n part : Nat) (privileged write : Bool) : Option Byte :=
  if !addrFormed a then some stMALFORMED
  else match s.regionAt a n with
    | none => some stPRIVILEGE
    | some r =>
      if !privileged && (decide (r.partition.val ≠ part) || privilegedKind r.kind.toNat) then some stPRIVILEGE
      else if s.sec.keyUnusable.getLsbD r.partition.val && decide (r.space = 0) then some stFENCED
      else if s.untrained r then some stNOT_READY
      else if write && r.readOnly && !privileged then some stPRIVILEGE
      else none

/-- What an engine's access for a partition's work is refused with (R182, R183, R191, R507): every access carries the partition of
the work that it serves, and the device's own agents reach the device regions. -/
def State.engineStatus (s : State) (a n part : Nat) (write : Bool) : Option Byte :=
  if !addrFormed a then some stMALFORMED
  else match s.regionAt a n with
    | none => some stPRIVILEGE
    | some r =>
      if !privilegedKind r.kind.toNat && decide (r.partition.val ≠ part) then some stPRIVILEGE
      else if s.sec.keyUnusable.getLsbD r.partition.val && decide (r.space = 0) then some stFENCED
      else if s.untrained r then some stNOT_READY
      else if write && r.readOnly then some stPRIVILEGE
      else none

/-- UNMAPPED_ACCESS, the CONTAINED record of an access that reaches no memory it may (R183, R191, R382). -/
def State.unmapped (s : State) (a part : Nat) (t : Option (BitVec 10)) (req : U64 := 0) : State :=
  s.raise { severity := .contained, block := 0x008, cause := 0x0020, status := stPRIVILEGE, requestId := req, detail0 := BitVec.ofNat 64 a, detail1 := BitVec.ofNat 64 part, tenant := t }

/-- Records a refused access: a refusal with PRIVILEGE writes UNMAPPED_ACCESS (R183). -/
def State.refuse (s : State) (st : Byte) (a part : Nat) (t : Option (BitVec 10)) (req : U64 := 0) : State :=
  if st == stPRIVILEGE then s.unmapped a part t req else s

/-- Hour of global time. -/
def State.hour (s : State) : Nat := s.now / 3600000000000

/-- Location of a memory address for a fault record (R567): the HBM controller of its channel's stack, or the
tile-store islet of its quadrant (14 and 15 of the quadrant; which of the two is log entry 30). -/
def State.memIslet (s : State) (a : Nat) : Nat :=
  if addrSpace a = 1 then 32 + 20 * (addrOff a / 0x20000000 % 4) + 14
  else match s.regionAt a 1 with
    | none => hbmIslet 0
    | some r => hbmIslet (r.place a).1

/-- Lane index ℓ of a memory address, 0xFFFF for the tile store (R382). -/
def State.memLane (s : State) (a : Nat) : Nat :=
  if addrSpace a = 1 then 0xFFFF
  else match s.regionAt a 1 with
    | none => 0
    | some r => (r.place a).1

/-! ### Pages of the KV pool (R52, R131, R190) -/

/-- The pool region of a partition. -/
def State.poolRegion (s : State) (part : Nat) : Option Region :=
  s.regionList.find? fun r => decide (r.kind = 4) && decide (r.partition.val = part)

/-- PAGE_BASE and the number of pages of a partition's pool. -/
def State.poolOf (s : State) (part : Nat) : Nat × Nat := s.tier.pools.get part

/-- Device-local address of a page's frame: page p of the pool is its (p − PAGE_BASE)-th 16 KiB (R52, R190). -/
def State.pageAddr (s : State) (page : Nat) : Nat :=
  match (s.tier.pools.find? fun (_, b) => decide (b.1 ≤ page) && decide (page < b.1 + b.2)) with
  | none => 0
  | some (k, b) =>
    match s.poolRegion k with
    | none => 0
    | some r => r.start + 16384 * (page - b.1)

/-- The page that holds a device-local address, when it lies in a KV pool. -/
def State.pageOf (s : State) (a : Nat) : Option Nat :=
  match s.regionAt a 1 with
  | none => none
  | some r =>
    if r.kind = 4 then some ((s.poolOf r.partition.val).1 + (a - r.start) / 16384) else none

/-- A page's descriptor (R55). -/
def State.page (s : State) (p : Nat) : PageDesc := s.tier.pages.get p

/-- Replaces a page's descriptor, keeping the four counts of R63 in step with the change of state. -/
def State.setPage (s : State) (p : Nat) (d : PageDesc) : State :=
  let old := (s.page p).state
  let t := s.tier
  let minus (x : PageState) (n : Nat) : Nat := if old = x then n - 1 else n
  let plus (x : PageState) (n : Nat) : Nat := if d.state = x then n + 1 else n
  { s with tier := { t with
      pages := t.pages.set p d
      free := plus .free (minus .free t.free)
      alloc := plus .allocated (minus .allocated t.alloc)
      inFlight := plus .inFlight (minus .inFlight t.inFlight)
      quar := plus .quarantined (minus .quarantined t.quar) } }

/-! ### Memory errors (R197, R198, R437, R438) -/

/-- The row history entry of a row, when there is one. -/
def State.rowIndex (s : State) (l bank row : Nat) : Option Nat :=
  (s.health.rows.find? fun (_, e) =>
    e.used && decide (e.channel = l) && decide (e.bank = bank) && decide (e.row = row)).map Prod.fst

/-- The entry of 4,096 to use for a new row: a free one, else the unflagged one with the lowest CE_TOTAL (R437). -/
def State.rowVictim (s : State) : Option Nat :=
  match s.health.rows.first (fun e => !e.used) 4096 with
  | some i => some i
  | none =>
    (s.health.rows.filter fun (_, e) => !(e.hot || e.ueSeen || e.softRepaired || e.hardPending || e.retired)).foldl
      (fun (b : Option Nat) (i, e) =>
        match b with
        | none => some i
        | some j => if e.ceTotal < (s.health.rows.get j).ceTotal then some i else some j) none

/-- The entry of a row, found or to be created, with its index; none when every entry is flagged (R437). -/
def State.rowEntry (s : State) (l bank row : Nat) : Option (Nat × RowEntry) :=
  match s.rowIndex l bank row with
  | some i => some (i, s.health.rows.get i)
  | none => s.rowVictim.map fun i => (i, { used := true, channel := l, bank := bank, row := row })

/-- Changes the row history entry of a row, which is created where there is none (R437). -/
def State.markRow (s : State) (l bank row : Nat) (f : RowEntry → RowEntry) : State :=
  match s.rowEntry l bank row with
  | none => s.count Reg.HEALTH_ROWS_DROPPED 1
  | some (i, e) => { s with health := { s.health with rows := s.health.rows.set i (f e) } }

/-- The 16 bytes of a row history entry (R437). -/
def RowEntry.bytes (e : RowEntry) : List Byte :=
  if e.used then
    packBytes [(2, e.channel), (1, e.bank),
      (1, (if e.hot then 1 else 0) + (if e.ueSeen then 2 else 0) + (if e.softRepaired then 4 else 0)
        + (if e.hardPending then 8 else 0) + (if e.retired then 16 else 0)),
      (4, e.row), (2, e.ceDay), (2, e.ceTotal), (1, e.ue), (3, 0)]
  else List.replicate 16 0

/-- Enters an error in the row history, and makes the row hot at HEALTH_ROW_CE corrected errors in the day or at its
first uncorrectable error: flags, ROW_HOT and a ROW record (R437, R438). -/
def State.rowError (s : State) (l bank row : Nat) (ue : Bool) : State :=
  match s.rowEntry l bank row with
  | none => s.count Reg.HEALTH_ROWS_DROPPED 1
  | some (i, e) =>
    let e := if ue then { e with ue := satAdd 8 e.ue 1, ueSeen := true }
             else { e with ceDay := satAdd 16 e.ceDay 1, ceTotal := satAdd 16 e.ceTotal 1 }
    let becomes := !e.hot && (ue || decide (s.rdN Reg.HEALTH_ROW_CE ≤ e.ceDay))
    let e := if becomes then { e with hot := true, hardPending := true } else e
    let s := { s with health := { s.health with rows := s.health.rows.set i e } }
    if becomes then
      let s := s.raise (FaultInfo.onIslet { severity := .corrected, block := 0x01C, cause := 0x0113, unit := BitVec.ofNat 16 l, detail0 := BitVec.ofNat 64 row, detail1 := BitVec.ofNat 64 bank } (hbmIslet l))
      s.lifeRecord 6 (BitVec.ofNat 8 (isletDie (hbmIslet l))) false (e.bytes ++ List.replicate 16 0)
    else s

/-- A corrected error of channel ℓ: counted, entered in the row history, and reported when the channel's count in the
hour reaches TIER_CE_THRESH (R197). -/
def State.corrected (s : State) (l bank row : Nat) : State :=
  let c := s.tier.channels.get l
  let n := if c.ceHour = s.hour then c.ce + 1 else 1
  let s := { s with tier := { s.tier with channels := s.tier.channels.set l { c with ce := n, ceHour := s.hour } } }
  let s := s.count Reg.TIER_CE_TOTAL 1
  let d := isletDie (hbmIslet l)
  let s := { s with health := { s.health with dies := s.health.dies.mod d fun h => { h with ce := h.ce + 1 } } }
  let s := s.rowError l bank row false
  if n = s.rdN Reg.TIER_CE_THRESH then
    s.raise (FaultInfo.onIslet { severity := .corrected, block := 0x008, cause := 0x0021, unit := BitVec.ofNat 16 l, detail0 := BitVec.ofNat 64 n } (hbmIslet l))
  else s

/-- Quarantines a page for uncorrectable data (R61, R198): a page already QUARANTINED keeps its QCAUSE. -/
def State.quarantine (s : State) (p : Nat) (cause : Fin 4) : State :=
  let d := s.page p
  if d.state = .quarantined then s else s.setPage p { d with state := .quarantined, qcause := cause, changed := s.now }

/-- Counts an uncorrectable error: TIER_UE_TOTAL, its die, and for HBM its channel and its row (R198, R437). -/
def State.ueCounts (s : State) (islet : Nat) (hbm : Bool) (l bank row : Nat) : State :=
  let s := s.count Reg.TIER_UE_TOTAL 1
  let s := { s with health := { s.health with dies := s.health.dies.mod (isletDie islet) fun h => { h with ue := h.ue + 1 } } }
  if hbm then
    let c := s.tier.channels.get l
    ({ s with tier := { s.tier with channels := s.tier.channels.set l { c with ue := c.ue + 1 } } }).rowError l bank row true
  else s

/-- UNCORRECTABLE: the record of an uncorrectable error (R198). -/
def State.ueRecord (s : State) (islet l addr : Nat) : State :=
  s.raise (FaultInfo.onIslet
    { severity := .deferred, block := 0x008, cause := 0x0022, status := stPOISON, unit := BitVec.ofNat 16 l, detail0 := BitVec.ofNat 64 addr } islet)

/-- An uncorrectable error at address `a` (R198): poison, UNCORRECTABLE, TIER_POISON_ADDR, the row history and the
page's quarantine. -/
def State.uncorrectable (s : State) (a bank row : Nat) : State :=
  let u := poisonUnit a
  let l := s.memLane a
  let i := s.memIslet a
  let s := (s.setPoison u 1).ueRecord i l u
  let s := (s.wr Reg.TIER_POISON_ADDR_LO (BitVec.ofNat 32 u)).wr Reg.TIER_POISON_ADDR_HI (BitVec.ofNat 32 (u / 2 ^ 32))
  let s := s.ueCounts i (decide (addrSpace a = 0)) l bank row
  match s.pageOf a with
  | none => s
  | some p => s.quarantine p 1

/-- An uncorrectable error in a unit of channel ℓ that no region holds (R198, R200): it has no device-local address, so DETAIL0 is all
ones and TIER_POISON_ADDR is kept (log entry 91); the unit reads as poison once a region holds it. -/
def State.uncorrectableUnit (s : State) (l unit bank row : Nat) : State :=
  let s := { s with tier := { s.tier with badUnits := s.tier.badUnits.set (l * 2 ^ 32 + unit) true } }
  (s.ueRecord (hbmIslet l) l (2 ^ 64 - 1)).ueCounts (hbmIslet l) true l bank row

/-- The poison of a region's units goes with its channels when the region leaves the table (R198, R200). -/
def State.sinkPoison (s : State) (r : Region) : State :=
  if r.space ≠ 0 then s
  else
    let us := s.tier.poison.keysWhere fun u p => p && r.holds u 64
    { s with tier := { s.tier with
        badUnits := us.foldl (fun t u => t.set ((r.place u).1 * 2 ^ 32 + (r.place u).2 / 64) true) s.tier.badUnits
        poison := s.tier.poison.filter fun (u, _) => !us.contains u } }

/-- The poison of the channel units that a region now holds shows at its addresses. -/
def State.surfacePoison (s : State) (r : Region) : State :=
  if r.space ≠ 0 then s
  else
    let us := s.tier.badUnits.keysWhere fun k b => b && r.channels.getLsbD (k / 2 ^ 32) && decide (r.chBase ≤ k % 2 ^ 32 * 64)
      && decide (k % 2 ^ 32 * 64 < r.chBase + r.size / (chList r.channels).length)
    us.foldl (fun s k => match s.addrOfChannel (k / 2 ^ 32) (k % 2 ^ 32 * 64) with
      | none => s
      | some a => ({ s with tier := { s.tier with badUnits := s.tier.badUnits.set k false } }).setPoison a 1) s

/-! ### What lies at rest (R194-R196) -/

/-- The 64 bytes that a channel stores at byte `b`, a multiple of 64: under AES-XTS-256 with the tweak ℓ × 2^32 + ⌊byte / 64⌋ where the
owning partition is encrypted (R194); free where no region holds them (log entry 90). -/
def State.atRest (s : State) (l b : Nat) : List Byte :=
  let k := (s.tier.channels.get l).partition.val
  match s.addrOfChannel l b with
  | none => freeBytes s.fresh 64
  | some a => if (s.tier.partitions.get k).encrypt then Config.aesXts (s.sec.keys.parts.get k) (l * 2 ^ 32 + b / 64) (s.bytes a 64) else s.bytes a 64

/-- The check bits of a 64-byte HBM unit, 32, over what the channel stores, and of a 32-byte tile-store word, 16 (R195, R196). -/
def State.checkBits (s : State) (u : ScrubAt) : BitVec 32 :=
  match u with
  | .hbm l unit => Config.symbolCode 32 (s.atRest l.val (64 * unit))
  | .tile a => Config.symbolCode 16 (s.bytes a 32)

/-- What the code finds in a unit in which `n` 4-bit symbols are wrong (R196): it corrects one and detects two; of more it promises
nothing, so `free` decides. -/
def codeFinds (n : Nat) (free : BitVec 64) : ScrubFound :=
  match n with
  | 0 => .clean
  | 1 => .corrected
  | 2 => .uncorrectable
  | _ => if free.getLsbD 0 then .uncorrectable else if free.getLsbD 1 then .corrected else .clean

/-- The symbols that errors make wrong: each error is a symbol and the change of its 4 bits. -/
def wrongSymbols (flips : List (Nat × BitVec 4)) : Nat := ((flips.filter fun f => f.2 != 0).map Prod.fst).eraseDups.length

end Sys2Proof.Machine
end

