-- ==== Sys2Proof/Machine/PageOps.lean ====
section
/-! DEFINITION. Shared operations of tiles and pages: layout (R42-R44, R52, R53), remote references (R59, R60), root blocks
and page lists (R56-R58), allocation (R61, R65, R131, R133), release (R61, R62), and check tags (R47, R48). -/

namespace Sys2Proof.Machine

/-! ### Layout (R43, R44, R52, R53) -/

/-- Tiles per page T of a format code (R52); 0 for a reserved code. -/
def tilesPerPage (f : Nat) : Nat :=
  match f with
  | 0 => 1
  | 1 | 2 | 3 | 4 => 2
  | 5 => 3
  | _ => 0

/-- Packed tile size in bytes (R43). -/
def tileSize (f : Nat) : Nat :=
  match f with
  | 0 => 16384
  | 1 | 2 => 8192
  | 3 | 4 => 6400
  | 5 => 4352
  | _ => 0

/-- Slices of a head of width D (R42). -/
def slicesOf (d : Nat) : Nat := (d + 127) / 128

/-- Tiles at one tile position of a layer (R53). -/
def tilesAt (heads slices : Nat) : Nat := 2 * heads * slices

/-- PPT: pages of one tile position (R53). -/
def pagesPerTp (heads slices f : Nat) : Nat := (tilesAt heads slices + tilesPerPage f - 1) / tilesPerPage f

/-- PPT of a sequence's root block. -/
def RootBlock.ppt (r : RootBlock) : Nat := pagesPerTp r.heads r.slices r.format.toNat

/-- Tiles that page `i` of a tile position holds (R55). -/
def tileCountAt (heads slices f i : Nat) : Nat :=
  if i + 1 = pagesPerTp heads slices f then tilesAt heads slices - i * tilesPerPage f else tilesPerPage f

/-! ### Remote page references (R59, R60) -/

/-- A remote page reference. -/
structure PageRef where
  device : U16
  page : Nat
  format : Nat
  part : Nat
  sealed_ : Bool
  replica : Bool
  rotated : Bool
  tiles : Nat
  deriving DecidableEq, Repr, Inhabited

/-- Reads a reference's fields. -/
def PageRef.ofWord (r : U64) : PageRef :=
  { device := BitVec.ofNat 16 (fieldOf r 63 48), page := fieldOf r 47 16, format := fieldOf r 15 12, part := fieldOf r 10 8
    sealed_ := r.getLsbD 4, replica := r.getLsbD 3, rotated := r.getLsbD 2, tiles := fieldOf r 1 0 }

/-- Every bit of a slot mask below `n` is set. -/
def allSealed (m : BitVec 3) (n : Nat) : Bool := (List.range n).all fun i => m.getLsbD i

/-- The reference to a local page (R59). -/
def State.refOf (s : State) (p : Nat) : U64 :=
  let d := s.page p
  BitVec.ofNat 64 (s.devId.toNat * 2 ^ 48 + p * 2 ^ 16 + d.format.toNat * 2 ^ 12 + d.partition.val * 2 ^ 8
    + (if allSealed d.sealed d.tileCount then 16 else 0) + (if d.replica then 8 else 0) + (if d.rotated then 4 else 0)
    + d.tileCount % 4)

/-- TILES and FORMAT of a reference are valid (R60). -/
def PageRef.ok (r : PageRef) : Bool := decide (r.tiles ≠ 0) && decide (r.tiles ≤ tilesPerPage r.format)

/-! ### Root blocks and page lists (R56-R58) -/

/-- A root block. -/
def State.root (s : State) (i : Nat) : RootBlock := s.tier.roots.get i

/-- Replaces a root block. -/
def State.setRoot (s : State) (i : Nat) (r : RootBlock) : State :=
  { s with tier := { s.tier with roots := s.tier.roots.set i r } }

/-- Root blocks that the PAGE_LIST region has room for (R56). -/
def State.rootRoom (s : State) : Nat := match s.regionOfKind 6 with
  | none => 0
  | some r => r.size / 1024

/-- Segments in use (R57). -/
def State.usedSegs (s : State) : List Nat := s.tier.roots.flatMap fun x => x.2.segs.flatMap fun y => y.2

/-- Takes the lowest-numbered root block whose bytes are not in use (R56; log entry 15). -/
def State.takeRoot (s : State) (r : RootBlock) : Option (Nat × State) :=
  let used := s.usedSegs
  (firstNat (fun i => !(s.root i).inUse && !used.any fun k => decide (k / 4 = i)) 0 s.rootRoom).map fun i => (i, s.setRoot i { r with inUse := true })

/-- `n` segments whose bytes are not in use, those of the highest numbers (R56, R57; log entry 15); none when the region has not so
many. `used` are those in use or taken. -/
def State.takeSegs (s : State) : Nat → List Nat → Option (List Nat)
  | 0, _ => some []
  | n + 1, used =>
    let room := 4 * s.rootRoom
    match firstNat (fun i => !used.contains (room - 1 - i) && !(s.root ((room - 1 - i) / 4)).inUse) 0 room with
    | none => none
    | some i => (s.takeSegs n ((room - 1 - i) :: used)).map ((room - 1 - i) :: ·)

/-- Segments that a list of `n` pages takes: 60 entries each (R57). -/
def segsFor (n : Nat) : Nat := (n + 59) / 60

/-- Segments that a layer's list needs beyond its own to hold `n` more pages. -/
def RootBlock.segsLacking (r : RootBlock) (layer n : Nat) : Nat := segsFor ((r.lists.get layer).length + n) - (r.segs.get layer).length

/-- A layer's list becomes shorter; the segments no longer needed are freed, from the front where low tile positions left (R58). -/
def RootBlock.shorten (r : RootBlock) (layer : Nat) (ps : List Nat) (front : Bool) : RootBlock :=
  let segs := r.segs.get layer
  let spare := segs.length - segsFor ps.length
  { r with lists := r.lists.set layer ps, segs := r.segs.set layer (if front then segs.drop spare else segs.take (segs.length - spare)) }

/-- What R58 finds for a tile. -/
inductive Located where
  /-- Below FIRST_TP: the owner of the lower range holds it. -/
  | remote
  /-- The list has no page of that tile position. -/
  | missing
  | tile (page slot : Nat)
  deriving DecidableEq, Repr, Inhabited

/-- The tile index of head `h`, slice `sl` and kv within a tile position (R53). -/
def tileIndex (slices h sl kv : Nat) : Nat := (h * slices + sl) * 2 + kv

/-- The page and slot of tile `t` of a tile position of a layer (R58). -/
def State.locate (s : State) (root layer tp t : Nat) : Located :=
  let r := s.root root
  let n := max 1 (tilesPerPage r.format.toNat)
  if tp < r.firstTp then .remote
  else match (r.lists.get layer)[(tp - r.firstTp) * r.ppt + t / n]? with
    | some p => if (s.page p).tilePos = tp then .tile p (t % n) else .missing
    | none => .missing

/-- `n` pages of a layer's list from a tile position on, when the list has them all (R58, R211). -/
def State.listFrom (s : State) (r : RootBlock) (layer tp n : Nat) : Option (List Nat) :=
  let ps := ((r.lists.get layer).filter fun p => decide (tp ≤ (s.page p).tilePos)).take n
  if ps.length = n then some ps else none

/-- FILLED counts token positions up to the last one written (R56). -/
def State.filledTo (s : State) (root n : Nat) : State := s.setRoot root { s.root root with filled := max (s.root root).filled n }

/-- Inserts pages of tile position `tp` in their place in a list ordered by tile position. -/
def State.insertTp (s : State) (tp : Nat) (new : List Nat) : List Nat → List Nat
  | [] => new
  | p :: ps => if tp < (s.page p).tilePos then new ++ p :: ps else p :: s.insertTp tp new ps

/-- Pages of a layer's tile position of a root block. -/
def State.tpPages (s : State) (root layer tp : Nat) : List Nat := ((s.root root).lists.get layer).filter fun p => decide ((s.page p).tilePos = tp)

/-! ### Allocation (R61, R131, R133) -/

/-- FREE pages of a pool at stripe position `j`, lowest first (R131). -/
def State.freeAt (s : State) (base n c j : Nat) : List Nat :=
  ((List.range (n / c)).map fun k => base + j + c * k).filter fun p => decide ((s.page p).state = .free)

/-- The pages that the allocator of R133 takes for a tile position: the first stripe position from the target on that has
enough FREE pages, and its lowest pages (log entry 15). -/
def State.pickPages (s : State) (part slot layer tp want : Nat) : Option (List Nat) :=
  match s.poolRegion part with
  | none => none
  | some r =>
    let b := s.poolOf part
    let c := (chList r.channels).length
    if c = 0 then none
    else (List.range c).findSome? fun i =>
      let ps := s.freeAt b.1 b.2 c ((41 * slot + 7 * layer + tp + i) % c)
      if want ≤ ps.length then some (ps.take want) else none

/-- What an allocation is for. -/
structure AllocFor where
  slot : Nat
  requestId : U64
  part : Fin 8
  root : Nat
  rotated : Bool := false
  replica : Bool := false
  state : PageState := .allocated
  deriving DecidableEq, Repr, Inhabited

/-- Gives the pages `ps` of tile position `tp` of a layer to a sequence (R55, R61), and enters them in its list. Rows not
yet written hold zero (R47). -/
def State.givePages (s : State) (a : AllocFor) (layer tp : Nat) (ps : List Nat) : State :=
  let r := s.root a.root
  let f := r.format.toNat
  let s := ps.foldl (fun s p => s.zero (s.pageAddr p) 16384) s
  let s := (List.range ps.length).foldl (fun s i =>
    s.setPage (ps.getD i 0)
      { state := a.state, format := r.format, rotated := a.rotated, partition := a.part, replica := a.replica
        owner := some a.slot, requestId := a.requestId, layer := layer, firstTile := i * tilesPerPage f
        tileCount := tileCountAt r.heads r.slices f i, tilePos := tp, changed := s.now }) s
  let list := s.insertTp tp ps (r.lists.get layer)
  let more := (s.takeSegs (r.segsLacking layer ps.length) s.usedSegs).getD []
  s.setRoot a.root { r with
    lists := r.lists.set layer list, segs := r.segs.set layer (r.segs.get layer ++ more), firstTp := if r.lists.isEmpty then tp else min r.firstTp tp }

/-- The page-list region has the segments that `n` more pages of a layer take. -/
def State.listable (s : State) (root layer n : Nat) : Bool := (s.takeSegs ((s.root root).segsLacking layer n) s.usedSegs).isSome

/-- Allocates the pages of one tile position of a layer, or answers that there are none (R79, R133). Allocations are held
while the auditor recounts (R64). -/
def State.allocTp (s : State) (a : AllocFor) (layer tp : Nat) : Option State :=
  if s.tier.held || !s.listable a.root layer (s.root a.root).ppt then none
  else (s.pickPages a.part.val a.slot layer tp (s.root a.root).ppt).map (s.givePages a layer tp)

/-- Allocates every listed pair of layer and tile position, or none of them. -/
def State.allocAll (a : AllocFor) : List (Nat × Nat) → State → Option State
  | [], s => some s
  | (l, tp) :: xs, s =>
    match s.allocTp a l tp with
    | none => none
    | some s => State.allocAll a xs s

/-! ### Release (R61, R62) -/

/-- A WAITING completion slot's transfer touches the page (R62, R220). -/
def State.touched (s : State) (p : Nat) : Bool :=
  s.ibex.slots.anyWhere fun _ x => decide (x.state = .waiting) && x.pages.contains p

/-- A page may be tested (R201): QUARANTINED with QCAUSE 1 or 2, released by its owner, and touched by no transfer. -/
def State.testable (s : State) (p : Nat) : Bool :=
  let d := s.page p
  decide (d.state = .quarantined) && (decide (d.qcause = 1) || decide (d.qcause = 2)) && d.owner.isNone && !s.touched p && decide (p < s.tier.total)

/-- A quarantined page of channel ℓ is under test (R203). Its test runs from when it may be tested (log entry 91). -/
def State.testing (s : State) (l : Nat) : Bool := s.tier.pages.anyWhere fun p _ => s.testable p && decide (s.memLane (s.pageAddr p) = l)

/-- A root block without a page of a layer's list. -/
def RootBlock.without (r : RootBlock) (layer p : Nat) : RootBlock :=
  let ps := r.lists.get layer
  if ps.contains p then r.shorten layer (ps.filter (· ≠ p)) (ps.head? == some p) else r

/-- Takes a page out of its sequence's list. -/
def State.unlist (s : State) (p : Nat) : State :=
  { s with tier := { s.tier with roots := s.tier.roots.mapAll fun _ r => r.without (s.page p).layer p } }

/-- A release takes effect: the owner and the sealed bits are cleared; a QUARANTINED page stays so, any other page is
FREE (R61). -/
def State.finishRelease (s : State) (p : Nat) : State :=
  let d := s.page p
  s.setPage p { d with
    state := if d.state = .quarantined then .quarantined else .free
    owner := none, sealed := 0, releasing := false, replica := false
    changed := if d.state = .quarantined then d.changed else s.now }

/-- Releases a page: at once, or when every transfer that touches it has committed (R62). -/
def State.releasePage (s : State) (p : Nat) : State :=
  let d := s.page p
  if d.state = .free then s
  else
    let s := s.unlist p
    if s.touched p then s.setPage p { d with releasing := true } else s.finishRelease p

/-- Releases the listed pages. -/
def State.releasePages (s : State) (ps : List Nat) : State := ps.foldl State.releasePage s

/-- Pages a Herd slot owns, in every state but FREE. -/
def State.ownedPages (s : State) (slot : Nat) : List Nat :=
  s.tier.pages.keysWhere fun _ d => decide (d.state ≠ .free) && decide (d.owner = some slot)

/-- Finishes the releases that no transfer holds up any more (R62). -/
def State.settlePages (s : State) : State :=
  (s.tier.pages.keysWhere fun _ d => d.releasing).foldl (fun s p => if s.touched p then s else s.finishRelease p) s

/-- Frees a root block. -/
def State.dropRoot (s : State) (i : Option Nat) : State :=
  match i with
  | none => s
  | some i => s.setRoot i {}

/-! ### Tiles and check tags (R42, R47, R48, R53) -/

/-- Address of a slot of a page. -/
def State.tileAddr (s : State) (p slot : Nat) : Nat := s.pageAddr p + slot * tileSize (s.page p).format.toNat

/-- Packed bytes of a tile. -/
def State.tileBytes (s : State) (p slot : Nat) : List Byte := s.bytes (s.tileAddr p slot) (tileSize (s.page p).format.toNat)

/-- Some byte of the tile reads as poison. -/
def State.tilePoisoned (s : State) (p slot : Nat) : Bool :=
  s.poisoned (s.tileAddr p slot) (tileSize (s.page p).format.toNat)

/-- The check tag of a tile's bytes (R48). -/
def State.tileTag (s : State) (p slot : Nat) : U64 := BitVec.ofNat 64 (crc64 (s.tileBytes p slot))

/-- Tag recorded for a slot (R55). -/
def PageDesc.tag (d : PageDesc) (slot : Nat) : U64 := d.tags.getD slot 0

/-- Records a tag and sets the slot's sealed bit (R47, R221). -/
def State.sealWith (s : State) (p slot : Nat) (tag : U64) : State :=
  let d := s.page p
  s.setPage p { d with sealed := d.sealed ||| BitVec.ofNat 3 (2 ^ slot), tags := (d.tags ++ [0, 0, 0]).take 3 |>.set slot tag }

/-- Seals a slot: the tag is computed over its bytes (R47). A poisoned tile is not sealed (R222). -/
def State.sealSlot (s : State) (p slot : Nat) : State :=
  if s.tilePoisoned p slot then s else s.sealWith p slot (s.tileTag p slot)

/-- Seals the slots of pages that are taken for a move and not sealed yet (R47). -/
def State.sealPages (s : State) (ps : List Nat) : State :=
  ps.foldl (fun s p => (List.range (s.page p).tileCount).foldl (fun s i =>
    if (s.page p).sealed.getLsbD i then s else s.sealSlot p i) s) s

/-- A write to a slot unseals it (R47). -/
def State.unseal (s : State) (p slot : Nat) : State :=
  let d := s.page p
  s.setPage p { d with sealed := d.sealed &&& ~~~BitVec.ofNat 3 (2 ^ slot) }

/-- Every present slot of the page is sealed. -/
def State.pageSealed (s : State) (p : Nat) : Bool := allSealed (s.page p).sealed (s.page p).tileCount

/-- Writes a tile's bytes; poison marks the whole tile and leaves it unsealed (R222). -/
def State.putTile (s : State) (p slot : Nat) (bs : List Byte) (poison : Bool) : State :=
  (s.writeP (s.tileAddr p slot) (bs.take (tileSize (s.page p).format.toNat)) poison).unseal p slot

end Sys2Proof.Machine
end

