-- ==== Sys2Proof/Machine/Layout.lean ====
section
/-! DEFINITION. The structures that the device keeps in regions of HBM, as their bytes: page descriptors (R55), root blocks and page-list
segments (R56, R57), request records with their token arrays (R36, R37), and the Herd entries of FIRMWARE mode (R68). The hub state
cache stands between every reader and these regions, so that no reader sees a stale copy (R193): what they hold is what the
structures of State say. -/

namespace Sys2Proof.Machine

/-- A flag as bit `i` of a value. -/
def asBit (b : Bool) (i : Nat) : Nat := if b then 2 ^ i else 0

/-- Code of a page state (R55). -/
def PageState.code : PageState → Nat
  | .free => 0 | .allocated => 1 | .inFlight => 2 | .quarantined => 3

/-- The 64 bytes of a page descriptor (R55). -/
def PageDesc.bytes (d : PageDesc) : List Byte :=
  packBytes ([(1, 1), (1, d.state.code), (1, d.format.toNat), (1, d.sealed.toNat + asBit d.rotated 3 + 16 * d.partition.val + asBit d.replica 7),
    (4, d.owner.getD 0xFFFFFFFF), (8, d.requestId.toNat), (1, d.layer), (1, d.firstTile), (1, d.tileCount), (1, d.qcause.val), (4, d.tilePos)]
    ++ (List.range 3).map (fun i => (8, (d.tags.getD i 0).toNat)) ++ [(8, d.changed), (8, 0)])

/-- The 1,024 bytes of a root block (R56). -/
def RootBlock.bytes (r : RootBlock) : List Byte :=
  packBytes ([(1, 1), (1, r.layers), (1, r.heads), (1, r.slices), (1, r.format.toNat), (3, 0), (4, r.firstTp), (4, r.filled), (48, 0)]
    ++ (List.range 240).map fun l => (4, (r.segs.get l).headD 0xFFFFFFFF))

/-- The 256 bytes of segment `k` of a layer's chain (R57). -/
def State.segBytes (s : State) (r : RootBlock) (layer k : Nat) : List Byte :=
  let ps := ((r.lists.get layer).drop (60 * k)).take 60
  packBytes ([(1, 1), (1, layer), (2, ps.length), (4, (r.segs.get layer).getD (k + 1) 0xFFFFFFFF), (4, (s.page (ps.getD 0 0)).tilePos), (4, 0)]
    ++ (List.range 60).map fun i => (4, ps.getD i 0xFFFFFFFF))

/-- The layer, and the place in its chain, of a segment of a root block. -/
def RootBlock.segPlace (r : RootBlock) (k : Nat) : Option (Nat × Nat) :=
  (r.segs.find? fun x => x.2.contains k).map fun x => (x.1, x.2.idxOf k)

/-- The 128 bytes of a Herd entry (R68). -/
def HerdEntry.bytes (e : HerdEntry) : List Byte :=
  packBytes ([(1, 1), (1, e.state.code), (1, match e.prevState with | some p => p.code | none => 0xFF),
    (1, asBit e.specAllowed 0 + asBit e.rotated 1 + asBit e.replica 2 + asBit e.rangePending 3 + asBit e.endOrdered 4),
    (2, e.tenant.toNat), (1, e.model.toNat), (1, e.priority.toNat + 16 * e.partition.val), (2, e.adapter.toNat), (2, e.anchorDev.toNat),
    (4, e.mapEpoch.toNat), (8, e.requestId.toNat), (8, e.deadline), (4, e.length), (4, e.limit), (4, e.promptLen), (4, e.prefilled),
    (4, e.pageRoot.getD 0), (4, e.budgetAccount.toNat), (4, match e.specTree with | some h => h.toNat | none => 0xFFFFFFFF),
    (2, match e.peerDev with | some d => d.toNat | none => 0xFFFF), (2, e.recordIndex), (4, e.handoffId.toNat), (4, e.recoveryEpoch.toNat),
    (4, e.stepSerial % 2 ^ 32), (2, e.poisonRun), (1, e.status.toNat), (1, 0), (8, e.admitTide), (8, e.stateTide), (4, e.rangeStart)]
    ++ (List.range 3).map (fun i => (2, match e.lowerPeers[i]? with | some d => d.toNat | none => 0xFFFF))
    ++ [(2, e.preemptCount), (20, 0)])

/-- Code of RECORD_STATE (R36). -/
def RecordState.code : RecordState → Nat
  | .free => 0 | .active => 1 | .ended => 2

/-- The 16 bytes of an owner entry (R36). -/
def OwnerEntry.fields (o : OwnerEntry) : List (Nat × Nat) := [(2, o.device.toNat), (1, o.role.code), (1, 1), (4, o.start), (4, o.epoch.toNat), (4, o.slot)]

/-- The 16 bytes of a replica entry (R36). -/
def ReplicaEntry.fields (r : ReplicaEntry) : List (Nat × Nat) :=
  [(2, r.device.toNat), (1, 1 + asBit r.complete 1), (1, 0), (4, r.covered), (4, r.epoch.toNat), (4, 0)]

/-- The 256-byte header of the request record of index `i` (R36). -/
def State.recordBytes (s : State) (i : Nat) (r : Record) : List Byte :=
  packBytes ([(1, 1), (1, r.state.code), (1, r.endStatus.toNat), (1, asBit r.cancel 0 + asBit r.specAllowed 1 + asBit r.replicaRequested 2),
    (2, r.tenant.toNat), (1, r.model.toNat), (1, r.priority.toNat), (2, r.adapter.toNat), (2, s.devId.toNat), (2, i), (2, 0), (8, r.requestId.toNat),
    (8, r.admitTide), (8, r.deadline), (4, r.promptLen), (4, r.maxNew), (4, r.delivered), (4, r.admitEpoch.toNat), (4, r.budgetAccount.toNat), (4, 0),
    (4, r.sampling.temperature.toNat), (4, r.sampling.topP.toNat), (4, r.sampling.repPenalty.toNat), (2, r.sampling.topK.toNat),
    (2, r.sampling.flags.toNat), (8, r.sampling.seed.toNat), (4, r.sampling.sampled), (4, r.sampling.endToken.toNat)]
    ++ ((List.range 4).flatMap fun k => match r.owners[k]? with | some o => o.fields | none => [(16, 0)])
    ++ (match r.pending with | some p => [(2, p.sender.toNat), (2, p.receiver.toNat), (4, p.id.toNat), (8, p.start)] | none => [(16, 0)])
    ++ ((List.range 2).flatMap fun k => match r.replicas[k]? with | some x => x.fields | none => [(16, 0)])
    ++ [(8, r.tokenAddr.toNat), (4, r.promptLen + r.maxNew), (4, r.submitter.toNat), (8, r.endTide), (24, 0)])

/-- The byte at offset `o` of the anchor record region, at address `a`: of a header, or of a token array (R36, R37). -/
def State.anchorByte (s : State) (o a : Nat) : Byte :=
  let max := match s.struct.loaded with | some b => b.anchorMax | none => 0
  if o < 256 * max then (s.recordBytes (o / 256) (s.anchor.records.get (o / 256))).getD (o % 256) 0
  else match s.anchor.records.find? fun x =>
      decide (x.2.state ≠ .free) && decide (x.2.tokenAddr.toNat ≤ a) && decide (a < x.2.tokenAddr.toNat + 4 * x.2.tokens.length) with
    | some (_, r) => (leBytes 4 (r.tokens.getD ((a - r.tokenAddr.toNat) / 4) 0).toNat).getD ((a - r.tokenAddr.toNat) % 4) 0
    | none => s.byte a

/-- The byte at offset `o` of the page-list region, at address `a`: of a root block or of a segment (R56, R57). -/
def State.listByte (s : State) (o a : Nat) : Byte :=
  if (s.root (o / 1024)).inUse then (s.root (o / 1024)).bytes.getD (o % 1024) 0
  else match s.tier.roots.findSome? fun x => (x.2.segPlace (o / 256)).map fun y => (x.2, y) with
    | some (r, layer, k) => (s.segBytes r layer k).getD (o % 256) 0
    | none => s.byte a

/-- The byte that a reader finds at a device-local address (R193). -/
def State.seenByte (s : State) (a : Nat) : Byte :=
  match s.regionAt a 1 with
  | none => s.byte a
  | some r =>
    let o := a - r.start
    match r.kind.toNat with
    | 5 => if o / 64 < s.tier.total then (s.page (o / 64)).bytes.getD (o % 64) 0 else s.byte a
    | 6 => s.listByte o a
    | 7 => s.anchorByte o a
    | 9 => if s.fnMode 0 = .firmware ∧ o / 128 < 65536 then (s.herd.entries.get (o / 128)).bytes.getD (o % 128) 0 else s.byte a
    | _ => s.byte a

/-- `n` bytes as a reader finds them. -/
def State.seen (s : State) (a n : Nat) : List Byte := (List.range n).map fun i => s.seenByte (a + i)

/-- A little-endian value as a reader finds it. -/
def State.seenLE (s : State) (a n : Nat) : Nat := leNat (s.seen a n)

end Sys2Proof.Machine
end

