-- ==== Sys2Proof/Machine/Observe.lean ====
section
/-! DEFINITION. Counters, time and trace (chapter 15). -/

namespace Sys2Proof.Machine

/-! ### The Tide (R413-R417) -/

/-- The Tide moves to `t` if that lies ahead; it never steps backward (R413). -/
def State.tideTo (s : State) (t : Nat) : State := { s with obs := { s.obs with tide := max s.obs.tide t % 2 ^ 64 } }

/-- A 32-bit register value of a signed number, saturated. -/
def sat32 (x : Int) : U32 := BitVec.ofInt 32 (satInt 32 x)

/-- Enters a time state: a TIME record at each change (R422), and READY of OBS in LOCKED and FREE (R414). -/
def State.timeState (s : State) (t : TimeState) : State :=
  if s.obs.state = t then s
  else
    let old := s.obs.state
    let s := { s with obs := { s.obs with state := t, lockRun := 0 } }
    let s := s.offer 10 [(1, old.code), (1, t.code), (2, 0), (4, s.rdN Reg.OBS_PULSE_ERR), (4, s.rdN Reg.OBS_PTP_OFFSET), (4, 0)]
    if t = .locked ∨ t = .free then s.setReady 0x01A true else s

/-- Signed value of OBS_PULSE_COMP. -/
def State.pulseComp (s : State) : Int := (s.rd Reg.OBS_PULSE_COMP).toInt

/-- Error e of a pulse: the Tide at the edge less the nearest expected edge (R414, R415). -/
def State.pulseError (s : State) : Int :=
  let x : Int := (s.now : Int) - s.pulseComp
  (x + 500000) % 1000000 - 500000

/-- At each pulse with PTP_REF set: d is measured and reported, and PTP_LOCKED follows the last 16 values (R417). -/
def State.ptpSample (s : State) : State :=
  match s.flag Reg.OBS_TIME_CTRL 2, s.obs.ptpClock with
  | true, some d =>
    let ds := (d :: s.obs.ptp).take 16
    let sum : Int := ds.foldl (· + ·) 0
    let locked := decide (ds.length = 16) && ds.all fun x => decide (-(16 * 50 : Int) ≤ 16 * x - sum) && decide (16 * x - sum ≤ 16 * 50)
    ({ s with obs := { s.obs with ptp := ds, ptpLocked := locked } }).wr Reg.OBS_PTP_OFFSET (sat32 d)
  | _, _ => { s with obs := { s.obs with ptp := [], ptpLocked := false } }

/-- Compares an armed TIDE_NEXT outside UNSET: MISMATCH beyond 1 µs, and a forward step when STEP_EN allows (R415). -/
def State.checkTideNext (s : State) : State :=
  match s.obs.tideNext with
  | none => s
  | some v =>
    let here := s.now
    let s := { s with obs := { s.obs with tideNext := none } }
    if v ≤ here + 1000 ∧ here ≤ v + 1000 then s
    else
      let s := (s.setFlag Reg.OBS_TIME_STATUS 3 true).raise
        { severity := .corrected, block := 0x01A, cause := 0x0102, detail0 := BitVec.ofNat 64 v, detail1 := BitVec.ofNat 64 here }
      if s.flag Reg.OBS_TIME_CTRL 1 && decide (here < v) then s.tideTo v else s

/-- Correction of R415 at an accepted pulse of error `e`: the error is slewed out as time passes. -/
def State.acceptPulse (s : State) (e : Int) : State :=
  let s := s.checkTideNext
  ({ s with obs := { s.obs with slew := e, lastPulse := s.now } }).wr Reg.OBS_PULSE_ERR (sat32 e)

/-- Rejects a pulse: counted in REJECTED (R414). -/
def State.rejectPulse (s : State) : State :=
  ({ s with obs := { s.obs with lockRun := 0 } }).bump Reg.OBS_TIME_STATUS 16 16 1

/-- A pulse on SB2 judged by the table of R414. -/
def State.judgePulse (s : State) : State :=
  let e := s.pulseError
  match s.obs.state with
  | .unset =>
    match s.obs.tideNext, s.flag Reg.OBS_TIME_CTRL 0 with
    | some v, false =>
      (({ s with obs := { s.obs with tideNext := none, tide := v % 2 ^ 64, lastPulse := v % 2 ^ 64, slew := 0 } })).timeState .locking
    | _, _ => s
  | .free => s.checkTideNext
  | .locking =>
    if e.natAbs > 1000 then s.rejectPulse
    else
      let run := if e.natAbs ≤ 20 then s.obs.lockRun + 1 else 0
      let s := s.acceptPulse e
      let s := { s with obs := { s.obs with lockRun := run } }
      if run ≥ 16 then s.timeState .locked else s
  | .locked =>
    if e.natAbs > 1000 then s.rejectPulse
    else if e.natAbs ≤ 50 then s.acceptPulse e
    else (s.acceptPulse e).timeState .locking
  | .holdover | .unlocked => (s.acceptPulse e).timeState .locking

/-- EPOCH_PULSE (R414, R415, R417): the pulse arrives when the Tide reads `tide`. -/
def execEpochPulse (tide : Nat) (s : State) : Host.Outcome State Fault Refusal :=
  .next (((s.tideTo tide).ptpSample).judgePulse)

/-- PULSE_ABSENCE (R414): no accepted pulse for 2 ms in LOCKING or LOCKED. -/
def execPulseAbsence (s : State) : Host.Outcome State Fault Refusal :=
  .next (match s.obs.state with
    | .locking | .locked =>
      (s.timeState .holdover).raise { severity := .corrected, block := 0x01A, cause := 0x0100, detail0 := BitVec.ofNat 64 s.obs.lastPulse }
    | _ => s)

/-- HOLDOVER_EXPIRY (R414): no accepted pulse for OBS_HOLDOVER_MAX in HOLDOVER. -/
def execHoldoverExpiry (s : State) : Host.Outcome State Fault Refusal :=
  .next (match s.obs.state with
    | .holdover =>
      (s.timeState .unlocked).raise { severity := .contained, block := 0x01A, cause := 0x0101, detail0 := BitVec.ofNat 64 s.obs.lastPulse }
    | _ => s)

/-- Arms TIDE_NEXT; in UNSET with SOURCE FREE the Tide is set at once (R414, R415). -/
def State.armTide (s : State) (v : Nat) : State :=
  if s.obs.state = .unset ∧ s.flag Reg.OBS_TIME_CTRL 0 = true then
    ({ s with obs := { s.obs with tide := v % 2 ^ 64, tideNext := none } }).timeState .free
  else { s with obs := { s.obs with tideNext := some (v % 2 ^ 64) } }

/-- TIDE_NEXT_WRITE (R415, R432): writing HI arms the value of the pair. -/
def execTideNextWrite (hi : U32) (s : State) : Host.Outcome State Fault Refusal :=
  let s := s.wr Reg.OBS_TIDE_NEXT_HI hi
  .next (s.armTide (hi.toNat * 2 ^ 32 + s.rdN Reg.OBS_TIDE_NEXT_LO))

/-- The alarm code (R417). -/
def State.alarmCode (s : State) : U32 :=
  let valid := s.flag Reg.OBS_TIME_CTRL 2 && s.obs.ptpLocked
  let d : Int := (s.obs.ptp.head?).getD 0
  let steer : BitVec 24 := if valid then BitVec.ofInt 24 (satInt 24 d) else 0
  let alerts := (List.range 4).foldl (fun a k => if s.unreadCount k = 0 then a else a + 2 ^ k) 0
  BitVec.ofNat 32 (steer.toNat * 256 + (if valid then 128 else 0) + s.obs.state.code * 16 + alerts)

/-- ALARM_CODE_SEND (R417): the code is driven on SB2 in the RUN phase. -/
def execAlarmCodeSend (s : State) : Host.Outcome State Fault Refusal :=
  .next (if s.pins.phase = .run then { s with obs := { s.obs with alarms := s.alarmCode :: s.obs.alarms } } else s)

/-- SNAP (R411): all twelve counters and the Tide are copied. -/
def execSnap (s : State) : Host.Outcome State Fault Refusal :=
  .next { s with obs := { s.obs with snap := some { counters := s.obs.counters, tide := s.now } } }

/-! ### The trace writer (R420-R431) -/

/-- N: record positions of the reserve (R420). -/
def State.traceN (s : State) : Nat := match s.regionOfKind 0x0A with
  | none => 0
  | some r => r.size / 32

/-- M: the modulus of record indices (R420). -/
def State.traceM (s : State) : Nat := s.traceN * (2 ^ 32 / s.traceN)

/-- Forward distance from index `a` to index `b` (R420). -/
def fwd (m a b : Nat) : Nat := (b + m - a) % m

/-- Address of the position of an index (R420). -/
def State.traceAddr (s : State) (w : Nat) : Nat := match s.regionOfKind 0x0A with
  | none => 0
  | some r => r.start + 32 * (w % s.traceN)

/-- Index last written (R427). -/
def State.traceLast (s : State) : Nat := (s.obs.wpos + s.traceM - 1) % s.traceM

/-- The position of the next index is locked by a held window (R427, R429). -/
def State.traceLocked (s : State) : Bool :=
  s.obs.windows.anyWhere fun _ v =>
    decide (v.state ≠ .free) &&
      decide (fwd s.traceM v.start s.obs.wpos % s.traceN ≤ min (fwd s.traceM v.start v.stop) (fwd s.traceM v.start s.traceLast)) &&
      decide (fwd s.traceM v.start s.obs.wpos ≥ s.traceN)

/-- The ring is full in STOP mode (R429). -/
def State.traceFull (s : State) : Bool :=
  s.flag Reg.OBS_TRACE_CTRL 1 && decide (s.traceN ≤ fwd s.traceM s.obs.rpos s.obs.wpos)

/-- Why the writer is blocked, when it is: 0 a locked window, 1 stopped (R429). -/
def State.traceBlock (s : State) : Option Nat :=
  if s.traceN = 0 then some 1 else if s.traceFull then some 1 else if s.traceLocked then some 0 else none

/-- The 32 bytes of a record (R421). -/
def TraceRec.bytes (r : TraceRec) (seq : Nat) : List Byte :=
  packBytes [(1, 1), (1, r.type), (1, if r.trigger then 1 else 0), (1, r.die.toNat), (4, seq % 2 ^ 32), (8, r.tide), (16, r.payload.toNat)]

/-- A byte of a payload. -/
def TraceRec.fieldAt (r : TraceRec) (at_ n : Nat) : Nat := r.payload.toNat / 256 ^ at_ % 256 ^ n

/-- STATUS of a record, for the types that carry one (R422). -/
def TraceRec.status? (r : TraceRec) : Option Nat :=
  match r.type with
  | 3 | 4 => some (r.fieldAt 5 1)
  | 5 => some (r.fieldAt 4 1)
  | 6 | 7 => some (r.fieldAt 1 1)
  | _ => none

/-- The waits and durations of a record (R422). -/
def TraceRec.times (r : TraceRec) : List Nat :=
  match r.type with
  | 1 => [r.fieldAt 4 4, r.fieldAt 8 4]
  | 2 | 3 => [r.fieldAt 8 4]
  | 4 => [r.fieldAt 12 4]
  | _ => []

/-- KIND of a record, for the types that carry one (R422). -/
def TraceRec.kind? (r : TraceRec) : Option Nat :=
  match r.type with
  | 3 => some (r.fieldAt 4 1)
  | 5 => some (r.fieldAt 0 1)
  | 9 => some (r.fieldAt 1 1)
  | _ => none

/-- The record passes the TEST of unit `n` (R425, OBS_TRIGn_CFG). -/
def State.passes (s : State) (n : Nat) (r : TraceRec) : Bool :=
  let th := s.rdN (Reg.OBS_TRIG_THRESH + 8 * n)
  match s.field (Reg.OBS_TRIG_CFG + 8 * n) 8 3 with
  | 0 => true
  | 1 => match r.status? with | some v => decide (0x10 ≤ v) | none => false
  | 2 => r.type == 6 && decide (th ≤ r.fieldAt 0 1)
  | 3 => r.times.any fun v => decide (th ≤ v)
  | 4 => match r.kind? with | some v => decide (v = th % 256) | none => false
  | _ => false

/-- The trigger units that fire on a record: none in HOST_ASSIST mode (R425, R426); a TRIGGER record fires none
(log entry 6). -/
def State.firing (s : State) (r : TraceRec) : List Nat :=
  if s.fnMode 7 = .hostAssist || r.type == 9 then []
  else (List.range 8).filter fun n =>
    s.flag (Reg.OBS_TRIG_CFG + 8 * n) 15 && decide (s.field (Reg.OBS_TRIG_CFG + 8 * n) 0 8 = r.type) && s.passes n r

/-- Puts a record at the next index and moves on; a FILLING window whose END is written becomes LOCKED (R420, R427). -/
def State.tracePut (s : State) (r : TraceRec) (seq : Nat) : State :=
  let w := s.obs.wpos
  let s := s.write (s.traceAddr w) (r.bytes seq)
  let wins := s.obs.windows.mapAll fun _ v => if v.state = .filling ∧ v.stop = w then { v with state := .locked } else v
  let s := { s with obs := { s.obs with
      wpos := (w + 1) % s.traceM, written := s.obs.written + 1, last := some (r, seq), windows := wins } }
  s.obsCount 8 1

/-- CAP of a window (R427). -/
def State.traceCap (s : State) : Nat := min (s.rdN Reg.OBS_TRACE_LOCK_CAP) (s.traceN / 4)

/-- A TRIGGER record is offered and written next, or lost with the position (R425, R427, R430). -/
def State.triggerRec (s : State) (p : List (Nat × Nat)) : State :=
  if s.flag Reg.OBS_TRACE_CTRL 0 then
    let q := s.obs.seq
    let s := { s with obs := { s.obs with seq := (q + 1) % 2 ^ 32 } }
    let r : TraceRec := { type := 9, tide := s.now, payload := payload p }
    match s.traceBlock with
    | none => s.tracePut r q
    | some c =>
      let l : TraceLoss := match s.obs.loss with
        | none => { seq := q, tide := s.now, lastTide := s.now, count := 1, cause := c }
        | some l => { l with lastTide := s.now, count := l.count + 1 }
      ({ s with obs := { s.obs with loss := some l } }).obsCount 9 1
  else s

/-- A trigger of unit `trig` (8 for software) on the record of index `t` and SEQ `q`: it extends the window that holds
`t`, opens a window, or is missed (R427, R428). -/
def State.fireTrigger (s : State) (trig t q : Nat) : State :=
  let m := s.traceM
  let cap := s.traceCap
  let post := s.rdN Reg.OBS_TRACE_POST
  match (List.range 4).find? fun i =>
      let v := s.obs.windows.get i
      decide (v.state ≠ .free) && decide (fwd m v.start t ≤ fwd m v.start v.stop) with
  | some i =>
    let v := s.obs.windows.get i
    let want := fwd m v.start t + post
    let len := max (fwd m v.start v.stop) (min want (cap - 1))
    let cut := decide (cap - 1 < want)
    let moved := decide (len ≠ fwd m v.start v.stop)
    let v' : TraceWin := { v with stop := (v.start + len) % m, capped := v.capped || cut, state := if moved then .filling else v.state }
    let latest := decide (s.obs.lastEnd = some v.stop)
    let s := { s with obs := { s.obs with windows := s.obs.windows.set i v', lastEnd := if latest then some v'.stop else s.obs.lastEnd } }
    let s := s.obsCount 10 1
    let s := if cut then s.obsCount 11 1 else s
    s.triggerRec [(1, trig), (1, if cut then 3 else 1), (1, i), (1, 0), (4, v'.start), (4, v'.stop), (4, q)]
  | none =>
    match (List.range 4).find? fun i => decide ((s.obs.windows.get i).state = .free) with
    | none => (s.obsCount 11 1).triggerRec [(1, trig), (1, 2), (1, 0xFF), (1, 0), (4, 0), (4, 0), (4, q)]
    | some i =>
      let w := s.traceLast
      let b := min (s.rdN Reg.OBS_TRACE_PRE) (s.traceN - 1 - fwd m t w)
      let b := match s.obs.lastEnd with
        | none => b
        | some e => min b (fwd m ((e + 1) % m) t)
      let start := (t + m - b) % m
      let len := min (b + post) (cap - 1)
      let cut := decide (cap - 1 < b + post)
      let v : TraceWin := { state := if len ≤ fwd m start w then .locked else .filling, start := start, stop := (start + len) % m, capped := cut }
      let s := { s with obs := { s.obs with windows := s.obs.windows.set i v, lastEnd := some v.stop } }
      (s.obsCount 10 1).triggerRec [(1, trig), (1, if cut then 3 else 0), (1, i), (1, 0), (4, v.start), (4, v.stop), (4, q)]

/-- Writes a record and fires the triggers it fires (R425). -/
def State.traceEmit (s : State) (r : TraceRec) (q : Nat) : State :=
  let units := s.firing r
  let r := { r with trigger := !units.isEmpty }
  let t := s.obs.wpos
  units.foldl (fun s u => s.fireTrigger u t q) (s.tracePut r q)

/-- Writes the pending loss as a LOSS record when a position is writable (R430). -/
def State.flushLoss (s : State) : State :=
  match s.obs.loss, s.traceBlock with
  | some l, none =>
    let s := { s with obs := { s.obs with loss := none } }
    s.traceEmit { type := 11, tide := l.tide, payload := payload [(8, l.lastTide), (4, l.count), (1, l.cause), (3, 0)] } l.seq
  | _, _ => s

/-- A record of SEQ `q` is lost with a cause: it joins the pending loss; a loss of another cause is written first when a
position is writable (R430). -/
def State.loseRecord (s : State) (r : TraceRec) (q cause : Nat) : State :=
  let s := match s.obs.loss with
    | some l => if l.cause = cause then s else s.flushLoss
    | none => s
  let l : TraceLoss := match s.obs.loss with
    | none => { seq := q, tide := r.tide, lastTide := r.tide, count := 1, cause := cause }
    | some l => { l with lastTide := r.tide, count := l.count + 1 }
  let s := { s with obs := { s.obs with loss := some l } }
  let s := s.obsCount 11 (s.firing r).length
  s.obsCount 9 1

/-- TRACE_RECORD_WRITE (R420, R424, R429, R430): the writer takes the first record offered; `overRate` says that it
comes beyond the writer's rate. -/
def execTraceRecordWrite (overRate : Bool) (s : State) : Host.Outcome State Fault Refusal :=
  .next (match s.obs.offers with
    | [] => s
    | r :: rs =>
      let q := s.obs.seq
      let s := { s with obs := { s.obs with offers := rs, seq := (q + 1) % 2 ^ 32 } }
      if overRate then s.loseRecord r q 2
      else
        let s := s.flushLoss
        match s.traceBlock with
        | none => s.traceEmit r q
        | some c => s.loseRecord r q c)

/-- OBS_TRACE_TRIGGER (R425, R426): PF0 fires a software trigger on the record most recently written; in HOST_ASSIST
mode only PF0 of the assisting port does. -/
def execObsTraceTrigger (port : Fin 2) (s : State) : Host.Outcome State Fault Refusal :=
  .next (match s.obs.last with
    | none => s
    | some (_, q) =>
      if s.fnMode 7 = .hostAssist ∧ (s.fnEntry 7).port ≠ port then s else (s.fireTrigger 8 s.traceLast q).decided 7)

/-- OBS_WIN_UNLOCK (R431): PF0 releases a window; a FILLING one ends at the last index written. -/
def execObsWinUnlock (win : Fin 4) (s : State) : Host.Outcome State Fault Refusal :=
  let v := s.obs.windows.get win.val
  .next (if v.state = .free then s
    else
      let latest := decide (s.obs.lastEnd = some v.stop)
      let stop := if v.state = .filling then s.traceLast else v.stop
      let s := { s with obs := { s.obs with
          windows := s.obs.windows.set win.val {}, lastEnd := if latest then some stop else s.obs.lastEnd } }
      s.flushLoss)

/-- MARK (R422): a MARK record with OBS_MARK_DATA is offered. -/
def execMark (s : State) : Host.Outcome State Fault Refusal :=
  .next (s.offer 8 ((List.range 4).map fun i => (4, s.rdN (Reg.OBS_MARK_DATA + 4 * i))))

/-- TRACE_RESET (R431): accepted only while EN is 0; otherwise refused with CFG_ERR. -/
def execTraceReset (s : State) : Host.Outcome State Fault Refusal :=
  .next (if s.flag Reg.OBS_TRACE_CTRL 0 then s.setFlag Reg.OBS_STATUS 1 true
    else
      let s := match s.regionOfKind 0x0A with
        | none => s
        | some r => s.zero r.start r.size
      { s with obs := { s.obs with
          offers := [], wpos := 0, rpos := 0, seq := 0, written := 0, last := none, windows := [], lastEnd := none, loss := none } })

/-- OBS_TRACE_RPOS_WRITE (R429): positions up to `v` are freed; a value beyond WPOS or past START of a held window is
ignored with CFG_ERR. -/
def execObsTraceRposWrite (v : U32) (s : State) : Host.Outcome State Fault Refusal :=
  let m := s.traceM
  let d := fwd m s.obs.rpos v.toNat
  let used := if s.traceFull then s.traceN else fwd m s.obs.rpos s.obs.wpos
  let held := s.obs.windows.anyWhere fun _ x => decide (x.state ≠ .free) && decide (fwd m s.obs.rpos x.start < d)
  .next (if m ≤ v.toNat ∨ used < d ∨ held = true then s.setFlag Reg.OBS_STATUS 1 true
    else ({ s with obs := { s.obs with rpos := v.toNat } }).flushLoss)

/-- Time passes by one nanosecond on the device's own oscillator (R413); of every 10,000 ns one is dropped or doubled
while an error is slewed out, so at most 100 ns go in each millisecond (R415). -/
def State.tick (s : State) : State :=
  let o := s.obs
  let o := if o.ticks + 1 < 10000 then { o with tide := (o.tide + 1) % 2 ^ 64, ticks := o.ticks + 1 }
    else if 0 < o.slew then { o with ticks := 0, slew := o.slew - 1 }
    else if o.slew < 0 then { o with tide := (o.tide + 2) % 2 ^ 64, ticks := 0, slew := o.slew + 1 }
    else { o with tide := (o.tide + 1) % 2 ^ 64, ticks := 0 }
  { s with obs := o }

end Sys2Proof.Machine
end

