-- ==== Sys2Proof/Machine/PowerOps.lean ====
section
/-! DEFINITION. Shared operations of islets, clocks, caps and supplies (R524, R525, R531, R534). -/

namespace Sys2Proof.Machine

/-- Die-local number of an islet (R524). -/
def isletLocal (i : Nat) : Nat := if i < 32 then i else (i - 32) % 20

/-- Class of an islet, for those that have one (R524). -/
def isletClass (i : Nat) : Option Nat :=
  let l := isletLocal i
  if 32 ≤ i then
    if l ≤ 3 then some 0 else if l ≤ 8 then none else if l ≤ 13 then some 2 else if l ≤ 15 then some 1
    else if l ≤ 17 then some 3 else some 4
  else if l = 5 ∨ l = 6 then some 5
  else if 9 ≤ l ∧ l ≤ 16 then some 7
  else if 17 ≤ l ∧ l ≤ 24 then some 6
  else if l = 25 ∨ l = 26 then some 7
  else if 29 ≤ l then some 4
  else none

/-- Nominal clock in MHz of an islet without a class (R524). -/
def isletNominal (i : Nat) : Nat :=
  if 32 ≤ i then 2400
  else if i ≤ 3 then 3000
  else if i = 28 then 500
  else 1000

/-- CLASS_MAX of the fuses, in MHz (R511, R524). -/
def State.classMax (s : State) (c : Nat) : Nat :=
  match c with
  | 0 => if s.order = 2 then 2200 else 2700
  | 1 => 2700
  | 2 | 3 => 2000
  | 4 => 2400
  | 5 => 2000
  | _ => 1600

/-- The bitstream's limit of a class; the fused maximum where it gives none (R454). -/
def State.structMax (s : State) (c : Nat) : Nat :=
  if s.pwr.structLimit.get c = 0 then s.classMax c else s.pwr.structLimit.get c

/-- The cap limit of a class (R535). -/
def State.capLimit (s : State) (c : Nat) : Nat := s.classMax c - s.pwr.capCut.get c

/-- The thermal limit of a class on a die (R536). -/
def State.thermLimit (s : State) (die c : Nat) : Nat := s.classMax c - s.pwr.thermCut.get (8 * die + c)

/-- The limits of a class on a die, in the order of PWR_ISLET_CLOCK's codes (R525, R537). -/
def State.limits (s : State) (die c : Nat) : List Nat :=
  [s.classMax c, s.structMax c, s.capLimit c, s.thermLimit die c]

/-- The clock of an islet in MHz, and the code of the limit that decides it (R525). -/
def State.isletClock (s : State) (i : Nat) : Nat × Nat :=
  match isletClass i with
  | none => (isletNominal i, 0)
  | some c =>
    let ls := s.limits (isletDie i) c
    let m := ls.foldl min (s.classMax c)
    (m, (ls.findIdx? (· == m)).getD 0)

/-- The cap that a level on SB[7:6] asks for, in W; none at level 0, and none while SBRUN is low (R534, R547, R549, R4). -/
def State.sidebandCap (s : State) : Option Nat :=
  match if s.pins.sbrun then s.pwr.capLevel else 0 with
  | 0 => none
  | 1 => some (s.codeMax * 80 / 100)
  | 2 => some (s.codeMax * 60 / 100)
  | 3 => some 1200

/-- PWR_CAP: the code maximum until software writes it (R537). -/
def State.softCap (s : State) : Nat := if s.rdN Reg.PWR_CAP = 0 then s.codeMax else s.rdN Reg.PWR_CAP

/-- The cap in force in W and the input that decides it: 0 code, 1 sideband, 2 I3C, 3 PWR_CAP, 4 floor (R534). -/
def State.capInForce (s : State) : Nat × Nat :=
  let c := (s.codeMax, 0)
  let c := match s.sidebandCap with
    | some v => if v < c.1 then (v, if s.pwr.capLevel = 3 then 4 else 1) else c
    | none => c
  let c := if s.pwr.capI3c ≠ 0 ∧ s.pwr.capI3c < c.1 then (s.pwr.capI3c, 2) else c
  let c := if s.softCap < c.1 then (s.softCap, 3) else c
  if c.1 < 1200 then (1200, 4) else c

/-- Supply status as SB[5:4] and PWR_STATUS report it (R531). -/
def State.supplyCode (s : State) : Nat := s.pwr.supply.code

/-- Writes a SUPPLY record (R444, R531, R532). -/
def State.supplyRecord (s : State) (event volts : Nat) : State :=
  s.lifeRecord 8 0 false (packBytes [(1, event), (2, volts), (29, 0)])

/-- The mean input over the last 10 ms, in W (R535). -/
def State.meanInput (s : State) : Nat :=
  if s.pwr.samples.isEmpty then 0 else s.pwr.samples.foldl (· + ·) 0 / s.pwr.samples.length

end Sys2Proof.Machine
end

