-- ==== Sys2Proof/Machine/Health.lean ====
section
/-! DEFINITION. Health monitors, row history, lane eyes and the life log (chapter 16), and the thermal events of R536. -/

namespace Sys2Proof.Machine

/-- Replaces an islet's health. -/
def State.setIslet (s : State) (i : Nat) (h : IsletHealth) : State :=
  { s with health := { s.health with islets := s.health.islets.set i h } }

/-- Changes what a die gathers. -/
def State.modDie (s : State) (d : Nat) (f : DieHist → DieHist) : State :=
  { s with health := { s.health with dies := s.health.dies.mod d f } }

/-- TEMP_WARN at a crossing of HEALTH_TEMP_WARN; written again only after a fall of 3 °C (R435). -/
def State.judgeTemp (s : State) (i : Nat) (t : Int) : State :=
  let h := s.health.islets.get i
  let th : Int := 8 * (s.rdN Reg.HEALTH_TEMP_WARN : Int)
  if !h.warned && decide (th ≤ t) then
    (s.setIslet i { h with warned := true }).raise (FaultInfo.onIslet
      { severity := .corrected, block := 0x01C, cause := 0x0110, unit := BitVec.ofNat 16 i, detail0 := BitVec.ofInt 64 t, detail1 := BitVec.ofInt 64 th } i)
  else if h.warned && decide (t ≤ th - 24) then s.setIslet i { h with warned := false }
  else s

/-- MARGIN_LOW at a crossing of HEALTH_MARGIN_MIN; written again only after a rise of 5 ps (R435). -/
def State.judgeMargin (s : State) (i m : Nat) : State :=
  let h := s.health.islets.get i
  let th := s.rdN Reg.HEALTH_MARGIN_MIN
  if !h.marginWarned && decide (m < th) then
    (s.setIslet i { h with marginWarned := true }).raise (FaultInfo.onIslet
      { severity := .corrected, block := 0x01C, cause := 0x0111, unit := BitVec.ofNat 16 i, detail0 := BitVec.ofNat 64 m, detail1 := BitVec.ofNat 64 (s.isletClock i).1 } i)
  else if h.marginWarned && decide (th + 5 ≤ m) then s.setIslet i { h with marginWarned := false }
  else s

/-- MONITOR_SAMPLE (R434, R435): an islet's sample of its temperature in 0.125 °C and its least margin in ps. -/
def execMonitorSample (islet : Fin 112) (temp : Int) (margin : Fin 1024) (s : State) : Host.Outcome State Fault Refusal :=
  let i := islet.val
  let h := s.health.islets.get i
  let h := { h with
    temp := temp, tempMax := if h.sampled then max h.tempMax temp else temp, sampled := true
    margin := margin.val, marginDrop := max h.marginDrop (1023 - margin.val)
    hotMs := if 840 ≤ temp then h.hotMs + 1 else 0, tripMs := if 880 ≤ temp then h.tripMs + 1 else 0 }
  let s := s.setIslet i h
  let s := s.modDie (isletDie i) fun d => { d with
    minuteMax := max d.minuteMax temp, hourMax := max d.hourMax temp, tempSum := d.tempSum + temp, samples := d.samples + 1
    leastMargin := min d.leastMargin margin.val }
  .next ((s.judgeTemp i temp).judgeMargin i margin.val)

/-- THERMAL_CEILING (R536): an islet at 105 °C or above for 10 ms sets every class of its die to 500 MHz. -/
def execThermalCeiling (islet : Fin 112) (s : State) : Host.Outcome State Fault Refusal :=
  let d := isletDie islet.val
  .next (if (s.health.islets.get islet.val).hotMs < 10 then s
    else { s with pwr := { s.pwr with
        thermCut := (List.range 8).foldl (fun t c => t.set (8 * d + c) (s.classMax c - 500)) s.pwr.thermCut } })

/-- THERMAL_TRIP (R536): an islet at 110 °C or above for 1 ms is FATAL under R389. -/
def execThermalTrip (islet : Fin 112) (s : State) : Host.Outcome State Fault Refusal :=
  let h := s.health.islets.get islet.val
  .next (if h.tripMs = 0 then s
    else s.fatal (FaultInfo.onIslet
      { severity := .fatal, block := 0x024, cause := 0x0153, unit := BitVec.ofNat 16 islet.val, detail0 := BitVec.ofInt 64 h.temp } islet.val))

/-- DROOP_STRETCH (R434, R527): an islet has lengthened `cycles` cycles for a droop; it is counted, and no fault is
raised. -/
def execDroopStretch (islet : Fin 112) (cycles : Nat) (s : State) : Host.Outcome State Fault Refusal :=
  let h := s.health.islets.get islet.val
  let s := s.setIslet islet.val { h with stretches := satAdd 24 h.stretches 1, longest := min 255 (max h.longest cycles) }
  .next (s.modDie (isletDie islet.val) fun d => { d with stretches := d.stretches + 1, longest := max d.longest cycles })

/-- Histogram bin of a temperature in 0.125 °C (R436). -/
def histBin (t : Int) : Nat :=
  if t < 8 * 45 then 0 else if t < 8 * 55 then 1 else if t < 8 * 65 then 2 else if t < 8 * 75 then 3
  else if t < 8 * 85 then 4 else if t < 8 * 95 then 5 else if t < 8 * 100 then 6 else 7

/-- HISTOGRAM_MINUTE (R436): the bin of the minute's highest sample gains a minute; 60 of them make an hour. -/
def execHistogramMinute (die : Fin 5) (s : State) : Host.Outcome State Fault Refusal :=
  .next (s.modDie die.val fun d =>
    let b := histBin d.minuteMax
    let m := d.minutes.get b + 1
    { d with
      minutes := d.minutes.set b (m % 60)
      hours := if m = 60 then d.hours.set b ((d.hours.get b + 1) % 2 ^ 32) else d.hours
      hourMinutes := d.hourMinutes.set b (d.hourMinutes.get b + 1), minuteMax := 0 })

/-- SUMMARY (R436, R444): each hour a SUMMARY record is written for a die; power-on hours advance with die H's. -/
def execSummary (die : Fin 5) (s : State) : Host.Outcome State Fault Refusal :=
  let d := s.health.dies.get die.val
  let mean : Int := if d.samples = 0 then 0 else d.tempSum / d.samples
  let s := if die = 0 then
      { s with health := { s.health with log := { s.health.log with hours := s.health.log.hours + 3600 } } }
    else s
  let s := s.lifeRecord 3 (BitVec.ofNat 8 die.val) false
    (packBytes ([(2, (BitVec.ofInt 16 d.hourMax).toNat), (2, (BitVec.ofInt 16 mean).toNat), (2, d.leastMargin), (2, min 65535 d.longest),
      (4, d.stretches), (4, d.ce), (2, min 65535 d.ue), (2, 0)]
      ++ (List.range 8).map (fun b => (1, d.hourMinutes.get b)) ++ [(4, 0)]))
  .next (s.modDie die.val fun d => { hours := d.hours, minutes := d.minutes, minuteMax := d.minuteMax })

/-- DAY_END (R437): CE_DAY is cleared in every entry. -/
def execDayEnd (s : State) : Host.Outcome State Fault Refusal :=
  .next { s with health := { s.health with rows := s.health.rows.mapAll fun _ e => { e with ceDay := 0 } } }

/-- Islet of a serial or PCIe lane: serial lanes by their port's islet, lanes 160-191 those of H0 and H1 (R439, R524). -/
def eyeIslet (lane : Nat) : Nat := if 160 ≤ lane then 7 + (lane - 160) / 16 else 17 + lane / 20

/-- One measurement of a lane's eye: horizontal mUI and vertical mV; EYE_LOW when either falls below HEALTH_EYE_MIN,
again only after both have risen 10% above it (R435, R439). -/
def State.eye (s : State) (lane h v fec : Nat) : State :=
  let e := s.health.lanes.get lane
  let mh := s.field Reg.HEALTH_EYE_MIN 0 16
  let mv := s.field Reg.HEALTH_EYE_MIN 16 16
  let low := decide (h < mh) || decide (v < mv)
  let back := decide (mh * 110 ≤ h * 100) && decide (mv * 110 ≤ v * 100)
  let e' : LaneEye := { h := h, v := v, fec := fec % 2 ^ 64, low := if e.low then !back else low }
  let s := { s with health := { s.health with lanes := s.health.lanes.set lane e' } }
  if low && !e.low then
    let i := eyeIslet lane
    let s := s.raise (FaultInfo.onIslet
      { severity := .corrected, block := 0x01C, cause := 0x0114, unit := BitVec.ofNat 16 lane, detail0 := BitVec.ofNat 64 h, detail1 := BitVec.ofNat 64 v } i)
    s.lifeRecord 10 0 false (packBytes [(2, lane), (2, h), (2, v), (8, fec), (18, 0)])
  else s

/-- The lane is in use: its lane group is allocated, or it is a PCIe lane of a trained port (R439, R454). -/
def State.laneUsed (s : State) (lane : Nat) : Bool :=
  if 160 ≤ lane then
    let p := s.hostif.ports.get ((lane - 160) / 16)
    decide (p.speed.val ≠ 0) && decide ((lane - 160) % 16 < p.width.val)
  else match s.struct.loaded with
    | none => false
    | some b =>
      let lg := lane / 4
      if b.preset = 0 then b.lanes.getD lg 0 != 0 else true

/-- EYE_MEASURE (R439): a lane in use measures its eye. -/
def execEyeMeasure (lane : Fin 192) (h v : U16) (fec : U64) (s : State) : Host.Outcome State Fault Refusal :=
  .next (if s.laneUsed lane.val then s.eye lane.val h.toNat v.toNat fec.toNat else s)

/-- EYE_NOW (R439, R448): every lane in use is measured at once; `eyes` holds the measurements, lane by lane. -/
def execEyeNow (eyes : List (U16 × U16 × U64)) (s : State) : Host.Outcome State Fault Refusal :=
  .next ((List.range 192).foldl (fun s l =>
    match eyes[l]? with
    | some (h, v, f) => if s.laneUsed l then s.eye l h.toNat v.toNat f.toNat else s
    | none => s) s)

/-- HEALTH_CLEAR_DROPPED (R448): HEALTH_ROWS_DROPPED and HEALTH_LOG_LOST read 0. -/
def execHealthClearDropped (s : State) : Host.Outcome State Fault Refusal :=
  .next ((s.wr Reg.HEALTH_ROWS_DROPPED 0).wr Reg.HEALTH_LOG_LOST 0)

/-- HEALTH_ROW_SEL_WRITE (R448): a snapshot of a row history entry. -/
def execHealthRowSelWrite (entry : Fin 4096) (s : State) : Host.Outcome State Fault Refusal :=
  let s := s.wr Reg.HEALTH_ROW_SEL (BitVec.ofNat 32 entry.val)
  .next { s with health := { s.health with rowSnap := s.health.rows.get entry.val } }

/-- The record at a position of the life log, once its programming has completed (R447). -/
def State.logAt (s : State) (pos : Nat) : Option LifeRec := s.health.log.flash.get pos

/-- HEALTH_LOG_SEL_WRITE (R447, R448): PF0's snapshot of a record. -/
def execHealthLogSelWrite (pos : Fin 131072) (s : State) : Host.Outcome State Fault Refusal :=
  let s := s.wr Reg.HEALTH_LOG_SEL (BitVec.ofNat 32 pos.val)
  .next { s with health := { s.health with logSnap := s.logAt pos.val } }

/-- The 64 bytes of a life-log record; CHECK is CRC-64/XZ over bytes 0x00-0x37 (R444). A record cut off in its
programming has a CHECK that does not match (R445). -/
def LifeRec.bytes (r : LifeRec) : List Byte :=
  let b := packBytes [(1, 1), (1, r.type), (1, r.die.toNat),
    (1, (if r.permanent then 1 else 0) + (if r.moved then 2 else 0) + (if r.lossBefore then 4 else 0)),
    (4, r.seq), (8, r.tide), (4, r.hours), (4, r.boot)] ++ (r.payload ++ List.replicate 32 0).take 32
  b ++ leBytes 8 (if r.checkOk then crc64 b else crc64 b ^^^ 1)

/-- The permanent area is full (R443). -/
def LifeLog.permFull (l : LifeLog) : Bool := decide (16384 ≤ l.permNext)

/-- Whether the writer may program: an AUX supply or a main supply feeds it (R443, R532), and no erase runs. -/
def State.logWritable (s : State) : Bool := (s.pwr.auxA || s.pwr.auxB) && s.health.log.erasing.isNone

/-- The next position of the rolling area, and the sector to erase when that position opens a sector: the sector after
it in the ring of sectors 16-127; `last` lets the record take the position kept for a total loss (R443, R445). -/
def LifeLog.rollPlace (l : LifeLog) (last : Bool) : Nat × Option Nat :=
  let p := l.rollNext
  let sector := p / 1024
  let full := if last then false else decide (p % 1024 = 1023)
  if full then
    let n := if sector = 127 then 16 else sector + 1
    (n * 1024, some (if n = 127 then 16 else n + 1))
  else (p, if p % 1024 = 0 then some (if sector = 127 then 16 else sector + 1) else none)

/-- Position after `p` in the rolling area. -/
def rollAfter (p : Nat) : Nat := if p + 1 = 131072 then 16384 else p + 1

/-- Programs one record (R443, R444): a permanent one in the permanent area while it has room. -/
def State.logProgram (s : State) (r : LifeRec) : State :=
  let l := s.health.log
  let r := { r with seq := l.nextSeq, lossBefore := l.lost }
  let l := { l with nextSeq := (l.nextSeq + 1) % 2 ^ 32, lost := false }
  if r.permanent && !l.permFull then
    { s with health := { s.health with log := { l with flash := l.flash.set l.permNext (some r), permNext := l.permNext + 1 } } }
  else
    let (p, e) := l.rollPlace false
    let l := { l with flash := l.flash.set p (some { r with moved := r.permanent }), rollNext := rollAfter p, erasing := e }
    { s with health := { s.health with log := l } }

/-- LIFE_LOG_WRITE (R443-R446): the writer programs the oldest record that waits. -/
def execLifeLogWrite (s : State) : Host.Outcome State Fault Refusal :=
  .next (match s.health.log.buffer, s.logWritable with
    | r :: rs, true =>
      ({ s with health := { s.health with log := { s.health.log with buffer := rs } } }).logProgram r
    | _, _ => s)

/-- The flash without the records of a sector. -/
def LifeLog.eraseSector (l : LifeLog) (n : Nat) : LifeLog :=
  { l with flash := l.flash.filter fun (p, _) => !decide (p / 1024 = n) }

/-- SECTOR_ERASE_DONE (R443, R445): the erase of a rolling sector completes. -/
def execSectorEraseDone (s : State) : Host.Outcome State Fault Refusal :=
  .next (match s.health.log.erasing with
    | none => s
    | some n => { s with health := { s.health with log := { s.health.log.eraseSector n with erasing := none } } })

/-- The SUPPLY record of a total loss goes ahead of every queued record: a running erase is suspended, the record is
programmed in the open sector, and the records that wait are lost (R445). -/
def State.lossRecord (s : State) (volts : Nat) : State :=
  let l := s.health.log
  let r : LifeRec := { type := 8, seq := l.nextSeq, lossBefore := l.lost, tide := s.now, hours := l.hours / 3600, boot := l.boots,
                       payload := packBytes [(1, 4), (2, volts), (29, 0)] }
  let (p, _) := l.rollPlace true
  let l := { l with
    flash := l.flash.set p (some r), nextSeq := (l.nextSeq + 1) % 2 ^ 32, rollNext := rollAfter p
    lost := !l.buffer.isEmpty, buffer := [], suspended := l.erasing, erasing := none }
  { s with health := { s.health with log := l } }

end Sys2Proof.Machine
end

