-- ==== Sys2Proof/Machine/Control.lean ====
section
/-! DEFINITION. Control levels, profiles and expert fields of every block (R32-R35, R556, R560, and each block's profile
table). -/

namespace Sys2Proof.Machine

/-- An expert field: its register, its range, and its value in each profile. -/
structure ExpertField where
  addr : Nat
  lo : Nat
  hi : Nat
  values : List Nat
  deriving DecidableEq, Repr

/-- A block with a control profile: its profile register, where its CFG_ERR lies, and its expert fields. -/
structure ControlBlock where
  type : Nat
  profile : Nat
  errReg : Nat
  errBit : Nat
  profiles : Nat
  fields : List ExpertField
  deriving DecidableEq, Repr

/-- HERD, ELAND, SPRING and TIER (R90, R126, R153, R204). -/
def controlBlocks0 : List ControlBlock := [
  ⟨0x002, Reg.HERD_PROFILE, Reg.HERD_STEP_STATUS, 5, 3, [
    ⟨Reg.HERD_STEP_CAP, 256, 65536, [16384, 8192, 32768]⟩, ⟨Reg.HERD_CHUNK_MAX, 64, 65536, [16384, 2048, 16384]⟩,
    ⟨Reg.HERD_CHUNK_MIN, 64, 65536, [256, 128, 1024]⟩, ⟨Reg.HERD_URGENT_WINDOW, 0, 10000000, [200000, 500000, 100000]⟩,
    ⟨Reg.HERD_PREEMPT_MAX, 100, 600000, [10000, 10000, 30000]⟩, ⟨Reg.HERD_POISON_RETRY, 1, 255, [3, 3, 3]⟩,
    ⟨Reg.HERD_SUSPECT_WEIGHT, 0, 255, [128, 64, 128]⟩]⟩,
  ⟨0x004, Reg.ELAND_PROFILE, Reg.ELAND_STATUS, 6, 3, [
    ⟨Reg.ELAND_ABFT_TOL, 10, 15, [14, 15, 14]⟩, ⟨Reg.ELAND_STEAL_MIN, 0, 64, [2, 2, 0]⟩]⟩,
  ⟨0x006, Reg.SPRING_PROFILE, Reg.SPRING_STATUS, 6, 3, [
    ⟨Reg.SPRING_ROUTE_I, 10, 320, [133, 133, 200]⟩, ⟨Reg.SPRING_CHECK_RATE, 4, 10, [6, 4, 6]⟩,
    ⟨Reg.SPRING_FENCE_STRIKES, 1, 15, [2, 1, 2]⟩, ⟨Reg.SPRING_REMOTE_WAIT, 100, 100000, [2000, 2000, 2000]⟩]⟩,
  ⟨0x008, Reg.TIER_PROFILE, Reg.TIER_MAP_STATUS, 2, 3, [
    ⟨Reg.TIER_SCRUB_PERIOD, 1, 168, [24, 8, 72]⟩, ⟨Reg.TIER_TS_SCRUB_PERIOD, 1, 1440, [10, 5, 60]⟩,
    ⟨Reg.TIER_CE_THRESH, 1, 65535, [1000, 100, 10000]⟩]⟩]

/-- IBEX, HANDOFF, STRAIT, NET and SHAPE (R231, R267, R302, R335, R337). -/
def controlBlocks1 : List ControlBlock := [
  ⟨0x00A, Reg.IBEX_PROFILE, Reg.IBEX_STATUS, 5, 3, [
    ⟨Reg.IBEX_TIMEOUT, 10, 10000000, [10000, 100000, 10000]⟩, ⟨Reg.IBEX_TAG_RETRY, 0, 7, [2, 3, 2]⟩,
    ⟨Reg.IBEX_PREFETCH_DEPTH, 1, 4, [2, 2, 4]⟩]⟩,
  ⟨0x00C, Reg.HANDOFF_PROFILE, Reg.HANDOFF_STATUS, 4, 3, [
    ⟨Reg.HANDOFF_TIMER, 1000, 10000000, [50000, 200000, 50000]⟩, ⟨Reg.HANDOFF_KEEPALIVE, 100, 2500000, [10000, 40000, 10000]⟩,
    ⟨Reg.HANDOFF_GRACE, 10, 60000, [500, 2000, 500]⟩, ⟨Reg.HANDOFF_CREDIT_MAX, 512, 1048576, [131072, 131072, 32768]⟩,
    ⟨Reg.HANDOFF_CREDIT_WAIT, 10, 60000, [1000, 5000, 1000]⟩, ⟨Reg.HANDOFF_RETRY_MAX, 0, 15, [3, 3, 3]⟩,
    ⟨Reg.HANDOFF_CATCHUP_MAX, 0, 4096, [256, 1024, 256]⟩, ⟨Reg.HANDOFF_OFFLOAD_KEEP, 4096, 1048576, [8192, 8192, 4096]⟩,
    ⟨Reg.HANDOFF_RESTORE_WM, 0, 4294967295, [0, 0, 0]⟩]⟩,
  ⟨0x00E, Reg.STRAIT_PROFILE, Reg.STRAIT_STATUS, 4, 3, [
    ⟨Reg.STRAIT_LOAD_TIMEOUT, 1, 1000, [10, 100, 2]⟩, ⟨Reg.STRAIT_DEAD_COUNT, 1, 16, [4, 8, 2]⟩,
    ⟨Reg.STRAIT_GW_FLUSH, 100, 100000, [2000, 2000, 500]⟩, ⟨Reg.STRAIT_GW_TIMEOUT, 10, 10000, [100, 1000, 50]⟩]⟩,
  ⟨0x010, Reg.NET_PROFILE, Reg.NET_STATUS, 4, 3, [
    ⟨Reg.NET_RTO, 20, 100000, [200, 2000, 200]⟩, ⟨Reg.NET_RETRY, 1, 15, [7, 12, 7]⟩, ⟨Reg.NET_PATHS, 1, 64, [16, 16, 4]⟩,
    ⟨Reg.NET_STATE_INIT, 8, 4096, [64, 64, 32]⟩]⟩,
  ⟨0x012, Reg.SHAPE_PROFILE, Reg.SHAPE_STATUS, 2, 3, [
    ⟨Reg.SHAPE_TARGET_DELAY, 2000, 1000000, [25000, 12000, 50000]⟩, ⟨Reg.SHAPE_AI, 256, 65536, [4096, 2048, 16384]⟩,
    ⟨Reg.SHAPE_BETA, 16, 255, [205, 205, 128]⟩, ⟨Reg.SHAPE_WIN_MIN, 1024, 65536, [4096, 4096, 16384]⟩,
    ⟨Reg.SHAPE_WIN_MAX, 65536, 67108864, [4194304, 1048576, 16777216]⟩]⟩]

/-- CHAM, TENANT, FAULT, OBS, HEALTH, HOSTIF, FW and PWR (R364, R379, R408, R433, R449, R481, R502, R538). -/
def controlBlocks2 : List ControlBlock := [
  ⟨0x014, Reg.CHAM_PROFILE, Reg.CHAM_STATUS, 5, 3, [
    ⟨Reg.CHAM_WIDEN_MULT, 1, 8, [3, 5, 3]⟩, ⟨Reg.CHAM_COMPACT_PCT, 1, 90, [20, 20, 5]⟩, ⟨Reg.CHAM_COMPACT_RATE, 1, 50, [10, 10, 25]⟩]⟩,
  ⟨0x016, Reg.TENANT_PROFILE, Reg.TENANT_STATUS, 0, 3, [⟨Reg.TENANT_PERIOD, 10, 60000, [1000, 100, 10000]⟩]⟩,
  ⟨0x018, Reg.FAULT_PROFILE, Reg.FAULT_STATUS, 5, 3, [
    ⟨Reg.FAULT_SUSPECT_PCT, 5, 90, [25, 15, 40]⟩, ⟨Reg.FAULT_SUSPECT_WINDOW, 16, 64, [64, 32, 64]⟩,
    ⟨Reg.FAULT_LAG_MIN, 1, 100000, [100, 20, 500]⟩, ⟨Reg.FAULT_TENANT_LIMIT, 0, 65535, [256, 64, 0]⟩,
    ⟨Reg.FAULT_RECOVERY_MAX, 1, 64, [8, 8, 16]⟩]⟩,
  ⟨0x01A, Reg.OBS_PROFILE, Reg.OBS_STATUS, 1, 3, [
    ⟨Reg.OBS_HOLDOVER_MAX, 10, 60000, [1000, 1000, 1000]⟩, ⟨Reg.OBS_TRACE_PRE, 0, 524288, [4096, 65536, 1024]⟩,
    ⟨Reg.OBS_TRACE_POST, 0, 524288, [4096, 65536, 256]⟩, ⟨Reg.OBS_TRACE_LOCK_CAP, 1024, 1048576, [16384, 262144, 4096]⟩]⟩,
  ⟨0x01C, Reg.HEALTH_PROFILE, Reg.HEALTH_STATUS, 4, 3, [
    ⟨Reg.HEALTH_TEMP_WARN, 70, 104, [95, 90, 100]⟩, ⟨Reg.HEALTH_MARGIN_MIN, 5, 100, [20, 30, 10]⟩,
    ⟨Reg.HEALTH_ROW_CE, 1, 65535, [64, 16, 1024]⟩, ⟨Reg.HEALTH_EYE_PERIOD, 10, 86400, [600, 60, 3600]⟩,
    ⟨Reg.HEALTH_AGE_WARN, 1, 100, [15, 10, 25]⟩,
    ⟨Reg.HEALTH_EYE_MIN, 0, 4294967295, [15 * 65536 + 150, 20 * 65536 + 200, 10 * 65536 + 100]⟩]⟩,
  ⟨0x01E, Reg.HOSTIF_PROFILE, Reg.HOSTIF_STATUS, 3, 3, [
    ⟨Reg.HOSTIF_MSI_DELAY, 0, 1000, [2, 20, 0]⟩, ⟨Reg.HOSTIF_TOKEN_HOLD, 0, 1000, [0, 100, 0]⟩]⟩,
  ⟨0x020, Reg.FW_PROFILE, Reg.FW_STATUS, 10, 3, [
    ⟨Reg.FW_PAUSE_MAX, 1, 100, [10, 5, 20]⟩, ⟨Reg.FW_QUIESCE_MAX, 100, 60000, [1000, 1000, 5000]⟩,
    ⟨Reg.FW_CONFIRM, 0, 86400, [600, 3600, 60]⟩]⟩,
  ⟨0x024, Reg.PWR_PROFILE, Reg.PWR_STATUS, 7, 3, [
    ⟨Reg.PWR_VIN_THRESH, 400, 500, [440, 460, 420]⟩, ⟨Reg.PWR_RETURN_TIME, 10, 10000, [100, 1000, 100]⟩,
    ⟨Reg.PWR_TJ_THROTTLE, 85, 104, [100, 95, 102]⟩]⟩]

/-- Every block with a control profile. -/
def controlBlocks : List ControlBlock := controlBlocks0 ++ controlBlocks1 ++ controlBlocks2

/-- The block whose profile register lies at an address. -/
def blockOfProfile (a : Nat) : Option ControlBlock := controlBlocks.find? fun b => b.profile == a

/-- The block and expert field at an address. -/
def expertAt (a : Nat) : Option (ControlBlock × ExpertField) :=
  controlBlocks.findSome? fun b => (b.fields.find? fun f => f.addr == a).map fun f => (b, f)

/-- The block of a type. -/
def blockOfType (t : Nat) : Option ControlBlock := controlBlocks.find? fun b => b.type == t

/-- The value lies within the field's own range; HANDOFF_OFFLOAD_KEEP is a multiple of 64, and HEALTH_EYE_MIN has a
range in each half (R266, R448). -/
def ExpertField.admits (f : ExpertField) (v : Nat) : Bool :=
  decide (f.lo ≤ v) && decide (v ≤ f.hi)
    && (decide (f.addr ≠ Reg.HANDOFF_OFFLOAD_KEEP) || decide (v % 64 = 0))
    && (decide (f.addr ≠ Reg.HEALTH_EYE_MIN)
        || (decide (50 ≤ v % 65536) && decide (v % 65536 ≤ 500) && decide (5 ≤ v / 65536) && decide (v / 65536 ≤ 100)))

/-- A write that would leave a pair of fields outside its ranges (R560): HERD_CHUNK_MIN and HERD_CHUNK_MAX,
HANDOFF_KEEPALIVE and HANDOFF_TIMER. -/
def State.pairBroken (s : State) (a v : Nat) : Bool :=
  if a = Reg.HERD_CHUNK_MAX then decide (v < s.rdN Reg.HERD_CHUNK_MIN)
  else if a = Reg.HERD_CHUNK_MIN then decide (s.rdN Reg.HERD_CHUNK_MAX < v)
  else if a = Reg.HANDOFF_TIMER then decide (v < 4 * s.rdN Reg.HANDOFF_KEEPALIVE)
  else if a = Reg.HANDOFF_KEEPALIVE then decide (s.rdN Reg.HANDOFF_TIMER / 4 < v)
  else false

/-- Puts a field's value in force; TENANT_PERIOD waits for the next period boundary (R372). -/
def State.putField (s : State) (a : Nat) (v : U32) : State :=
  let s := s.wr a v
  if a = Reg.TENANT_PERIOD then { s with tenant := { s.tenant with periodNext := some v.toNat } } else s

/-- A profile in force: BASIC level, and every field at the profile's value (R33, R34). -/
def State.putProfile (s : State) (b : ControlBlock) (p : Nat) : State :=
  b.fields.foldl (fun s f => s.putField f.addr (BitVec.ofNat 32 (f.values.getD p 0))) (s.wr b.profile (BitVec.ofNat 32 p))

/-- A staged write takes effect (R34, R35, R560): a profile returns the block to BASIC; a field moves it to EXPERT, and
its profile reads CUSTOM. -/
def State.applyControl (s : State) (w : Nat × U32) : State :=
  match blockOfProfile w.1, expertAt w.1 with
  | some b, _ => s.putProfile b (w.2.toNat % 16)
  | none, some (b, _) =>
    if s.pairBroken w.1 w.2.toNat then s.setFlag b.errReg b.errBit true
    else (s.putField w.1 w.2).wr b.profile 0x1F
  | none, none => s

/-- Every staged write takes effect, in the order received (R35). -/
def State.applyStaged (s : State) : State :=
  s.staged.foldl State.applyControl { s with staged := [] }

/-- Stages a control write for the next step boundary (R35). -/
def State.stage (s : State) (a : Nat) (v : U32) : State := { s with staged := s.staged ++ [(a, v)] }

/-- PROFILE_SELECT (R34, R35): a write of a block's profile register; a value that names no profile is ignored with
CFG_ERR. -/
def execProfileSelect (addr : Nat) (v : U32) (s : State) : Host.Outcome State Fault Refusal :=
  .next (match blockOfProfile addr with
    | none => s
    | some b => if v.toNat % 16 < b.profiles then s.stage addr v else s.setFlag b.errReg b.errBit true)

/-- EXPERT_FIELD_WRITE (R34, R35, R560): a write of an expert field; out of range it is ignored with CFG_ERR. -/
def execExpertFieldWrite (addr : Nat) (v : U32) (s : State) : Host.Outcome State Fault Refusal :=
  .next (match expertAt addr with
    | none => s
    | some (b, f) => if f.admits v.toNat then s.stage addr v else s.setFlag b.errReg b.errBit true)

/-- The value that a CONTROL entry gives a field: the one it lists, else its profile's (R454). -/
def ControlEntry.value (e : ControlEntry) (b : ControlBlock) (a : Nat) : Nat :=
  match e.fields.find? (fun x => b.type * 2 ^ 20 + x.1 == a) with
  | some x => x.2.toNat
  | none =>
    match b.fields.find? (fun f => f.addr == a) with
    | some f => f.values.getD e.profile 0
    | none => 0

/-- Whether a CONTROL section's entry is valid (R454, R456 check 5, R560): its block has a profile, its profile exists,
at BASIC it lists no field, and its values keep the ranges and the pairs. -/
def controlEntryOk (e : ControlEntry) : Bool :=
  match blockOfType e.block with
  | none => false
  | some b =>
    decide (e.profile < b.profiles) && (e.expert || e.fields.isEmpty)
      && e.fields.all (fun x => match b.fields.find? fun f => f.addr == b.type * 2 ^ 20 + x.1 with
          | some f => f.admits x.2.toNat
          | none => false)
      && (decide (b.type ≠ 2) || decide (e.value b Reg.HERD_CHUNK_MIN ≤ e.value b Reg.HERD_CHUNK_MAX))
      && (decide (b.type ≠ 0x00C) || decide (4 * e.value b Reg.HANDOFF_KEEPALIVE ≤ e.value b Reg.HANDOFF_TIMER))

/-- Loads a CONTROL section: blocks not listed start at BASIC with DEFAULT (R32, R454). -/
def State.loadControl (s : State) (es : List ControlEntry) : State :=
  controlBlocks.foldl (fun s b =>
    match es.find? fun e => e.block == b.type with
    | none => s.putProfile b 0
    | some e =>
      let s := s.putProfile b e.profile
      if e.expert then
        (e.fields.foldl (fun s x => s.putField (b.type * 2 ^ 20 + x.1) x.2) s).wr b.profile 0x1F
      else s) s

end Sys2Proof.Machine
end

