-- ==== Sys2Proof/Machine/Maps.lean ====
section
/-! DEFINITION. Placement maps: validation (R188), loading and unloading (R189), and the page pools (R190). -/

namespace Sys2Proof.Machine

/-- Two half-open ranges meet. -/
def meets (a m b n : Nat) : Bool := decide (a < b + n) && decide (b < a + m)

/-- Channels of a region. -/
def Region.chans (r : Region) : Nat := (chList r.channels).length

/-- Bytes a region uses in each of its channels (R186). -/
def Region.perChannel (r : Region) : Nat := r.size / r.chans

/-- Two regions overlap in placement space or in the bytes of some channel or tile store (R188). -/
def Region.overlaps (a b : Region) : Bool :=
  if a.space ≠ b.space then false
  else meets a.start a.size b.start b.size ||
    (decide (a.space = 0) && decide (a.channels &&& b.channels ≠ 0) && meets a.chBase a.perChannel b.chBase b.perChannel)

/-- A region's fields keep their ranges and its kind's rules, in a map of the given scope (R185, R187). -/
def Region.valid (r : Region) (scope : Nat) (total : Nat) : Bool :=
  let k := r.kind.toNat
  let g := granuleBytes r.granule
  let place := if r.space = 0 then
      decide (r.chans ≠ 0) && decide (r.base % g = 0) && decide (r.size % (g * r.chans) = 0) && decide (0 < r.size)
        && decide (r.base + r.size ≤ 2 ^ 44)
    else decide (r.size % 4096 = 0) && decide (0 < r.size) && decide (r.base % g = 0) && decide (r.base + r.size ≤ 335544320)
      && decide (r.chBase = 0)
  let kind := if scope = 0 then decide (4 ≤ k) && decide (k ≤ 0x0F) else decide (1 ≤ k) && decide (k ≤ 3)
  let rules := match k with
    | 1 => r.readOnly && r.init
    | 3 => r.init
    | 4 => decide (r.space = 0) && decide (r.granule = 1)
    | 5 => decide (r.space = 0) && decide (64 * total ≤ r.size)
    | 8 => decide (r.space = 0) && decide (4194432 ≤ r.size)
    | 2 | 0x0E => true
    | 0x0A => decide (r.space = 0) && decide (r.size % 2 ^ 20 = 0) && decide (r.size ≤ 2 ^ 36)
    | _ => decide (r.space = 0)
  place && kind && rules

/-- TOTAL of the pool regions of a map (R190). -/
def PlaceMap.total (m : PlaceMap) : Nat := ((m.regions.filter fun r => r.kind == 4).map fun r => r.size / 16384).sum

/-- No two regions of a list overlap. -/
def noOverlap : List Region → Bool
  | [] => true
  | r :: rs => rs.all (fun x => !r.overlaps x) && noOverlap rs

/-- No two entries of a list are equal. -/
def distinct {α : Type} [DecidableEq α] : List α → Bool
  | [] => true
  | a :: as => !as.contains a && distinct as

/-- The status of the first check of R188 that a map fails: `loaded` are the regions loaded already, `owner` the
partition of each channel. -/
def PlaceMap.status (m : PlaceMap) (loaded : List Region) (owner : Nat → Nat) : Option Byte :=
  let scope := m.scope.toNat
  let hbm := (m.regions.filter fun r => r.space == 0)
  if m.level ≠ 1 ∨ !m.checkOk then some stMALFORMED
  else if !m.fieldsOk ∨ 1 < scope ∨ m.regions.isEmpty ∨ 1024 < m.regions.length ∨ !distinct (m.regions.map (·.id))
      ∨ !m.regions.all (fun r => r.valid scope m.total)
      ∨ !distinct ((m.regions.filter fun r => r.kind == 4).map (·.partition))
      ∨ m.hbmBytes ≠ (hbm.map (·.size)).sum ∨ m.tsBytes ≠ ((m.regions.filter fun r => r.space != 0).map (·.size)).sum
      ∨ (scope = 0 ∧ (m.model ≠ 0 ∨ m.partition ≠ 0)) then some stMALFORMED
  else if !noOverlap m.regions
      ∨ m.regions.any (fun r => loaded.any fun x => decide (x.kind ≠ 0x0E) && r.overlaps x)
      ∨ hbm.any (fun r => decide (750000000 < r.chBase + r.perChannel)) then some stMALFORMED
  else if hbm.any (fun r => (chList r.channels).any fun l => owner l ≠ r.partition.val) then some stPRIVILEGE
  else if scope = 1 ∧ m.regions.any (fun r => !loaded.any fun x =>
      decide (x.kind = 0x0E) && decide (x.partition = m.partition) && decide (r.partition = m.partition) && decide (x.space = r.space)
        && x.holds r.start r.size
        && (decide (r.space ≠ 0) || (decide (r.channels &&& ~~~x.channels = 0) && decide (x.chBase ≤ r.chBase)
              && decide (r.chBase + r.perChannel ≤ x.chBase + x.perChannel)))) then some stPRIVILEGE
  else none

/-- Partition of a channel (R191). -/
def State.chOwner (s : State) (l : Nat) : Nat := (s.tier.channels.get l).partition.val

/-- The first free index of the region table from `i` on. -/
def freeRegion (t : Tab (Option Region)) : Nat := (t.first (fun r => r.isNone) 1024).getD 1024

/-- Loads a validated map's regions into the table, with their zeroes and their content (R189). A region of an
encrypted partition is zeroed whatever its flag (R195). -/
def State.loadRegions (s : State) (m : PlaceMap) : State :=
  m.regions.foldl (fun s r =>
    let i := freeRegion s.tier.regions
    let r := { r with model := if m.scope = 0 then none else some m.model }
    let s := ({ s with tier := { s.tier with regions := s.tier.regions.set i (some r) } }).surfacePoison r
    let s := if r.zero || (s.tier.partitions.get r.partition.val).encrypt then s.zero r.start r.size else s
    if r.init then s.write r.start (((m.content.get r.id.toNat)).take r.size) else s) s

/-- Regions in the table. -/
def State.regionCount (s : State) : Nat := s.regionList.length

/-- The page pools of the device map, in partition order (R190), with every page FREE (R189). -/
def State.emptyPools (s : State) : State :=
  let (pools, total) := (List.range 8).foldl (fun (acc : Tab (Nat × Nat) × Nat) k =>
    match s.poolRegion k with
    | none => acc
    | some r => (acc.1.set k (acc.2, r.size / 16384), acc.2 + r.size / 16384)) ([], 0)
  { s with tier := { s.tier with
      pools := pools, total := total, free := total, alloc := 0, inFlight := 0, quar := 0, pages := [], roots := [] } }

/-- The page pools of the device map. A page whose frame meets that of a page retired earlier waits QUARANTINED for one more test
(R202; its QCAUSE until then is log entry 91). -/
def State.loadPools (s : State) : State :=
  let frames := s.tier.retired
  let s := s.emptyPools
  frames.foldl (fun s f => [f.2, f.2 + 16383].foldl (fun s b =>
    match (s.addrOfChannel f.1 b).bind s.pageOf with
    | some p => s.setPage p { s.page p with state := .quarantined, qcause := 1 }
    | none => s) s) { s with tier := { s.tier with retired := [] } }

/-- Removes the regions that satisfy `p` from the table (R189). -/
def State.dropRegions (s : State) (p : Region → Bool) : State :=
  let s := (s.regionList.filter p).foldl State.sinkPoison s
  { s with tier := { s.tier with regions := s.tier.regions.mapAll fun _ r =>
      match r with
      | some x => if p x then none else r
      | none => none } }

/-- Removes a model's regions from the table (R189). -/
def State.dropModel (s : State) (m : BitVec 6) : State := s.dropRegions fun r => r.model == some m

end Sys2Proof.Machine
end

