-- ==== Sys2Proof/Machine/Parse.lean ====
section
/-! DEFINITION. The bytes of what a host hands to the device: placement maps (R185), structure bitstreams (R450-R454) and pool maps
(R476), read field by field, with what their checks find. -/

namespace Sys2Proof.Machine

/-- The little-endian value of `n` bytes at an offset. -/
def fieldAt (bs : List Byte) (o n : Nat) : Nat := leNat ((bs.drop o).take n)

/-- A stretch of bytes. -/
def sliceAt (bs : List Byte) (o n : Nat) : List Byte := (bs.drop o).take n

/-- `n` bytes at an offset are zero. -/
def zeroAt (bs : List Byte) (o n : Nat) : Bool := (sliceAt bs o n).all (· == 0)

/-- Bytes with their 8-byte CHECK field at an offset taken as zero. -/
def uncheck (bs : List Byte) (o : Nat) : List Byte := bs.take o ++ List.replicate (min 8 (bs.length - o)) 0 ++ bs.drop (o + 8)

/-- An 8-bit signed value. -/
def signedAt (bs : List Byte) (o : Nat) : Int := if fieldAt bs o 1 < 128 then fieldAt bs o 1 else (fieldAt bs o 1 : Int) - 256

/-! ### Placement maps (R185) -/

/-- Entry `i` of a map's region table. -/
def regionBytes (bs : List Byte) (i : Nat) : List Byte := sliceAt bs (fieldAt bs 0xC 4 + 64 * i) 64

/-- Channel set `i` of a map. -/
def channelSet (bs : List Byte) (i : Nat) : BitVec 640 := BitVec.ofNat 640 (fieldAt bs (fieldAt bs 8 4 + 80 * i) 80)

/-- A region entry of a map's bytes. -/
def Region.parse (bs : List Byte) (i : Nat) : Region :=
  let r := regionBytes bs i
  let f := fieldAt r
  let hbm := decide (f 5 1 = 0)
  { id := BitVec.ofNat 16 (f 0 2), kind := BitVec.ofNat 8 (f 2 1), init := (f 3 1).testBit 0, zero := (f 3 1).testBit 1, readOnly := (f 3 1).testBit 2
    partition := Fin.ofNat 8 (f 4 1), space := Fin.ofNat 2 (f 5 1), granule := Fin.ofNat 4 (f 6 1)
    channels := if hbm then channelSet bs (f 7 1) else 0, chset := if hbm then BitVec.ofNat 8 (f 7 1) else 0
    quadrant := if hbm then 0 else Fin.ofNat 4 (f 7 1), base := f 8 8, size := f 0x10 8, chBase := f 0x18 8
    initOff := BitVec.ofNat 64 (f 0x20 8), initCheck := BitVec.ofNat 64 (f 0x28 8) }

/-- The codes of a region entry are defined and its reserved fields zero; its channel set exists, and the content of an INIT region
lies in the image and matches INIT_CHECK. -/
def regionFieldsOk (bs image : List Byte) (i : Nat) : Bool :=
  let r := regionBytes bs i
  let f := fieldAt r
  decide (f 3 1 < 8) && decide (f 4 1 < 8) && decide (f 5 1 < 2) && decide (f 6 1 < 4) && decide (f 7 1 < if f 5 1 = 0 then fieldAt bs 6 1 else 4)
    && zeroAt r 0x30 16
    && (!(f 3 1).testBit 0 || (decide (f 0x20 8 + f 0x10 8 ≤ image.length) && decide (crc64 (sliceAt image (f 0x20 8) (f 0x10 8)) = f 0x28 8)))

/-- The header's codes and counts are in range, its reserved fields zero, its tables within the map, and no channel set is empty. -/
def mapHeaderOk (bs : List Byte) : Bool :=
  let f := fieldAt bs
  decide (f 2 1 < 64) && decide (f 3 1 < 8) && decide (1 ≤ f 4 2 ∧ f 4 2 ≤ 1024) && decide (f 6 1 ≤ 64) && zeroAt bs 7 1 && zeroAt bs 0x28 24
    && decide (f 8 4 + 80 * f 6 1 ≤ bs.length) && decide (f 0xC 4 + 64 * f 4 2 ≤ bs.length) && (List.range (f 6 1)).all fun i => channelSet bs i != 0

/-- A placement map read from its bytes; `image` is the bitstream or the plan image, which holds the content of INIT regions. -/
def PlaceMap.parse (bs image : List Byte) : PlaceMap :=
  let f := fieldAt bs
  let n := min 1024 (f 4 2)
  let regions := (List.range n).map (Region.parse bs)
  { level := BitVec.ofNat 8 (f 0 1), check := BitVec.ofNat 64 (f 0x20 8), scope := BitVec.ofNat 8 (f 1 1), model := BitVec.ofNat 6 (f 2 1)
    partition := Fin.ofNat 8 (f 3 1), regions := regions, hbmBytes := f 0x10 8, tsBytes := f 0x18 8
    checkOk := decide (64 ≤ bs.length) && decide (crc64 (uncheck bs 0x20) = f 0x20 8)
    fieldsOk := mapHeaderOk bs && (List.range n).all (regionFieldsOk bs image)
    content := (regions.filter Region.init).map fun r => (r.id.toNat, sliceAt image r.initOff.toNat r.size) }

/-! ### Pool maps (R476) -/

/-- A pool map read from its bytes. -/
def PoolMap.parse (bs : List Byte) : PoolMap :=
  let f := fieldAt bs
  { level := BitVec.ofNat 8 (f 0 1), epoch := BitVec.ofNat 32 (f 4 4), count := BitVec.ofNat 32 (f 8 4)
    checkOk := decide (32 ≤ bs.length) && decide (crc64 (uncheck bs 0x10) = f 0x10 8), reservedOk := zeroAt bs 1 3 && zeroAt bs 0xC 4 && zeroAt bs 0x18 8
    entries := (List.range ((bs.length - 32) / 16)).map fun i =>
      let e := sliceAt bs (32 + 16 * i) 16
      { device := BitVec.ofNat 16 (fieldAt e 0 2), role := BitVec.ofNat 8 (fieldAt e 2 1), flags := BitVec.ofNat 8 (fieldAt e 3 1)
        planes := BitVec.ofNat 16 (fieldAt e 4 2), partitions := BitVec.ofNat 8 (fieldAt e 6 1), reserved := BitVec.ofNat 8 (fieldAt e 7 1)
        models := BitVec.ofNat 64 (fieldAt e 8 8) } }

/-! ### Images (R487, R488) -/

/-- Bytes 0x000 to 0x07F of an image's manifest (R487). -/
def Image.header (i : Image) : List Byte :=
  packBytes [(4, i.magic.toNat), (1, i.level.toNat), (1, i.kind), (2, i.blocks), (8, i.imageId.toNat), (8, i.svn), (4, i.version.toNat),
    (2, i.hwMin.toNat), (2, i.hwMax.toNat), (2, i.steppings.toNat), (2, i.imgIf.toNat), (2, i.schema.toNat), (2, i.schemaMin.toNat),
    (2, i.secIf.toNat), (2, i.secIfMin.toNat), (2, i.compat.length), (2, 0), (8, i.features.toNat), (8, i.keyId.toNat),
    (48, i.digest.toNat), (4, i.payloadLen), (4, i.sigLen), (8, 0)]

/-- Bytes 0x000 to 0x27F of an image's manifest, which its signatures and its measurement cover (R488, R520). -/
def Image.manifest (i : Image) : List Byte :=
  i.header ++ i.compat.flatMap (fun c => packBytes [(2, c.1.toNat), (2, c.2.toNat), (4, 0)]) ++ List.replicate (8 * (64 - i.compat.length)) 0

/-- Reserved fields of a manifest, unused compatibility entries and what follows the signatures are zero (R487, R488). -/
def manifestOk (bs : List Byte) : Bool :=
  let n := fieldAt bs 0x2C 2
  zeroAt bs 0x2E 2 && zeroAt bs 0x78 8 && (List.range n).all (fun i => zeroAt bs (0x84 + 8 * i) 4) && zeroAt bs (0x80 + 8 * n) (512 - 8 * n)
    && zeroAt bs (0x280 + fieldAt bs 0x74 4) 65536

/-- An image read from its manifest's bytes. -/
def Image.parse (x : SlotFile) : Image :=
  let bs := x.bytes
  let f := fieldAt bs
  { magic := BitVec.ofNat 32 (f 0 4), level := BitVec.ofNat 8 (f 4 1), kind := f 5 1, blocks := f 6 2, imageId := BitVec.ofNat 64 (f 8 8), svn := f 0x10 8
    version := BitVec.ofNat 32 (f 0x18 4), hwMin := BitVec.ofNat 16 (f 0x1C 2), hwMax := BitVec.ofNat 16 (f 0x1E 2)
    steppings := BitVec.ofNat 16 (f 0x20 2), imgIf := BitVec.ofNat 16 (f 0x22 2), schema := BitVec.ofNat 16 (f 0x24 2)
    schemaMin := BitVec.ofNat 16 (f 0x26 2), secIf := BitVec.ofNat 16 (f 0x28 2), secIfMin := BitVec.ofNat 16 (f 0x2A 2)
    compat := (List.range (f 0x2C 2)).map fun i => (BitVec.ofNat 16 (f (0x80 + 8 * i) 2), BitVec.ofNat 16 (f (0x82 + 8 * i) 2))
    features := BitVec.ofNat 64 (f 0x30 8), keyId := BitVec.ofNat 64 (f 0x38 8), digest := BitVec.ofNat 384 (f 0x40 48)
    payloadLen := f 0x70 4, sigLen := f 0x74 4, layoutOk := manifestOk bs, keyOk := x.keyOk, ecdsaOk := x.ecdsaOk, mldsaOk := x.mldsaOk
    blocksOk := x.blocksOk }

/-- What a file is in a slot: an image, or a structure bitstream (R482). -/
def SlotFile.content (x : SlotFile) (slot : Nat) : SlotContent :=
  if x.bytes.isEmpty then .none else if slot < 5 then .image (Image.parse x) else .bits x

/-- A file with a further block, of index `k`; of an image the manifest is kept, block 0. -/
def SlotFile.add (x b : SlotFile) (slot k : Nat) : SlotFile :=
  { bytes := if slot < 5 ∧ k ≠ 0 then x.bytes else x.bytes ++ b.bytes, keyOk := x.keyOk && b.keyOk, ecdsaOk := x.ecdsaOk && b.ecdsaOk
    mldsaOk := x.mldsaOk && b.mldsaOk, blocksOk := x.blocksOk && b.blocksOk }

/-! ### Enrolment records (R509) -/

/-- An enrolment record read from its 5,485 bytes. -/
def EnrolRec.parse (bs : List Byte) : EnrolRec :=
  { level := BitVec.ofNat 8 (fieldAt bs 0 1), op := BitVec.ofNat 8 (fieldAt bs 1 1), slot := fieldAt bs 2 1, authKeyId := BitVec.ofNat 64 (fieldAt bs 0x10 8)
    pub := sliceAt bs 0x18 97 ++ sliceAt bs 0x80 1952
    layoutOk := zeroAt bs 3 13 && zeroAt bs 0x79 7 && (decide (fieldAt bs 1 1 ≠ 2) || (zeroAt bs 0x18 97 && zeroAt bs 0x80 1952)) }

/-! ### Structure bitstreams (R450-R454) -/

/-- Directory entry `i`. -/
def SectionDir.parse (bs : List Byte) (i : Nat) : SectionDir :=
  let e := sliceAt bs (64 + 32 * i) 32
  let off := fieldAt e 4 4
  let len := fieldAt e 8 4
  { type := fieldAt e 0 1, level := BitVec.ofNat 8 (fieldAt e 1 1), offset := off, length := len, check := BitVec.ofNat 64 (fieldAt e 0x10 8)
    checkOk := decide (crc64 (sliceAt bs off len) = fieldAt e 0x10 8) }

/-- The bytes of the section of a type; none where it is absent. -/
def sectionOf (bs : List Byte) (dir : List SectionDir) (t : Nat) : List Byte :=
  match dir.find? fun d => d.type == t with
  | some d => sliceAt bs d.offset d.length
  | none => []

/-- Entry `i` of FUNCTIONS. -/
def FuncEntry.parse (x : List Byte) (i : Nat) : FuncEntry :=
  { mode := match fieldAt x (8 * i) 1 with
      | 1 => .firmware | 2 => .hostAssist | _ => .hw
    port := Fin.ofNat 2 (fieldAt x (8 * i + 1) 1), timeout := fieldAt x (8 * i + 4) 4 }

/-- The layout of FUNCTIONS. -/
def functionsLayout (x : List Byte) : Bool :=
  decide (x.length = 80) && (List.range 10).all fun i => decide (fieldAt x (8 * i) 1 ≤ 2) && decide (fieldAt x (8 * i + 1) 1 ≤ 1) && zeroAt x (8 * i + 2) 2

/-- Entry `k` of PARTITIONS, with its wrapped key (R506). -/
def PartEntry.parse (x : List Byte) (k : Nat) : PartEntry :=
  let e := sliceAt x (96 * k) 96
  { channels := BitVec.ofNat 640 (fieldAt e 0 80), ways := BitVec.ofNat 16 (fieldAt e 80 2), encrypt := (fieldAt e 82 1).testBit 0
    importKey := (fieldAt e 82 1).testBit 1, wrapped := if (fieldAt e 82 1).testBit 1 then sliceAt x (fieldAt e 84 4) 192 else [] }

/-- The layout of entry `k` of PARTITIONS and of its wrapped key (R454, R506). -/
def partitionLayout (x : List Byte) (k : Nat) : Bool :=
  let e := sliceAt x (96 * k) 96
  let w := sliceAt x (fieldAt e 84 4) 192
  decide (96 * k + 96 ≤ x.length) && decide (fieldAt e 82 1 < 4) && zeroAt e 83 1 && zeroAt e 88 8
    && if (fieldAt e 82 1).testBit 1 then decide (w.length = 192) && readable (fieldAt w 0 1) && decide (fieldAt w 1 1 = k) && zeroAt w 2 6 && zeroAt w 0x71 7
       else decide (fieldAt e 84 4 = 0)

/-- Entries of CONTROL, and whether they fill the section; `fuel` is at least their number. -/
def controlEntries : Nat → List Byte → List ControlEntry × Bool
  | 0, x => ([], x.isEmpty)
  | fuel + 1, x =>
    if x.isEmpty then ([], true)
    else
      let n := fieldAt x 4 1
      let e : ControlEntry := { block := fieldAt x 0 2, expert := decide (fieldAt x 2 1 = 1), profile := fieldAt x 3 1
                                fields := (List.range n).map fun i => (fieldAt x (8 + 8 * i) 4, BitVec.ofNat 32 (fieldAt x (12 + 8 * i) 4)) }
      let rest := controlEntries fuel (x.drop (8 + 8 * n))
      (e :: rest.1, decide (8 + 8 * n ≤ x.length) && decide (fieldAt x 2 1 ≤ 1) && zeroAt x 5 3 && rest.2)

/-- Entry `i` of TENANTS. -/
def TenantEntry.parse (x : List Byte) (i : Nat) : TenantEntry :=
  let f := fieldAt (sliceAt x (32 * i) 32)
  { tenant := BitVec.ofNat 10 (f 0 2), enable := (f 2 1).testBit 0, partition := Fin.ofNat 8 (f 3 1), share := BitVec.ofNat 16 (f 4 2)
    tokQuota := f 8 4, tokCap := f 12 4, admQuota := f 16 4, admCap := f 20 4 }

/-- The layout of TENANTS. -/
def tenantsLayout (x : List Byte) : Bool :=
  decide (x.length % 32 = 0) && (List.range (x.length / 32)).all fun i =>
    let e := sliceAt x (32 * i) 32
    decide (fieldAt e 0 2 < 1024) && decide (fieldAt e 2 1 < 2) && decide (fieldAt e 3 1 < 8) && zeroAt e 6 2 && zeroAt e 24 8

/-- Shaper entry `i` of SHAPING. -/
def ShaperEntry.parse (x : List Byte) (i : Nat) : ShaperEntry :=
  let e := sliceAt x (16 + 16 * i) 16
  { port := fieldAt e 0 1, priority := Fin.ofNat 8 (fieldAt e 1 1), adj := signedAt e 2, slope := fieldAt e 4 4, hi := fieldAt e 8 4, lo := fieldAt e 12 4 }

/-- Policer entry `i` of SHAPING, after `n` shaper entries. -/
def PolicerEntry.parse (x : List Byte) (n i : Nat) : PolicerEntry :=
  let e := sliceAt x (16 + 16 * (n + i)) 16
  { tenant := BitVec.ofNat 10 (fieldAt e 0 2), adj := signedAt e 2, rate := fieldAt e 4 4, burst := fieldAt e 8 4 }

/-- The layout of SHAPING. -/
def shapingLayout (x : List Byte) : Bool :=
  let n := fieldAt x 0 2
  let m := fieldAt x 2 2
  decide (x.length = 16 + 16 * (n + m)) && zeroAt x 6 10
    && (List.range n).all (fun i => decide (fieldAt x (17 + 16 * i) 1 < 8) && zeroAt x (19 + 16 * i) 1)
    && (List.range m).all fun i => decide (fieldAt x (16 + 16 * (n + i)) 2 < 1024) && zeroAt x (19 + 16 * (n + i)) 1 && zeroAt x (28 + 16 * (n + i)) 4

/-- Types of the sections present whose bytes break the layout of R452 and R454. -/
def brokenSections (bs : List Byte) (dir : List SectionDir) : List Nat :=
  let sec := sectionOf bs dir
  let parts := fieldAt (sec 1) 2 1
  (dir.map SectionDir.type).filter fun t => let x := sec t
    match t with
    | 1 => !(decide (x.length = 64) && zeroAt x 3 1 && zeroAt x 0xE 50)
    | 2 => !functionsLayout x
    | 3 => decide (x.length ≠ 40)
    | 4 => !(List.range parts).all (partitionLayout x)
    | 6 => !(decide (x.length % 4 = 0) && (List.range (x.length / 4)).all fun i => zeroAt x (4 * i + 1) 1)
    | 7 => !(controlEntries x.length x).2
    | 8 => !tenantsLayout x
    | 9 => !shapingLayout x
    | _ => false

/-- A structure bitstream read from the bytes of its slot. -/
def Bitstream.parse (b : SlotFile) : Bitstream :=
  let bs := b.bytes
  let f := fieldAt bs
  let dir := (List.range (f 7 1)).map (SectionDir.parse bs)
  let sec := sectionOf bs dir
  let dev := fieldAt (sec 1)
  { bytes := bs, magic := BitVec.ofNat 32 (f 0 4), level := BitVec.ofNat 8 (f 4 1), role := f 5 1, preset := f 6 1, hwLevel := BitVec.ofNat 16 (f 8 2)
    steppings := BitVec.ofNat 16 (f 0xA 2), totalLen := f 0xC 4, buildId := BitVec.ofNat 64 (f 0x10 8), check := BitVec.ofNat 64 (f 0x18 8)
    checkOk := decide (crc64 (uncheck (bs.take (f 0x20 4)) 0x18) = f 0x18 8), sigOff := f 0x20 4, sigLen := f 0x24 4, keyId := BitVec.ofNat 64 (f 0x28 8)
    ecdsaOk := b.ecdsaOk, mldsaOk := b.mldsaOk, dir := dir
    devRole := dev 0 1, engines := BitVec.ofNat 8 (dev 1 1), partCount := dev 2 1, anchorMax := dev 4 4, lowWm := dev 8 4, scWaysDev := BitVec.ofNat 16 (dev 0xC 2)
    functions := (List.range ((sec 2).length / 8)).map (FuncEntry.parse (sec 2)), lanes := sec 3
    partitions := (List.range (dev 2 1)).map (PartEntry.parse (sec 4)), map := PlaceMap.parse (sec 5) bs
    islets := (List.range ((sec 6).length / 4)).map fun i => (fieldAt (sec 6) (4 * i) 1, fieldAt (sec 6) (4 * i + 2) 2)
    control := (controlEntries (sec 7).length (sec 7)).1, tenants := (List.range ((sec 8).length / 32)).map (TenantEntry.parse (sec 8))
    pfc := BitVec.ofNat 16 (fieldAt (sec 9) 4 2), shapers := (List.range (fieldAt (sec 9) 0 2)).map (ShaperEntry.parse (sec 9))
    policers := (List.range (fieldAt (sec 9) 2 2)).map (PolicerEntry.parse (sec 9) (fieldAt (sec 9) 0 2))
    reservedOk := zeroAt bs 0x30 16 && (List.range (f 7 1)).all fun i => zeroAt bs (66 + 32 * i) 2 && zeroAt bs (76 + 32 * i) 4 && zeroAt bs (88 + 32 * i) 8
    badLayouts := brokenSections bs dir }

end Sys2Proof.Machine
end

