-- ==== Sys2Proof/Machine/Structure.lean ====
section
/-! DEFINITION. The structure bitstream: validation, loading at reset and during operation, and the drain
(chapter 17). -/

namespace Sys2Proof.Machine

/-! ### What a bitstream says -/

/-- A section's directory entry. -/
def Bitstream.sect (b : Bitstream) (t : Nat) : Option SectionDir := b.dir.find? fun d => d.type == t

/-- The section is present. -/
def Bitstream.has (b : Bitstream) (t : Nat) : Bool := (b.sect t).isSome

/-- Use of a lane group: 0 unused, 1 Strait, 2 Ethernet, by LANES or by the preset (R454, R455). -/
def Bitstream.lane (b : Bitstream) (n : Nat) : Nat :=
  if b.preset = 0 then (b.lanes.getD n 0).toNat
  else if b.preset = 3 then (if n < 24 then 1 else 2)
  else if n < 32 then 1 else 2

/-- Lane groups of each Strait port, in ascending order: the first of its pair (R454). -/
def Bitstream.spGroups (b : Bitstream) : List Nat :=
  ((List.range 20).map (2 * ·)).filter fun n => b.lane n == 1

/-- Lane group of each Ethernet port, in ascending order (R454). -/
def Bitstream.epGroups (b : Bitstream) : List Nat := (List.range 40).filter fun n => b.lane n == 2

/-- The Springbok lanes are enabled (R452, R453). -/
def Bitstream.lanesOn (b : Bitstream) : Bool := b.engines.getLsbD 0

/-- The Chamois search engine is enabled (R452, R453). -/
def Bitstream.chamOn (b : Bitstream) : Bool := b.engines.getLsbD 1

/-- ENGINES that a preset supplies (R455). -/
def presetEngines : Nat → Nat
  | 1 => 0 | 2 => 1 | 3 => 3 | _ => 1

/-- Partition that a bitstream gives a channel: those that no other partition names belong to partition 0 (R191). -/
def Bitstream.owner (b : Bitstream) (l : Nat) : Nat :=
  (((List.range 8).drop 1).find? fun k => (b.partitions.getD k {}).channels.getLsbD l).getD 0

/-- The classes of sections that a full load is needed for (R452). -/
def fullClass (t : Nat) : Bool := decide (1 ≤ t) && decide (t ≤ 5)

/-! ### Validation (R456) -/

/-- Sections lie within the file, on 16-byte boundaries, and do not overlap (R450, R456). -/
def Bitstream.dirOk (b : Bitstream) : Bool :=
  let start := 64 + 32 * b.dir.length
  decide (1 ≤ b.dir.length) && decide (b.dir.length ≤ 16) && distinct (b.dir.map (·.type))
    && b.dir.all (fun d => decide (d.offset % 16 = 0) && decide (start ≤ d.offset) && decide (d.offset + d.length ≤ b.sigOff))
    && decide (b.sigOff + b.sigLen ≤ b.totalLen) && decide (b.totalLen ≤ b.bytes.length) && decide (b.totalLen ≤ 16777216)
    && (List.range b.dir.length).all fun i => (List.range i).all fun j =>
        match b.dir[i]?, b.dir[j]? with
        | some x, some y => !meets x.offset x.length y.offset y.length
        | _, _ => true

/-- The section types present are those required and allowed (R452). -/
def Bitstream.sectionsOk (b : Bitstream) : Bool :=
  [1, 4, 5].all b.has && [2, 3, 6, 7].all (fun t => b.has t == (b.preset == 0))

/-- Ranges of the FUNCTIONS section (R454). -/
def Bitstream.functionsOk (b : Bitstream) : Bool :=
  decide (b.functions.length = 10) && (List.range 10).all fun i =>
    let f := b.functions.getD i {}
    decide (f.timeout ≤ 10000) && (decide (f.mode ≠ .firmware) || decide (i = 0))

/-- Ranges of the LANES section (R454). -/
def Bitstream.lanesOk (b : Bitstream) : Bool :=
  decide (b.lanes.length = 40) && b.lanes.all (fun v => decide (v.toNat ≤ 2))
    && (List.range 20).all (fun k => (b.lane (2 * k) == 1) == (b.lane (2 * k + 1) == 1))
    && decide (b.spGroups.length ≤ 16) && decide (b.epGroups.length ≤ 16)

/-- Ranges of the SHAPING section (R454, R334, R336). -/
def Bitstream.shapingOk (b : Bitstream) : Bool :=
  decide (((List.range 8).filter fun i => b.pfc.getLsbD (i + 1)).length ≤ 2) && b.pfc.extractLsb' 9 7 == 0
    && b.shapers.all (fun e => decide (e.port < 16) && decide (-64 ≤ e.adj) && decide (e.adj ≤ 127) && decide (e.slope ≤ 800000)
        && decide (e.hi < 2 ^ 24) && decide (e.lo < 2 ^ 24))
    && b.policers.all (fun e => decide (-64 ≤ e.adj) && decide (e.adj ≤ 127) && decide (e.rate ≤ 800000)
        && decide (9236 ≤ e.burst) && decide (e.burst < 2 ^ 24))

/-- The first section whose content breaks R452-R455, by its type (R456 check 5). -/
def Bitstream.contentFault (b : Bitstream) (s : State) : Option Nat :=
  if b.role = 0 ∨ 4 < b.role ∨ 4 < b.preset ∨ (b.preset ≠ 0 ∧ b.preset ≠ b.role) ∨ !b.sectionsOk ∨ !b.reservedOk then some 0
  else if b.badLayouts.contains 1 ∨ b.devRole ≠ b.role ∨ 3 < b.engines.toNat ∨ (b.chamOn ∧ b.role ≠ 3)
      ∨ (b.preset ≠ 0 ∧ b.engines.toNat ≠ presetEngines b.preset)
      ∨ b.partCount = 0 ∨ 8 < b.partCount ∨ 65536 < b.anchorMax ∨ b.scWaysDev = 0 then some 1
  else if b.badLayouts.contains 2 ∨ (b.preset = 0 ∧ !b.functionsOk) then some 2
  else if b.badLayouts.contains 3 ∨ (b.preset = 0 ∧ !b.lanesOk) then some 3
  else if b.badLayouts.contains 4 ∨ b.partitions.length ≠ b.partCount ∨ (b.partitions.getD 0 {}).channels ≠ 0 ∨ b.partitions.any (fun p => p.ways == 0)
      ∨ (List.range b.partCount).any (fun i => (List.range i).any fun j =>
          (b.partitions.getD i {}).channels &&& (b.partitions.getD j {}).channels != 0) then some 4
  else if b.badLayouts.contains 6 ∨ b.islets.any (fun e => decide (7 < e.1) || (decide (1 ≤ e.2) && decide (e.2 ≤ 499)) || decide (s.classMax e.1 < e.2)) then some 6
  else if b.badLayouts.contains 7 ∨ !b.control.all controlEntryOk then some 7
  else if b.badLayouts.contains 8 ∨ b.tenants.any (fun t => t.share == 0 || decide (2 ^ 31 ≤ t.tokQuota) || decide (2 ^ 31 ≤ t.tokCap)
      || decide (2 ^ 31 ≤ t.admQuota) || decide (2 ^ 31 ≤ t.admCap)) then some 8
  else if b.badLayouts.contains 9 ∨ !b.shapingOk then some 9
  else none

/-- A structure slot's key is valid (R508). -/
def SkeySlot.valid (k : SkeySlot) : Bool := k.used && !k.revoked && k.present

/-- The signature of a bitstream is accepted (R451, R514). -/
def State.sigOk (s : State) (b : Bitstream) : Bool :=
  if b.sigLen = 0 then decide (s.order = 1) && !s.sec.debugLock && !(s.sec.skeys.anyWhere fun _ k => k.used)
  else (decide (b.sigLen = 96) || decide (b.sigLen = 3405)) && (s.sec.skeys.anyWhere fun _ k => k.valid && k.keyId == b.keyId) && b.ecdsaOk
    && (!s.sec.mldsaReq || (decide (b.sigLen = 3405) && b.mldsaOk))

/-- Checks 1 to 4 of R456: the status and deciding section of the first that fails. -/
def State.bitsFault4 (s : State) (b : Bitstream) : Option (Byte × Nat) :=
  if b.magic ≠ 0x4253574C ∨ b.level ≠ 1 ∨ !b.dirOk then some (stMALFORMED, 0)
  else match b.dir.find? fun d => decide (d.type = 0) || decide (9 < d.type) || d.level != 1 with
  | some d => some (stMALFORMED, d.type)
  | none =>
    if b.hwLevel ≠ 0x0100 ∨ b.steppings.getLsbD 0 = false then some (stINCOMPATIBLE, 0)
    else if !b.checkOk then some (stCHECK_FAIL, 0)
    else match b.dir.find? fun d => !d.checkOk with
    | some d => some (stCHECK_FAIL, d.type)
    | none => if s.sigOk b then none else some (stPRIVILEGE, 0)

/-- The status and deciding section of the first check of R456 that a bitstream fails. -/
def State.bitsFault (s : State) (b : Bitstream) : Option (Byte × Nat) :=
  match s.bitsFault4 b with
  | some e => some e
  | none => match b.contentFault s with
    | some t => some (stMALFORMED, t)
    | none => match b.map.status [] b.owner with
      | some st => some (st, 5)
      | none => if b.map.scope ≠ 0 then some (stMALFORMED, 5)
        else if b.tenants.any (fun t => decide (b.partCount ≤ t.partition.val)) then some (stMALFORMED, 8) else none

/-- A refused map shows in TIER_MAP_STATUS: MAP_ERR and ERR_STATUS (R203). -/
def State.mapRefused (s : State) (st : Byte) : State := (s.setFlag Reg.TIER_MAP_STATUS 1 true).setField Reg.TIER_MAP_STATUS 8 8 st.toNat

/-- Records a refused load: LAST_STATUS, LAST_SECTION and STRUCT_REFUSED (R457), and MAP_ERR when its map was refused (R203). -/
def State.structRefused (s : State) (slot : Nat) (e : Byte × Nat) : State :=
  let s := if e.2 = 5 then s.mapRefused e.1 else s
  ({ s with struct := { s.struct with lastStatus := e.1, lastSection := e.2 } }).raise
    { severity := .contained, block := 0x001, cause := 0x0120, status := e.1, unit := BitVec.ofNat 16 slot, detail0 := BitVec.ofNat 64 e.2, detail1 := BitVec.ofNat 64 e.1.toNat }

/-- What a structure slot holds. -/
def State.structSlot (s : State) (slot : Nat) : Bitstream :=
  match (s.fw.slots.get (5 + slot)).content with
  | .bits b => Bitstream.parse b
  | _ => { magic := 0 }

/-! ### Applying sections -/

/-- Makes a partition's key unusable (R507): the inline engines lose it, KEY_UNUSABLE is written, and every tenant of
the partition is fenced with reason 2. -/
def State.keyUnusable (s : State) (p cause : Nat) : State :=
  let bit : BitVec 8 := BitVec.ofNat 8 (2 ^ p)
  let s := { s with
    sec := { s.sec with
      keyReady := s.sec.keyReady &&& ~~~bit, keyUnusable := s.sec.keyUnusable ||| bit, keys := { s.sec.keys with parts := s.sec.keys.parts.set p 0 } }
    tier := { s.tier with partitions := s.tier.partitions.mod p fun x => { x with keyReady := false, keyLost := true } } }
  let s := s.raise { severity := .contained, block := 0x022, cause := 0x0141, unit := BitVec.ofNat 16 p, detail0 := BitVec.ofNat 64 cause }
  (List.range 1024).foldl (fun s t =>
    let e := s.tenantOf t
    if e.enable && decide (e.partition.val = p) then s.fenceTenant t 2 else s) s

/-- IMPORT_KEY_ID of this device: the first 8 B of the digest of its import public key (R506). -/
def State.importKeyId (s : State) : List Byte := (leBytes 48 (Config.sha384 (Config.publicKey s.sec.keys.importKey)).toNat).take 8

/-- The key that a load gives a partition: the imported one, or one that the islet generates (R195, R503, R506). -/
def State.partitionKey (s : State) (e : PartEntry) : State × BitVec 512 :=
  match if e.importKey then Config.unwrapKey s.sec.keys.importKey e.wrapped else none with
  | some k => (s, k)
  | none => (s.drawN 64, BitVec.ofNat 512 (leNat (freeBytes s.fresh 64)))

/-- Sets up the partitions: channels, way masks, encryption and keys (R191, R192, R195, R461 step 4). `inlineFail` names
partitions whose inline-engine test fails (R516). -/
def State.loadPartitions (s : State) (b : Bitstream) (inlineFail : BitVec 8) : State :=
  let s := { s with
    tier := { s.tier with
      partitions := (List.range b.partCount).foldl (fun t k =>
        let e := b.partitions.getD k {}
        t.set k { active := true, encrypt := e.encrypt, keyReady := e.encrypt, channels := e.channels }) []
      channels := (List.range 640).foldl (fun t l =>
        t.mod l fun c => { c with partition := ⟨b.owner l % 8, Nat.mod_lt _ (by decide)⟩ }) s.tier.channels }
    sec := { s.sec with keyReady := 0, keyUnusable := 0, keyImported := 0, keys := { s.sec.keys with parts := [] } } }
  (List.range b.partCount).foldl (fun s k =>
    let e := b.partitions.getD k {}
    let s := s.wr (Reg.TIER_SC_WAYS + 4 * k) (BitVec.ofNat 32 e.ways.toNat)
    let bit : BitVec 8 := BitVec.ofNat 8 (2 ^ k)
    if !e.encrypt then s
    else if e.importKey && sliceAt e.wrapped 8 8 != s.importKeyId then s.keyUnusable k 0
    else if e.importKey && (Config.unwrapKey s.sec.keys.importKey e.wrapped).isNone then s.keyUnusable k 1
    else if inlineFail.getLsbD k then
      let sec := { s.sec with passed := s.sec.passed &&& 0x3EF#10, failures := satAdd 16 s.sec.failures 1, failedSince := true }
      ({ s with sec := sec }).keyUnusable k 3
    else
      let (s, key) := s.partitionKey e
      { s with sec := { s.sec with
          keys := { s.sec.keys with parts := s.sec.keys.parts.set k key }, passed := s.sec.passed ||| 0x010#10, keyReady := s.sec.keyReady ||| bit
          keyImported := if e.importKey then s.sec.keyImported ||| bit else s.sec.keyImported } }) s

/-- A tenant as a TENANTS entry starts it at a full load (R371, R454). -/
def TenantEntry.start (t : TenantEntry) : Tenant :=
  { enable := t.enable, partition := t.partition, share := t.share, tokQuota := t.tokQuota, tokCap := t.tokCap
    tok := (min t.tokQuota t.tokCap : Nat), admQuota := t.admQuota, admCap := t.admCap, adm := (min t.admQuota t.admCap : Nat) }

/-- The tenant table of a full load: tenants not listed are as after reset, and period boundaries count from the load (R371,
R372, R454). -/
def State.loadTenants (s : State) (b : Bitstream) : State :=
  { s with tenant := { s.tenant with
      boundary := s.now, due := 0
      table := b.tenants.foldl (fun t e => Tab.place {} e.tenant.toNat e.start t) [] } }

/-- Writes of the entries of a TENANTS section at a partial load: TENANT_CFG, quotas and caps; balances and V(t) are
kept (R459). -/
def State.writeTenants (s : State) (b : Bitstream) : State :=
  b.tenants.foldl (fun s e =>
    let t := s.tenantOf e.tenant.toNat
    s.setTenant e.tenant.toNat { t with
      enable := e.enable, share := e.share, sharePending := none, tokQuota := e.tokQuota, tokCap := e.tokCap
      admQuota := e.admQuota, admCap := e.admCap }) s

/-- Writes of the entries of a SHAPING section at a partial load: shapers take effect when their port's frame ends, policers at once with
a full bucket (R333, R459). -/
def State.writeShaping (s : State) (b : Bitstream) : State :=
  let s := b.shapers.foldl (fun s e =>
    let k := e.port * 8 + e.priority.val
    let x := Tab.look {} k s.net.shapers
    let x := { x with pending := some (e.slope, e.hi, e.lo, e.adj) }
    { s with net := { s.net with shapers := Tab.place {} k x s.net.shapers } }) s
  b.policers.foldl (fun s e =>
    let x := Tab.look {} e.tenant.toNat s.net.policers
    let x := { x with rate := e.rate, burst := e.burst, adj := e.adj, missing := 0 }
    { s with net := { s.net with policers := Tab.place {} e.tenant.toNat x s.net.policers } }) s

/-- The shaper and policer tables of a full load (R333, R461): those listed, the others as after reset, every credit 0 and every
bucket full; counts of dropped packets are kept. -/
def State.loadShaping (s : State) (b : Bitstream) : State :=
  let shapers : Tab Shaper := b.shapers.foldl (fun t e =>
    Tab.place {} (e.port * 8 + e.priority.val) { slope := e.slope, hi := e.hi, lo := e.lo, adj := e.adj } t) []
  let policers : Tab Policer := s.net.policers.foldl (fun t e => Tab.place {} e.1 { drops := e.2.drops } t) []
  let policers := b.policers.foldl (fun t e =>
    Tab.place {} e.tenant.toNat { Tab.look {} e.tenant.toNat t with rate := e.rate, burst := e.burst, adj := e.adj } t) policers
  { s with net := { s.net with shapers := shapers, policers := policers } }

/-- The islet limits of a bitstream (R454). -/
def State.loadIslets (s : State) (b : Bitstream) : State :=
  { s with pwr := { s.pwr with structLimit := b.islets.foldl (fun t e => t.set e.1 e.2) [] } }

/-- A Strait port that the bitstream assigns begins to train; its counters since cold reset are kept. -/
def StraitPort.anew (p : StraitPort) : StraitPort :=
  { state := .training, allocated := true, replays := p.replays, retrains := p.retrains, auditErrs := p.auditErrs, fecUncorr := p.fecUncorr }

/-- An Ethernet port that the bitstream assigns begins to train; its counters since cold reset are kept. -/
def EthPort.anew (p : EthPort) : EthPort :=
  { state := .training, allocated := true, fecUncorr := p.fecUncorr, fcsErr := p.fcsErr }

/-- Assigns the lane groups: ports that change train anew, and the others are left (R461 step 3). -/
def State.loadLanes (s : State) (b : Bitstream) : State :=
  let same := match s.struct.loaded with
    | none => false
    | some o => (List.range 40).all fun n => o.lane n == b.lane n
  if same then s
  else { s with
    strait := { s.strait with ports := (List.range b.spGroups.length).foldl (fun t n => t.set n (s.strait.ports.get n).anew) [] }
    net := { s.net with ports := (List.range b.epGroups.length).foldl (fun t n => t.set n (s.net.ports.get n).anew) [] } }

/-- READY of the blocks a loaded map makes usable: STRUCT at once (R189, R530). -/
def State.structReady (s : State) (b : Bitstream) (slot : Fin 2) : State :=
  ({ s with struct := { s.struct with
      loaded := some b, slot := slot, unsigned := decide (b.sigLen = 0), lastStatus := stOK, lastSection := 0 } }).setReady 0x001 true

/-- Loads the sections of a bitstream: lanes, partitions, map, and the registers and tables of every block (R461 steps
3 to 6, R457). Keys that are unusable fence the tenants the load has just given the partition. -/
def State.loadBits (s : State) (b : Bitstream) (slot : Fin 2) (inlineFail : BitVec 8) : State :=
  let s := s.loadLanes b
  let s := s.dropRegions fun _ => true
  let s := s.loadTenants b
  let s := s.loadPartitions b inlineFail
  let s := (s.loadRegions b.map).loadPools
  let s := s.loadControl b.control
  let s := s.loadIslets b
  let s := s.loadShaping b
  let s := (s.setFlag Reg.NET_CTRL 1 (b.pfc.getLsbD 0)).setField Reg.NET_CTRL 2 8 (b.pfc.toNat / 2 % 256)
  let s := s.wr Reg.TIER_POOL_LOW_WM (BitVec.ofNat 32 b.lowWm)
  let s := s.wr Reg.TIER_SC_WAYS_DEV (BitVec.ofNat 32 b.scWaysDev.toNat)
  let s := { s with herd := { s.herd with stepNum := 0 }, staged := [] }
  s.structReady b slot

/-- Loads the slot that STRUCT_BOOT_SLOT names, or the other one with FALLBACK, or none (R457). -/
def State.bootLoad (s : State) (slot : Fin 2) (inlineFail : BitVec 8) : State :=
  match s.bitsFault (s.structSlot slot.val) with
  | none => s.loadBits (s.structSlot slot.val) slot inlineFail
  | some e =>
    let other : Fin 2 := if slot = 0 then 1 else 0
    match s.bitsFault (s.structSlot other.val) with
    | none =>
      let s := s.loadBits (s.structSlot other.val) other inlineFail
      ({ s with struct := { s.struct with fallback := true } }).raise
        { severity := .corrected, block := 0x001, cause := 0x0121, unit := BitVec.ofNat 16 other.val }
    | some _ => s.structRefused slot.val e

/-! ### Loading during operation -/

/-- The load is partial (R458, R459). -/
def Bitstream.partialOver (b o : Bitstream) (s : State) : Bool :=
  b.role == o.role && b.preset == o.preset
    && (List.range 6).all (fun t => !fullClass t || (match b.sect t, o.sect t with
        | some x, some y => x.check == y.check
        | none, none => true
        | _, _ => false))
    && b.tenants.all (fun e => (s.tenantOf e.tenant.toNat).partition == e.partition)
    && b.pfc == o.pfc

/-- A load of a slot is running, or the slot is being written (R458). -/
def State.loadBusy (s : State) (slot : Nat) : Bool :=
  s.struct.drain.isSome || s.struct.part.isSome ||
    (match s.fw.session with | some x => decide (x.slot = 5 + slot) | none => false)

/-- LOAD_STRUCT (R458-R460): validates the slot; a partial load waits for the step boundary, a full load for its
drain. -/
def execLoadStruct (w : WinRef) (s : State) : Host.Outcome State Fault Refusal :=
  .next (s.hostCmd w 0x17 fun c ref s =>
    let slot : Fin 2 := if c.arg0.getLsbD 0 then 1 else 0
    if s.loadBusy slot.val || s.sec.error then s.complete ref stNOT_READY
    else
      let b := s.structSlot slot.val
      match s.bitsFault b with
      | some e => (s.structRefused slot.val e).complete ref e.1
      | none =>
        let part := match s.struct.loaded with
          | some o => b.partialOver o s
          | none => false
        if part then { s with struct := { s.struct with part := some (b, slot, ref.1, ref.2) } }
        else { s with struct := { s.struct with drain := some (b, slot, ref.1, ref.2) } })

/-- A partial load that waits applies every STEP-class section that differs, at a step boundary (R459). -/
def State.applyPartial (s : State) : State :=
  match s.struct.part, s.struct.loaded with
  | some (b, slot, k, n), some o =>
    let differs (t : Nat) : Bool := decide (b.sect t ≠ o.sect t)
    let s := if differs 6 then s.loadIslets b else s
    let s := if differs 7 then s.loadControl b.control else s
    let s := if differs 8 then s.writeTenants b else s
    let s := if differs 9 then s.writeShaping b else s
    let s := { s with struct := { s.struct with
        part := none, loaded := some b, slot := slot, unsigned := decide (b.sigLen = 0), lastStatus := stOK, lastSection := 0 } }
    (s.bump Reg.STRUCT_LOADS 16 16 1).complete (k, n) stOK
  | _, _ => s

/-- The device is draining for a full load (R460). -/
def State.draining (s : State) : Bool := s.struct.drain.isSome

/-- The drain is complete (R460). -/
def State.drained (s : State) : Bool :=
  !(s.herd.entries.anyWhere fun _ e => decide (e.state ≠ .idle))
    && !(s.anchor.records.anyWhere fun _ r => decide (r.state = .active))
    && !(s.ibex.slots.anyWhere fun _ x => decide (x.state = .waiting))
    && s.eland.queue.isEmpty && s.eland.heldOps.isEmpty && s.cham.batches.isEmpty && decide (s.fault.recovery.step = 0)

/-- Advances the device-wide 16-bit key counter, which Strait and RDMA windows share and which skips 0 (R285, R312). -/
def State.newKey (s : State) : State :=
  let k := s.strait.keyCounter + 1
  { s with strait := { s.strait with keyCounter := if k = 0 then 1 else k } }

/-- Revokes every window and closes every connection (R309, R461 step 1): the commands that wait for it complete, and a CONNECT
that waits completes NOT_READY. -/
def State.revokeAll (s : State) : State :=
  let sw := s.strait.windows.filterMap fun e => e.2.revoke
  let nw := s.net.windows.filterMap fun e => e.2.revoke
  let cl := s.net.conns.flatMap fun e => e.2.closeCmds
  let cn := s.net.conns.filterMap fun e => e.2.connectCmd
  let s := (s.strait.windows.keysWhere fun _ w => decide (w.state ≠ .free)).foldl (fun s i =>
      let s := s.newKey
      { s with strait := { s.strait with windows := s.strait.windows.set i { gen := s.strait.keyCounter } } }) s
  let s := (s.net.windows.keysWhere fun _ w => decide (w.state ≠ .free)).foldl (fun s i =>
      let s := s.newKey
      { s with net := { s.net with windows := s.net.windows.set i { gen := s.strait.keyCounter } } }) s
  let s := { s with net := { s.net with conns := [] } }
  (sw ++ nw ++ cl).foldl (fun s c => s.complete c stOK) (cn.foldl (fun s c => s.complete c stNOT_READY) s)

/-- Unloads every plan (R461 step 2), which completes the unloadings that wait. -/
def State.unloadPlans (s : State) : State :=
  let cmds := s.tier.plans.filterMap fun e => e.2.unload
  cmds.foldl (fun s c => s.complete c stOK) { s with tier := { s.dropRegions (fun _ => true) |>.tier with plans := [] } }

/-- DRAIN_COMPLETE (R460, R461): the drain's conditions hold, and the new bitstream is loaded. -/
def execDrainComplete (inlineFail : BitVec 8) (s : State) : Host.Outcome State Fault Refusal :=
  .next (match s.struct.drain with
    | none => s
    | some (b, slot, k, n) =>
      if !s.drained then s
      else
        let s := { s with struct := { s.struct with drain := none, fallback := false } }
        let s := (s.revokeAll.unloadPlans).loadBits b slot inlineFail
        (s.bump Reg.STRUCT_LOADS 0 16 1).complete (k, n) stOK)

/-- Ends a drain: the command completes TIMEOUT and the old bitstream keeps serving (R460). -/
def State.endDrain (s : State) : State :=
  match s.struct.drain with
  | none => s
  | some (_, _, k, n) => ({ s with struct := { s.struct with drain := none, lastStatus := stTIMEOUT } }).complete (k, n) stTIMEOUT

/-- DRAIN_TIMEOUT (R460): the drain is not complete within STRUCT_DRAIN_MAX. -/
def execDrainTimeout (s : State) : Host.Outcome State Fault Refusal :=
  .next (if s.drained then s else s.endDrain)

/-- ABORT_DRAIN (R460, R462). -/
def execAbortDrain (s : State) : Host.Outcome State Fault Refusal := .next s.endDrain

/-- The boot record in force: the valid copy with the higher sequence number (R483). -/
def State.bootRec (s : State) : BootCopy :=
  if s.fw.boot1.valid && (!s.fw.boot0.valid || decide (s.fw.boot0.seq < s.fw.boot1.seq)) then s.fw.boot1 else s.fw.boot0

/-- Changes the boot record: the older copy is written, with SEQ one above the newer's (R483, R484). -/
def State.writeBoot (s : State) (f : BootCopy → BootCopy) : State :=
  let r := s.bootRec
  let n := { f r with seq := r.seq + 1, valid := true }
  if s.fw.boot1.valid && (!s.fw.boot0.valid || decide (s.fw.boot0.seq < s.fw.boot1.seq)) then { s with fw := { s.fw with boot0 := n } }
  else { s with fw := { s.fw with boot1 := n } }

/-- BOOT_SLOT_WRITE (R457, R462): the slot loaded at reset is written to flash. -/
def execBootSlotWrite (slot : Fin 2) (s : State) : Host.Outcome State Fault Refusal :=
  .next (s.writeBoot fun r => { r with structBoot := slot })

/-! ### Staging sessions (R491, R492) -/

/-- Completes a firmware command and keeps its status in LAST_STATUS (R501). -/
def State.fwComplete (s : State) (c : Option CmdRef) (st : Byte) : State :=
  ({ s with fw := { s.fw with lastStatus := st } }).completeOpt c st

/-- Replaces a slot. -/
def State.setSlot (s : State) (n : Nat) (x : FwSlot) : State := { s with fw := { s.fw with slots := s.fw.slots.set n x } }

/-- Ends an open session and leaves its slot INVALID (R492). -/
def State.dropSession (s : State) : State :=
  match s.fw.session with
  | none => s
  | some x =>
    let s := ({ s with fw := { s.fw with session := none } }).setSlot x.slot { state := .invalid }
    match x.cmd with
    | none => s
    | some c => s.fwComplete (some c) stTIMEOUT

/-- Ends the open staging session of host port `p` and leaves its slot INVALID (R477, R492). -/
def State.dropPortSession (s : State) (p : Nat) : State :=
  match s.fw.session with
  | none => s
  | some x => if x.port = p then s.dropSession else s

end Sys2Proof.Machine
end

