-- ==== Sys2Proof/Machine/HerdOps.lean ====
section
/-! DEFINITION. Shared operations of the Herd table: entries and their states (R68-R72), failures (R70), end orders (R70),
the closing of transfers (R244, R245), and what settles when pages and slots fall free. -/

namespace Sys2Proof.Machine

/-! ### Entries -/

/-- A Herd entry. -/
def State.entry (s : State) (n : Nat) : HerdEntry := s.herd.entries.get n

/-- Replaces a Herd entry. -/
def State.setEntry (s : State) (n : Nat) (e : HerdEntry) : State :=
  { s with herd := { s.herd with entries := s.herd.entries.set n e } }

/-- Changes an entry's state; STATE_TIDE takes the time (R68). -/
def State.toState (s : State) (n : Nat) (st : HState) : State :=
  s.setEntry n { s.entry n with state := st, stateTide := s.now }

/-- An entry in a state other than IDLE, DONE and FAILED. -/
def HerdEntry.live (e : HerdEntry) : Bool := decide (e.state ≠ .idle) && decide (e.state ≠ .done) && decide (e.state ≠ .failed)

/-- Slots of the table (R68). -/
def State.herdSize (s : State) : Nat := if s.fnMode 0 = .firmware then 65536 else 4096

/-- The entry may be given to a new sequence: it is IDLE, the step in which it last had work has closed (R71), and no page
is left to its earlier sequence (R62). -/
def State.slotFree (s : State) (n : Nat) : Bool :=
  decide ((s.entry n).state = .idle) && (s.ownedPages n).isEmpty
    && (match s.herd.step with
        | none => true
        | some st => decide ((s.entry n).busyStep ≠ st.number))

/-- The lowest-numbered free slot (log entry 15); none when no slot is IDLE (R72). -/
def State.idleSlot (s : State) : Option Nat := firstNat s.slotFree 0 s.herdSize

/-- The live entry of a request. -/
def State.herdOf (s : State) (req : U64) : Option Nat :=
  (s.herd.entries.find? fun (_, e) => decide (e.state ≠ .idle) && e.requestId == req).map Prod.fst

/-- An event that R70 does not list for the entry's state is counted (R70). -/
def State.unlisted (s : State) : State := s.bump Reg.HERD_STEP_STATUS 16 16 1

/-- The entry returns to IDLE; its root block is free again. STATE_TIDE takes the time, and STEP_SERIAL still names the last
step in which the slot had work (R68). -/
def State.toIdle (s : State) (n : Nat) : State :=
  let e := s.entry n
  (s.dropRoot e.pageRoot).setEntry n { busyStep := e.busyStep, stepSerial := e.stepSerial, stateTide := s.now }

/-- Tells the anchor of an entry that it has released the request's state (R236), with the entry's STATUS. -/
def State.tellAnchor (s : State) (n : Nat) : State :=
  let e := s.entry n
  s.send { kind := mRELEASED, status := e.status, dst := e.anchorDev, requestId := e.requestId }

/-! ### Settling -/

/-- An entry whose last page is released goes on: HANDOFF_COMMITTED to IDLE, DRAINING to DONE with its report to the anchor
(R70). -/
def State.settleEntry (s : State) (n : Nat) : State :=
  match (s.entry n).state, (s.ownedPages n).isEmpty with
  | .handoffCommitted, true => s.toIdle n
  | .draining, true => (s.toState n .done).tellAnchor n
  | _, _ => s

/-- Settles every entry that waits for its pages. -/
def State.settleEntries (s : State) : State :=
  (s.herd.entries.keysWhere fun _ e => decide (e.state = .handoffCommitted) || decide (e.state = .draining)).foldl
    State.settleEntry s

/-- Releases pages, and settles the entries that this frees. -/
def State.letGo (s : State) (ps : List Nat) : State := (s.releasePages ps).settleEntries

/-- A completion slot whose outcome is decided falls FREE: the releases it held up take effect (R62), and the next item
that waits for a slot takes it (R566). -/
def State.endSlot (s : State) (n : Nat) : State := (((s.unclaim n).settlePages).settleEntries).serveWait

/-! ### Transfers -/

/-- An end of a transfer. -/
def State.transfer (s : State) (id : Nat) : Transfer := s.handoff.transfers.get id

/-- Replaces an end of a transfer. -/
def State.setTransfer (s : State) (id : Nat) (t : Transfer) : State :=
  { s with handoff := { s.handoff with transfers := s.handoff.transfers.set id t } }

/-- Open transfers of a Herd slot. -/
def State.transfersOf (s : State) (n : Nat) : List Nat :=
  s.handoff.transfers.keysWhere fun _ t => decide (t.phase ≠ .closed) && decide (t.slot = n)

/-- The open transfer of a slot in which this device is the holder. -/
def State.holding (s : State) (n : Nat) : Option Nat :=
  (s.handoff.transfers.find? fun (_, t) => decide (t.phase ≠ .closed) && t.holder && decide (t.slot = n)).map Prod.fst

/-- PEER_DEV and HANDOFF_ID of an entry name the transfer that is open for it, and no peer and 0 when none is (R68). -/
def State.syncPeer (s : State) (n : Nat) : State :=
  let e := s.entry n
  if e.state = .idle then s
  else match (s.transfersOf n).head? with
    | some id => s.setEntry n { e with peerDev := some (s.transfer id).peer, handoffId := (s.transfer id).id }
    | none => s.setEntry n { e with peerDev := none, handoffId := 0 }

/-- Frees the slot at which a holder awaits COMMIT, and forgets one that has not yet been taken (R243, R566). -/
def State.dropCommitSlot (s : State) (id : Nat) : State :=
  let t := s.transfer id
  let s := { s with ibex := { s.ibex with slotWait := s.ibex.slotWait.filter fun x =>
      !((decide (x.awaits = .commit) || decide (x.awaits = .decision)) && decide (x.handoffId.toNat = id)) } }
  match t.commitSlot with
  | some n => if t.holder then s.endSlot n else s
  | none => s

/-- Pages that the receiving end has pre-allocated. -/
def Transfer.grantPages (t : Transfer) : List Nat := t.grants.flatMap Grant.pages

/-- Closes an end of a transfer without a commit: a receiver's pages are freed under R62, and the abort is counted (R61,
R245, R266). -/
def State.closeTransfer (s : State) (id : Nat) : State :=
  let t := s.transfer id
  if t.phase = .closed then s
  else
    let s := s.dropCommitSlot id
    let s := (s.setTransfer id {}).syncPeer t.slot
    let s := s.bump Reg.HANDOFF_ABORTS (if t.holder then 0 else 16) 16 1
    if t.holder then s else s.letGo t.grantPages

/-- Sends ABORT (R236). -/
def State.sendAbort (s : State) (dst : U16) (t : Transfer) (cause : Byte) : State :=
  s.send { kind := mABORT, status := cause, dst := dst, requestId := t.requestId, handoffId := t.id }

/-- Aborts an open transfer: its peer is told, and it closes here. -/
def State.abortTransfer (s : State) (cause : Byte) (id : Nat) : State :=
  let t := s.transfer id
  if t.phase = .closed then s else (s.sendAbort t.peer t cause).closeTransfer id

/-- Ends an open transfer on an end order (R27, R244, R245): a holder tells its receiver, a receiver only closes. -/
def State.endTransfer (s : State) (cause : Byte) (id : Nat) : State :=
  if (s.transfer id).holder then s.abortTransfer cause id else s.closeTransfer id

/-- Aborts every open transfer of an entry. -/
def State.abortAll (s : State) (n : Nat) (cause : Byte) : State := (s.transfersOf n).foldl (fun s i => s.abortTransfer cause i) s

/-! ### Failures and end orders (R70) -/

/-- An entry fails with a status, for a cause whose record is written elsewhere (R70): its transfers are aborted, its pages
are released under R62 and the anchor is told. -/
def State.failQuiet (s : State) (n : Nat) (st : Byte) : State :=
  if (s.entry n).live then
    let s := s.abortAll n st
    let s := s.setEntry n { s.entry n with state := .failed, status := st, stateTide := s.now, specTree := none }
    (s.tellAnchor n).letGo (s.ownedPages n)
  else s.unlisted

/-- A local failure: ENTRY_FAILED is written, and the entry fails (R41, R70). `detail` is the position or page. -/
def State.failEntry (s : State) (n : Nat) (st : Byte) (detail : Nat) : State :=
  let e := s.entry n
  if e.live then
    (s.raise { severity := .contained, block := 0x002, cause := 0x0003, status := st, requestId := e.requestId, detail0 := BitVec.ofNat 64 detail, tenant := some e.tenant, unit := BitVec.ofNat 16 n }).failQuiet n st
  else s.unlisted

/-- The owner of a page that has entered QUARANTINED is told, and fails (R61, R70): with POISON for uncorrectable data,
CHECK_FAIL for a tag mismatch. -/
def State.tellOwner (s : State) (p : Nat) : State :=
  match (s.page p).owner with
  | some n => if (s.entry n).live then s.failEntry n (if (s.page p).qcause = 2 then stCHECK_FAIL else stPOISON) p else s
  | none => s

/-- An uncorrectable error, with what follows for the page's owner (R198, R61). -/
def State.uncorrectableAt (s : State) (a bank row : Nat) : State :=
  let s := s.uncorrectable a bank row
  match s.pageOf a with
  | some p => s.tellOwner p
  | none => s

/-- A tag mismatch at rest quarantines the page with QCAUSE 2, and its owner is told (R61, R221, R227). -/
def State.tagMismatch (s : State) (p : Nat) : State := (s.quarantine p 2).tellOwner p

/-- An end order (R70): on a PROMPT device the entry goes to IDLE, on any other to DRAINING. -/
def State.endOrder (s : State) (n : Nat) (st : Byte) : State :=
  if (s.entry n).live then
    let s := (s.transfersOf n).foldl (fun s i => s.endTransfer st i) s
    if s.role = .prompt then (s.letGo (s.ownedPages n)).toIdle n
    else
      let s := s.setEntry n { s.entry n with state := .draining, endOrdered := true, status := st, stateTide := s.now, specTree := none }
      ((s.letGo (s.ownedPages n)).settleEntry n)
  else s.unlisted

/-! ### Dependence on peers (R83, R404) -/

/-- Devices a sequence depends on: the holders of its lower ranges, and the receiver of its prompt (R83). -/
def State.dependsOn (s : State) (e : HerdEntry) : List U16 :=
  e.lowerPeers ++ (match e.state, e.peerDev with
    | .admitted, some d | .prefilling, some d => if d = s.devId then [] else [d]
    | _, _ => [])

/-- A running recovery holds the entry back: step 1 of R404. -/
def State.recoveryHolds (s : State) (n : Nat) : Bool :=
  let r := s.fault.recovery
  decide (r.step ≠ 0) && match r.cause.kind with
    | .peerLost | .map => (s.dependsOn (s.entry n)).any fun d => r.cause.targets.contains d.toNat
    | .entry => r.cause.entries.any fun x => decide (x.1 = n)
    | .pool => false

/-! ### Recoveries (R402-R405) -/

/-- A recovery begins: the epoch rises by one, and step 1 is next (R405). -/
def State.startRecovery (s : State) (c : RecoveryCause) : State :=
  let s := s.wr Reg.FAULT_RECOVERY_EPOCH (s.rd Reg.FAULT_RECOVERY_EPOCH + 1)
  let r := { s.fault.recovery with step := 1, cause := c, lastKind := c.kind.code, doneStep := 0 }
  { s with fault := { s.fault with recovery := r } }

/-- Joins the targets of two causes (R405). -/
def RecoveryCause.join (a b : RecoveryCause) : RecoveryCause :=
  { kind := if a.kind = b.kind then a.kind else .map
    targets := a.targets ++ b.targets.filter fun x => !a.targets.contains x
    entries := a.entries ++ b.entries }

/-- Restarts counted in the last second. -/
def State.recentRestarts (s : State) : List Nat := s.fault.recovery.restarts.filter fun t => decide (s.now < t + 1000000000)

/-- A new cause joins a running recovery, which restarts; beyond FAULT_RECOVERY_MAX restarts in a second the device is in
FATAL (R405). -/
def State.restartRecovery (s : State) (c : RecoveryCause) : State :=
  let old := s.rd Reg.FAULT_RECOVERY_EPOCH
  let j := s.fault.recovery.cause.join c
  let times := s.now :: s.recentRestarts
  let s := s.startRecovery j
  let s := { s with fault := { s.fault with recovery := { s.fault.recovery with restarts := times } } }
  let s := s.raise { severity := .corrected, block := 0x018, cause := 0x004C, unit := BitVec.ofNat 16 j.kind.code, detail0 := old.zeroExtend 64, detail1 := (s.rd Reg.FAULT_RECOVERY_EPOCH).zeroExtend 64 }
  if s.rdN Reg.FAULT_RECOVERY_MAX < times.length then
    s.fatal { severity := .fatal, block := 0x018, cause := 0x004D, unit := BitVec.ofNat 16 j.kind.code, detail0 := BitVec.ofNat 64 times.length }
  else s

/-- A kind that joins MAP and PEER_LOST recoveries (R405). -/
def RecoveryKind.joins (k : RecoveryKind) : Bool :=
  match k with
  | .peerLost | .map => true
  | .entry | .pool => false

/-- In HOST_ASSIST mode each cause of R403 is posted as an awaited decision (R406); its item is the kind. -/
def State.postCause (s : State) (c : RecoveryCause) : State :=
  if s.fnMode 8 = .hostAssist then s.askHost 8 { item := c.kind.code } else s

/-- A cause of R403 arises (R405): it starts a recovery, joins the one that runs, or waits: while another kind runs, and
while the control-plane pause holds recoveries (R498). -/
def State.causeRecovery (s : State) (c : RecoveryCause) : State :=
  let r := s.fault.recovery
  let s := s.postCause c
  if s.fault.fatal then s
  else if s.paused then { s with fault := { s.fault with recovery := { r with queued := r.queued ++ [c] } } }
  else if r.step = 0 then s.startRecovery c
  else if (r.cause.kind.joins && c.kind.joins) || decide (r.cause.kind = c.kind) then s.restartRecovery c
  else { s with fault := { s.fault with recovery := { r with queued := r.queued ++ [c] } } }

/-- A transfer to the peer completed TARGET_DEAD: the peer is failed, and a PEER_LOST recovery begins (R248, R403). -/
def State.peerDead (s : State) (d : U16) : State :=
  if s.isFailed d then s
  else
    ({ s with handoff := { s.handoff with failed := s.handoff.failed.set d.toNat true } }).causeRecovery
      { kind := .peerLost, targets := [d.toNat] }

end Sys2Proof.Machine
end

