-- ==== Sys2Proof/Machine/Anchor.lean ====
section
/-! DEFINITION. The anchor (chapters 01 and 09): admission (R23, R24), the messages it sends and takes (R233, R246, R249,
R250, R255-R262, R565), and the host and time events that end a request (R25). -/

namespace Sys2Proof.Machine

/-! ### Identifiers and admission messages -/

/-- The device's next handoff ID (R232): this device in [31:16], its counter, never 0, in [15:0]. -/
def State.newHandoff (s : State) : U32 × State :=
  let c := s.handoff.counter % 65535 + 1
  (BitVec.ofNat 32 (s.devId.toNat * 65536 + c), { s with handoff := { s.handoff with counter := c } })

/-- The record header as a message carries it (R36): the token array stays behind. -/
def Record.header (r : Record) : Record := { r with tokens := [], held := [], ahead := [] }

/-- A message about record `i` to a device; its body's header names the anchor and the record (R36). -/
def State.aboutRecord (s : State) (i : Nat) (kind : Nat) (dst : U16) : Msg :=
  let r := s.recordAt i
  { kind := kind, dst := dst, requestId := r.requestId, header := some r.header, anchor := s.devId, index := i }

/-- P′ of an admission (R232, R262). -/
def Record.prefillTo (r : Record) (reprefill : Bool) : Nat := if reprefill then r.tokens.length else r.promptLen

/-- Sends ADMIT to the sender of PENDING, with the first token IDs (R565). -/
def State.sendAdmit (s : State) (i : Nat) : State :=
  let r := s.recordAt i
  match r.pending with
  | none => s
  | some p =>
    let n := r.prefillTo p.reprefill
    let t := min n 262064
    let s := { s with handoff := { s.handoff with
        prompts := s.handoff.prompts.set i { active := true, device := p.sender, total := n, next := t } } }
    s.sendAwait { s.aboutRecord i mADMIT p.sender with
      flags := if p.reprefill then 1 else 0, handoffId := p.id, tokens := r.tokens.take t
      arg0 := BitVec.ofNat 64 (p.receiver.toNat + n * 65536) }

/-- Devices that can prefill, or generate, for a record, in order of their IDs (R23, R246): they serve the model. -/
def State.candidates (s : State) (r : Record) (f : Role → Bool) : List U16 := s.servingModel f r.model

/-- Chooses the PROMPT and GENERATE devices of a request, passing over `avoid` (R24). -/
def State.choosePair (s : State) (r : Record) (avoid : List U16) : Option (U16 × U16) :=
  match s.choose (s.candidates r Role.prefills) avoid r.requestId.toNat,
        s.choose (s.candidates r Role.generates) avoid r.requestId.toNat with
  | some p, some g => some (p, g)
  | _, _ => none

/-- Sets PENDING to a new handoff and sends its ADMIT (R233). -/
def State.startHandoff (s : State) (i : Nat) (p g : U16) (x : PendingHandoff) : State :=
  let (id, s) := s.newHandoff
  let s := s.setRecord i { s.recordAt i with
    pending := some { x with sender := p, receiver := g, id := id, start := s.now, kind := 1, epoch := s.handoff.epoch } }
  s.sendAdmit i

/-! ### Lost ranges and recoveries (R249, R257-R262) -/

/-- The status with which a request ends beyond a limit of R249: that of the last failure, or TARGET_DEAD. -/
def lastFailure (st : Byte) : Byte := if st.toNat < 0x10 then stTARGET_DEAD else st

/-- Re-admits a request to a PROMPT device (R262): its recoveries are limited by R249, and with no candidate it ends. -/
def State.reprefill (s : State) (i : Nat) (st : Byte) (avoid : List U16) : State :=
  let r := s.recordAt i
  if s.rdN Reg.HANDOFF_RETRY_MAX ≤ r.recoveries then s.endRequest i (lastFailure st)
  else match s.choosePair r avoid with
  | none => s.endRequest i (lastFailure st)
  | some (p, g) =>
    let s := s.setRecord i { r with recoveries := r.recoveries + 1, restoreTo := none }
    (s.bump Reg.HANDOFF_RECOVERY 0 16 1).startHandoff i p g { reprefill := true, tried := avoid }

/-- Asks a new GENERATE device to restore from the replica (R261). -/
def State.replicaRestore (s : State) (i : Nat) (st : Byte) (x : ReplicaEntry) (avoid : List U16) : State :=
  let r := s.recordAt i
  if s.rdN Reg.HANDOFF_RETRY_MAX ≤ r.recoveries then s.endRequest i (lastFailure st)
  else match s.choose (s.candidates r Role.generates) avoid r.requestId.toNat with
  | none => s.endRequest i (lastFailure st)
  | some d =>
    let s := s.setRecord i { r with recoveries := r.recoveries + 1, restoreTo := some (d, x.device), pending := none }
    let s := s.bump Reg.HANDOFF_RECOVERY 16 16 1
    s.sendAwait { s.aboutRecord i mRESTORE_REQ d with arg0 := BitVec.ofNat 64 (x.device.toNat + 2 ^ 32 * x.covered) }

/-- L of R257: P plus the generated tokens held, minus 1. -/
def Record.heldTo (r : Record) : Nat := r.tokens.length - 1

/-- A replica that R257 admits for a restore. -/
def State.usableReplica (s : State) (r : Record) (gone : List U16) : Option ReplicaEntry :=
  r.replicas.find? fun x => x.complete && !gone.contains x.device && !s.isFailed x.device
    && decide (r.heldTo - x.covered ≤ s.rdN Reg.HANDOFF_CATCHUP_MAX)

/-- Tells the surviving holders of a failed state END (R259), the replica holder of R261 apart; a device whose entry passes
through DRAINING will answer RELEASED. -/
def State.endSurvivors (s : State) (i : Nat) (gone : List U16) (keep : Option U16) (st : Byte) : State :=
  let r := s.recordAt i
  let ds := r.holders.filter fun d => !gone.contains d && !decide (some d = keep)
  let s := ds.foldl (fun s d => s.sendEnd r d (lastFailure st)) s
  s.setRecord i { s.recordAt i with
    freeing := r.freeing ++ ds.filter fun d => (s.peerMap d).role != .prompt
    replicas := r.replicas.filter fun x => decide (some x.device = keep)
    replicaWant := none, pending := none }

/-- A range of a request is lost with the devices `gone` (R250, R257): a restore from a replica when the upper range is
lost and R257 admits it, else a re-prefill. -/
def State.rangeLost (s : State) (i : Nat) (gone avoid : List U16) (st : Byte) : State :=
  let r := s.recordAt i
  let upper := match r.owners.getLast? with
    | some o => gone.contains o.device
    | none => false
  match (if upper then s.usableReplica r gone else none) with
  | some x => (s.endSurvivors i gone (some x.device) st).replicaRestore i st x avoid
  | none => (s.endSurvivors i gone none st).reprefill i st avoid

/-! ### Commits (R39, R246) -/

/-- Asks the owner to open a replica, when one is requested and none is valid or under way (R255, R256). -/
def State.askReplica (s : State) (i : Nat) : State :=
  let r := s.recordAt i
  match r.owners.getLast?, r.replicaRequested && r.replicas.isEmpty && r.replicaWant.isNone && decide (r.state = .active) with
  | some o, true =>
    match s.choose (s.serving (· == .cache) r.model r.partition.val) [o.device] r.requestId.toNat with
    | none => s
    | some c =>
      (s.setRecord i { r with replicaWant := some c }).sendAwait
        { kind := mREPLICA_REQ, dst := o.device, requestId := r.requestId, arg0 := c.zeroExtend 64 }
  | _, _ => s

/-- The owner entry of a device for a range (R36). -/
def State.ownerEntry (s : State) (d : U16) (start : Nat) (epoch : U32) (slot : Nat) : OwnerEntry :=
  { device := d, role := (s.peerMap d).role, start := start, epoch := epoch, slot := slot }

/-- Owners after an offload commits (R246, R38): the sender's START becomes D, and the receiver owns the offloaded range,
extending its own highest lower range when it has one. -/
def State.ownersOffload (s : State) (os : List OwnerEntry) (p : PendingHandoff) (recv : U16) (slot d : Nat) : List OwnerEntry :=
  let low := os.dropLast
  let extends_ := match low.getLast? with
    | some o => o.device == recv
    | none => false
  match os.getLast? with
  | none => os
  | some up => (if extends_ then low else low ++ [s.ownerEntry recv up.start p.epoch slot]) ++ [{ up with start := d }]

/-- Owners after a restore commits (R254): the holder's entry goes, and the receiver's START is the restored range's. -/
def ownersRestore (os : List OwnerEntry) (p : PendingHandoff) : List OwnerEntry :=
  (os.filter fun o => !(o.device == p.sender && decide (o.start = p.rangeStart))).map fun o =>
    if o.device = p.receiver then { o with start := p.rangeStart } else o

/-- The owner entries that a matching COMMIT writes (R246). -/
def State.committedOwners (s : State) (r : Record) (p : PendingHandoff) (src : U16) (uncf : Bool) (slot d : Nat) : List OwnerEntry :=
  match p.kind with
  | 2 => s.ownersOffload r.owners p (if uncf then src else p.receiver) slot d
  | 4 => if p.recovery then [s.ownerEntry p.receiver 0 p.epoch slot] else ownersRestore r.owners p
  | _ => [s.ownerEntry p.receiver 0 p.epoch slot]

/-- The device that samples a request's next token: its last owner, or while its prompt is prefilled the PROMPT device (R15,
R17). -/
def Record.sampler (r : Record) : Option U16 :=
  match r.pending, r.owners.getLast? with
  | some p, o => if p.kind = 1 then some p.sender else o.map OwnerEntry.device
  | none, o => o.map OwnerEntry.device

/-- The anchor sends the sampling state of a request to the device that samples it, for its next step's work (R20 duty 2); its
own steps read the record itself. The spec names no message for it (log entry 66). -/
def State.sendSupply (s : State) (i : Nat) : State :=
  let r := s.recordAt i
  match r.sampler, decide (r.state = .active) with
  | some d, true =>
    if d = s.devId then s
    else
      let x : SupplyOut := { device := d, requestId := r.requestId, seed := r.sampling.seed, sampled := r.sampling.sampled, total := r.tokens.length, recent := (r.tokens.reverse).take 256 }
      { s with anchor := { s.anchor with supplyOut := x :: s.anchor.supplyOut } }
  | _, _ => s

/-- Commits PENDING: owners are written, PENDING is cleared, and a replica is asked for; after a handoff the old replica holder
is told END (R39, R246, R256). -/
def State.commitPending (s : State) (i : Nat) (p : PendingHandoff) (src : U16) (uncf : Bool) (slot d : Nat) : State :=
  let r := s.recordAt i
  let os := s.committedOwners r p src uncf slot d
  let taken := if uncf then src else p.receiver
  let reps := match p.kind with
    | 2 => r.replicas.filter fun x => x.device != taken
    | 1 => []
    | _ => r.replicas
  let s := if p.kind = 1 then r.replicas.foldl (fun s x => if x.device = taken then s else s.sendEnd r x.device stOK) s else s
  let s := s.setRecord i { s.recordAt i with
    owners := os, replicas := reps, pending := none, restoreTo := none
    replicaWant := if p.kind = 1 then none else r.replicaWant, committed := p.id :: r.committed }
  (s.askReplica i).sendSupply i

/-- The local commit of a sequence that is its own receiver (R17, R39): it sends the anchor no handoff message, so the anchor
records the owner when the first token sampled at the commit arrives (DEDUCED, log entry 21). The slot field is a free
value. -/
def State.localCommit (s : State) (i : Nat) : State :=
  let r := s.recordAt i
  match r.pending with
  | some p =>
    if r.state = .active ∧ p.kind = 1 ∧ p.sender = p.receiver then
      s.drawn.commitPending i { p with selfOwned := true } p.sender false (s.freeNow.toNat % 2 ^ 32) 0
    else s
  | none => s

/-- A generated token reaches the anchor (R20, R21): what `State.deliver` does, the local commit that a first token shows, and
the sampling state that the next step's work needs. -/
def State.tokenIn (s : State) (i k : Nat) (token : U32) : State :=
  let t := s.deliver i k token
  if (s.recordAt i).generated < (t.recordAt i).generated then (t.localCommit i).sendSupply i else t

/-- A COMMIT reaches the anchor (R246): the first that matches PENDING commits, a later one for the same transfer is
answered OK, and any other LATE. -/
def State.anchorCommit (s : State) (m : Msg) : State :=
  match s.findRequest m.requestId with
  | none => (s.reply m stLATE).count Reg.HANDOFF_LATE 1
  | some i =>
    let r := s.recordAt i
    let match_ := match r.pending with
      | some p => decide (r.state = .active) && p.id == m.handoffId && (m.src == p.sender || m.src == p.receiver || (p.kind == 2 && m.flags.getLsbD 0))
      | none => false
    match r.pending, match_ with
    | some p, true => (s.commitPending i { p with receiver := m.receiver.getD p.receiver } m.src (m.flags.getLsbD 0 && p.kind == 2) (fieldOf m.arg1 31 0) (fieldOf m.arg0 63 32)).reply m stOK
    | _, _ =>
      if r.committed.contains m.handoffId then s.reply m stOK
      else (s.reply m stLATE).count Reg.HANDOFF_LATE 1

/-! ### REDIRECT, ABORT, REGISTER, RELEASED, COVERED (R233, R246, R250, R255) -/

/-- Gives a redirected transfer its new receiver and handoff ID, and answers with both (R246). -/
def State.redirectTo (s : State) (i : Nat) (p : PendingHandoff) (m : Msg) (d : U16) : State :=
  let (id, s) := s.newHandoff
  let s := s.setRecord i { s.recordAt i with
    pending := some { p with receiver := d, id := id, start := s.now, redirects := p.redirects + 1, tried := p.receiver :: p.tried, epoch := s.handoff.epoch } }
  s.reply m stOK (BitVec.ofNat 64 (d.toNat + 2 ^ 32 * id.toNat))

/-- A REDIRECT reaches the anchor (R246, R247, R249). The sender of the handoff is no candidate. -/
def State.anchorRedirect (s : State) (m : Msg) : State :=
  match s.findRequest m.requestId with
  | none => s.reply m stLATE
  | some i =>
    let r := s.recordAt i
    match r.pending with
    | some p =>
      if r.state = .active ∧ p.kind = 1 ∧ p.id = m.handoffId ∧ p.sender = m.src then
        if s.rdN Reg.HANDOFF_RETRY_MAX ≤ p.redirects then (s.endRequest i (lastFailure m.status)).reply m stLATE
        else if s.fnMode 2 = .hostAssist then
          s.askHost 2 { msg := some m, msgKind := mREDIRECT, requestId := m.requestId, handoffId := m.handoffId, item := i }
        else match s.choose ((s.candidates r Role.generates).filter (· != p.sender)) (p.receiver :: p.tried) r.requestId.toNat with
        | none => s.reply m stNOT_READY
        | some d => s.redirectTo i p m d
      else s.reply m stLATE
    | none => s.reply m stLATE

/-- An ABORT reaches the anchor (R244, R246, R248): POISON loses the holder's range, an offload's clears PENDING, and a
restore that failed is followed by R262. -/
def State.anchorAbort (s : State) (m : Msg) : State :=
  match s.findRequest m.requestId with
  | none => s.reply m stLATE
  | some i =>
    let r := s.recordAt i
    match r.pending with
    | some p =>
      if r.state = .active ∧ p.id = m.handoffId then
        if m.status = stPOISON ∧ m.src = p.sender then (s.reply m stOK).rangeLost i [p.sender] [p.sender] stPOISON
        else if p.kind = 2 ∧ m.src = p.sender then (s.setRecord i { r with pending := none }).reply m stOK
        else if p.kind = 4 ∧ m.src = p.receiver then
          (s.reply m stOK).rangeLost i (if p.recovery then [p.sender, p.receiver] else [p.sender]) [] m.status
        else s.reply m stLATE
      else s.reply m stLATE
    | none => s.reply m stLATE

/-- The receiver of an offload that a REGISTER announces (R18): the device it names, else the one that R251 steps 3 and 4 name
(log entry 17). -/
def State.offloadTarget (s : State) (r : Record) (named : Option U16) : U16 :=
  match named with
  | some d => d
  | none =>
  match r.owners.dropLast.getLast? with
  | some o => o.device
  | none =>
    match r.replicas.head? with
    | some x => x.device
    | none =>
      let cs := s.serving (· == .cache) r.model r.partition.val
      (cs[r.requestId.toNat % cs.length]?).getD 0xFFFF

/-- A REGISTER reaches the anchor (R233): refused NOT_READY while PENDING is set. -/
def State.anchorRegister (s : State) (m : Msg) : State :=
  match s.findRequest m.requestId with
  | none => s.reply m stSTALE_MAP
  | some i =>
    let r := s.recordAt i
    let kind := fieldOf m.arg0 7 0
    let a := fieldOf m.arg1 31 0
    let b := fieldOf m.arg1 63 32
    if r.state ≠ .active then s.reply m stLATE
    else if r.pending.isSome then s.reply m stNOT_READY
    else if m.handoffId = 0 then s.reply m stMALFORMED
    else
      let x : PendingHandoff := { id := m.handoffId, start := s.now, kind := kind, rangeStart := a, rangeEnd := b, epoch := s.handoff.epoch }
      let set (p : PendingHandoff) : State := (s.setRecord i { r with pending := some p }).reply m stOK
      if kind = 2 then
        if (r.owners.getLast?.map OwnerEntry.device) = some m.src then set { x with sender := m.src, receiver := s.offloadTarget r m.receiver }
        else s.reply m stSTALE_MAP
      else if kind = 4 then match r.restoreTo with
        | some (d, h) => if d = m.src then set { x with sender := h, receiver := d, recovery := true } else s.reply m stSTALE_MAP
        | none => match r.owners.dropLast.find? fun o => decide (o.start = a) with
          | some o =>
            if (r.owners.getLast?.map OwnerEntry.device) = some m.src then set { x with sender := o.device, receiver := m.src }
            else s.reply m stSTALE_MAP
          | none => s.reply m stSTALE_MAP
      else s.reply m stMALFORMED

/-- A device owns a range of the request, or holds its prompt, or restores it: its state is the request's own. -/
def Record.owned (r : Record) (d : U16) : Bool :=
  r.owners.any (fun o => o.device == d)
    || (match r.pending with | some p => (p.kind == 1 && p.sender == d) || (p.recovery && p.receiver == d) | none => false)
    || (match r.restoreTo with | some x => x.1 == d | none => false)

/-- A RELEASED reaches the anchor (R41, R250, R388): LEN_LIMIT, FENCED and other failures end the request; with NO_PAGES,
POISON or CHECK_FAIL the device's range is lost. The answer to an END of a recovery, and OK, change nothing. -/
def State.anchorReleased (s : State) (m : Msg) : State :=
  match s.findRequest m.requestId with
  | none => s
  | some i =>
    let r := s.recordAt i
    if r.state ≠ .active then s
    else if r.freeing.contains m.src then s.setRecord i { r with freeing := r.freeing.erase m.src }
    else if m.status.toNat < 0x10 || !r.owned m.src then s
    else if m.status = stNO_PAGES ∨ m.status = stPOISON ∨ m.status = stCHECK_FAIL then s.rangeLost i [m.src] [m.src] m.status
    else s.endRequest i m.status

/-- A COVERED reaches the anchor (R255): the replica entry is valid and complete, and holds what is covered. -/
def State.anchorCovered (s : State) (m : Msg) : State :=
  match s.findRequest m.requestId with
  | none => s.reply m stLATE
  | some i =>
    let r := s.recordAt i
    let c := fieldOf m.arg0 31 0
    if r.state = .active ∧ (r.owners.getLast?.map OwnerEntry.device) = some m.src then
      let reps := match r.replicaWant with
        | some d => [{ device := d, complete := true, covered := c, epoch := s.handoff.epoch }]
        | none => r.replicas.map fun x => { x with covered := c }
      (s.setRecord i { r with replicas := reps, replicaWant := none }).reply m stOK
    else s.reply m stLATE

/-! ### What follows the REPLY to a message of the anchor -/

/-- The request of a reply's slot is still the one that PENDING names. -/
def State.pendingIs (s : State) (i : Nat) (id : U32) : Option PendingHandoff :=
  match (s.recordAt i).pending with
  | some p => if p.id = id ∧ (s.recordAt i).state = .active then some p else none
  | none => none

/-- Sends the next PROMPT_TOKENS of an ADMIT, or, once its tokens are all there, the sampling state of the prompt's last step
(R20, R565). -/
def State.promptGoesOn (s : State) (i : Nat) (p : PendingHandoff) : State :=
  let q := s.handoff.prompts.get i
  let r := s.recordAt i
  if q.next < q.total then
    let n := min 262128 (q.total - q.next)
    let s := { s with handoff := { s.handoff with prompts := s.handoff.prompts.set i { q with next := q.next + n } } }
    s.sendAwait { kind := mPROMPT_TOKENS, dst := q.device, requestId := r.requestId, handoffId := p.id
                  arg0 := BitVec.ofNat 64 q.next, tokens := (r.tokens.drop q.next).take n }
  else
    ({ s with handoff := { s.handoff with prompts := s.handoff.prompts.set i {} } }).sendSupply i

/-- A refused ADMIT goes to another device of the pool map (R72, R237, R249). -/
def State.admitElsewhere (s : State) (i : Nat) (p : PendingHandoff) (st : Byte) : State :=
  let r := s.recordAt i
  let tried := p.sender :: p.tried
  if s.rdN Reg.HANDOFF_RETRY_MAX ≤ p.redirects then s.endRequest i (lastFailure st)
  else match s.choose (s.candidates r Role.prefills) tried r.requestId.toNat,
             s.choose (s.candidates r Role.generates) (if p.sender = p.receiver then tried else []) r.requestId.toNat with
  | some d, some g => s.startHandoff i d (if p.sender = p.receiver then g else p.receiver) { p with redirects := p.redirects + 1, tried := tried }
  | _, _ => s.endRequest i (lastFailure st)

/-- The outcome of an ADMIT or PROMPT_TOKENS (R565): `refusal` tells a refused ADMIT from one that timed out. -/
def State.admitAnswered (s : State) (x : Slot) (st : Byte) (refusal : Bool) : State :=
  match s.findRequest x.requestId with
  | none => s
  | some i =>
    match s.pendingIs i x.handoffId with
    | none => s
    | some p =>
      if st.toNat < 0x10 then s.promptGoesOn i p
      else if x.msgKind = mADMIT ∧ refusal = true then s.admitElsewhere i p st
      else (s.sendEnd (s.recordAt i) p.sender (lastFailure st)).reprefill i st (p.sender :: p.tried)

/-- A RESTORE_REQ was refused or went unanswered: the recovery is tried again (R260). -/
def State.restoreAnswered (s : State) (x : Slot) (st : Byte) : State :=
  match s.findRequest x.requestId with
  | none => s
  | some i =>
    let r := s.recordAt i
    match r.restoreTo with
    | none => s
    | some (d, _) =>
      if st.toNat < 0x10 ∨ d ≠ x.peer ∨ r.state ≠ .active then s
      else match s.usableReplica r [] with
      | some e => s.replicaRestore i st e [d]
      | none => (s.endSurvivors i [] none st).reprefill i st [d]

/-- A REPLICA_REQ was refused: the anchor may send another later (R248). -/
def State.replicaAnswered (s : State) (x : Slot) (st : Byte) : State :=
  match s.findRequest x.requestId with
  | none => s
  | some i => if st.toNat < 0x10 then s else s.setRecord i { s.recordAt i with replicaWant := none }

/-! ### Commands and events of the anchor -/

/-- The lowest-numbered free record below ANCHOR_MAX (R19, R36; log entry 15). -/
def State.freeRecord (s : State) : Option Nat :=
  match s.struct.loaded with
  | none => none
  | some b => s.anchor.records.first (fun r => decide (r.state = .free)) (min b.anchorMax 65536)

/-- Token arrays in use, as (address, bytes), within the anchor region. -/
def State.tokenArrays (s : State) : List (Nat × Nat) :=
  s.anchor.records.filterMap fun (_, r) => if r.state = .free then none else some (r.tokenAddr.toNat, 4 * (r.promptLen + r.maxNew))

/-- The lowest address of the rest of the anchor region at which `n` bytes are free (R36, R37; log entry 15). -/
def State.tokenSpace (s : State) (n : Nat) : Option Nat :=
  match s.regionOfKind 7, s.struct.loaded with
  | some g, some b =>
    let base := g.start + 256 * b.anchorMax
    let used := s.tokenArrays
    ((base :: used.map fun u => u.1 + u.2).filter fun a =>
        decide (base ≤ a) && decide (a + n ≤ g.start + g.size) && used.all fun u => !meets a n u.1 u.2).foldl
      (fun (b : Option Nat) a => match b with
        | none => some a
        | some x => some (min x a)) none
  | _, _ => none

/-- TOP_P lies in (0.0, 1.0] (R36): the FP32 bits of a positive number not above 1.0. -/
def topPOk (v : U32) : Bool := decide (0 < v.toNat) && decide (v.toNat ≤ 0x3F800000)

/-- The record header and prompt of an ADMIT are well formed (R23 check 1, R36, R40); BUDGET_ACCOUNT names the tenant
(R367). -/
def admitFormed (h : Record) (formed : Bool) (tokens : List U32) : Bool :=
  formed && decide (1 ≤ h.promptLen) && decide (1 ≤ h.maxNew) && decide (h.sampling.topK.toNat ≤ 1024) && topPOk h.sampling.topP
    && decide (tokens.length = h.promptLen) && decide (h.budgetAccount.toNat % 1024 = h.tenant.toNat)

/-- The submitting function may admit for the header's tenant (R23 check 2, R366, R368). -/
def State.mayAdmit (s : State) (c : HostCmd) (k : Nat) (h : Record) : Bool :=
  let e := s.tenantOf h.tenant.toNat
  s.mayActFor k { c with tenant := h.tenant.zeroExtend 16 } && e.enable && decide (e.partition.val = c.part)

/-- The status of the first check of R23 that an ADMIT fails. -/
def State.admitStatus (s : State) (c : HostCmd) (k : Nat) (h : Record) (formed : Bool) (tokens : List U32) : Option Byte :=
  if !admitFormed h formed tokens then some stMALFORMED
  else if !s.mayAdmit c k h then some stPRIVILEGE
  else if s.isFenced h.tenant.toNat then some stFENCED
  else if 1048576 < h.promptLen + h.maxNew then some stLEN_LIMIT
  else if s.flag Reg.TENANT_CTRL 0 && decide ((s.tenantOf h.tenant.toNat).adm ≤ 0) then some stBUDGET
  else if s.freeRecord.isNone || (s.tokenSpace (4 * (h.promptLen + h.maxNew))).isNone || s.draining then some stNOT_READY
  else if (s.choosePair { h with partition := (s.tenantOf h.tenant.toNat).partition } []).isNone then some stNOT_READY
  else none

/-- The record that an accepted ADMIT writes (R20, R36). -/
def State.admitRecord (s : State) (c : HostCmd) (k : Nat) (h : Record) (tokens : List U32) (addr : Nat) : Record :=
  { state := .active, specAllowed := h.specAllowed, replicaRequested := h.replicaRequested, tenant := h.tenant, model := h.model
    priority := h.priority, adapter := h.adapter, partition := (s.tenantOf h.tenant.toNat).partition, requestId := h.requestId
    admitTide := s.now, deadline := h.deadline, promptLen := h.promptLen, maxNew := h.maxNew, admitEpoch := s.handoff.epoch
    budgetAccount := h.budgetAccount, sampling := { h.sampling with sampled := 0 }, tokenAddr := BitVec.ofNat 64 addr
    tokens := tokens, submitter := BitVec.ofNat 32 k, tag := c.tag }

/-- An ADMIT that passes the checks of R23: the record is written, the budget charged, both devices chosen, and ADMIT sent. -/
def State.admitRun (s : State) (c : HostCmd) (k : Nat) (h : Record) (tokens : List U32) : State :=
  match s.freeRecord, s.tokenSpace (4 * (h.promptLen + h.maxNew)) with
  | some i, some addr =>
    let r := s.admitRecord c k h tokens addr
    match s.choosePair r [] with
    | none => s
    | some (p, g) =>
      let t := h.tenant.toNat
      let s := ((s.setRecord i r).chargeAdm t h.promptLen).tally t fun u => { u with admits := u.admits + 1 }
      (s.obsCount 4 1).startHandoff i p g {}
  | _, _ => s

/-- ADMIT (R23, R24): `hdr` is the record header and `tokens` the prompt that the device reads from the host. -/
def execAdmitCmd (w : WinRef) (hdr : Record) (formed : Bool) (tokens : List U32) (s : State) : Host.Outcome State Fault Refusal :=
  .next (s.hostCmd w 0x01 fun c ref s =>
    match s.admitStatus c w.key hdr formed tokens with
    | some st => s.complete ref st
    | none => (s.admitRun c w.key hdr tokens).complete ref stOK)

/-- CANCEL (R25, R470): the submitter of the request, or PF0, commits cancellation unless an end is committed; a request
that is not live completes LATE (log entry 18). -/
def execCancel (w : WinRef) (s : State) : Host.Outcome State Fault Refusal :=
  .next (s.hostCmd w 0x02 fun c ref s =>
    match s.findRequest c.arg0 with
    | none => s.complete ref stLATE
    | some i =>
      let r := s.recordAt i
      if winFn w.key ≠ 0 ∧ r.submitter.toNat % 256 ≠ w.key % 256 then s.complete ref stPRIVILEGE
      else if r.state ≠ .active then s.complete ref stLATE
      else (s.endRequest i stPARTIAL true).complete ref stOK)

/-- DEADLINE_EXPIRY (R25): the deadline of record `i` has passed. -/
def execDeadlineExpiry (i : Fin 65536) (s : State) : Host.Outcome State Fault Refusal :=
  .next (let r := s.recordAt i.val
    if s.alive && decide (r.state = .active) && decide (r.deadline ≠ 0) then s.endRequest i.val stTIMEOUT else s)

/-- TOKEN_ARRIVAL (R21, R25, R26): generated token `k` of a request, counted from 1, reaches its anchor. -/
def execTokenArrival (request : U64) (k : Nat) (token : U32) (s : State) : Host.Outcome State Fault Refusal :=
  .next (match s.findRequest request with
    | none => { s with anchor := { s.anchor with late := satAdd 32 s.anchor.late 1 } }
    | some i => s.tokenIn i k token)

/-- TOKEN_HOLD_EXPIRY (R474): the tokens held for record `i` are written in a TOKENS record. -/
def execTokenHoldExpiry (i : Fin 65536) (s : State) : Host.Outcome State Fault Refusal :=
  .next (if (s.recordAt i.val).state = .active then s.flushTokens i.val else s)

end Sys2Proof.Machine
end

