-- ==== Sys2Proof/Machine/Formats.lean ====
section
/-! DEFINITION. Numbers in tile formats (R44-R46, R107): exact decoding, rounding to nearest with ties to even, and the packing
and unpacking of tiles. -/

namespace Sys2Proof.Machine

/-- A decoded number: m × 2^e with its sign, an infinity, or a NaN. -/
inductive FNum where
  | num (neg : Bool) (m : Nat) (e : Int)
  | inf (neg : Bool)
  | nan (neg : Bool)
  deriving DecidableEq, Repr, Inhabited

/-- A binary format: exponent and mantissa bits, and whether its top exponent holds infinities and NaNs (R44). -/
structure FloatFmt where
  eb : Nat
  mb : Nat
  ieee : Bool := false
  deriving DecidableEq, Repr, Inhabited

/-- Exponent bias. -/
def FloatFmt.bias (f : FloatFmt) : Nat := 2 ^ (f.eb - 1) - 1

/-- FP32. -/
def fp32 : FloatFmt := { eb := 8, mb := 23, ieee := true }

/-- Element format of a tile format code (R44). -/
def elemFmt (f : Nat) : FloatFmt :=
  match f with
  | 0 => { eb := 8, mb := 7, ieee := true }
  | 1 => { eb := 4, mb := 3 }
  | 2 => { eb := 5, mb := 2, ieee := true }
  | 3 => { eb := 2, mb := 3 }
  | 4 => { eb := 3, mb := 2 }
  | _ => { eb := 2, mb := 1 }

/-- Decodes bits. E4M3's only NaN is all ones. -/
def FloatFmt.decode (f : FloatFmt) (v : Nat) : FNum :=
  let neg := decide (v / 2 ^ (f.eb + f.mb) % 2 = 1)
  let e := v / 2 ^ f.mb % 2 ^ f.eb
  let m := v % 2 ^ f.mb
  if f.ieee = true ∧ e = 2 ^ f.eb - 1 then (if m = 0 then .inf neg else .nan neg)
  else if f.eb = 4 ∧ v % 128 = 127 then .nan neg
  else if e = 0 then .num neg m (1 - (f.bias : Int) - f.mb)
  else .num neg (2 ^ f.mb + m) ((e : Int) - f.bias - f.mb)

/-- m × 2^(−k), to nearest with ties to even (R45). -/
def roundEven (m : Nat) (k : Int) : Nat :=
  if k ≤ 0 then m * 2 ^ (-k).toNat
  else
    let d := 2 ^ k.toNat
    let n := m / d
    let r := m % d
    if d < 2 * r ∨ (2 * r = d ∧ n % 2 = 1) then n + 1 else n

/-- The code of a magnitude, before any limit: codes of greater magnitudes are greater. -/
def FloatFmt.code (f : FloatFmt) (m : Nat) (e : Int) : Nat :=
  if m = 0 then 0
  else
    let least : Int := 1 - (f.bias : Int) - f.mb
    let q := max least ((Nat.log2 m : Int) + e - f.mb)
    ((q - least) * 2 ^ f.mb).toNat + roundEven m (q - e)

/-- Greatest finite code. -/
def FloatFmt.maxCode (f : FloatFmt) : Nat :=
  if f.ieee then (2 ^ f.eb - 1) * 2 ^ f.mb - 1 else if f.eb = 4 then 126 else 2 ^ (f.eb + f.mb) - 1

/-- Sign bit of a format. -/
def FloatFmt.sign (f : FloatFmt) (neg : Bool) : Nat := if neg then 2 ^ (f.eb + f.mb) else 0

/-- The bits of a number in FP32, or BF16, which keep infinities (R45). -/
def FloatFmt.wide (f : FloatFmt) (x : FNum) : Nat :=
  let top := f.maxCode + 1
  match x with
  | .num n m e => f.sign n + min (f.code m e) top
  | .inf n => f.sign n + top
  | .nan n => f.sign n + top + 2 ^ (f.mb - 1)

/-- The bits of a number in a format that saturates (R45), with whether it saturated. -/
def FloatFmt.narrow (f : FloatFmt) (x : FNum) : Nat × Bool :=
  match x with
  | .num n m e => (f.sign n + min (f.code m e) f.maxCode, decide (f.maxCode < f.code m e))
  | .inf n => (f.sign n + f.maxCode, true)
  | .nan n => (f.sign n + 2 ^ (f.eb + f.mb) - 1, false)

/-- The FP32 value nearest to a number. -/
def FNum.toFp32 (x : FNum) : FNum := fp32.decode (fp32.wide x)

/-- Product in FP32. -/
def FNum.mul (a b : FNum) : FNum :=
  match a, b with
  | .num n m e, .num n' m' e' => (FNum.num (n != n') (m * m') (e + e')).toFp32
  | .nan n, _ | _, .nan n => .nan n
  | .inf n, .num n' m _ | .num n' m _, .inf n => if m = 0 then .nan false else .inf (n != n')
  | .inf n, .inf n' => .inf (n != n')

/-- Quotient in FP32: 64 further bits and a sticky bit decide every rounding. -/
def FNum.div (a b : FNum) : FNum :=
  match a, b with
  | .num n m e, .num n' m' e' =>
    if m' = 0 then (if m = 0 then .nan false else .inf (n != n'))
    else (FNum.num (n != n') (2 * (m * 2 ^ 64 / m') + (if m * 2 ^ 64 % m' = 0 then 0 else 1)) (e - e' - 65)).toFp32
  | .nan n, _ | _, .nan n => .nan n
  | .inf n, .num n' _ _ => .inf (n != n')
  | .num n _ _, .inf n' => .num (n != n') 0 0
  | .inf _, .inf _ => .nan false

/-- Sum in FP32. -/
def FNum.add (a b : FNum) : FNum :=
  match a, b with
  | .num n m e, .num n' m' e' =>
    let k := min e e'
    let x : Int := (if n then -1 else 1) * (m * 2 ^ (e - k).toNat : Nat) + (if n' then -1 else 1) * (m' * 2 ^ (e' - k).toNat : Nat)
    if x = 0 then .num (n && n') 0 0 else (FNum.num (decide (x < 0)) x.natAbs k).toFp32
  | .nan n, _ | _, .nan n => .nan n
  | .inf n, .inf n' => if n = n' then .inf n else .nan false
  | .inf n, _ | _, .inf n => .inf n

/-- The number with its sign changed. -/
def FNum.neg : FNum → FNum
  | .num n m e => .num (!n) m e
  | .inf n => .inf (!n)
  | .nan n => .nan n

/-- Magnitude. -/
def FNum.abs : FNum → FNum
  | .num _ m e => .num false m e
  | .inf _ => .inf false
  | .nan n => .nan n

/-- Square root in FP32: 32 further bits and a sticky bit decide every rounding. -/
def FNum.sqrt : FNum → FNum
  | .num n m e =>
    if m = 0 then .num n m e
    else if n then .nan false
    else
      let odd := (e % 2).toNat
      let x := m * 2 ^ (64 + odd)
      let r := Nat.sqrt x
      (FNum.num false (2 * r + (if r * r = x then 0 else 1)) ((e - odd - 64) / 2 - 1)).toFp32
  | .inf n => if n then .nan false else .inf false
  | .nan n => .nan n

/-- The first number is less than the second. -/
def FNum.less (a b : FNum) : Bool :=
  match a, b with
  | .num n m e, .num n' m' e' =>
    let k := min e e'
    decide ((if n then -1 else 1 : Int) * (m * 2 ^ (e - k).toNat : Nat) < (if n' then -1 else 1 : Int) * (m' * 2 ^ (e' - k).toNat : Nat))
  | .nan _, _ | _, .nan _ => false
  | .inf n, .inf n' => n && !n'
  | .inf n, .num _ _ _ => n
  | .num _ _ _, .inf n => !n

/-- It is a NaN. -/
def FNum.isNan : FNum → Bool
  | .nan _ => true
  | _ => false

/-! ### Tiles (R43, R45, R46) -/

/-- Bits of element `e` of a packed tile. -/
def tileElem (f : Nat) (bs : List Byte) (e : Nat) : Nat :=
  let b (i : Nat) : Nat := (bs.getD i 0).toNat
  match f with
  | 0 => b (2 * e) + 256 * b (2 * e + 1)
  | 1 | 2 => b e
  | 3 | 4 => (b (e / 4 * 3) + 256 * b (e / 4 * 3 + 1) + 65536 * b (e / 4 * 3 + 2)) / 64 ^ (e % 4) % 64
  | _ => b (e / 2) / 16 ^ (e % 2) % 16

/-- First scale byte of a packed MX tile. -/
def scaleAt (f : Nat) : Nat := if f = 5 then 4096 else 6144

/-- An FP8 format, whose tiles carry the model plan's scales (R46). -/
def isFp8 (f : Nat) : Bool := f == 1 || f == 2

/-- Element `e` of a packed tile as an FP32 value (R45, R46): FP8 is multiplied by its scale. -/
def dequant (f : Nat) (scale : FNum) (bs : List Byte) (e : Nat) : FNum :=
  let x := (elemFmt f).decode (tileElem f bs e)
  if isFp8 f then x.mul scale
  else if f = 0 then x
  else
    let c := (bs.getD (scaleAt f + e / 32) 0).toNat
    match x with
    | .num n m k => if c = 255 then .nan false else .num n m (k + c - 127)
    | y => y

/-- What a packing produces: the elements' bits, the scale byte, and how many conversions saturated or gave NaN. -/
structure Packed where
  elems : List Nat := []
  scale : Nat := 0
  saturated : Nat := 0
  nans : Nat := 0
  deriving DecidableEq, Repr, Inhabited

/-- ⌊log2⌋ of a number's magnitude. -/
def FNum.log2? (x : FNum) : Option Int :=
  match x with
  | .num _ m e => if m = 0 then none else some ((Nat.log2 m : Int) + e)
  | _ => none

/-- A number is finite. -/
def FNum.finite (x : FNum) : Bool :=
  match x with
  | .num _ _ _ => true
  | _ => false

/-- Greatest exponent of an MX element format (R45). -/
def mxEmax (f : Nat) : Int := if f = 4 then 4 else 2

/-- Packs 32 values in a format (R45, R46): a block of an MX format, or 32 elements of another. -/
def packBlock (f : Nat) (scale : FNum) (xs : List FNum) : Packed :=
  let fmt := elemFmt f
  if f = 0 then { elems := xs.map fmt.wide, nans := xs.countP fun x => decide (x = .nan true ∨ x = .nan false) }
  else if isFp8 f then
    let ys := xs.map fun x => x.div scale
    { elems := ys.map fun y => match y with
        | .nan n => fmt.sign n + 127
        | y => (fmt.narrow y).1
      saturated := ys.countP fun y => (fmt.narrow y).2, nans := ys.countP fun y => decide (y = .nan true ∨ y = .nan false) }
  else if !xs.all FNum.finite then { elems := xs.map fun _ => 0, scale := 255, nans := 1 }
  else match (xs.filterMap FNum.log2?).max? with
  | none => { elems := xs.map fun _ => 0 }
  | some a =>
    let x := max (-127) (min 127 (a - mxEmax f))
    let ys := xs.map fun v => match v with
      | .num n m e => fmt.narrow (.num n m (e - x))
      | _ => (0, false)
    { elems := ys.map Prod.fst, scale := (x + 127).toNat, saturated := ys.countP Prod.snd }

/-- The element bytes of a row of elements in a format (R43). -/
def elemBytes (f : Nat) : List Nat → List Byte
  | a :: b :: c :: d :: es =>
    (match f with
      | 0 => leBytes 2 a ++ leBytes 2 b ++ leBytes 2 c ++ leBytes 2 d
      | 1 | 2 => [BitVec.ofNat 8 a, BitVec.ofNat 8 b, BitVec.ofNat 8 c, BitVec.ofNat 8 d]
      | 3 | 4 => leBytes 3 (a + 64 * b + 4096 * c + 262144 * d)
      | _ => [BitVec.ofNat 8 (a + 16 * b), BitVec.ofNat 8 (c + 16 * d)]) ++ elemBytes f es
  | _ => []

/-- Converts a packed tile to another format (R224), with its counts. -/
def convertTile (src dst : Nat) (scale : FNum) (bs : List Byte) : List Byte × Nat × Nat :=
  let blocks := (List.range 256).map fun b => packBlock dst scale ((List.range 32).map fun i => dequant src scale bs (32 * b + i))
  (elemBytes dst (blocks.flatMap Packed.elems) ++ (if 3 ≤ dst then blocks.map fun p => BitVec.ofNat 8 p.scale else []),
    (blocks.map Packed.saturated).sum, (blocks.map Packed.nans).sum)

end Sys2Proof.Machine
end

