-- ==== Sys2Proof/Machine/Num.lean ====
section
/-! DEFINITION. FP32 arithmetic beyond one operation: sums in the order that the device takes (R108), the functions of the
vector row units within 2 ulp (R111, R140, R166), exact sums for the checker (R116), and the Philox generator (R113). -/

namespace Sys2Proof.Machine

/-! ### Sums in any order and grouping (R108) -/

/-- Takes element `i` out of a list. -/
def takeAt {α : Type} : Nat → List α → Option (α × List α)
  | _, [] => none
  | 0, x :: xs => some (x, xs)
  | i + 1, x :: xs => (takeAt i xs).map fun y => (y.1, x :: y.2)

/-- Sums values in FP32, two at a time and each sum rounded: which two comes from the free choices `pick 0`, `pick 1`, … so that
every order and grouping is one of them (R108). A lone value is rounded. -/
def sumBy (pick : Nat → Nat) : Nat → Nat → List FNum → FNum
  | _, _, [] => .num false 0 0
  | _, _, [x] => x.toFp32
  | 0, _, x :: _ => x.toFp32
  | fuel + 1, k, xs =>
    match takeAt (pick k % xs.length) xs with
    | none => .num false 0 0
    | some (a, ys) => match takeAt (pick (k + 1) % ys.length) ys with
      | none => a.toFp32
      | some (b, zs) => sumBy pick fuel (k + 2) (a.add b :: zs)

/-- Sum `e` of the operation that drew `op` (log entry 2): the order of its additions is free, and so is the sign of a NaN. -/
def sumFree (op e : Nat) (xs : List FNum) : FNum :=
  match sumBy (Config.freeOrder op e) xs.length 0 xs with
  | .nan _ => .nan (decide (Config.freeOrder op e (2 * xs.length) % 2 = 1))
  | x => x

/-- An exact product: it is not rounded (R108). -/
def FNum.times (a b : FNum) : FNum :=
  match a, b with
  | .num n m e, .num n' m' e' => .num (n != n') (m * m') (e + e')
  | a, b => a.mul b

/-- Difference in FP32. -/
def FNum.sub (a b : FNum) : FNum := a.add b.neg

/-- The greater of two values; a NaN wins. -/
def FNum.max (a b : FNum) : FNum := if a.isNan then a else if b.isNan || a.less b then b else a

/-- Zero. -/
def FNum.zero : FNum := .num false 0 0

/-- One. -/
def FNum.one : FNum := .num false 1 0

/-- Minus infinity. -/
def FNum.bottom : FNum := .inf true

/-- FP32 bits. -/
def FNum.bits (x : FNum) : U32 := BitVec.ofNat 32 (fp32.wide x)

/-- The value of FP32 bits. -/
def ofBits (v : U32) : FNum := fp32.decode v.toNat

/-- Round to BF16, as a value. -/
def FNum.toBf16 (x : FNum) : FNum := (elemFmt 0).decode ((elemFmt 0).wide x)

/-! ### Exact values for the checker (R116) -/

/-- An exact sum m × 2^e. -/
structure Exact where
  m : Int := 0
  e : Int := 0
  deriving DecidableEq, Repr, Inhabited

/-- Exact sum of two values. -/
def Exact.plus (a b : Exact) : Exact :=
  let k := min a.e b.e
  { m := a.m * 2 ^ (a.e - k).toNat + b.m * 2 ^ (b.e - k).toNat, e := k }

/-- The exact value of a finite number, 0 of another. -/
def FNum.exact : FNum → Exact
  | .num n m e => { m := if n then -(m : Int) else m, e := e }
  | _ => {}

/-- Exact sum of finite numbers. -/
def exactSum (xs : List FNum) : Exact := xs.foldl (fun a x => a.plus x.exact) {}

/-- |a − b| > 2^−t × k × c (R116). -/
def Exact.beyond (a b c : Exact) (t k : Nat) : Bool :=
  let d := a.plus { b with m := -b.m }
  let x := min d.e c.e
  decide (k * (c.m.natAbs * 2 ^ (c.e - x).toNat) < d.m.natAbs * 2 ^ (d.e - x).toNat * 2 ^ t)

/-! ### Functions (R111, R140, R166)

Reals are held in fixed point with 320 fraction bits; the series below leave errors far under one part in 2^200. -/

/-- Fraction bits. -/
def fxBits : Nat := 320

/-- 1 in fixed point. -/
def fxOne : Int := 2 ^ fxBits

/-- Product in fixed point. -/
def fxMul (a b : Int) : Int := a * b / fxOne

/-- A finite number in fixed point. -/
def FNum.fx : FNum → Int
  | .num n m e =>
    let v : Int := if 0 ≤ e + fxBits then m * 2 ^ (e + fxBits).toNat else m / 2 ^ (-(e + fxBits)).toNat
    if n then -v else v
  | _ => 0

/-- The number of a fixed-point value. -/
def fxNum (v : Int) : FNum := .num (decide (v < 0)) v.natAbs (-(fxBits : Int))

/-- ln 2: the sum of 1 / (k 2^k). -/
def fxLn2 : Int := ((List.range 330).map fun k => fxOne / ((k + 1 : Nat) * 2 ^ (k + 1) : Int)).sum

/-- arctan(1 / n), by its series. -/
def fxAtanInv (n : Nat) : Int :=
  ((List.range 80).map fun k => (if k % 2 = 0 then 1 else -1) * (fxOne / ((2 * k + 1 : Nat) * (n : Int) ^ (2 * k + 1)))).sum

/-- π, by Machin's formula. -/
def fxPi : Int := 16 * fxAtanInv 5 - 4 * fxAtanInv 239

/-- Σ of `n` terms, each the one before it times `x / f k`. -/
def fxSeries (x : Int) (f : Nat → Int) : Nat → Nat → Int → Int
  | 0, _, _ => 0
  | n + 1, k, t => t + fxSeries x f n (k + 1) (fxMul t x / f k)

/-- e^x of a real as a number: x = k ln 2 + r. -/
def fxExp (x : Int) : FNum :=
  let k := x / fxLn2
  let v := fxSeries (x - k * fxLn2) (fun i => (i + 1 : Nat)) 80 0 fxOne
  .num false v.natAbs (k - fxBits)

/-- ln of m × 2^e, m not 0: with y = m / 2^⌊log2 m⌋, twice artanh of (y − 1) / (y + 1). -/
def fxLog (m : Nat) (e : Int) : Int :=
  let b := Nat.log2 m
  let y : Int := (m * 2 ^ fxBits / 2 ^ b : Nat)
  let z := (y - fxOne) * fxOne / (y + fxOne)
  let zz := fxMul z z
  let s := ((List.range 120).foldl (fun (a : Int × Int) k => (a.1 + a.2 / (2 * k + 1 : Nat), fxMul a.2 zz)) ((0 : Int), z)).1
  2 * s + (e + b) * fxLn2

/-- sin x, for x below 7. -/
def fxSin (x : Int) : Int := fxSeries (-(fxMul x x)) (fun k => ((2 * k + 2) * (2 * k + 3) : Nat)) 90 0 x

/-- cos x, for x below 7. -/
def fxCos (x : Int) : Int := fxSeries (-(fxMul x x)) (fun k => ((2 * k + 1) * (2 * k + 2) : Nat)) 90 0 fxOne

/-- √π. -/
def fxSqrtPi : Int := (Nat.sqrt (fxPi.natAbs * 2 ^ fxBits) : Nat)

/-- erf x, for x up to 6: 2 / √π times the sum of (−1)^n x^(2n+1) / (n! (2n+1)). -/
def fxErf (x : Int) : Int :=
  let s := ((List.range 260).foldl (fun (a : Int × Int) k =>
    (a.1 + a.2 / (2 * k + 1 : Nat), -(fxMul a.2 (fxMul x x)) / (k + 1 : Nat))) ((0 : Int), x)).1
  2 * s * fxOne / fxSqrtPi

/-- The FP32 result of function `fn` of a unit, within 2 ulp of the correctly rounded one (R111): which of the five values it is
depends on the function and its operand, and is free (log entry 2). -/
def within2 (fn : Nat) (operand : FNum) (x : FNum) : FNum :=
  match x with
  | .num n m e =>
    let c := fp32.code m e
    let d := Config.freeUlp fn operand.bits.toNat % 5
    fp32.decode (fp32.sign n + min (c + d - 2) (fp32.maxCode + 1))
  | y => y

/-- Which unit computes a function: the vector row units, the lanes and their reducers, and the rotary encoder. -/
inductive FnUnit where
  | vector | lane | reducer | rotary
  deriving DecidableEq, Repr

/-- Number of a function of a unit, for its free last bits. -/
def FnUnit.fn (u : FnUnit) (k : Nat) : Nat :=
  8 * (match u with | .vector => 0 | .lane => 1 | .reducer => 2 | .rotary => 3) + k

/-- e^x. -/
def FNum.exp (u : FnUnit) : FNum → FNum
  | .inf n => if n then .zero else .inf false
  | .nan n => .nan n
  | x =>
    let v := x.fx
    if 128 * fxOne < v then .inf false else if v < -(128 * fxOne) then within2 (u.fn 0) x .zero else within2 (u.fn 0) x (fxExp v)

/-- ln x. -/
def FNum.log (u : FnUnit) : FNum → FNum
  | .inf n => if n then .nan false else .inf false
  | .nan n => .nan n
  | .num n m e => if m = 0 then .bottom else if n then .nan false else within2 (u.fn 1) (.num n m e) (fxNum (fxLog m e))

/-- tanh x. -/
def FNum.tanh (u : FnUnit) : FNum → FNum
  | .inf n => .num n 1 0
  | .nan n => .nan n
  | x =>
    let v := x.fx
    if fxOne * 30 < v.natAbs then within2 (u.fn 2) x (.num (decide (v < 0)) 1 0)
    else if v.natAbs * 2 ^ 24 < fxOne then within2 (u.fn 2) x x
    else
      let y := (fxExp (2 * v)).fx
      within2 (u.fn 2) x (fxNum ((y - fxOne) * fxOne / (y + fxOne)))

/-- erf x. -/
def FNum.erf (u : FnUnit) : FNum → FNum
  | .inf n => .num n 1 0
  | .nan n => .nan n
  | x =>
    let v := x.fx
    if 6 * fxOne < v.natAbs then within2 (u.fn 3) x (.num (decide (v < 0)) 1 0) else within2 (u.fn 3) x (fxNum (fxErf v))

/-- 1 / √x. -/
def FNum.rsqrt (u : FnUnit) (x : FNum) : FNum :=
  match x with
  | .num n m e => if m = 0 then .inf n else if n then .nan false
    else
      let odd := (e % 2).toNat
      let r := Nat.sqrt (m * 2 ^ (400 + odd))
      within2 (u.fn 4) x (.num false (2 ^ 600 / r) (-(600 : Int) - ((e - odd - 400) / 2)))
  | .inf n => if n then .nan false else .zero
  | .nan n => .nan n

/-- sin and cos of an FP32 angle below 2π (R166). -/
def FNum.sinCos (x : FNum) : FNum × FNum :=
  (within2 (FnUnit.rotary.fn 5) x (fxNum (fxSin x.fx)), within2 (FnUnit.rotary.fn 6) x (fxNum (fxCos x.fx)))

/-! ### Philox4x32-10 (R113) -/

/-- One round: key words and counter words. -/
def philoxRound (k0 k1 : U32) (c : U32 × U32 × U32 × U32) : U32 × U32 × U32 × U32 :=
  let p0 := 0xD2511F53 * c.1.toNat
  let p1 := 0xCD9E8D57 * c.2.2.1.toNat
  (BitVec.ofNat 32 (p1 / 2 ^ 32) ^^^ c.2.1 ^^^ k0, BitVec.ofNat 32 p1, BitVec.ofNat 32 (p0 / 2 ^ 32) ^^^ c.2.2.2 ^^^ k1, BitVec.ofNat 32 p0)

/-- Rounds with their key schedule. -/
def philoxRounds : Nat → U32 → U32 → U32 × U32 × U32 × U32 → U32 × U32 × U32 × U32
  | 0, _, _, c => c
  | n + 1, k0, k1, c => philoxRounds n (k0 + 0x9E3779B9#32) (k1 + 0xBB67AE85#32) (philoxRound k0 k1 c)

/-- Word 0 of the generator's output for a seed, a count and a node (R113). -/
def philox (seed : U64) (count node : Nat) : U32 :=
  (philoxRounds 10 (seed.truncate 32) ((seed >>> 32).truncate 32) (BitVec.ofNat 32 count, BitVec.ofNat 32 node, 0, 0)).1

/-- The draw u: the top 24 bits over 2^24 (R113). -/
def drawU (seed : U64) (count node : Nat) : FNum := .num false ((philox seed count node).toNat / 256) (-24)

end Sys2Proof.Machine
end

