-- ==== Sys2Proof/Machine/Attn.lean ====
section
/-! DEFINITION. Attention (chapter 06): operands in memory, rotary encoding (R165-R167), key rotation (R50, R51), the visible set
(R157-R159, R174), keys and values (R154-R156, R163, R164), partial rows and their merge (R140, R168-R170). -/

namespace Sys2Proof.Machine

/-! ### Operands in memory (R107)

Elements lie in order from the operand's address, least significant bits first, and the scale bytes of an MX format follow them
(log entry 82). -/

/-- Bits of an element of an operand format. -/
def elemBits (f : Nat) : Nat :=
  match f with
  | 0 | 6 => 16
  | 1 | 2 | 7 | 8 | 9 => 8
  | 3 | 4 => 6
  | 5 => 4
  | 0xA => 32
  | _ => 0

/-- An MX format, with a scale byte for each 32 elements. -/
def isMx (f : Nat) : Bool := decide (3 ≤ f ∧ f ≤ 5) || decide (f = 8) || decide (f = 9)

/-- Bytes of `n` elements with their scales. -/
def extent (f n : Nat) : Nat := (n * elemBits f + 7) / 8 + (if isMx f then n / 32 else 0)

/-- A format of a matrix operand. -/
def operandFmt (f : Nat) : Bool := decide (f ≤ 9)

/-- The value of an element's bits in an operand format (R107). -/
def operandValue (f v : Nat) : FNum :=
  match f with
  | 6 => ({ eb := 5, mb := 10, ieee := true } : FloatFmt).decode v
  | 7 => if v < 128 then .num false v 0 else .num true (256 - v) 0
  | 8 => (elemFmt 1).decode v
  | 9 => (elemFmt 2).decode v
  | 0xA => fp32.decode v
  | f => (elemFmt f).decode v

/-- The bits of element `i` of an operand at `a`. -/
def State.elemAt (s : State) (f a i : Nat) : Nat :=
  s.loadLE (a + i * elemBits f / 8) 5 / 2 ^ (i * elemBits f % 8) % 2 ^ elemBits f

/-- Element `i` of the `n` of an operand at `a`; its scale, in an MX format, is number `blk`: a power of two, or NaN for 0xFF
(R108). -/
def State.operand (s : State) (f a n i blk : Nat) : FNum :=
  let x := operandValue f (s.elemAt f a i)
  if isMx f then
    let c := s.loadLE (a + (n * elemBits f + 7) / 8 + blk) 1
    match x with
    | .num neg m e => if c = 255 then .nan false else .num neg m (e + c - 127)
    | y => if c = 255 then .nan false else y
  else x

/-- Greatest exponent of an MX element format: those of R45, and for MXFP8 those of the OCP specification that R44 names (PRESUMED,
log entry 84). -/
def mxTop (f : Nat) : Int := if f = 8 then 8 else if f = 9 then 15 else mxEmax f

/-- A block of 32 values in an MX format (R45, R109). -/
def mxBlock (f : Nat) (xs : List FNum) : Packed :=
  let fmt := if f = 8 then elemFmt 1 else if f = 9 then elemFmt 2 else elemFmt f
  if !xs.all FNum.finite then { elems := xs.map fun _ => 0, scale := 255, nans := 1 }
  else match (xs.filterMap FNum.log2?).max? with
  | none => { elems := xs.map fun _ => 0 }
  | some a =>
    let x := max (-127) (min 127 (a - mxTop f))
    let ys := xs.map fun v => match v with
      | .num n m e => fmt.narrow (.num n m (e - x))
      | _ => (0, false)
    { elems := ys.map Prod.fst, scale := (x + 127).toNat, saturated := ys.countP Prod.snd }

/-- INT8 (R109): to nearest with ties to even, saturated; a NaN becomes 0. -/
def toInt8 (x : FNum) : Nat × Bool :=
  match x with
  | .num n m e =>
    let v := roundEven m (-e)
    if n then ((256 - min v 128) % 256, decide (128 < v)) else (min v 127, decide (127 < v))
  | .inf n => (if n then 128 else 127, true)
  | .nan _ => (0, false)

/-- Values in an output format (R109): elements, scale bytes, and how many saturated or gave NaN. -/
def encodeRow (f : Nat) (xs : List FNum) : List Nat × List Nat × Nat × Nat :=
  let bad := xs.countP FNum.isNan
  if isMx f then
    let bs := (List.range ((xs.length + 31) / 32)).map fun i => mxBlock f ((xs.drop (32 * i)).take 32)
    (bs.flatMap Packed.elems, bs.map Packed.scale, (bs.map Packed.saturated).sum, (bs.map Packed.nans).sum)
  else if f = 7 then (xs.map fun x => (toInt8 x).1, [], xs.countP fun x => (toInt8 x).2, bad)
  else if isFp8 f then
    (xs.map fun x => match x with
      | .nan n => (elemFmt f).sign n + 127
      | y => ((elemFmt f).narrow y).1, [], xs.countP fun x => ((elemFmt f).narrow x).2, bad)
  else
    let fmt : FloatFmt := if f = 6 then { eb := 5, mb := 10, ieee := true } else if f = 0xA then fp32 else elemFmt 0
    (xs.map fmt.wide, [], 0, bad)

/-- Elements side by side, least significant bits first. -/
def bitBytes (b : Nat) (xs : List Nat) : List Byte := leBytes (xs.length * b / 8) (xs.foldr (fun x a => x + 2 ^ b * a) 0)

/-- Writes values at elements `i` on of the `n` of an operand at `a`, poisoned or not; answers what saturated or gave NaN. -/
def State.putElems (s : State) (f a n i : Nat) (xs : List FNum) (poison : Bool) : State × Nat × Nat :=
  let c := encodeRow f xs
  let s := s.writeP (a + i * elemBits f / 8) (bitBytes (elemBits f) c.1) poison
  (if isMx f then s.writeP (a + (n * elemBits f + 7) / 8 + i / 32) (c.2.1.map fun v => BitVec.ofNat 8 v) poison else s, c.2.2)

/-! ### Rotary encoding (R165-R167) -/

/-- A rotary table for rows of `width` channels keeps R165. -/
def State.ropeOk (s : State) (t width : Nat) : Bool :=
  let level := s.loadLE t 1
  let dr := s.loadLE (t + 6) 2
  readable level && decide (s.loadLE (t + 1) 1 ≤ 1) && reserved level (decide (s.loadLE (t + 2) 1 ≤ 1) && decide (s.loadLE (t + 3) 1 = 0)
      && decide (s.loadLE (t + 16) 16 = 0))
    && decide (dr % 2 = 0 ∧ 2 ≤ dr ∧ dr ≤ 512) && decide (s.loadLE (t + 4) 2 + dr ≤ width) && FNum.one.less (fp32.decode (s.loadLE (t + 8) 4))

/-- The angle of pair `k` at a position, reduced modulo 2π and rounded to FP32 (R166). -/
def State.ropeAngle (s : State) (t pos k : Nat) : FNum :=
  let dr := s.loadLE (t + 6) 2
  let f := if s.loadLE (t + 2) 1 % 2 = 1 then fp32.decode (s.loadLE (t + 32 + 4 * k) 4) else .one
  let power := match fp32.decode (s.loadLE (t + 8) 4) with
    | .num _ m e => (fxExp (-(fxLog m e * (2 * k) / dr))).fx
    | _ => 0
  let x := fxMul (fxMul (pos * (fp32.decode (s.loadLE (t + 12) 4)).fx) f.fx) power
  (fxNum (x % (2 * fxPi))).toFp32

/-- A row at a position, its pairs turned (R166); with no table it is unchanged. The products and the sum are each rounded to
FP32 (log entry 83). -/
def State.rotary (s : State) (t pos : Nat) (xs : List FNum) : List FNum :=
  if t = 0 then xs
  else
    let first := s.loadLE (t + 4) 2
    let dr := s.loadLE (t + 6) 2
    let split := decide (s.loadLE (t + 1) 1 = 1)
    xs.zipIdx.map fun x =>
      if x.2 < first ∨ first + dr ≤ x.2 then x.1
      else
        let d := x.2 - first
        let k := if split then d % (dr / 2) else d / 2
        let second := if split then decide (dr / 2 ≤ d) else decide (d % 2 = 1)
        let other := if split then (if second then x.2 - dr / 2 else x.2 + dr / 2) else (if second then x.2 - 1 else x.2 + 1)
        let y := xs.getD other .zero
        let sc := (s.ropeAngle t pos k).sinCos
        if second then (y.mul sc.1).add (x.1.mul sc.2) else (x.1.mul sc.2).sub (y.mul sc.1)

/-! ### Key rotation (R50, R51) -/

/-- Bits set in a byte. -/
def popByte (n : Nat) : Nat := ((List.range 8).filter fun i => n.testBit i).length

/-- (1/√128) · H128 applied to a slice of 128 channels: sum `e` on of the operation that drew `op` (R50). -/
def hadamard (op e : Nat) (xs : List FNum) : List FNum :=
  (List.range xs.length).map fun i =>
    (sumFree op (e + i) (xs.zipIdx.map fun x => if popByte (i &&& x.2) % 2 = 1 then x.1.neg else x.1)).mul (fp32.decode 0x3DB504F3)

/-- A row's 128-channel slices. -/
def slices128 (xs : List FNum) : List (List FNum) := (List.range ((xs.length + 127) / 128)).map fun i => (xs.drop (128 * i)).take 128

/-- Every slice of a row rotated. -/
def rotateRow (op e : Nat) (xs : List FNum) : List FNum := (slices128 xs).zipIdx.flatMap fun x => hadamard op (e + 128 * x.2) x.1

/-! ### Shapes and masks (R154-R159, R174) -/

/-- Dq (R155, R156). -/
def AttnShape.dq (c : AttnShape) : Nat := if c.latent then 2 * c.width else c.width

/-- Dv (R155, R156). -/
def AttnShape.dv (c : AttnShape) : Nat := if c.latent then c.valueWidth else c.width

/-- Query heads for each KV head (R155). -/
def AttnShape.group (c : AttnShape) : Nat := c.queryHeads / max 1 c.heads

/-- The bitmap admits key block `k` to query block `r` (R158). -/
def State.bitmapBit (s : State) (a r k : Nat) : Bool :=
  let rows := s.loadLE a 4
  let cols := s.loadLE (a + 4) 4
  decide (r < rows) && decide (k < cols) && (s.loadLE (a + 8 + 8 * (r * ((cols + 63) / 64) + k / 64)) 8).testBit (k % 64)

/-- Position j is in V(i) (R157). -/
def State.maskSees (s : State) (c : AttnShape) (i j : Nat) : Bool :=
  decide (c.kvStart ≤ j) && match c.mask with
    | 0 => true
    | 2 => decide (j ≤ i) && (decide (c.window = 0) || decide (i < j + c.window) || decide (j < c.sinks))
    | 3 => decide (j ≤ i) || (decide (i < c.prefixLen) && decide (j < c.prefixLen))
    | 4 => decide (j ≤ i) && (decide (i / 256 = j / 256) || match c.sparseAt with
      | some a => s.bitmapBit a (i / 256) (j / 256)
      | none => false)
    | _ => decide (j ≤ i)

/-- Some row of the positions sees one of the committed positions `lo` to `hi` − 1. -/
def State.seesSome (s : State) (c : AttnShape) (rows : List Nat) (lo hi : Nat) : Bool :=
  rows.any fun i => (List.range (hi - lo)).any fun k => s.maskSees c i (lo + k)

/-! ### Trees (R172-R174) -/

/-- Address of a tree record in the TREES region. -/
def State.treeAddr (s : State) (h : Nat) : Option Nat :=
  match s.regionOfKind 0x0C with
  | some r => if 1024 * h + 1024 ≤ r.size then some (r.start + 1024 * h) else none
  | none => none

/-- The tree record of a handle. -/
def State.tree (s : State) (h : Nat) : Tree :=
  match s.treeAddr h with
  | none => {}
  | some a =>
    let n := s.loadLE (a + 1) 1
    { formed := readable (s.loadLE a 1) && decide (1 ≤ n ∧ n ≤ 64) && decide (s.loadLE (a + 3) 1 ≤ 2)
      state := match s.loadLE (a + 3) 1 with
        | 1 => .ready | 2 => .decided | _ => .empty
      levels := s.loadLE (a + 2) 1, slot := s.loadLE (a + 4) 4, requestId := BitVec.ofNat 64 (s.loadLE (a + 8) 8), baseLen := s.loadLE (a + 0x10) 4
      nodes := (List.range (min n 64)).map fun i =>
        let b := a + 0x40 + 8 * i
        { token := BitVec.ofNat 32 (s.loadLE b 4), parent := s.loadLE (b + 4) 1, depth := s.loadLE (b + 5) 1 } }

/-- Node `m` is node `n` or one of its ancestors (R174). -/
def treeSees (nodes : List TreeNode) : Nat → Nat → Nat → Bool
  | 0, n, m => decide (n = m)
  | fuel + 1, n, m => decide (n = m) || match nodes[n]? with
    | some x => decide (x.parent < n) && treeSees nodes fuel x.parent m
    | none => false

/-! ### Keys and values (R154-R156, R163, R164) -/

/-- The key and the value of a position for one KV head, and whether a word of them reads as poison. -/
structure KvRow where
  k : List FNum := []
  v : List FNum := []
  poison : Bool := false
  deriving DecidableEq, Repr, Inhabited

/-- Address and format of tile `t` of a tile position in the pages of a root and layer (R53, R58). -/
def State.pageTile (s : State) (root layer tp t : Nat) : Option (Nat × Nat) :=
  match s.locate root layer tp t with
  | .tile p k => some (s.tileAddr p k, (s.page p).format.toNat)
  | _ => none

/-- Address and format of tile `t` of a tile position in a dense buffer (R164). -/
def denseTile (c : AttnShape) (a first f tp t : Nat) : Nat × Nat := (a + ((tp - first) * tilesAt c.heads (slicesOf c.width) + t) * tileSize f, f)

/-- Address and format of tile `t` of a tile position (R53, R58, R164, R229). -/
def State.tileAt (s : State) (c : AttnShape) (src : KvSource) (tp t : Nat) : Option (Nat × Nat) :=
  match src with
  | .pages root layer => s.pageTile root layer tp t
  | .dense a first f => some (denseTile c a first f tp t)
  | .staged root layer a first n =>
    if first ≤ tp ∧ tp < first + n then some (denseTile c a first (s.root root).format.toNat tp t) else s.pageTile root layer tp t

/-- Offset and length in a packed tile of a row's elements and of its scales (R43). -/
def rowParts (f row : Nat) : List (Nat × Nat) :=
  match f with
  | 0 => [(256 * row, 256)]
  | 1 | 2 => [(128 * row, 128)]
  | 3 | 4 => [(96 * row, 96), (6144 + 4 * row, 4)]
  | _ => [(64 * row, 64), (4096 + 4 * row, 4)]

/-- A row of a tile as its elements, without the scale of an FP8 tile; a tile that is not there reads as poison. -/
def State.tileRow (s : State) (x : Option (Nat × Nat)) (row : Nat) : List FNum × Bool :=
  match x with
  | none => (List.replicate 128 .zero, true)
  | some (a, f) =>
    let bs := s.bytes a (tileSize f)
    ((List.range 128).map fun ch => dequant f .one bs (128 * row + ch), (rowParts f row).any fun p => s.poisoned (a + p.1) p.2)

/-- A committed position's key and value for KV head `h` (R154, R156): elements as they are stored; the scale of FP8 is applied
to the query row and to the output (R139, step 3). -/
def State.kvRow (s : State) (c : AttnShape) (src : KvSource) (h pos : Nat) : KvRow :=
  let n := slicesOf c.width
  let part (kv : Nat) := (List.range n).map fun i => s.tileRow (s.tileAt c src (pos / 64) ((h * n + i) * 2 + kv)) (pos % 64)
  let ks := ((part 0).flatMap Prod.fst).take c.width
  let vs := ((part 1).flatMap Prod.fst).take c.width
  let bad := (part 0).any Prod.snd || (part 1).any Prod.snd
  if c.latent then { k := ks ++ vs, v := (ks ++ vs).take c.dv, poison := bad } else { k := ks, v := vs, poison := bad }

/-- The projected key or value channels of KV head `h` in token row `row`, key and value of a head side by side (log entry 82). -/
def State.projected (s : State) (c : AttnShape) (row h kv : Nat) : List FNum :=
  (List.range c.width).map fun ch => s.operand c.newFmt c.newKv 0 ((row * c.heads + h) * 2 * c.width + kv * c.width + ch) 0

/-- The projected row reads as poison. -/
def State.projectedPoison (s : State) (c : AttnShape) (row h : Nat) : Bool :=
  let n := 2 * c.width * elemBits c.newFmt / 8
  s.poisoned (c.newKv + (row * c.heads + h) * n) n

/-- A new position's key and value (R141, R163, R167): the key is rotary-encoded, and rotated where the layer's keys are. -/
def State.newRow (s : State) (c : AttnShape) (op e row h pos : Nat) : KvRow :=
  let k := s.projected c row h 0
  let v := s.projected c row h 1
  let full := s.rotary c.rope pos (if c.latent then k ++ v else k)
  { k := if c.rotated then rotateRow op e full else full, v := if c.latent then full.take c.dv else v, poison := s.projectedPoison c row h }

/-- Scale of tile `t` of a tile position from a KV scale table: FP32 per layer, KV head, and key or value; the order is the
model's (log entry 33). -/
def State.scaleOf (s : State) (table layer heads slices t : Nat) : FNum :=
  fp32.decode (s.loadLE (table + 4 * ((layer * heads + t / (2 * slices)) * 2 + t % 2)) 4)

/-- Scale of a KV head's keys or values: 1 but for FP8 tiles (R46). -/
def State.kvScale (s : State) (c : AttnShape) (src : KvSource) (layer h kv : Nat) : FNum :=
  let f := match src with
    | .pages root _ | .staged root .. => (s.root root).format.toNat
    | .dense _ _ f => f
  if isFp8 f then s.scaleOf c.kvScale layer c.heads (slicesOf c.width) (2 * h * slicesOf c.width + kv) else .one

/-! ### Query rows (R139, R167) -/

/-- Steps 1 and 2 of R139: rotary encoding in FP32, BF16, and the transform of rotated keys, whose result is BF16 again. -/
def State.prepare (s : State) (c : AttnShape) (op e pos : Nat) (q : List FNum) : List (BitVec 16) :=
  let x := (s.rotary c.rope pos q).map FNum.toBf16
  let y := if c.rotated then (rotateRow op e x).map FNum.toBf16 else x
  y.map fun v => BitVec.ofNat 16 ((elemFmt 0).wide v)

/-- Values of a BF16 row. -/
def ofBf16 (q : List (BitVec 16)) : List FNum := q.map fun v => (elemFmt 0).decode v.toNat

/-- Step 3 of R139: the row times the layer's key scale, in BF16. -/
def scaleQuery (scale : FNum) (q : List FNum) : List FNum := if scale = .one then q else q.map fun x => (x.mul scale).toBf16

/-! ### Partial rows (R140, R168-R170) -/

/-- The empty partial row (R169). -/
def PRow.empty (dv : Nat) : PRow := { out := List.replicate dv 0 }

/-- A partial row of values. -/
def PRow.of (m lse : FNum) (out : List FNum) (poison : Bool) : PRow :=
  { m := m.bits, lse := lse.bits, out := out.map FNum.bits, poisoned := poison }

/-- A dot product in FP32 (R108): sum `e` of the operation that drew `op`. -/
def dot (op e : Nat) (xs ys : List FNum) : FNum := sumFree op e (List.zipWith FNum.times xs ys)

/-- A running softmax (R140): the maximum, the sum of exponentials and the unnormalised output. -/
structure Online where
  m : FNum := .bottom
  sum : FNum := .zero
  out : List FNum := []
  deriving DecidableEq, Repr, Inhabited

/-- One more score and value. -/
def Online.step (o : Online) (score : FNum) (v : List FNum) : Online :=
  if score = .bottom then o
  else
    let m := o.m.max score
    let a := (o.m.sub m).exp .lane
    let p := (score.sub m).exp .lane
    { m := m, sum := (o.sum.mul a).add p, out := List.zipWith (fun x y => (x.mul a).add (p.times y)) o.out v }

/-- What a lane computes of one query row (R140): keys and values in order. The value scale applies to the output (R139). -/
def laneRow (draw e dv : Nat) (sigma vScale : FNum) (q : List FNum) (items : List KvRow) : PRow :=
  let o := items.zipIdx.foldl (fun (o : Online) x => o.step ((dot draw (e + x.2) q x.1.k).mul sigma) x.1.v) { out := List.replicate dv .zero }
  if items.isEmpty ∨ o.m = .bottom then { PRow.empty dv with poisoned := items.any KvRow.poison }
  else PRow.of o.m (o.m.add (o.sum.log .lane)) (o.out.map fun x => (x.div o.sum).mul vScale) (items.any KvRow.poison)

/-- A value that the spec bounds (R181): `free` where it lies within `bound` of `x`, else `x`. -/
def near (free : U32) (x bound : FNum) : FNum :=
  let y := ofBits free
  if x.finite && y.finite && !(x.exact.beyond y.exact bound.exact 0 1) then y else x

/-- The partial row of scores and values in any order (R108, R111, R154), each output within 2^−12 of the largest |v| and λ
within 2^−14 (1 + |λ|) (R181): sums `e` on of the operation that drew `op`. -/
def softRow (u : FnUnit) (op e dv : Nat) (items : List (FNum × List FNum)) (poison : Bool) : PRow :=
  let m := (items.map Prod.fst).foldl FNum.max .bottom
  if m = .bottom then { PRow.empty dv with poisoned := poison }
  else
    let ps := items.map fun x => ((x.1.sub m).exp u, x.2)
    let sum := sumFree op e (ps.map Prod.fst)
    let free (i : Nat) : U32 := BitVec.ofNat 32 (Config.freeOrder op (e + i) 0)
    let out := (List.range dv).map fun c =>
      let x := (sumFree op (e + 1 + c) (ps.map fun p => p.1.times (p.2.getD c .zero))).div sum
      let most := (items.map fun p => (p.2.getD c .zero).abs).foldl FNum.max .zero
      near (free (dv + 1 + c)) x (most.times (.num false 1 (-12)))
    let l := m.add (sum.log u)
    let bound := (FNum.one.add l.abs).times (.num false 1 (-14))
    PRow.of m (near (free (2 * dv + 1)) l bound) out poison

/-- One step of the merge: the weight of a partial and its share of the output. -/
def mergeStep (l : FNum) (a : FNum × List FNum) (p : PRow) : FNum × List FNum :=
  let w := ((ofBits p.lse).sub l).exp .reducer
  (a.1.add w, List.zipWith (fun x y => x.add (w.times (ofBits y))) a.2 p.out)

/-- The merge rule (R170), in the order in which the partials came. -/
def mergeRows (dv : Nat) (ps : List PRow) : PRow :=
  let poison := ps.any PRow.poisoned
  let l := (ps.map fun p => ofBits p.lse).foldl FNum.max .bottom
  if l = .bottom then { PRow.empty dv with poisoned := poison }
  else
    let a := ps.foldl (mergeStep l) (.zero, List.replicate dv .zero)
    PRow.of ((ps.map fun p => ofBits p.m).foldl FNum.max .bottom) (l.add (a.1.log .reducer)) (a.2.map fun x => x.div a.1) poison

/-- Merges the partial rows of each index; indices in rising order. -/
def mergeAll (dv n : Nat) (ps : List (Nat × PRow)) : List (Nat × PRow) :=
  (List.range n).map fun i => (i, mergeRows dv ((ps.filter fun x => decide (x.1 = i)).map Prod.snd))

/-- The bytes of a partial row in a message (R168, R171). -/
def PRow.bytes (wide : Bool) (p : PRow) : List Byte :=
  leBytes 4 p.m.toNat ++ leBytes 4 p.lse.toNat
    ++ p.out.flatMap fun v => if wide then leBytes 4 v.toNat else leBytes 2 ((elemFmt 0).wide (ofBits v))

/-- Reads `n` output channels from bytes. -/
def outOfBytes (wide : Bool) (bs : List Byte) (n : Nat) : List U32 :=
  (List.range n).map fun i => if wide then BitVec.ofNat 32 (leNat ((bs.drop (4 * i)).take 4))
    else BitVec.ofNat 32 (leNat ((bs.drop (2 * i)).take 2) * 65536)

/-- Bytes of a partial row of `dv` channels (R171). -/
def prowSize (wide : Bool) (dv : Nat) : Nat := 8 + (if wide then 4 else 2) * dv

/-- The partial rows of a message's bytes, with their indices. -/
def prowsOf (wide : Bool) (dv n : Nat) (bs : List Byte) : List (Nat × PRow) :=
  (List.range n).map fun i =>
    let b := bs.drop (i * prowSize wide dv)
    (i, { m := BitVec.ofNat 32 (leNat (b.take 4)), lse := BitVec.ofNat 32 (leNat ((b.drop 4).take 4)), out := outOfBytes wide (b.drop 8) dv })

/-! ### Rows of an entry -/

/-- The step's own positions seen from query row `r` (R141, R163, R174): (new row, its position), those that the mask, and for a
tree its ancestry, admit. -/
def State.newVisible (s : State) (c : AttnShape) (nodes : Option (List TreeNode)) (positions : List Nat) (r : Nat) : List (Nat × Nat) :=
  positions.zipIdx.filterMap fun x =>
    if s.maskSees c (positions.getD r 0) x.1 && (match nodes with | some ns => treeSees ns 64 r x.2 | none => true) then some (x.2, x.1) else none

/-- The scores and values of the step's own positions for query row `r` and query head `h` (R141): `first` is the entry's first
token row. -/
def State.newItems (s : State) (c : AttnShape) (nodes : Option (List TreeNode)) (op e first : Nat) (positions : List Nat) (r h : Nat)
    (q : List FNum) : List (FNum × List FNum) × Bool :=
  let rows := (s.newVisible c nodes positions r).map fun x => s.newRow c op (e + 1024 * (x.1 + 1)) (first + x.1) (h / max 1 c.group) x.2
  (rows.zipIdx.map fun x => ((dot op (e + x.2) q x.1.k).mul (fp32.decode c.scale.toNat), x.1.v), rows.any KvRow.poison)

end Sys2Proof.Machine
end

