-- ==== Sys2Proof/Machine/MoveOps.lean ====
section
/-! DEFINITION. Shared operations of the Ibex descriptor queues (R206, R207) and of the ends of a transfer: opening, credit,
sending and closing (R232-R245, R251, R254, R255). -/

namespace Sys2Proof.Machine

/-! ### Descriptor queues (R206, R207) -/

/-- A descriptor queue. -/
def State.queue (s : State) (q : Nat) : IbexQueue := s.ibex.queues.get q

/-- Replaces a descriptor queue. -/
def State.setQueue (s : State) (q : Nat) (x : IbexQueue) : State :=
  { s with ibex := { s.ibex with queues := s.ibex.queues.set q x } }

/-- A source adds a descriptor: to the queue while it has room, else it is held (R207). -/
def State.enqueue (s : State) (q : Nat) (d : IbexDesc) : State :=
  let x := s.queue q
  if x.waiting.length < 256 && x.held.isEmpty then s.setQueue q { x with waiting := x.waiting ++ [d] }
  else s.setQueue q { x with held := x.held ++ [d] }

/-- Descriptor queue of a transfer: the step sequencer's for a handoff (R239), the protocol engines' for the others. -/
def TransferKind.queue (k : TransferKind) : Nat := match k with
  | .handoff => 0
  | _ => 64

/-! ### Entries and headers -/

/-- Record header of an entry, as OPEN carries it (R36, R236). -/
def HerdEntry.header (e : HerdEntry) : Record :=
  { state := .active, specAllowed := e.specAllowed, tenant := e.tenant, model := e.model, priority := e.priority
    adapter := e.adapter, partition := e.partition, requestId := e.requestId, admitTide := e.admitTide, deadline := e.deadline
    promptLen := e.recordP, maxNew := e.limit - e.recordP, budgetAccount := e.budgetAccount, sampling := e.sampling }

/-- A Herd entry filled from a record header (R68, R70). -/
def HerdEntry.ofHeader (h : Record) (m : Msg) (now : Nat) : HerdEntry :=
  { specAllowed := h.specAllowed, tenant := h.tenant, model := h.model, priority := h.priority, partition := h.partition
    adapter := h.adapter, anchorDev := m.anchor, mapEpoch := m.mapEpoch, requestId := m.requestId, deadline := h.deadline
    limit := h.promptLen + h.maxNew, promptLen := h.promptLen, recordP := h.promptLen, budgetAccount := h.budgetAccount
    recordIndex := m.index, handoffId := m.handoffId, admitTide := now, stateTide := now, sampling := h.sampling }

/-- The plan of a model. -/
def State.plan (s : State) (m : BitVec 6) : Plan := s.tier.plans.get m.toNat

/-- A root block of a model's geometry (R56). -/
def Plan.rootBlock (p : Plan) : RootBlock :=
  { layers := p.layers, heads := p.heads, slices := slicesOf p.width, format := p.format }

/-! ### Transfers -/

/-- PPT of a transfer (R53). -/
def Transfer.ppt (t : Transfer) : Nat := pagesPerTp t.heads t.slices t.format.toNat

/-- First tile position of a transfer's range, and the end of its tile positions. -/
def Transfer.firstTp (t : Transfer) : Nat := t.start / 64

/-- End of a transfer's tile positions. -/
def Transfer.endTp (t : Transfer) : Nat := (t.stop + 63) / 64

/-- Pairs of layer and tile position in a transfer's range. -/
def Transfer.cells (t : Transfer) : Nat := t.layers * (t.endTp - t.firstTp)

/-- ARG0 and ARG1 of OPEN and REGISTER (R236). -/
def Transfer.openArgs (t : Transfer) : U64 × U64 :=
  (BitVec.ofNat 64 (t.kind.code + t.format.toNat * 2 ^ 8 + t.layers * 2 ^ 12 + (t.heads - 1) * 2 ^ 20 + (t.slices - 1) * 2 ^ 28
      + (if t.rotated then 2 ^ 30 else 0) + t.partition.val * 2 ^ 31),
   BitVec.ofNat 64 (t.start + t.stop * 2 ^ 32))

/-- Sends OPEN to the peer of a transfer (R236). -/
def State.sendOpen (s : State) (id : Nat) : State :=
  let t := s.transfer id
  let e := s.entry t.slot
  s.sendAwait { kind := mOPEN, dst := t.peer, requestId := t.requestId, handoffId := t.id, arg0 := t.openArgs.1, arg1 := t.openArgs.2
                header := some e.header, anchor := e.anchorDev, index := e.recordIndex } t.slot

/-- Sends REGISTER to the anchor (R233). -/
def State.sendRegister (s : State) (id : Nat) : State :=
  let t := s.transfer id
  s.sendAwait { kind := mREGISTER, dst := t.anchor, requestId := t.requestId, handoffId := t.id, arg0 := t.openArgs.1, arg1 := t.openArgs.2
                receiver := if t.kind = .offload then some t.peer else none } t.slot

/-- An end of a transfer for the sequence of an entry, with the geometry of its root block. -/
def State.newTransfer (s : State) (n : Nat) (kind : TransferKind) (id : U32) (peer : U16) (start stop : Nat) : Transfer :=
  let e := s.entry n
  let r := s.root (e.pageRoot.getD 0)
  { kind := kind, id := id, phase := .opening, slot := n, requestId := e.requestId, peer := peer, anchor := e.anchorDev, start := start, stop := stop
    layers := r.layers, heads := r.heads, slices := r.slices, format := r.format, rotated := e.rotated, partition := e.partition
    requestedTo := start / 64, winStart := start / 64, curLayer := r.layers, curTp := start / 64 }

/-- What a holder may send of a range that is already sealed: every layer to its end (R240). -/
def Transfer.allPacked (t : Transfer) : Transfer :=
  { t with packed := (List.range t.layers).foldl (fun x l => x.set l t.endTp) [] }

/-- The receiver holds positions below `have_` already, as its replica (R251 step 4): they are not sent again. -/
def Transfer.skipTo (t : Transfer) (have_ : Nat) : Transfer :=
  let c := min t.endTp (max t.firstTp (have_ / 64))
  { t with arrived := t.layers * (c - t.firstTp), requestedTo := c, winStart := c, curTp := c,
           queuedTo := (List.range t.layers).foldl (fun x l => x.set l c) [] }

/-- Opens a transfer as its holder: OPEN is sent, after REGISTER for an offload (R233, R236). -/
def State.openHolder (s : State) (t : Transfer) : State :=
  let s := (s.setTransfer t.id.toNat { t with holder := true }).syncPeer t.slot
  if t.registered then s.sendOpen t.id.toNat else s.sendRegister t.id.toNat

/-- End of the tile positions for which a holder now keeps credit requested (R239). -/
def State.creditTarget (s : State) (t : Transfer) : Nat :=
  match t.kind with
  | .handoff => min t.endTp ((min t.stop (t.emitted + s.rdN Reg.HERD_CHUNK_MAX) + 63) / 64)
  | _ => t.endTp

/-- Asks for credit in position order, for all layers of each window in layer order, within HANDOFF_CREDIT_MAX (R238,
R239); `fuel` bounds the requests. -/
def State.pumpCredit : Nat → Nat → State → State
  | 0, _, s => s
  | fuel + 1, id, s =>
    let t := s.transfer id
    if t.phase ≠ .sending ∨ !t.holder ∨ t.kind = .restore then s
    else if t.layers ≤ t.curLayer then
      let e := s.creditTarget t
      if e ≤ t.requestedTo then s
      else State.pumpCredit fuel id (s.setTransfer id { t with winStart := t.requestedTo, requestedTo := e, curLayer := 0, curTp := t.requestedTo })
    else
      let n := min (4096 / t.ppt) (min (t.requestedTo - t.curTp) ((s.rdN Reg.HANDOFF_CREDIT_MAX - t.outstanding) / t.ppt))
      if n = 0 then s
      else
        let q : CreditReq := { layer := t.curLayer, firstTp := t.curTp, tps := n }
        let s := s.send { kind := mCREDIT_REQ, dst := t.peer, requestId := t.requestId, handoffId := t.id
                          arg0 := BitVec.ofNat 64 (q.layer + q.firstTp * 2 ^ 32), arg1 := BitVec.ofNat 64 n }
        let more := t.curTp + n < t.requestedTo
        State.pumpCredit fuel id (s.setTransfer id { t with
          requests := t.requests ++ [q], outstanding := t.outstanding + n * t.ppt
          curLayer := if more then t.curLayer else t.curLayer + 1, curTp := if more then t.curTp + n else t.winStart })

/-- Asks for what credit a holder may (R238, R239). -/
def State.askCredit (s : State) (id : Nat) : State :=
  let t := s.transfer id
  State.pumpCredit ((t.layers + 1) * (t.endTp + 2)) id s

/-- Queues the REMOTE_PUT of what a grant admits and the holder has packed and not yet sent (R239, R240); its tiles are sealed
as they are taken (R47). -/
def State.queuePut (s : State) (id : Nat) (g : Grant) : State :=
  let t := s.transfer id
  let l := g.req.layer
  let lo := max g.req.firstTp (t.queuedTo.get l)
  let hi := min (g.req.firstTp + g.req.tps) (t.packed.get l)
  if lo < hi then
    let root := (s.entry t.slot).pageRoot.getD 0
    let s := s.sealPages (((s.root root).lists.get l).filter fun p => decide (lo ≤ (s.page p).tilePos) && decide ((s.page p).tilePos < hi))
    let s := s.setTransfer id { t with queuedTo := t.queuedTo.set l hi, moving := t.moving + 1 }
    s.enqueue t.kind.queue
      { op := 8, partition := BitVec.ofNat 8 t.partition.val, srcFmt := t.format.zeroExtend 8, dstFmt := t.format.zeroExtend 8, layer := BitVec.ofNat 8 l
        count := BitVec.ofNat 32 ((hi - lo) * t.ppt), src := BitVec.ofNat 64 ((s.entry t.slot).pageRoot.getD 0)
        firstTp := BitVec.ofNat 32 lo, creditId := g.creditId, requestId := t.requestId, epoch := s.handoff.epoch, tag := t.id }
  else s

/-- Queues every REMOTE_PUT that the grants of a transfer admit. -/
def State.queuePuts (s : State) (id : Nat) : State := (s.transfer id).grants.foldl (fun s g => s.queuePut id g) s

/-- Sends SENT once the last transfer of the range is done and, for a handoff, the prompt is fully prefilled, and awaits
COMMIT (R241, R243, R244). -/
def State.checkSent (s : State) (id : Nat) : State :=
  let t := s.transfer id
  let ready := match t.kind with
    | .handoff => decide ((s.entry t.slot).state = .handoffOut)
    | _ => true
  if t.phase = .sending ∧ t.holder = true ∧ t.moving = 0 ∧ t.requests = [] ∧ t.cells ≤ t.arrived ∧ ready = true then
    let s := s.setTransfer id { t with phase := .waitCommit, sent := true }
    let s := s.send { kind := mSENT, dst := t.peer, requestId := t.requestId, handoffId := t.id, arg0 := BitVec.ofNat 64 t.stop }
    s.await { awaits := .commit, handoffId := t.id, requestId := t.requestId, peer := t.peer, herdSlot := t.slot }
  else s

/-- A holder goes on: credit, transfers and SENT. -/
def State.holderGoesOn (s : State) (id : Nat) : State := ((s.askCredit id).queuePuts id).checkSent id

/-! ### Closing -/

/-- Forgets the decision that a transfer awaits: its slot is free again, and a late answer finds it so (R31, R247). -/
def State.dropDecisions (s : State) (id : Nat) : State :=
  (s.ibex.slots.keysWhere fun _ x => decide (x.awaits = .decision) && x.fn == 2 && x.msgKind == mCOMMIT && decide (x.handoffId.toNat = id)).foldl
    State.endSlot s

/-- Answers COMMITs that await a decision LATE (R243, R247). -/
def State.answerLate (s : State) (t : Transfer) : State :=
  t.goAhead.foldl (fun s r =>
    (s.send { kind := mREPLY, status := stLATE, dst := t.peer, slot := r, requestId := t.requestId, handoffId := t.id }).count Reg.HANDOFF_LATE 1) s

/-- HANDOFF_GRACE in ns. -/
def State.grace (s : State) : Nat := s.rdN Reg.HANDOFF_GRACE * 1000000

/-- The outcome of a transfer with a peer, while it is kept (R243). -/
def State.outcomeWith (s : State) (id : Nat) (peer : U16) : Option KeptOutcome :=
  let o := s.handoff.outcomes.get id
  if o.kept ∧ o.peer = peer ∧ s.now < o.tide + s.grace then some o else none

/-- Keeps a transfer's outcome for HANDOFF_GRACE (R243, R264). -/
def State.keepOutcome (s : State) (id : Nat) (committed : Bool) (peer : U16) : State :=
  let o : KeptOutcome := { kept := true, committed := committed, peer := peer, requestId := (s.transfer id).requestId, tide := s.now }
  { s with handoff := { s.handoff with outcomes := s.handoff.outcomes.set id o } }

/-- A restore ends without a commit at its holder: the range is still owned (R70). -/
def State.restoreBack (s : State) (n : Nat) : State :=
  if (s.entry n).state = .restoring ∧ s.role = .cache then s.toState n .offloaded else s

/-- Puts a handoff back to OPENING while the anchor is asked for a new receiver (R244). -/
def State.sendRedirect (s : State) (id : Nat) (cause : Byte) : State :=
  let t := s.transfer id
  let s := s.setTransfer id { t with
    phase := .opening, redirecting := true, again := false, cause := cause, requests := [], grants := [], outstanding := 0, moving := 0
    arrived := 0, sent := false, commitSlot := none, goAhead := [], queuedTo := [], requestedTo := t.firstTp, winStart := t.firstTp
    curLayer := t.layers, curTp := t.firstTp, tried := t.peer :: t.tried }
  s.sendAwait { kind := mREDIRECT, status := cause, dst := t.anchor, requestId := t.requestId, handoffId := t.id } t.slot

/-- A failed attempt of a holder (R244): the receiver is told; a handoff asks the anchor for another receiver, an offload
tells the anchor and is selected again later, a replica or restore only ends. -/
def State.failAttempt (s : State) (id : Nat) (cause : Byte) : State :=
  let t := s.transfer id
  if t.phase = .closed ∨ !t.holder ∨ t.redirecting then s
  else
    let s := ((s.sendAbort t.peer t cause).dropDecisions id).answerLate t
    let s := (s.dropCommitSlot id).keepOutcome id false t.peer
    match t.kind with
    | .handoff => (s.bump Reg.HANDOFF_ABORTS 0 16 1).sendRedirect id cause
    | .offload =>
      let e := s.entry t.slot
      let s := s.setEntry t.slot { e with offloadAvoid := t.peer :: e.offloadAvoid }
      let s := s.sendAwait { kind := mABORT, status := cause, dst := t.anchor, requestId := t.requestId, handoffId := t.id } t.slot
      s.closeTransfer id
    | _ => (s.closeTransfer id).restoreBack t.slot

/-- A transfer completed with POISON (R244): the receiver and the anchor are told, and there is no redirect. -/
def State.poisonEnd (s : State) (id : Nat) : State :=
  let t := s.transfer id
  if t.phase = .closed then s
  else
    let s := (s.sendAbort t.peer t stPOISON).sendAbort t.anchor t stPOISON
    (s.closeTransfer id).restoreBack t.slot

/-- A receiving end closes without a commit (R245, R254): pages pre-allocated are freed, an entry that the transfer made goes
to IDLE, one that was there before keeps what it has, and a failed restore is reported to the anchor (R248). -/
def State.closeReceiver (s : State) (id : Nat) (cause : Byte) : State :=
  let t := s.transfer id
  if t.phase = .closed then s
  else
    let s := s.closeTransfer id
    let s := if t.joined then s.setEntry t.slot { s.entry t.slot with
        rangePending := false, restoring := (s.entry t.slot).restoring && decide (t.kind ≠ .restore) }
      else s.toIdle t.slot
    if t.kind = .restore then s.sendAbort t.anchor t cause else s

end Sys2Proof.Machine
end

