-- ==== Sys2Proof/Machine/Handoff.lean ====
section
/-! DEFINITION. The two ends of a transfer: what each protocol message does there (R232-R262, R565), and the offers and
orders that open offloads, restores and replicas (R251, R254, R255). -/

namespace Sys2Proof.Machine

/-! ### Commits at the holder (R243) -/

/-- Sends COMMIT to the anchor (R236, R243, R245). -/
def State.commitToAnchor (s : State) (t : Transfer) (slot : Nat) : State :=
  s.send { kind := mCOMMIT, dst := t.anchor, requestId := t.requestId, handoffId := t.id
           receiver := if t.kind = .offload ∧ t.holder = true then some t.peer else none
           arg0 := BitVec.ofNat 64 (t.start + t.stop * 2 ^ 32), arg1 := BitVec.ofNat 64 slot }

/-- A handoff's holder whose state has passed to another device releases it (R70, R243, R246). -/
def State.handedOver (s : State) (n : Nat) : State :=
  (s.setEntry n { s.entry n with state := .handoffCommitted, stateTide := s.now, handoffId := 0, peerDev := none }).letGo (s.ownedPages n)

/-- What a holder does once it has accepted COMMIT, by the transfer's kind (R243). -/
def State.holderCommitted (s : State) (t : Transfer) (slot : Nat) : State :=
  let e := s.entry t.slot
  match t.kind with
  | .handoff => (s.commitToAnchor t slot).handedOver t.slot
  | .offload =>
    let s := s.bump Reg.HANDOFF_MOVES 0 16 1
    (s.commitToAnchor t slot).setEntry t.slot { e with offloaded := some (t.stop, t.peer), offloadAvoid := [] }
  | .replica =>
    let s := s.setEntry t.slot { e with replicaDev := some t.peer, covered := t.stop }
    s.sendAwait { kind := mCOVERED, dst := t.anchor, requestId := t.requestId, arg0 := BitVec.ofNat 64 t.stop } t.slot
  | .restore =>
    let s := s.commitToAnchor t slot
    if t.fromReplica then s else (s.letGo (s.ownedPages t.slot)).toIdle t.slot

/-- The ownership commit (R243): the holder accepts COMMIT, answers OK to it and to its repeats, and acts. -/
def State.acceptCommit (s : State) (id : Nat) (refs : List U32) (slot : Nat) : State :=
  let t := s.transfer id
  let s := s.dropCommitSlot id
  let s := refs.foldl (fun s r => if r = 0 then s
    else s.send { kind := mREPLY, dst := t.peer, slot := r, requestId := t.requestId, handoffId := t.id }) s
  let s := (s.count Reg.HANDOFF_COMMITS 1).keepOutcome id true t.peer
  ((s.setTransfer id {}).syncPeer t.slot).holderCommitted t slot

/-- A COMMIT reaches the holder (R243, R247): while its slot is WAITING the commit is accepted, or awaits the host's
go-ahead; after the timer has won it is answered LATE, and a repeat is answered as the first was. -/
def State.holderCommit (s : State) (m : Msg) : State :=
  let id := m.handoffId.toNat
  let t := s.transfer id
  let slot := fieldOf m.arg1 31 0
  if t.phase = .waitCommit ∧ t.holder = true ∧ t.peer = m.src ∧ t.commitSlot.isSome = true then
    if s.fnMode 2 = .hostAssist then
      let first := t.goAhead.isEmpty
      let s := s.setTransfer id { t with goAhead := t.goAhead ++ [m.slot] }
      if first then s.askHost 2 { msg := some m, msgKind := mCOMMIT, requestId := t.requestId, handoffId := t.id, herdSlot := t.slot } else s
    else s.acceptCommit id [m.slot] slot
  else
    if (s.outcomeWith id m.src).any KeptOutcome.committed then s.reply m stOK
    else (s.reply m stLATE).count Reg.HANDOFF_LATE 1

/-! ### The receiver (R242, R245) -/

/-- Pages of a layer's tile positions in a sequence's list are all there and sealed (R221, R242). -/
def State.cellArrived (s : State) (r : RootBlock) (layer tp : Nat) : Bool :=
  let ps := (r.lists.get layer).filter fun p => decide ((s.page p).tilePos = tp)
  decide (ps.length = r.ppt) && ps.all fun p => s.pageSealed p

/-- Every tile of the range has arrived (R242). -/
def State.rangeArrived (s : State) (t : Transfer) : Bool :=
  let r := s.root ((s.entry t.slot).pageRoot.getD 0)
  (List.range t.layers).all fun l => (List.range (t.endTp - t.firstTp)).all fun i => s.cellArrived r l (t.firstTp + i)

/-- Sends COMMIT to the holder (R242). -/
def State.sendCommit (s : State) (t : Transfer) : State :=
  s.sendAwait { kind := mCOMMIT, dst := t.peer, requestId := t.requestId, handoffId := t.id
                arg0 := BitVec.ofNat 64 (t.start + t.stop * 2 ^ 32), arg1 := BitVec.ofNat 64 t.slot } t.slot

/-- A handoff's receiver that has everything enters DECODING, with range pending still set (R70, R242). -/
def State.enterDecoding (s : State) (t : Transfer) : State :=
  let e := s.entry t.slot
  if t.kind = .handoff ∧ e.state = .handoffIn then
    s.setEntry t.slot { e with state := .decoding, stateTide := s.now, length := t.stop, prefilled := t.stop }
  else s

/-- The receiver commits once SENT and every tile of the range have arrived; a restore, once its last REMOTE_GET is done
(R242). -/
def State.checkCommit (s : State) (id : Nat) : State :=
  let t := s.transfer id
  let all := match t.kind with
    | .restore => decide (t.moving = 0) && decide (t.requests = []) && decide (t.cells ≤ t.arrived)
    | _ => s.rangeArrived t
  if t.phase = .granting ∧ t.holder = false ∧ t.sent = true ∧ all = true then
    let s := s.setTransfer id { t with phase := .committing }
    let s := s.setEntry t.slot { s.entry t.slot with rangePending := true }
    (s.enterDecoding t).sendCommit t
  else s

/-- The receiver owns the range: its pages go to ALLOCATED (R61, R245). -/
def State.promote (s : State) (ps : List Nat) : State :=
  ps.foldl (fun s p => if (s.page p).state = .inFlight then s.setPage p { s.page p with state := .allocated, changed := s.now } else s) s

/-- Clears the replica flag of the pages of a sequence below a tile position, and releases its copies from it on (R251
step 4). -/
def State.ownReplica (s : State) (n endTp : Nat) : State :=
  let ps := s.ownedPages n
  let s := (ps.filter fun p => decide ((s.page p).tilePos < endTp)).foldl (fun s p => s.setPage p { s.page p with replica := false }) s
  s.letGo (ps.filter fun p => decide (endTp ≤ (s.page p).tilePos))

/-- What the entry of a receiver becomes, by the transfer's kind (R70, R245, R254, R261). -/
def State.receiverOwns (s : State) (t : Transfer) : State :=
  let e := { s.entry t.slot with rangePending := false, handoffId := 0, peerDev := none }
  match t.kind with
  | .handoff => s.setEntry t.slot e
  | .offload =>
    let s := s.setEntry t.slot { e with replica := false, length := t.stop, rangeStart := if t.joined && !e.replica then e.rangeStart else t.start }
    if e.replica then s.ownReplica t.slot t.endTp else s
  | .replica => s.setEntry t.slot { e with length := t.stop, covered := t.stop }
  | .restore =>
    let s := (s.bump Reg.HANDOFF_MOVES 16 16 1).commitToAnchor t t.slot
    if t.fromReplica then
      s.setEntry t.slot { e with state := .decoding, stateTide := s.now, length := t.stop, prefilled := t.stop, rangeStart := 0, replicaDev := some t.peer, covered := t.stop }
    else
      let low := e.lowerPeers.dropLast
      s.setEntry t.slot { e with
        rangeStart := t.start, lowerPeers := low, lowerStarts := e.lowerStarts.dropLast, restoring := !low.isEmpty
        state := if low.isEmpty then .decoding else .restoring, stateTide := s.now }

/-- COMMITTING ends with the range owned here (R245). -/
def State.owning (s : State) (id : Nat) : State :=
  let t := s.transfer id
  if t.phase ≠ .committing then s
  else
    let s := (s.setTransfer id {}).promote t.grantPages
    ((s.receiverOwns t).filledTo ((s.entry t.slot).pageRoot.getD 0) t.stop).settleEntries

/-- COMMITTING ends without it: handled as an end order for an entry that the transfer made (R245), while an entry that was
there before gives up only the transfer's pages (R254). -/
def State.notOwning (s : State) (id : Nat) (st : Byte) : State :=
  let t := s.transfer id
  if t.phase = .closed then s
  else if t.joined || decide (t.kind = .restore) then s.closeReceiver id st
  else (s.closeTransfer id).endOrder t.slot st

/-- The outcome of a receiver's COMMIT (R245): OK, LATE, or no answer, which is followed by an UNCONFIRMED COMMIT to the
anchor. -/
def State.commitAnswered (s : State) (x : Slot) (st : Byte) : State :=
  let id := x.handoffId.toNat
  let t := s.transfer id
  if t.phase ≠ .committing ∨ t.holder then s
  else if st.toNat < 0x10 then s.owning id
  else if st = stTIMEOUT ∨ st = stTARGET_DEAD then
    s.sendAwait { kind := mCOMMIT, flags := 1, dst := t.anchor, requestId := t.requestId, handoffId := t.id
                  arg0 := BitVec.ofNat 64 (t.start + t.stop * 2 ^ 32), arg1 := BitVec.ofNat 64 t.slot } t.slot
  else s.notOwning id st

/-- A receiver's entry for an OPEN (R70): one that the device has already for the request, or a new one. Where a slot is IDLE
but no root block is free there is none, and the message is refused NOT_READY as without a slot (DESIGN CHOICE, log entry
78). -/
def State.entryFor (s : State) (kind : TransferKind) (m : Msg) (h : Record) (a : Nat) : Option (Nat × Bool × State) :=
  let own := match kind, s.herdOf m.requestId with
    | .offload, some n => if (s.entry n).state = .offloaded ∧ ((s.entry n).replica = true ∨ (s.entry n).length = a) then some n else none
    | .replica, some n => if (s.entry n).state = .offloaded ∧ (s.entry n).replica = true then some n else none
    | _, _ => none
  match own with
  | some n => some (n, true, s)
  | none =>
    match s.idleSlot, s.takeRoot (s.plan h.model).rootBlock with
    | some n, some (r, s) =>
      let e := HerdEntry.ofHeader h m s.now
      some (n, false, s.setEntry n { e with pageRoot := some r, rangeStart := a, rotated := m.arg0.getLsbD 30, partition := ⟨fieldOf m.arg0 33 31 % 8, Nat.mod_lt _ (by decide)⟩ })
    | _, _ => none

/-- The state an OPEN gives the receiver's entry (R70, R245). -/
def State.fillReceiver (s : State) (n : Nat) (kind : TransferKind) (m : Msg) (joined : Bool) : State :=
  let e := s.entry n
  let st := match kind with
    | .handoff => HState.handoffIn
    | .restore => HState.restoring
    | _ => HState.offloaded
  s.setEntry n { e with state := st, rangePending := true, replica := if joined then e.replica else kind == .replica
                        peerDev := some m.src, handoffId := m.handoffId, stateTide := s.now }

/-- The receiving end that an OPEN opens. -/
def receiverEnd (kind : TransferKind) (m : Msg) (n : Nat) (anchor : U16) (joined : Bool) : Transfer :=
  { kind := kind, id := m.handoffId, phase := .granting, holder := false, slot := n, requestId := m.requestId, peer := m.src, anchor := anchor
    start := fieldOf m.arg1 31 0, stop := fieldOf m.arg1 63 32, layers := fieldOf m.arg0 19 12, heads := fieldOf m.arg0 27 20 + 1
    slices := fieldOf m.arg0 29 28 + 1, format := BitVec.ofNat 4 (fieldOf m.arg0 11 8), rotated := m.arg0.getLsbD 30
    partition := ⟨fieldOf m.arg0 33 31 % 8, Nat.mod_lt _ (by decide)⟩, joined := joined }

/-- Counts a refusal with STALE_MAP (R266) and answers it. -/
def State.staleMap (s : State) (m : Msg) : State := (s.bump Reg.HANDOFF_STALE 0 16 1).reply m stSTALE_MAP

/-- The role performs what an OPEN of a kind asks of its destination (R16, R232). -/
def State.opensHere (s : State) (kind : TransferKind) : Bool :=
  match kind with
  | .handoff => s.role.generates
  | _ => s.role == .cache

/-- A device accepts OPEN as the receiver of a handoff, offload or replica (R70, R72, R237, R245, R460). -/
def State.openReceiver (s : State) (kind : TransferKind) (m : Msg) (h : Record) : State :=
  if !(s.plan h.model).loaded then s.staleMap m
  else if s.draining then s.reply m stNOT_READY
  else match s.entryFor kind m h (fieldOf m.arg1 31 0) with
  | none => s.reply m stNOT_READY
  | some (n, joined, s) =>
    let s := s.setTransfer m.handoffId.toNat (receiverEnd kind m n (s.entry n).anchorDev joined)
    (s.fillReceiver n kind m joined).reply m stOK

/-- The references of the tile positions of a layer that a restore holder holds (R241). -/
def State.refsOf (s : State) (r : RootBlock) (layer tp n : Nat) : List U64 :=
  ((r.lists.get layer).filter fun p => decide (tp ≤ (s.page p).tilePos) && decide ((s.page p).tilePos < tp + n)).map s.refOf

/-- Sends REFS for every layer, at most 4,096 pages each (R241). -/
def State.sendRefs (s : State) (t : Transfer) : State :=
  let r := s.root ((s.entry t.slot).pageRoot.getD 0)
  let per := 4096 / t.ppt
  let n := t.endTp - t.firstTp
  (List.range t.layers).foldl (fun s l =>
    (List.range ((n + per - 1) / per)).foldl (fun s k =>
      let a := t.firstTp + k * per
      let c := min per (t.endTp - a)
      let refs := s.refsOf r l a c
      s.send { kind := mREFS, dst := t.peer, requestId := t.requestId, handoffId := t.id, refs := refs
               arg0 := BitVec.ofNat 64 (l + a * 2 ^ 32), arg1 := BitVec.ofNat 64 c, arg2 := BitVec.ofNat 64 (refs.length * 2 ^ 32) }) s) s

/-- A CACHE device accepts OPEN as the holder of a restore (R237, R241, R254, R261): it sends its REFS, then SENT. -/
def State.openRestore (s : State) (m : Msg) : State :=
  match s.herdOf m.requestId with
  | none => s.staleMap m
  | some n =>
    let e := s.entry n
    let a := fieldOf m.arg1 31 0
    let b := fieldOf m.arg1 63 32
    let fits := if e.replica then decide (a = 0) && decide (b ≤ e.covered) else decide (a = e.rangeStart) && decide (b = e.length)
    if e.state ≠ .offloaded ∨ !fits ∨ !(s.plan e.model).loaded then s.staleMap m
    else
      let t := { s.newTransfer n .restore m.handoffId m.src a b with phase := .sending, holder := true, fromReplica := e.replica }
      let t := { t with arrived := t.cells }
      let s := s.setTransfer m.handoffId.toNat t
      let s := s.setEntry n { e with state := if e.replica then .offloaded else .restoring, peerDev := some m.src, stateTide := s.now }
      (((s.reply m stOK).sendRefs t).checkSent m.handoffId.toNat)

/-- OPEN (R236, R237): a repeat of one accepted is answered OK again. -/
def State.onOpen (s : State) (m : Msg) : State :=
  let t := s.transfer m.handoffId.toNat
  if t.phase ≠ .closed ∧ t.peer = m.src then s.reply m stOK
  else match TransferKind.ofCode (fieldOf m.arg0 7 0), m.header with
  | some .restore, _ => if s.role = .cache then s.openRestore m else s.staleMap m
  | some k, some h => if s.opensHere k then s.openReceiver k m h else s.staleMap m
  | _, _ => s.reply m stMALFORMED

/-! ### Credit at the receiver (R238) -/

/-- A malformed message without a slot is dropped and counted in HANDOFF_STATUS; with one it is answered (R234). -/
def State.malformedMsg (s : State) (m : Msg) : State :=
  if m.slot = 0 then s.setFlag Reg.HANDOFF_STATUS 3 true else s.reply m stMALFORMED

/-- What the pages of a transfer are allocated for (R61). -/
def State.inFlightFor (s : State) (t : Transfer) : AllocFor :=
  { slot := t.slot, requestId := t.requestId, part := t.partition, root := (s.entry t.slot).pageRoot.getD 0
    rotated := t.rotated, replica := t.kind == .replica, state := .inFlight }

/-- Pages of the sequence's list at some tile positions of a layer. -/
def State.pagesAt (s : State) (n layer tp k : Nat) : List Nat :=
  ((s.root ((s.entry n).pageRoot.getD 0)).lists.get layer).filter fun p => decide (tp ≤ (s.page p).tilePos) && decide ((s.page p).tilePos < tp + k)

/-- Pairs of layer and tile position that a request covers. -/
def CreditReq.cells (q : CreditReq) : List (Nat × Nat) := (List.range q.tps).map fun i => (q.layer, q.firstTp + i)

/-- Enters a grant and sends GRANT for pages just pre-allocated (R236, R238). -/
def State.sendGrant (s : State) (id : Nat) (q : CreditReq) : State :=
  let t := s.transfer id
  let ps := s.pagesAt t.slot q.layer q.firstTp q.tps
  let c := s.handoff.credits % (2 ^ 32 - 1) + 1
  let refs := ps.map s.refOf
  let s := { s with handoff := { s.handoff with credits := c } }
  let s := s.setTransfer id { t with grants := t.grants ++ [{ req := q, creditId := BitVec.ofNat 32 c, refs := refs, pages := ps }] }
  s.send { kind := mGRANT, dst := t.peer, requestId := t.requestId, handoffId := t.id, refs := refs
           arg0 := BitVec.ofNat 64 (q.layer + q.firstTp * 2 ^ 32), arg1 := BitVec.ofNat 64 q.tps
           arg2 := BitVec.ofNat 64 (c + refs.length * 2 ^ 32) }

/-- Pre-allocates the pages of the first request that waits, and grants them (R238): in HW mode, from the pool. -/
def State.serveCredit (s : State) (id : Nat) : State :=
  let t := s.transfer id
  match t.requests with
  | [] => s
  | q :: qs =>
    if t.phase ≠ .granting ∨ t.holder ∨ t.kind = .restore ∨ s.fnMode 1 = .hostAssist then s
    else match State.allocAll (s.inFlightFor t) q.cells s with
    | none => s
    | some s => (s.setTransfer id { t with requests := qs }).sendGrant id q

/-- Posts the page allocations that a HOST_ASSIST receiver has not yet asked for, outside the auditor's hold (R64, R65). -/
def State.postCredit (s : State) (id : Nat) : State :=
  let t := s.transfer id
  if s.fnMode 1 ≠ .hostAssist ∨ s.tier.held = true then s
  else
    let k := t.requests.countP fun q => !q.posted
    let s := s.setTransfer id { t with requests := t.requests.map fun q => { q with posted := true } }
    (List.range k).foldl (fun s _ => s.askHost 1 { msgKind := mCREDIT_REQ, handoffId := t.id, requestId := t.requestId, herdSlot := t.slot }) s

/-- A request keeps within R238 and the range that OPEN opened. -/
def Transfer.admits (t : Transfer) (q : CreditReq) : Bool :=
  decide (1 ≤ q.tps) && decide (q.tps * t.ppt ≤ 4096) && decide (q.layer < t.layers) && decide (t.firstTp ≤ q.firstTp) && decide (q.firstTp + q.tps ≤ t.endTp)

/-- CREDIT_REQ (R238): granted, or queued for want of pages; one that asks for more is dropped. -/
def State.onCreditReq (s : State) (m : Msg) : State :=
  let id := m.handoffId.toNat
  let t := s.transfer id
  let q : CreditReq := { layer := fieldOf m.arg0 7 0, firstTp := fieldOf m.arg0 63 32, tps := fieldOf m.arg1 31 0 }
  if t.phase ≠ .granting ∨ t.holder ∨ t.peer ≠ m.src ∨ t.kind = .restore then s
  else if !t.admits q then s.malformedMsg m
  else
    let s := s.setTransfer id { t with requests := t.requests ++ [q] }
    if t.requests.isEmpty then (s.serveCredit id).postCredit id else s.postCredit id

/-- A GRANT passes the holder's check of one reference (R59, R60, R212, R238). -/
def Transfer.refOk (t : Transfer) (r : U64) (i : Nat) : Bool :=
  let p := PageRef.ofWord r
  p.device == t.peer && p.ok && decide (p.format = t.format.toNat) && decide (p.tiles = tileCountAt t.heads t.slices t.format.toNat (i % t.ppt))

/-- GRANT (R238): checked before any reference is used; one that fails ends the attempt with MALFORMED. -/
def State.onGrant (s : State) (m : Msg) : State :=
  let id := m.handoffId.toNat
  let t := s.transfer id
  let q : CreditReq := { layer := fieldOf m.arg0 7 0, firstTp := fieldOf m.arg0 63 32, tps := fieldOf m.arg1 31 0 }
  if t.phase ≠ .sending ∨ !t.holder ∨ t.peer ≠ m.src then s
  else
    let good := t.requests.contains q && decide (m.refs.length = q.tps * t.ppt) && decide (fieldOf m.arg2 63 32 = m.refs.length)
      && (List.range m.refs.length).all fun i => t.refOk (m.refs.getD i 0) i
    if !good then s.failAttempt id stMALFORMED
    else
      let g : Grant := { req := q, creditId := BitVec.ofNat 32 (fieldOf m.arg2 31 0), refs := m.refs }
      (s.setTransfer id { t with requests := t.requests.erase q, grants := t.grants ++ [g] }).holderGoesOn id

/-- A request for the same tile positions, asked of the host or not. -/
def CreditReq.same (a b : CreditReq) : Bool := a.layer == b.layer && a.firstTp == b.firstTp && a.tps == b.tps

/-- Queues the REMOTE_GET of the pages that a restore's REFS name, its own pages being pre-allocated (R241, R242). -/
def State.getGiven (s : State) (id : Nat) (g : Grant) : State :=
  let t := s.transfer id
  let ps := s.pagesAt t.slot g.req.layer g.req.firstTp g.req.tps
  let s := s.setTransfer id { t with
    requests := t.requests.filter fun q => !q.same g.req, grants := t.grants.filter (fun x => !x.req.same g.req) ++ [{ g with pages := ps }], moving := t.moving + 1 }
  s.enqueue t.kind.queue
    { op := 9, flags := 0x44, partition := BitVec.ofNat 8 t.partition.val, srcFmt := t.format.zeroExtend 8, dstFmt := t.format.zeroExtend 8
      layer := BitVec.ofNat 8 g.req.layer, count := BitVec.ofNat 32 (g.req.tps * t.ppt), dst := BitVec.ofNat 64 ((s.entry t.slot).pageRoot.getD 0)
      firstTp := BitVec.ofNat 32 g.req.firstTp, requestId := t.requestId, epoch := s.handoff.epoch, tag := t.id }

/-- Pre-allocates a restore's pages, in HW mode, and fetches them. -/
def State.queueGet (s : State) (id : Nat) (g : Grant) : Option State :=
  if s.fnMode 1 = .hostAssist then none
  else (State.allocAll (s.inFlightFor (s.transfer id)) g.req.cells s).map fun s => s.getGiven id g

/-- Grants whose pages are still to be had are kept with no pages, under their requests; each is tried again in order. -/
def State.retryGets (s : State) (id : Nat) : State :=
  ((s.transfer id).grants.filter fun g => (s.transfer id).requests.any fun q => q.same g.req).foldl (fun s g =>
    match s.queueGet id g with
    | some s => s
    | none => s) s

/-- REFS (R241): the receiver of a restore checks the references, pre-allocates its pages, or asks the host for them (R65), and
fetches the tiles. -/
def State.onRefs (s : State) (m : Msg) : State :=
  let id := m.handoffId.toNat
  let t := s.transfer id
  let q : CreditReq := { layer := fieldOf m.arg0 7 0, firstTp := fieldOf m.arg0 63 32, tps := fieldOf m.arg1 31 0 }
  if t.phase ≠ .granting ∨ t.holder ∨ t.kind ≠ .restore ∨ t.peer ≠ m.src then s
  else
    let good := t.admits q && decide (m.refs.length = q.tps * t.ppt) && (List.range m.refs.length).all fun i => t.refOk (m.refs.getD i 0) i
    if !good then (s.sendAbort t.peer t stMALFORMED).closeReceiver id stMALFORMED
    else
      let g : Grant := { req := q, refs := m.refs }
      match s.queueGet id g with
      | some s => s
      | none => (s.setTransfer id { t with requests := t.requests ++ [q], grants := t.grants ++ [g] }).postCredit id

/-- SENT (R242). -/
def State.onSent (s : State) (m : Msg) : State :=
  let id := m.handoffId.toNat
  let t := s.transfer id
  if t.phase = .granting ∧ t.holder = false ∧ t.peer = m.src then (s.setTransfer id { t with sent := true }).checkCommit id else s

/-! ### Descriptors of a transfer (R241) -/

/-- A REMOTE_PUT or REMOTE_GET of a transfer has completed (R241, R244): with a status of 0x10 or above it ends the
attempt, with POISON the transfer; TARGET_DEAD marks the peer failed (R248). -/
def State.moveDone (s : State) (id pages : Nat) (st : Byte) : State :=
  let t := s.transfer id
  let s := if st = stTARGET_DEAD then s.peerDead t.peer else s
  let t := s.transfer id
  if t.phase = .closed ∨ t.redirecting then s
  else
    let s := s.setTransfer id { t with
      moving := t.moving - 1, outstanding := t.outstanding - (if st.toNat < 0x10 then pages else 0)
      arrived := t.arrived + (if st.toNat < 0x10 then pages / t.ppt else 0) }
    if t.holder then
      if st.toNat < 0x10 then s.holderGoesOn id else if st = stPOISON then s.poisonEnd id else s.failAttempt id st
    else if st.toNat < 0x10 then s.checkCommit id
    else (s.sendAbort t.peer t st).closeReceiver id st

/-! ### Answers to a holder and to an initiator -/

/-- The outcome of an OPEN (R244): accepted, refused, or unanswered. A restore's receiver now awaits REFS. -/
def State.openAnswered (s : State) (x : Slot) (st : Byte) : State :=
  let id := x.handoffId.toNat
  let t := s.transfer id
  if t.phase ≠ .opening ∨ t.peer ≠ x.peer ∨ t.redirecting then s
  else if !t.holder then
    if st.toNat < 0x10 then s.setTransfer id { t with phase := .granting } else s.closeReceiver id st
  else if st.toNat < 0x10 then (s.setTransfer id { t with phase := .sending }).holderGoesOn id
  else match t.kind, st == stNOT_READY, t.cands with
  | .offload, true, c :: cs => ((s.setTransfer id { t with peer := c, cands := cs }).syncPeer t.slot).sendOpen id
  | _, _, _ => s.failAttempt id st

/-- The outcome of a REGISTER (R233): NOT_READY is tried again from the next step boundary on. An entry in RESTORING leaves that
state by R70 only when every lower range is back or by an end order, so a REGISTER for its next range that is refused with
another status is tried again as well (DEDUCED, log entry 80). -/
def State.registerAnswered (s : State) (x : Slot) (st : Byte) : State :=
  let id := x.handoffId.toNat
  let t := s.transfer id
  if t.phase = .closed ∨ t.registered then s
  else if st.toNat < 0x10 then (s.setTransfer id { t with registered := true }).sendOpen id
  else if st = stNOT_READY ∨ st = stTIMEOUT ∨ (t.kind = .restore ∧ t.fromReplica = false) then s.setTransfer id { t with again := true }
  else
    let s := s.closeTransfer id
    if t.kind = .restore then s.toIdle t.slot else s

/-- The outcome of a REDIRECT (R244, R246): a new receiver, to which the holder sends OPEN; NOT_READY, after which it asks
again at a step boundary; or LATE, by which the transfer has committed. -/
def State.redirectAnswered (s : State) (x : Slot) (st : Byte) (arg0 : U64) : State :=
  let id := x.handoffId.toNat
  let t := s.transfer id
  if t.phase ≠ .opening ∨ !t.redirecting then s
  else if st.toNat < 0x10 then
    let d := BitVec.ofNat 16 (fieldOf arg0 15 0)
    let i := BitVec.ofNat 32 (fieldOf arg0 63 32)
    let s := s.setTransfer id {}
    let s := s.setTransfer i.toNat { t with id := i, peer := d, redirecting := false, again := false, redirects := t.redirects + 1 }
    (s.setEntry t.slot { s.entry t.slot with handoffId := i, peerDev := some d }).sendOpen i.toNat
  else if st = stLATE then ((s.keepOutcome id true t.peer).setTransfer id {}).handedOver t.slot
  else s.setTransfer id { t with again := true }

/-! ### Admission at the PROMPT device (R565) -/

/-- ADMIT at a PROMPT device (R16, R17, R24, R70, R72, R237, R460, R565). The one rotated flag of an entry, which all its
pages then carry, is set where its plan rotates any layer (DESIGN CHOICE, log entry 79). -/
def State.onAdmit (s : State) (m : Msg) : State :=
  let recv := BitVec.ofNat 16 (fieldOf m.arg0 15 0)
  let self := recv == s.devId
  match m.header with
  | none => s.malformedMsg m
  | some h =>
    if !s.role.prefills ∨ !(s.plan h.model).loaded ∨ (self ∧ s.role ≠ .mixed) then s.staleMap m
    else if s.draining then s.reply m stNOT_READY
    else match s.idleSlot, s.takeRoot (s.plan h.model).rootBlock with
    | some n, some (r, s) =>
      let e := HerdEntry.ofHeader h m s.now
      let p := s.plan h.model
      let s := s.setEntry n { e with
        state := .admitted, pageRoot := some r, promptLen := fieldOf m.arg0 47 16, promptTokens := m.tokens, peerDev := some recv
        rotated := !p.rotated.isEmpty, partition := (s.tenantOf h.tenant.toNat).partition }
      let s := s.reply m stOK
      if self then s
      else s.openHolder { s.newTransfer n .handoff m.handoffId recv 0 (fieldOf m.arg0 47 16) with anchor := m.anchor }
    | _, _ => s.reply m stNOT_READY

/-- PROMPT_TOKENS (R565): in index order, never past P′. -/
def State.onPromptTokens (s : State) (m : Msg) : State :=
  match s.herdOf m.requestId with
  | none => s.reply m stMALFORMED
  | some n =>
    let e := s.entry n
    if fieldOf m.arg0 31 0 ≠ e.promptTokens.length ∨ e.promptLen < e.promptTokens.length + m.tokens.length then s.reply m stMALFORMED
    else (s.setEntry n { e with promptTokens := e.promptTokens ++ m.tokens }).reply m stOK

/-! ### Offloads, restores and replicas (R251, R254, R255, R261) -/

/-- D of R251. -/
def State.offloadTo (s : State) (e : HerdEntry) : Nat := (e.length - s.rdN Reg.HANDOFF_OFFLOAD_KEEP) / 4096 * 4096

/-- Targets of an offload in the order of R251 steps 3 and 4: the holder of the highest lower range, the replica holder, or
the CACHE devices of the map from position REQUEST_ID mod n on; targets that failed come last. -/
def State.offloadTargets (s : State) (e : HerdEntry) : List U16 :=
  match e.lowerPeers.getLast?, e.replicaDev with
  | some d, _ => [d]
  | none, some d => [d]
  | none, none =>
    let cs := s.serving (· == .cache) e.model e.partition.val
    let k := e.requestId.toNat % max 1 cs.length
    let rot := cs.drop k ++ cs.take k
    let ok := rot.filter fun d => !s.isFailed d && !e.offloadAvoid.contains d
    if ok.isEmpty then rot.filter (fun d => !s.isFailed d) else ok

/-- Opens an offload of [RANGE_START, D) to a target (R233, R251). -/
def State.startOffload (s : State) (n : Nat) (target : U16) (rest : List U16) : State :=
  let e := s.entry n
  let (id, s) := s.newHandoff
  let t := { (s.newTransfer n .offload id target e.rangeStart (s.offloadTo e)).allPacked with registered := false, cands := rest }
  s.openHolder (if e.replicaDev = some target then t.skipTo e.covered else t)

/-- Takes a candidate of R251: in HOST_ASSIST mode the host chooses the target (R247). -/
def State.offloadEntry (s : State) (n : Nat) : State :=
  if s.fnMode 2 = .hostAssist then s.askHost 2 { msgKind := mOPEN, herdSlot := n, requestId := (s.entry n).requestId }
  else match s.offloadTargets (s.entry n) with
  | d :: ds => s.startOffload n d ds
  | [] => s

/-- Pages of a sequence. -/
def State.pageCount (s : State) (e : HerdEntry) : Nat :=
  match e.pageRoot with
  | none => 0
  | some r => ((s.root r).lists.map fun x => x.2.length).sum

/-- Opens the restore of the highest lower range of an entry (R254). -/
def State.startRestore (s : State) (n : Nat) : State :=
  let e := s.entry n
  match e.lowerPeers.getLast?, e.lowerStarts.getLast? with
  | some d, some a =>
    let (id, s) := s.newHandoff
    let t := { s.newTransfer n .restore id d a e.rangeStart with holder := false, registered := false, joined := true }
    let s := s.setEntry n { e with state := .restoring, restoring := true, peerDev := some d, handoffId := id, stateTide := s.now }
    (s.setTransfer id.toNat t).sendRegister id.toNat
  | _, _ => s

/-- RESTORE_REQ at a new GENERATE device (R237, R261): it restores [0, COVERED) from the replica holder. -/
def State.onRestoreReq (s : State) (m : Msg) : State :=
  match m.header with
  | none => s.malformedMsg m
  | some h =>
    if !s.role.generates ∨ !(s.plan h.model).loaded then s.staleMap m
    else if s.draining then s.reply m stNOT_READY
    else match s.idleSlot, s.takeRoot (s.plan h.model).rootBlock with
    | some n, some (r, s) =>
      let d := BitVec.ofNat 16 (fieldOf m.arg0 15 0)
      let (id, s) := s.newHandoff
      let e := HerdEntry.ofHeader h m s.now
      let s := s.setEntry n { e with
        state := .restoring, pageRoot := some r, peerDev := some d, handoffId := id, rotated := !(s.plan h.model).rotated.isEmpty
        partition := (s.tenantOf h.tenant.toNat).partition, rangePending := true }
      let t := { s.newTransfer n .restore id d 0 (fieldOf m.arg0 63 32) with holder := false, registered := false, fromReplica := true, anchor := m.anchor }
      ((s.setTransfer id.toNat t).reply m stOK).sendRegister id.toNat
    | _, _ => s.reply m stNOT_READY

/-- The owner sends its replica holder the tile positions it has sealed since (R255). Each refresh is a transfer of its own
(log entry 19). -/
def State.replicaAdvance (s : State) (n : Nat) : State :=
  let e := s.entry n
  match e.replicaDev with
  | none => s
  | some d =>
    let b := e.length / 64 * 64
    if b ≤ e.covered ∨ (s.transfersOf n).any (fun i => (s.transfer i).kind == .replica) ∨ e.rangeStart ≠ 0 ∨ s.isFailed d then s
    else
      let (id, s) := s.newHandoff
      s.openHolder (s.newTransfer n .replica id d e.covered b).allPacked

/-- REPLICA_REQ at an owner (R255, R460). -/
def State.onReplicaReq (s : State) (m : Msg) : State :=
  if !s.role.generates then s.staleMap m
  else match s.herdOf m.requestId with
  | none => s.staleMap m
  | some n =>
    let e := s.entry n
    if s.draining ∨ e.rangeStart ≠ 0 ∨ !e.live then s.reply m stNOT_READY
    else ((s.setEntry n { e with replicaDev := some (BitVec.ofNat 16 (fieldOf m.arg0 15 0)), covered := 0 }).reply m stOK).replicaAdvance n

/-! ### ABORT and END (R70, R244, R245) -/

/-- ABORT: at either end of the transfer, else at the anchor (R244-R246). -/
def State.onAbort (s : State) (m : Msg) : State :=
  let id := m.handoffId.toNat
  let t := s.transfer id
  if t.phase ≠ .closed ∧ t.peer = m.src then
    if t.holder then s.failAttempt id m.status
    else if t.phase = .committing then s.notOwning id m.status
    else s.closeReceiver id m.status
  else s.anchorAbort m

/-- END (R70): the entries of the request are ordered to end. -/
def State.onEnd (s : State) (m : Msg) : State :=
  (s.herd.entries.keysWhere fun _ e => decide (e.state ≠ .idle) && e.requestId == m.requestId && e.anchorDev == m.src).foldl
    (fun s n => s.endOrder n m.status) s

/-- COMMIT: at the holder of the transfer, else at the anchor (R243, R246). A message of this device itself, and an
UNCONFIRMED one, are the anchor's. -/
def State.onCommit (s : State) (m : Msg) : State :=
  let t := s.transfer m.handoffId.toNat
  if m.flags.getLsbD 0 || m.src == s.devId then s.anchorCommit m
  else if t.phase ≠ .closed ∧ t.holder = true ∧ t.peer = m.src then s.holderCommit m
  else if (s.outcomeWith m.handoffId.toNat m.src).isSome then s.holderCommit m
  else match s.findRequest m.requestId with
  | some _ => s.anchorCommit m
  | none => s.holderCommit m

/-! ### Answers by message kind, and slots that time out -/

/-- What follows when a message that awaited a REPLY is answered, or its slot fails (R234, R244-R246, R565). `refusal`
tells a REPLY from a slot that failed. -/
def State.answered (s : State) (x : Slot) (st : Byte) (arg0 : U64) (refusal : Bool) : State :=
  let k := x.msgKind
  if k = mADMIT ∨ k = mPROMPT_TOKENS then s.admitAnswered x st refusal
  else if k = mOPEN then s.openAnswered x st
  else if k = mREGISTER then s.registerAnswered x st
  else if k = mREDIRECT then s.redirectAnswered x st arg0
  else if k = mCOMMIT then s.commitAnswered x st
  else if k = mRESTORE_REQ then s.restoreAnswered x st
  else if k = mREPLICA_REQ then s.replicaAnswered x st
  else s

/-- REPLY (R214, R234): a reply that finds its slot WAITING resolves it, or is what a descriptor under AWAIT still lacks; any
other is discarded and counted LATE. -/
def State.onReply (s : State) (m : Msg) : State :=
  match s.waitingAt m.slot with
  | none => s.ibexLate
  | some n =>
    let x := s.slot n
    if x.awaits = .reply ∧ x.peer = m.src then (s.endSlot n).answered x m.status m.arg0 true
    else if x.awaits = .descriptor ∧ x.replyDue = true then
      s.setSlotAt n { x with replyDue := false, status := if x.status = 0 ∧ 0x10 ≤ m.status.toNat then m.status else x.status }
    else s.ibexLate

/-! ### Events (R238, R241, R245) -/

/-- CREDIT_WAIT_EXPIRY (R238, R244): a credit request of transfer `id` has waited HANDOFF_CREDIT_WAIT. -/
def execCreditWaitExpiry (id : U32) (s : State) : Host.Outcome State Fault Refusal :=
  .next (let t := s.transfer id.toNat
    if t.phase = .closed ∨ t.requests = [] ∨ t.kind = .restore then s
    else
      let s := (s.setFlag Reg.HANDOFF_STATUS 2 true).setTransfer id.toNat { t with stalled := true }
      if t.holder then s.failAttempt id.toNat stNO_PAGES else s)

/-- QUEUED_CREDIT_GRANT (R238): pages have become free for the first request that waits at a receiver. -/
def execQueuedCreditGrant (id : U32) (s : State) : Host.Outcome State Fault Refusal :=
  .next (if s.alive then (if (s.transfer id.toNat).kind = .restore then s.retryGets id.toNat else s.serveCredit id.toNat) else s)

/-- KEEPALIVE_TIMER (R241): the holder of transfer `id` has not sent SENT. -/
def execKeepaliveTimer (id : U32) (s : State) : Host.Outcome State Fault Refusal :=
  .next (let t := s.transfer id.toNat
    if t.holder = true ∧ t.sent = false ∧ t.redirecting = false ∧ (t.phase = .opening ∨ t.phase = .sending) then
      s.send { kind := mKEEPALIVE, dst := t.peer, requestId := t.requestId, handoffId := t.id }
    else s)

/-- RECEIVER_HANDOFF_TIMER (R245): nothing from the holder of transfer `id` for HANDOFF_TIMER. -/
def execReceiverHandoffTimer (id : U32) (s : State) : Host.Outcome State Fault Refusal :=
  .next (let t := s.transfer id.toNat
    if t.phase = .granting ∧ t.holder = false then
      let s := if t.kind = .restore then s else s.sendAbort t.anchor t stTIMEOUT
      s.closeReceiver id.toNat stTIMEOUT
    else s)

end Sys2Proof.Machine
end

