-- ==== Sys2Proof/Machine/Recovery.lean ====
section
/-! DEFINITION. The recovery sequencer: its steps (R404), its states (R405), and its commands (R402, R406, R470). -/

namespace Sys2Proof.Machine

/-- The recovery that runs. -/
def State.recovery (s : State) : Recovery := s.fault.recovery

/-- Replaces the recovery. -/
def State.setRecovery (s : State) (r : Recovery) : State := { s with fault := { s.fault with recovery := r } }

/-- Targets of the recovery that runs, as device IDs. -/
def State.targets (s : State) : List U16 := s.recovery.cause.targets.map fun d => BitVec.ofNat 16 d

/-! ### Step 2, MARK -/

/-- An open transfer with a failed peer is resolved (R248): a holder's attempt fails, a receiver that is still granting
closes, and a COMMITTING one awaits the outcome of its COMMIT. -/
def State.resolveTransfer (s : State) (id : Nat) : State :=
  let t := s.transfer id
  if t.holder then
    let s := s.failAttempt id stTARGET_DEAD
    if t.kind = .replica then s.setEntry t.slot { s.entry t.slot with replicaDev := none, covered := 0 } else s
  else if t.phase = .committing then s
  else s.closeReceiver id stTARGET_DEAD

/-- Step 2 for PEER_LOST and MAP (R404). -/
def State.markTargets (s : State) : State :=
  let ts := s.targets
  let s := if s.recovery.cause.kind = .peerLost then
      { s with handoff := { s.handoff with failed := ts.foldl (fun f d => f.set d.toNat true) s.handoff.failed } }
    else s
  (s.handoff.transfers.keysWhere fun _ t => decide (t.phase ≠ .closed) && ts.contains t.peer).foldl State.resolveTransfer s

/-! ### Step 3, ANCHOR -/

/-- A recovery of the request is under way with devices that are all alive (R402). -/
def Record.underWay (r : Record) (gone : List U16) : Bool :=
  match r.pending, r.restoreTo with
  | some p, none => p.kind == 1 && !gone.contains p.sender && !(p.sender == p.receiver && gone.contains p.receiver)
  | _, some (d, h) => !gone.contains d && !gone.contains h
  | none, none => false

/-- A request that this device anchors has lost a device that it depends on (R248). -/
def Record.lost (r : Record) (gone : List U16) : Bool :=
  r.owners.any (fun o => gone.contains o.device)
    || (match r.pending with
        | some p => (p.kind == 1 && gone.contains p.sender) || (p.kind == 4 && gone.contains p.sender)
        | none => false)
    || (match r.restoreTo with
        | some (d, h) => gone.contains d || gone.contains h
        | none => false)

/-- Replica entries that name a target are cleared (R248). -/
def State.clearReplicas (s : State) (i : Nat) (gone : List U16) : State :=
  let r := s.recordAt i
  s.setRecord i { r with
    replicas := r.replicas.filter fun x => !gone.contains x.device
    replicaWant := match r.replicaWant with
      | some d => if gone.contains d then none else some d
      | none => none }

/-- Step 3 for one request (R257-R262, R404): nothing is sent where a recovery is under way. -/
def State.recoverRecord (s : State) (i : Nat) : State :=
  let gone := s.targets
  let s := s.clearReplicas i gone
  let r := s.recordAt i
  if r.underWay gone then s
  else if r.lost gone then s.rangeLost i gone gone stTARGET_DEAD
  else s.askReplica i

/-- Step 3 for PEER_LOST and MAP (R404). -/
def State.recoverAnchored (s : State) : State :=
  (s.anchor.records.keysWhere fun _ r => decide (r.state = .active)).foldl State.recoverRecord s

/-! ### Step 4, HERD -/

/-- Writes the recovery epoch to an entry (R402). -/
def State.stampEntry (s : State) (n : Nat) : State :=
  s.setEntry n { s.entry n with recoveryEpoch := s.rd Reg.FAULT_RECOVERY_EPOCH }

/-- An entry already carries the recovery epoch (R402). -/
def State.stamped (s : State) (n : Nat) : Bool := (s.entry n).recoveryEpoch == s.rd Reg.FAULT_RECOVERY_EPOCH

/-- Step 4 for PEER_LOST and MAP (R404): entries whose anchor is a target are freed with ANCHOR_LOST (R22, R70), and
receiving entries whose holder is a target. -/
def State.freeTargets (s : State) : State :=
  let ts := s.targets
  let s := (s.herd.entries.keysWhere fun n e => e.live && ts.contains e.anchorDev && !s.stamped n).foldl
    (fun s n => (s.stampEntry n).endOrder n stANCHOR_LOST) s
  (s.handoff.transfers.keysWhere fun _ t => decide (t.phase = .granting) && !t.holder && ts.contains t.peer).foldl
    (fun s i => (s.stampEntry (s.transfer i).slot).closeReceiver i stTARGET_DEAD) s

/-- Step 4 for ENTRY (R404). -/
def State.failTargets (s : State) : State :=
  s.recovery.cause.entries.foldl (fun s x =>
    if s.stamped x.1 then s else (s.stampEntry x.1).failQuiet x.1 x.2.1) s

/-! ### Running steps -/

/-- What a step of a recovery does (R404). Step 1's hold lasts while the recovery runs (`State.recoveryHolds`); POOL's hold
and recount are the auditor's (R64). -/
def State.runRecoveryStep (s : State) (k : Nat) : State :=
  match s.recovery.cause.kind, k with
  | .peerLost, 2 | .map, 2 => s.markTargets
  | .peerLost, 3 | .map, 3 => s.recoverAnchored
  | .peerLost, 4 | .map, 4 => s.freeTargets
  | .entry, 2 => s.recovery.cause.entries.foldl (fun s x => s.abortAll x.1 x.2.1) s
  | .entry, 4 => s.failTargets
  | _, _ => s

/-- RELEASE_ENTRY commands complete when their recovery reaches step 5 (R470). -/
def State.completeReleases (s : State) : State :=
  s.recovery.cause.entries.foldl (fun s x => s.complete (x.2.2.1, x.2.2.2) stOK) s

/-- Decisions posted for causes of R403 are answered by the commands that ran the steps (R406). -/
def State.endCauses (s : State) : State :=
  (s.ibex.slots.keysWhere fun _ x => decide (x.awaits = .decision) && x.fn == 8).foldl State.endSlot s

/-- The current step has completed: the next one is due, or the sequencer is IDLE (R405). -/
def State.advanceRecovery (s : State) : State :=
  let r := s.recovery
  match r.step with
  | 1 => s.setRecovery { r with step := 2, doneStep := 1 }
  | 2 => s.setRecovery { r with step := 3, doneStep := 2 }
  | 3 => s.setRecovery { r with step := 4, doneStep := 3 }
  | 4 => (s.setRecovery { r with step := 5, doneStep := 4 }).completeReleases
  | 5 => (s.setRecovery { r with step := 0, doneStep := 5, cause := { r.cause with entries := [] } }).endCauses
  | _ => s

/-- The step runs and, unless a new cause restarted the recovery meanwhile, is complete (R405). The recount of a POOL
recovery ends with RECOUNT_DONE. -/
def State.doStep (s : State) : State :=
  let e := s.rd Reg.FAULT_RECOVERY_EPOCH
  let k := s.recovery.step.val
  if s.recovery.cause.kind = .pool ∧ k = 2 ∧ s.tier.recounting = true then s
  else
    let s := s.runRecoveryStep k
    if s.rd Reg.FAULT_RECOVERY_EPOCH = e ∧ s.fault.fatal = false then s.advanceRecovery else s

/-- RECOVERY_START (R405): the sequencer is IDLE, and the oldest cause that waits begins. -/
def execRecoveryStart (s : State) : Host.Outcome State Fault Refusal :=
  .next (match s.recovery.step, s.recovery.queued, s.alive && !s.paused with
    | 0, c :: cs, true => (s.setRecovery { s.recovery with queued := cs }).startRecovery c
    | _, _, _ => s)

/-- RECOVERY_STEP_DONE (R404, R405): the control firmware has run the current step. In HOST_ASSIST mode steps run only on
commands (R406). -/
def execRecoveryStepDone (s : State) : Host.Outcome State Fault Refusal :=
  .next (if s.recovery.step = 0 ∨ s.fnMode 8 = .hostAssist ∨ s.paused = true ∨ s.alive = false then s else s.doStep)

/-- Signed 32-bit difference of two epochs (R263, R402). -/
def epochDiff (a b : U32) : Int := (a - b).toInt

/-- RECOVER (R402, R406): `targets` are the targets the device reads from the host. -/
def State.recoverCmd (s : State) (c : HostCmd) (ref : CmdRef) (targets : List Nat) : State :=
  let e : U32 := c.arg1.truncate 32
  let k := c.arg2.toNat
  let cur := s.rd Reg.FAULT_RECOVERY_EPOCH
  if c.arg0.toNat = 0 ∨ 4 < c.arg0.toNat ∨ k = 0 ∨ 5 < k ∨ targets.length ≠ c.arg5.toNat ∨ 0 < epochDiff e cur then s.complete ref stMALFORMED
  else if epochDiff e cur < 0 then s.complete ref stLATE
  else if k ≤ s.recovery.doneStep then s.complete ref stOK
  else if s.recovery.step.val ≠ k then s.complete ref stNOT_READY
  else if c.arg0.toNat ≠ s.recovery.cause.kind.code then s.complete ref stMALFORMED
  else
    let s := match s.recovery.cause.kind with
      | .peerLost | .map => s.setRecovery { s.recovery with cause := { s.recovery.cause with targets := targets } }
      | _ => s
    if s.recovery.cause.kind = .pool ∧ k = 2 ∧ s.tier.recounting = true then s.complete ref stNOT_READY
    else (s.doStep.decided 8).complete ref stOK

/-- RECOVER. -/
def execRecover (w : WinRef) (targets : List Nat) (s : State) : Host.Outcome State Fault Refusal :=
  .next (s.hostCmd w 0x16 fun c ref s => s.recoverCmd c ref targets)

/-- RELEASE_ENTRY (R403, R470): starts an ENTRY recovery for a Herd slot; it completes when that reaches step 5. -/
def execReleaseEntry (w : WinRef) (s : State) : Host.Outcome State Fault Refusal :=
  .next (s.hostCmd w 0x1C fun c ref s =>
    let n := c.arg0.toNat
    let st : Byte := c.arg2.truncate 8
    let e := s.entry n
    if s.herdSize ≤ n ∨ e.state = .idle ∨ e.requestId ≠ c.arg1 ∨ st.toNat < 0x10 ∨ 0x1F < st.toNat then s.complete ref stMALFORMED
    else s.causeRecovery { kind := .entry, entries := [(n, st, ref.1, ref.2)] })

/-! ### Commands of the FAULT block (R384, R385, R387, R407, R408) -/

/-- FAULT_RING_TAIL_WRITE (R384, R385): a value above HEAD, or more than 1,024 below it, is ignored with CFG_ERR. -/
def execFaultRingTailWrite (v : U32) (s : State) : Host.Outcome State Fault Refusal :=
  .next (if 1024 < (s.fault.head + 2 ^ 32 - v.toNat) % 2 ^ 32 then s.setFlag Reg.FAULT_STATUS 5 true
    else ({ s with fault := { s.fault with tail := v.toNat } }).driveAlert)

/-- INJECT (R408): a TEST record of severity CORRECTED. -/
def execInject (s : State) : Host.Outcome State Fault Refusal :=
  .next (s.raise { severity := .corrected, block := 0x018, cause := 0x007F })

/-- CLEAR_LOST (R407). -/
def execClearLost (s : State) : Host.Outcome State Fault Refusal :=
  .next { s with fault := { s.fault with lost := [] } }

/-- Fails every entry of a fenced tenant with FENCED (R70, R387). -/
def State.failTenant (s : State) (t : Nat) : State :=
  (s.herd.entries.keysWhere fun _ e => e.live && decide (e.tenant.toNat = t)).foldl (fun s n => s.failQuiet n stFENCED) s

/-- FAULT_TENANT_FENCE_WRITE (R387, R407): PF0 fences the selected tenant (bit 0 set) or lifts its fence. The tenant's
entries fail at the next step boundary. -/
def execFaultTenantFenceWrite (v : U32) (s : State) : Host.Outcome State Fault Refusal :=
  .next (let t := s.field Reg.FAULT_TENANT_SEL 0 10
    if v.getLsbD 0 then s.fenceTenant t 0
    else { s with fault := { s.fault with fences := s.fault.fences.set t { s.fault.fences.get t with fenced := false } } })

end Sys2Proof.Machine
end

