-- ==== Sys2Proof/Machine/Springbok.lean ====
section
/-! DEFINITION. The Springbok lanes (chapter 05): routing, lane work units, spot checks, fences and reducers; the queries and
partial results of lower ranges (R144, R171, R252, R253); and barriers with the peer table (R83, R397-R400). -/

namespace Sys2Proof.Machine

/-! ### The peer table and barriers (R83, R397-R400) -/

/-- A peer's entry. -/
def State.peer (s : State) (d : Nat) : Peer := s.herd.peers.get d

/-- Replaces a peer's entry. -/
def State.setPeer (s : State) (d : Nat) (p : Peer) : State :=
  { s with herd := { s.herd with peers := s.herd.peers.set d p } }

/-- W(p) of R83. -/
def State.weight (s : State) (d : Nat) : Nat := 255 - (s.peer d).reduce

/-- Peers in the table. -/
def State.peerCount (s : State) : Nat := s.herd.peers.countWhere fun _ p => p.present

/-- The entry that a new peer replaces in a full table: the one longest without a barrier that is neither SUSPECT nor PINNED
(R400). -/
def State.peerVictim (s : State) : Option Nat :=
  (s.herd.peers.filter fun (_, p) => p.present && !p.suspect && !p.pinned).foldl
    (fun (b : Option Nat) (i, p) =>
      match b with
      | none => some i
      | some j => if p.stamp < (s.peer j).stamp then some i else some j) none

/-- Makes room for a peer's barrier record (R400); none when there is none. -/
def State.peerRoom (s : State) (d : Nat) : Option State :=
  if (s.peer d).present then some s
  else if s.peerCount < 512 then some (s.setPeer d { present := true })
  else match s.peerVictim with
    | none => none
    | some j => some ((s.setPeer j {}).setPeer d { present := true })

/-- Lasts among outcomes. -/
def lasts (bs : List BarrierOut) : Nat := bs.countP (·.last)

/-- Marks or clears a peer SUSPECT after a barrier (R398), with its weight (R83). -/
def State.judgePeer (s : State) (d : Nat) : State :=
  let p := s.peer d
  let n := p.barriers.length
  let k := lasts p.barriers
  let pct := s.rdN Reg.FAULT_SUSPECT_PCT
  if !p.suspect && decide (16 ≤ p.seen) && decide (pct * n < 100 * k) then
    let s := s.setPeer d { p with suspect := true, reduce := if p.pinned then p.reduce else 255 - s.rdN Reg.HERD_SUSPECT_WEIGHT }
    s.raise { severity := .corrected, block := 0x018, cause := 0x0048, detail0 := BitVec.ofNat 64 d, detail1 := BitVec.ofNat 64 k }
  else if p.suspect && decide (200 * k ≤ pct * n) then
    s.setPeer d { p with suspect := false, reduce := if p.pinned then p.reduce else 0 }
  else s

/-- Records a barrier's outcome for a peer (R397, R398). -/
def State.peerBarrier (s : State) (d : Nat) (o : BarrierOut) : State :=
  match s.peerRoom d with
  | none => s
  | some s =>
    let p := s.peer d
    let k := s.herd.stamp + 1
    let s := s.setPeer d { p with barriers := (o :: p.barriers).take (s.rdN Reg.FAULT_SUSPECT_WINDOW), seen := min 16 (p.seen + 1), stamp := k }
    ({ s with herd := { s.herd with stamp := k } }).judgePeer d

/-- What a barrier says of a peer: participants that arrived before it, the device itself among them, its wait, and whether
it was last (R397). -/
def LayerWait.outcome (w : LayerWait) (lagNs : Nat) (a : U16 × Nat × Bool) : BarrierOut :=
  let wait := a.2.1 - w.readyAt
  let after := w.arrived.all fun b => b.1 == a.1 || decide (b.2.1 < a.2.1)
  { rank := (w.arrived.countP fun b => decide (b.2.1 < a.2.1)) + (if w.readyAt < a.2.1 then 1 else 0) + 1
    wait := wait, last := a.2.2 || (after && decide (w.readyAt < a.2.1) && decide (lagNs < wait)) }

/-- The arrival with the longest wait, the last of those that wait as long. -/
def LayerWait.worst (w : LayerWait) : U16 × Nat :=
  w.arrived.foldl (fun b a => if b.2 ≤ a.2.1 - w.readyAt then (a.1, a.2.1 - w.readyAt) else b) (0xFFFF, 0)

/-- A barrier ends (R397): every peer's outcome, WAIT_NS (R410), the step's longest wait, and the BARRIER record (R422). -/
def State.endBarrier (s : State) (layer : Nat) : State :=
  let w := s.spring.waits.get layer
  if w.arrived.isEmpty then { s with spring := { s.spring with waits := s.spring.waits.set layer {} } }
  else
    let lag := s.rdN Reg.FAULT_LAG_MIN * 1000
    let m := w.worst
    let s := w.arrived.foldl (fun s a => s.peerBarrier a.1.toNat (w.outcome lag a)) s
    let s := s.obsCount 7 m.2
    let n := match s.herd.step with
      | some st => st.number
      | none => s.herd.stepNum
    let s := s.offer 2 [(4, n), (1, layer), (1, w.arrived.length + 1), (2, m.1.toNat), (4, m.2), (1, w.arrived.countP (·.2.2)), (3, 0)]
    let step := s.herd.step.map fun st =>
      if st.maxWait ≤ m.2 then { st with maxWait := m.2, lastPeer := m.1, lastLayer := layer } else st
    { s with herd := { s.herd with step := step }, spring := { s.spring with waits := s.spring.waits.set layer {} } }

/-! ### Lanes (R127-R133, R146-R150) -/

/-- Twice the products per cell per cycle of a tile format (R128). -/
def laneRate2 (f : Nat) : Nat :=
  match f with
  | 0 => 1
  | 1 | 2 => 2
  | _ => 4

/-- The lane of a page: its pseudo-channel's (R131). -/
def State.laneOfPage (s : State) (p : Nat) : Nat := s.memLane (s.pageAddr p)

/-- The lane is active. -/
def State.laneActive (s : State) (l : Nat) : Bool := !s.spring.fenced.getLsbD l

/-- The next active lane of the stack in PC order after ℓ, wrapping (R146, R148). -/
def State.nextLane (s : State) (l : Nat) : Option Nat :=
  ((List.range 31).map fun k => l / 32 * 32 + (l % 32 + k + 1) % 32).find? s.laneActive

/-- The lane that serves a pseudo-channel (R148); in a stack with none left, the units kept at ℓ are computed by the Eland
array (R149). -/
def State.serving_ (s : State) (l : Nat) : Nat := if s.laneActive l then l else (s.nextLane l).getD l

/-- Every lane of a stack is fenced (R149). -/
def State.stackOut (s : State) (stack : Nat) : Bool := (List.range 32).all fun k => s.spring.fenced.getLsbD (32 * stack + k)

/-- A lane's queue. -/
def State.laneQueue (s : State) (l : Nat) : List LaneUnit := s.spring.queues.get l

/-- Replaces a lane's queue. -/
def State.setLaneQueue (s : State) (l : Nat) (q : List LaneUnit) : State :=
  { s with spring := { s.spring with queues := s.spring.queues.set l q } }

/-! ### Reductions (R143-R145) -/

/-- A reduction. -/
def State.reduction (s : State) (k : Nat) : Reduction := s.spring.reductions.get k

/-- Replaces a reduction. -/
def State.setReduction (s : State) (k : Nat) (r : Reduction) : State :=
  { s with spring := { s.spring with reductions := s.spring.reductions.set k r } }

/-- The reduction of a step's entry and layer. -/
def State.reductionOf (s : State) (slot layer : Nat) : Option Nat :=
  (s.spring.reductions.find? fun x => x.2.active && decide (x.2.slot = slot) && decide (x.2.layer = layer) && x.2.asker.isNone).map Prod.fst

/-- Partial rows of a reduction: query rows × query heads. -/
def Reduction.size (r : Reduction) : Nat := r.positions.length * r.shape.queryHeads

/-- The committed positions that are read lie here. -/
def State.kvOf (s : State) (r : Reduction) : KvSource := .pages ((s.entry r.slot).pageRoot.getD 0) r.layer

/-- Every local partial of the reduction is at the home reducer. -/
def Reduction.local_ (r : Reduction) : Bool := r.todo.isEmpty && !r.eland && !(r.units.any fun x => decide (x.2 ≠ 0))

/-- With the last local partial of a step's entry the device is ready at the layer's barrier (R397). -/
def State.readyAt (s : State) (k : Nat) : State :=
  let r := s.reduction k
  if r.local_ && r.asker.isNone then
    { s with spring := { s.spring with waits := s.spring.waits.mod r.layer fun w => { w with readyAt := max w.readyAt s.now } } }
  else s

/-- Partial rows of a unit reach their quadrant's reducer; with the last unit it merges what it holds into one partial for each
row, which goes to the home reducer (R143). -/
def State.partialIn (s : State) (k quad : Nat) (rows : List (Nat × PRow)) : State :=
  let r := s.reduction k
  if !r.active then s
  else
    let held := r.quads.get quad ++ rows
    let left := r.units.get quad - 1
    let r := { r with units := r.units.set quad left, quads := r.quads.set quad held }
    if left = 0 then
      let r := { r with parts := r.parts ++ (mergeAll r.shape.dv r.size held).filter fun x => held.any fun y => y.1 == x.1, quads := r.quads.set quad [] }
      ((s.setReduction k r).count64 (Reg.SPRING_Q_MERGED_LO + 0x10 * quad) held.length).readyAt k
    else s.setReduction k r

/-- The Eland array's part of an entry and layer reaches the home reducer. -/
def State.elandPart (s : State) (k : Nat) (rows : List (Nat × PRow)) : State :=
  let r := s.reduction k
  if r.active && r.eland then (s.setReduction k { r with eland := false, parts := r.parts ++ rows }).readyAt k else s

/-! ### The Eland queue (R96) -/

/-- A source adds an operation, or is held until an entry frees (R96). -/
def State.elandAdd (s : State) (op : ElandOp) : State :=
  let op := { op with id := s.eland.nextOp }
  let s := { s with eland := { s.eland with nextOp := s.eland.nextOp + 1 } }
  if s.eland.queue.length < 256 ∧ s.eland.heldOps = [] then
    let n := s.eland.queue.length + 1
    let s := { s with eland := { s.eland with queue := s.eland.queue ++ [op] } }
    if s.rdN Reg.ELAND_QUEUE_HWM < n then s.wr Reg.ELAND_QUEUE_HWM (BitVec.ofNat 32 n) else s
  else { s with eland := { s.eland with heldOps := s.eland.heldOps ++ [op] } }

/-! ### Lane work units (R138-R142) -/

/-- Lane cycles of a unit (R151). -/
def unitCycles (tps slices qr f : Nat) : Nat :=
  let c := (256 * slices * qr + laneRate2 f - 1) / laneRate2 f
  let m := (20 * slices * tileSize f + 191) / 192
  tps * max c m + 64

/-- Tile positions that a lane holds of a reduction's committed range and of which a row sees a position (R138), ascending. -/
def State.laneTps (s : State) (r : Reduction) (l : Nat) : List Nat :=
  let root := s.root ((s.entry r.slot).pageRoot.getD 0)
  (((root.lists.get r.layer).filter fun p => decide (s.laneOfPage p = l)).map fun p => (s.page p).tilePos).eraseDups.filter fun tp =>
    s.seesSome r.shape r.positions (max r.range.1 (64 * tp)) (min r.range.2 (64 * tp + 64))

/-- Lanes that hold a position that the reduction reads (R138). -/
def State.lanesOf (s : State) (r : Reduction) : List Nat :=
  (((s.root ((s.entry r.slot).pageRoot.getD 0)).lists.get r.layer).map s.laneOfPage).eraseDups.filter fun l => !(s.laneTps r l).isEmpty

/-- Format of the tiles that a unit reads. -/
def State.unitFormat (s : State) (u : LaneUnit) : Nat := (s.root ((s.entry u.slot).pageRoot.getD 0)).format.toNat

/-- The prepared query row of an index of a unit, with step 3 of R139. -/
def State.unitQuery (s : State) (r : Reduction) (u : LaneUnit) (i : Nat) : List FNum :=
  scaleQuery (s.kvScale r.shape (s.kvOf r) r.layer u.head 0) (ofBf16 (r.queries.getD i []))

/-- Indices of a unit's query rows, as query row × G + query head (R155). -/
def Reduction.unitIndices (r : Reduction) (head : Nat) : List Nat :=
  (List.range r.positions.length).flatMap fun i => (List.range r.shape.group).map fun g => i * r.shape.queryHeads + head * r.shape.group + g

/-- Positions that a query row of a unit sees, in the order in which the lane reads them (R140). -/
def State.unitSees (s : State) (r : Reduction) (u : LaneUnit) (i : Nat) : List Nat :=
  (u.tps.flatMap fun tp => (List.range 64).map fun k => 64 * tp + k).filter fun j =>
    decide (r.range.1 ≤ j ∧ j < r.range.2) && s.maskSees r.shape (r.positions.getD (i / max 1 r.shape.queryHeads) 0) j

/-- A tile that the unit reads is poisoned (R142): those of its head at its tile positions. -/
def State.readsPoison (s : State) (u : LaneUnit) : Bool :=
  let r := s.reduction u.red
  let n := slicesOf r.shape.width
  u.tps.any fun tp => (List.range (2 * n)).any fun i => match s.tileAt r.shape (s.kvOf r) tp (2 * u.head * n + i) with
    | some (a, f) => s.poisoned a (tileSize f)
    | none => true

/-- What a sound run of a unit gives (R140, R142): one partial row for each query row. -/
def State.unitRows (s : State) (u : LaneUnit) : UnitResult :=
  let r := s.reduction u.red
  let src := s.kvOf r
  let vs := s.kvScale r.shape src r.layer u.head 1
  let poison := s.readsPoison u
  { rows := (r.unitIndices u.head).map fun i =>
      let items := (s.unitSees r u i).map fun j => s.kvRow r.shape src u.head j
      (i, { laneRow u.draw (65536 * i) r.shape.dv (fp32.decode r.shape.scale.toNat) vs (s.unitQuery r u i) items with poisoned := poison }) }

/-- The lane buffer of a unit that begins (R129): its query rows, accumulators and statistics at their start, and the first two
tile reads. -/
def State.bufferOf (s : State) (u : LaneUnit) : LaneBuffer :=
  let r := s.reduction u.red
  let is := r.unitIndices u.head
  { queries := is.flatMap fun i => (s.unitQuery r u i).map fun v => BitVec.ofNat 16 ((elemFmt 0).wide v)
    sums := is.flatMap fun _ => 0xFF800000#32 :: 0 :: List.replicate r.shape.dv 0
    tiles := (u.tps.take 1).flatMap fun tp => (List.range 2).filterMap fun i =>
      (s.tileAt r.shape (s.kvOf r) tp (2 * u.head * slicesOf r.shape.width + i)).map fun x => s.bytes x.1 (tileSize x.2) }

/-- The first unit of a lane's queue runs: its query rows and fresh accumulators are in the lane buffer, with the first two tile
reads (R129, R139, R140); without a unit the buffer is empty. -/
def State.startUnit (s : State) (l : Nat) : State :=
  { s with spring := { s.spring with buffers := s.spring.buffers.set l (match s.laneQueue l with
      | u :: _ => s.bufferOf u
      | [] => {}) } }

/-- The unit's partials go to the reducer: counted, attributed to the entry's tenant, and POISON_OUT where poisoned. -/
def State.release (s : State) (u : LaneUnit) (rows : List (Nat × PRow)) : State :=
  let s := s.count64 Reg.SPRING_UNITS_LO 1
  let s := if rows.any fun x => x.2.poisoned then (s.count Reg.SPRING_POISON_UNITS 1).setFlag Reg.SPRING_STATUS 5 true else s
  s.partialIn u.red (u.lane / 160) rows

/-- Charges a unit's run to its lane and to the entry's tenant (R151, R374). -/
def State.runUnit (s : State) (u : LaneUnit) (l : Nat) : State :=
  let f := s.unitFormat u
  let n := slicesOf (s.reduction u.red).shape.width
  let c := unitCycles u.tps.length n u.rows f
  let s := { s with spring := { s.spring with busy := s.spring.busy.mod (l / 160) (· + c) } }
  (s.spend c).tally (s.entry u.slot).tenant.toNat fun x => { x with laneCycles := x.laneCycles + c, hbm := x.hbm + u.tps.length * 2 * n * tileSize f / 64 }

/-- Units that the Eland array computes in the lanes' place, over the same positions (R137, R149): one operation for each
reduction, made by the sequencer. -/
def State.elandUnits (s : State) (us : List LaneUnit) : State :=
  ((us.map LaneUnit.red).eraseDups).foldl (fun s k =>
    let r := s.reduction k
    s.elandAdd { desc := { kind := 3 }, units := us.filter fun u => decide (u.red = k), layer := r.layer
                 rows := [{ slot := r.slot, first := r.first, count := r.positions.length }] }) s

/-- A new unit of a reduction. -/
def State.newUnit (s : State) (k head lane : Nat) : LaneUnit :=
  let r := s.reduction k
  { id := s.spring.nextUnit, red := k, slot := r.slot, layer := r.layer, head := head, lane := lane, tps := s.laneTps r lane
    rows := r.positions.length * r.shape.group, draw := s.fresh }

/-- The dispatcher of a quadrant chooses one unit in every 2^n for a duplicate run (R146): which one of each group is free. -/
def State.pickCheck (s : State) (quad : Nat) : State × Bool :=
  let n := 2 ^ s.rdN Reg.SPRING_CHECK_RATE
  let p := s.spring.picks.get quad
  let c := if p.1 = 0 then s.freeNow.toNat % n else p.2
  let s := if p.1 = 0 then s.drawn else s
  ({ s with spring := { s.spring with picks := s.spring.picks.set quad ((p.1 + 1) % n, c) } }, decide (p.1 = c))

/-- A lane's queue takes another unit; the first of a queue starts. -/
def State.enqueueUnit (s : State) (l : Nat) (u : LaneUnit) : State :=
  let q := s.laneQueue l
  let s := s.setLaneQueue l (q ++ [u])
  if q.isEmpty then s.startUnit l else s

/-- LANE_UNIT_DISPATCH (R127, R138, R146, R149): the unit of a reduction's KV head and of a lane, which its quadrant, stack and
pseudo-channel name, enters the queue of the lane that serves the pseudo-channel, when it has room; in a stack without an active lane
the Eland array computes it. -/
def execLaneUnitDispatch (red head : Nat) (quad : Fin 4) (stack : Fin 5) (pc : Fin 32) (s : State) : Host.Outcome State Fault Refusal :=
  .next (let r := s.reduction red
    let lane := 32 * (5 * quad.val + stack.val) + pc.val
    let v := s.serving_ lane
    if !s.alive ∨ !r.active ∨ !r.todo.contains (head, lane) then s
    else
      let u := s.newUnit red head lane
      let t := (s.setReduction red { r with todo := r.todo.erase (head, lane) }).drawn
      let t := { t with spring := { t.spring with nextUnit := t.spring.nextUnit + 1 } }
      if !s.laneActive v then t.elandUnits [u]
      else if 64 ≤ (s.laneQueue v).length then s
      else
        let x := t.pickCheck quad.val
        x.1.enqueueUnit v { u with checked := x.2 })

/-- LANE_UNIT_DONE (R140, R142, R146): the unit at the head of a lane's queue ends; `upset` gives the partial rows of a run that
was not sound. A checked unit waits for its checker, when the stack has another active lane. -/
def execLaneUnitDone (lane : Fin 640) (upset : Option UnitResult) (s : State) : Host.Outcome State Fault Refusal :=
  .next (match s.laneQueue lane.val, s.alive with
    | u :: q, true =>
      let out := upset.getD (s.unitRows u)
      let s := ((s.setLaneQueue lane.val q).startUnit lane.val).runUnit u lane.val
      match u.checked, s.nextLane lane.val with
      | true, some b =>
        let u := { u with phase := .checking, primary := out, mainLane := lane.val, checkLane := b }
        { s.count Reg.SPRING_CHECKED 1 with spring := { s.spring with checks := s.spring.checks ++ [u] } }
      | _, _ => s.release u out.rows
    | _, _ => s)

/-! ### Fences and spot checks (R146-R150) -/

/-- Units that a fenced lane hands on: to its substitute's queue as far as it has room, the others to the dispatcher again
(R138, R148). -/
def State.handOn (s : State) (v : Nat) (us : List LaneUnit) : State :=
  us.foldl (fun s u =>
    if (s.laneQueue v).length < 64 then s.enqueueUnit v u
    else
      let r := s.reduction u.red
      s.setReduction u.red { r with todo := r.todo ++ [(u.head, u.lane)] }) s

/-- Checks and arbitrations that were to run on a fenced lane run on the next active one (R148). -/
def State.moveChecks (s : State) (l : Nat) : State :=
  { s with spring := { s.spring with checks := s.spring.checks.map fun u =>
      match u.phase with
      | .arbitration => if u.arbLane = l then { u with arbLane := (s.nextLane l).getD l } else u
      | _ => if u.checkLane = l then { u with checkLane := (s.nextLane l).getD l } else u } }

/-- Units of a stack that are outstanding once its last lane is fenced (R149): in queues and under check. -/
def State.stackUnits (s : State) (stack : Nat) : List LaneUnit :=
  (List.range 32).flatMap (fun k => s.laneQueue (32 * stack + k)) ++ s.spring.checks.filter fun u => decide (u.mainLane / 32 = stack)

/-- Every lane of a stack is fenced: the Eland array computes its outstanding units (R149). -/
def State.stackLost (s : State) (stack : Nat) : State :=
  if s.stackOut stack then
    let us := s.stackUnits stack
    let s := (List.range 32).foldl (fun s k => (s.setLaneQueue (32 * stack + k) []).startUnit (32 * stack + k)) s
    ({ s with spring := { s.spring with checks := s.spring.checks.filter fun u => !decide (u.mainLane / 32 = stack) } }).elandUnits us
  else s

/-- Fences a lane (R148-R150): its units go to its substitute, and the fence is entered in the life log. -/
def State.fenceLane (s : State) (l : Nat) : State :=
  if s.spring.fenced.getLsbD l then s
  else
    let n := s.spring.fences.get l + 1
    let q := s.laneQueue l
    let s := { s with spring := { s.spring with
        fenced := s.spring.fenced ||| BitVec.ofNat 640 (2 ^ l)
        permanent := if 3 ≤ n then s.spring.permanent ||| BitVec.ofNat 640 (2 ^ l) else s.spring.permanent
        fences := s.spring.fences.set l n } }
    let v := s.serving_ l
    let s := if v = l then s.stackLost (l / 32) else (((s.setLaneQueue l []).startUnit l).handOn v q).moveChecks l
    let body := packBytes [(1, s.freeNow.toNat), (2, l), (1, min 255 n), (1, if 3 ≤ n then 1 else 0)] ++ List.replicate 27 0
    s.drawn.lifeRecord 4 (BitVec.ofNat 8 (isletDie (laneIslet l))) true body

/-- A strike against a lane (R147); at SPRING_FENCE_STRIKES it is fenced (R148). -/
def State.strike (s : State) (l : Nat) : State :=
  let n := min 15 (s.spring.strikes.get l + 1)
  let s := { s with spring := { s.spring with strikes := s.spring.strikes.set l n } }
  if s.rdN Reg.SPRING_FENCE_STRIKES ≤ n then s.fenceLane l else s

/-- A first check that differed (R147): the unit runs a third time, on the next active lane after the checker. -/
def State.checkDiffers (s : State) (u : LaneUnit) (out : UnitResult) : State :=
  let s := (s.setFlag Reg.SPRING_STATUS 4 true).bump Reg.SPRING_MISMATCH 0 16 1
  let s := s.raise (FaultInfo.onIslet { severity := .corrected, block := 0x006, cause := 0x0018, unit := BitVec.ofNat 16 u.mainLane, detail1 := BitVec.ofNat 64 u.checkLane } (laneIslet u.mainLane))
  let u := { u with phase := .arbitration, checker := out, arbLane := (s.nextLane u.checkLane).getD u.checkLane }
  { s with spring := { s.spring with checks := s.spring.checks ++ [u] } }

/-- The arbitration run of a unit ends (R147). -/
def State.arbitrate (s : State) (u : LaneUnit) (out : UnitResult) : State :=
  if out = u.primary then (s.strike u.checkLane).release u u.primary.rows
  else if out = u.checker then (s.strike u.mainLane).release u u.checker.rows
  else
    let s := s.bump Reg.SPRING_MISMATCH 16 16 1
    let s := s.raise (FaultInfo.onIslet { severity := .deferred, block := 0x006, cause := 0x0019, status := stPOISON, unit := BitVec.ofNat 16 u.mainLane } (laneIslet u.mainLane))
    s.release u (u.primary.rows.map fun x => (x.1, { x.2 with poisoned := true }))

/-- SPOT_CHECK_RESULT (R147): the checker's run, or the arbitration run, of a unit ends; `upset` gives the partial rows of a run
that was not sound. -/
def execSpotCheckResult (unit : Nat) (upset : Option UnitResult) (s : State) : Host.Outcome State Fault Refusal :=
  .next (match s.spring.checks.find? (·.id == unit), s.alive with
    | some u, true =>
      let out := upset.getD (s.unitRows u)
      let s := { s with spring := { s.spring with checks := s.spring.checks.filter fun x => !(x.id == unit) } }
      match u.phase with
      | .arbitration => (s.runUnit u u.arbLane).arbitrate u out
      | _ =>
        let s := s.runUnit u u.checkLane
        if out = u.primary then s.release u u.primary.rows else s.checkDiffers u out
    | _, _ => s)

/-- SPRING_FENCED_WRITE (R150): software fences lanes of stack Mk; it lifts none. -/
def execSpringFencedWrite (stack : Fin 20) (v : U32) (s : State) : Host.Outcome State Fault Refusal :=
  .next (((List.range 32).filter fun k => v.getLsbD k).foldl (fun s k => s.fenceLane (32 * stack.val + k)) s)

/-- SPRING_CLEAR_COUNTS (R152). -/
def execSpringClearCounts (s : State) : Host.Outcome State Fault Refusal :=
  .next ((((s.wr Reg.SPRING_CHECKED 0).wr Reg.SPRING_MISMATCH 0).wr Reg.SPRING_POISON_UNITS 0).wr Reg.SPRING_LATE 0)

/-! ### Routing (R135-R137) -/

/-- Why attention of `qr` query rows per KV head over an entry's pages goes to the Eland array: `none` for the lanes, `some true`
by intensity, `some false` under R136, or with the lanes disabled (R453). -/
def State.routedBy (s : State) (n qr width mask f : Nat) : Option Bool :=
  let pages := (s.root ((s.entry n).pageRoot.getD 0)).lists.flatMap (·.2)
  let on := match s.struct.loaded with
    | some b => b.lanesOn
    | none => false
  if on = false ∨ 64 < qr * slicesOf width ∨ (mask ≠ 1 ∧ mask ≠ 2) ∨ pages.any (fun x => s.stackOut (s.laneOfPage x / 32)) = true then some false
  else if s.rdN Reg.SPRING_ROUTE_I * tileSize f * laneRate2 f < 10 * 4 * qr * 8192 then some true
  else none

/-- Routing of an entry with `count` query rows at the build (R135, R136). -/
def State.routed (s : State) (n count : Nat) : Option Bool :=
  let p := s.plan (s.entry n).model
  s.routedBy n (count * (p.queryHeads / max 1 p.heads)) p.width p.mask p.format.toNat

/-! ### Queries and partials (R144, R171, R252, R253) -/

/-- Positions of an entry's query rows: LENGTH for a DECODE, LENGTH + DEPTH for a tree's nodes, and one after the other for a
CHUNK (R163, R173, R252). -/
def State.queryPositions (s : State) (w : WorkEntry) : List Nat :=
  match w.kind, w.tree with
  | .tree, some h => (s.tree h.toNat).nodes.map fun x => w.pos + x.depth
  | _, _ => (List.range w.count).map fun k => w.pos + k

/-- Sends the QUERY of a reduction to a lower peer, and awaits its PARTIAL (R144, R252). -/
def State.sendQuery (s : State) (step : Nat) (w : WorkEntry) (k : Nat) (d : U16) : State :=
  let r := s.reduction k
  let c := r.shape
  let rows := r.positions.length
  let q : Query := { step := step, layer := r.layer, model := w.model, mode := BitVec.ofNat 8 (c.mask + (if c.latent then 16 else 0))
                     sinks := BitVec.ofNat 8 c.sinks, rows := rows
                     g := c.queryHeads, k := c.width, valueWidth := if c.latent then c.valueWidth else 0, window := BitVec.ofNat 32 c.window
                     prefixLen := BitVec.ofNat 32 c.prefixLen, scale := c.scale, positions := r.positions.map fun x => BitVec.ofNat 32 x
                     data := r.queries.flatMap id }
  s.await { awaits := .peerPartial, msgKind := mQUERY, peer := d, requestId := (s.entry w.slot).requestId, herdSlot := w.slot, step := step
            layer := r.layer, rows := r.size
            msg := some { kind := mQUERY, dst := d, requestId := (s.entry w.slot).requestId, query := some q } }

/-- A peer's partial for an entry and layer has arrived with its rows, or its slot has failed (R144, R145, R397). -/
def State.peerArrived (s : State) (x : Slot) (rows : List (Nat × PRow)) (lost timedOut : Bool) : State :=
  match s.reductionOf x.herdSlot x.layer with
  | none => s
  | some k =>
    let r := s.reduction k
    let s := s.setReduction k { r with peers := r.peers.filter fun p => !(p == x.peer), parts := r.parts ++ rows, lost := r.lost || lost }
    let t := s.now
    { s with spring := { s.spring with waits := s.spring.waits.mod x.layer fun w =>
        { w with arrived := (w.arrived.filter fun a => !(a.1 == x.peer))
            ++ [(x.peer, t, timedOut || w.arrived.any fun a => a.1 == x.peer && a.2.2)] } } }

/-- PARTIAL (R171): it must match the awaited query, or it is refused and counted as malformed (R234); one that finds its
slot no longer WAITING is LATE (R144). A status other than OK stands for poisoned rows. -/
def State.onPartial (s : State) (m : Msg) : State :=
  match s.waitingAt m.slot, m.part with
  | none, _ => s.ibexLate.count Reg.SPRING_LATE 1
  | some n, some b =>
    let x := s.slot n
    let ok := m.status == stOK
    if x.awaits = .peerPartial ∧ x.requestId = m.requestId ∧ x.step = b.step ∧ x.layer = b.layer ∧ x.rows = b.rows
        ∧ (!ok || decide (b.data.length = b.rows * prowSize b.fp32 b.width)) = true then
      (s.endSlot n).peerArrived x (if ok then prowsOf b.fp32 b.width b.rows b.data else []) (!ok) false
    else s.setFlag Reg.HANDOFF_STATUS 3 true
  | some _, none => s.setFlag Reg.HANDOFF_STATUS 3 true

/-- The entry of a request whose owned range a lower-range holder queries (R237). -/
def State.heldRange (s : State) (req : U64) : Option Nat :=
  (s.herd.entries.find? fun (_, e) => decide (e.state = .offloaded) && !e.replica && !e.rangePending && e.requestId == req).map Prod.fst

/-- A QUERY for a range whose offload is COMMITTING tells that the commit stood (R245). -/
def State.queryCommits (s : State) (m : Msg) : State :=
  (s.handoff.transfers.keysWhere fun _ t => decide (t.phase = .committing) && !t.holder && decide (t.kind = .offload)
      && t.requestId == m.requestId && t.peer == m.src).foldl State.owning s

/-- Answers a QUERY with one PARTIAL (R171, R253). -/
def State.sendPartial (s : State) (dst : U16) (slot : U32) (req : U64) (st : Byte) (b : PartialBody) : State :=
  s.send { kind := mPARTIAL, status := st, dst := dst, slot := slot, requestId := req, part := some b
           flags := (if b.fp32 then 1 else 0) + (if b.allEmpty then 2 else 0) }

/-- The attention operation of a layer in a plan's sequence. -/
def Plan.attention (p : Plan) (layer : Nat) : SeqOp :=
  (p.ops.find? fun o => decide (o.kind = .attention) && decide (o.layer = layer)).getD {}

/-- Places a reduction and gives its number. -/
def State.addReduction (s : State) (r : Reduction) : State × Nat :=
  let k := s.spring.nextRed
  ({ s with spring := { s.spring with reductions := s.spring.reductions.set k r, nextRed := k + 1 } }, k)

/-- The lane units of a reduction are awaited (R138, R144), or computed by the Eland array (R137). -/
def State.startUnits (s : State) (k : Nat) (eland : Bool) : State :=
  let r := s.reduction k
  let todo := (List.range r.shape.heads).flatMap fun h => (s.lanesOf r).map fun l => (h, l)
  let units := todo.foldl (fun (t : Tab Nat) x => t.mod (x.2 / 160) (· + 1)) r.units
  if eland then
    let us := todo.map fun x => { s.newUnit k x.1 x.2 with id := 0 }
    ((s.setReduction k { r with units := units }).drawn).elandUnits us
  else s.setReduction k { r with units := units, todo := todo }

/-- What a QUERY asks of the holder's entry `n` (R252, R253). -/
def State.queryReduction (s : State) (m : Msg) (q : Query) (n : Nat) : Reduction :=
  let e := s.entry n
  let p := s.plan q.model
  let latent := decide (q.valueWidth ≠ 0)
  let dq := if latent then 2 * q.k else q.k
  { active := true, slot := n, layer := q.layer, range := (e.rangeStart, e.length), positions := q.positions.map BitVec.toNat, fp32 := m.flags.getLsbD 0
    shape := { heads := p.heads, queryHeads := q.g, width := q.k, latent := latent, valueWidth := q.valueWidth, mask := q.mode.toNat % 16
               window := q.window.toNat, sinks := q.sinks.toNat, prefixLen := q.prefixLen.toNat, kvStart := e.rangeStart, scale := q.scale
               kvScale := (p.attention q.layer).kvScale.toNat }
    queries := (List.range (q.rows * q.g)).map fun i => (q.data.drop (i * dq)).take dq
    asker := some (m.src, m.slot, m.requestId, q.step) }

/-- QUERY at the holder of a lower range (R137, R245, R252, R253, R387): it computes the range on its own lanes, or on its own
Eland array where R135 and R136 with its own threshold say so, and answers with one PARTIAL when its reducer has the rows. -/
def State.onQuery (s : State) (m : Msg) : State :=
  match m.query with
  | none => s.malformedMsg m
  | some q =>
    let s := s.queryCommits m
    let dv := if q.valueWidth = 0 then q.k else q.valueWidth
    let b : PartialBody := { step := q.step, layer := q.layer, width := dv, rows := q.rows * q.g, fp32 := m.flags.getLsbD 0 }
    match s.heldRange m.requestId, s.role == .cache && (s.plan q.model).loaded with
    | some n, true =>
      let e := s.entry n
      let p := s.plan q.model
      if s.isFenced e.tenant.toNat then s.sendPartial m.src m.slot m.requestId stFENCED { b with start := e.rangeStart, stop := e.length }
      else
        let x := s.addReduction (s.queryReduction m q n)
        x.1.startUnits x.2 (s.routedBy n (q.rows * (q.g / max 1 p.heads)) p.width (q.mode.toNat % 16) p.format.toNat).isSome
    | _, _ => (s.bump Reg.HANDOFF_STALE 0 16 1).sendPartial m.src m.slot m.requestId stSTALE_MAP b

/-! ### The home reducer's end (R143-R145) -/

/-- Poisons a work-list entry (R76, R145). -/
def State.poisonWork (s : State) (slot : Nat) : State :=
  { s with herd := { s.herd with step := s.herd.step.map fun st =>
      { st with entries := st.entries.map fun w => if w.slot = slot then { w with poisoned := true } else w } } }

/-- A part of a plan operation of the step has completed (R87). -/
def State.opDone (s : State) (k : Nat × Nat) : State :=
  { s with herd := { s.herd with step := s.herd.step.map fun st => { st with open_ := st.open_.erase k } } }

/-- Everything that the home reducer awaits has come (R144). -/
def Reduction.complete (r : Reduction) : Bool := r.active && r.local_ && r.peers.isEmpty

/-- The merged rows of a reduction (R170); a lost peer partial poisons them all (R144). -/
def Reduction.merged (r : Reduction) : List (Nat × PRow) :=
  (mergeAll r.shape.dv r.size r.parts).map fun x => (x.1, { x.2 with poisoned := x.2.poisoned || r.lost })

/-- Writes merged rows to the step's attention output (R143, R145): the row of a token row and query head; a poisoned row is
written with poison. -/
def State.writeMerged (s : State) (r : Reduction) : State :=
  let c := r.shape
  r.merged.foldl (fun s x =>
    (s.putElems r.desc.outFmt.toNat r.desc.cAddr.toNat 0 ((r.first * c.queryHeads + x.1) * c.dv) (x.2.out.map ofBits) x.2.poisoned).1) s

/-- The PARTIAL that answers a QUERY (R171, R253): POISON where a row is poisoned. -/
def State.answerQuery (s : State) (r : Reduction) (a : U16 × U32 × U64 × Nat) : State :=
  let rows := r.merged
  let b : PartialBody := { step := a.2.2.2, layer := r.layer, width := r.shape.dv, rows := r.size, fp32 := r.fp32, start := r.range.1, stop := r.range.2 }
  if rows.any fun x => x.2.poisoned then s.sendPartial a.1 a.2.1 a.2.2.1 stPOISON b
  else s.sendPartial a.1 a.2.1 a.2.2.1 stOK { b with
    allEmpty := rows.all fun x => x.2.lse == 0xFF800000, data := rows.flatMap fun x => x.2.bytes r.fp32 }

/-- REDUCER_MERGE_COMPLETE (R143-R145, R253): the home reducer, of quadrant `home`, of an entry and layer has every partial it awaits, and writes the
merged rows, or answers the QUERY; those of the last entry of the layer end its barrier. -/
def execReducerMergeComplete (home : Fin 4) (red : Nat) (s : State) : Host.Outcome State Fault Refusal :=
  .next (let r := s.reduction red
    if !s.alive ∨ !r.complete ∨ r.slot % 4 ≠ home.val then s
    else
      let s := (s.setReduction red {}).count64 (Reg.SPRING_Q_MERGED_LO + 0x10 * home.val) r.parts.length
      match r.asker with
      | some a => s.answerQuery r a
      | none =>
        let s := s.writeMerged r
        let s := if r.merged.any fun x => x.2.poisoned then s.poisonWork r.slot else s
        let s := s.opDone r.seq
        if s.spring.reductions.any fun x => x.2.active && x.2.asker.isNone && decide (x.2.layer = r.layer) then s else s.endBarrier r.layer)

end Sys2Proof.Machine
end

