-- ==== Sys2Proof/Machine/ElandCalc.lean ====
section
/-! DEFINITION. What the operations of the Eland array compute (chapter 04): matrix products with their checksums, epilogues,
attention rows and their gradients, packing, distance tables and sampling. The order of sums, the last bits of functions, and
attention results within the bounds of R181 are free (R108, R111, R181). -/

namespace Sys2Proof.Machine

/-! ### Descriptors (R102, R103) -/

/-- The kind a descriptor names. -/
def ElandDesc.kind? (d : ElandDesc) : Option ElandKind :=
  match d.kind.toNat with
  | 1 => some .gemm | 2 => some .groupedGemm | 3 => some .attnFwd | 4 => some .attnTree
  | 5 => some .attnBwd | 6 => some .kvPack | 7 => some .distTable | 8 => some .sample
  | _ => none

/-- Formats of A, B and the output. -/
def ElandDesc.fa (d : ElandDesc) : Nat := d.aFmt.toNat % 16
/-- Format of B. -/
def ElandDesc.fb (d : ElandDesc) : Nat := d.bFmt.toNat % 16
/-- Format of the output. -/
def ElandDesc.fo (d : ElandDesc) : Nat := d.outFmt.toNat % 16

/-- KV heads of an attention descriptor. -/
def ElandDesc.kvHeads (d : ElandDesc) : Nat := d.h.toNat % 256

/-- H[15:8]. -/
def ElandDesc.sinks (d : ElandDesc) : Nat := d.h.toNat / 256

/-- DEP (R97). -/
def ElandDesc.dep (d : ElandDesc) : Bool := d.flags.getLsbD 0

/-- NOTIFY: the control firmware also receives the completion (R102). -/
def ElandDesc.notify (d : ElandDesc) : Bool := d.flags.getLsbD 1

/-- WL: bound to the step's work list. -/
def ElandDesc.wl (d : ElandDesc) : Bool := d.flags.getLsbD 2

/-- Address of an operation's ragged length table (R161). -/
def State.raggedAt (s : State) (d : ElandDesc) : Nat :=
  if d.kind = 5 then s.loadLE (d.aAddr.toNat + 24) 8 else d.auxAddr.toNat

/-- VALUE_WIDTH of the ragged length table. -/
def State.valueWidth (s : State) (d : ElandDesc) : Nat := s.loadLE (s.raggedAt d + 0x30) 2

/-- Row of the step's token matrix of row `r` of an operation (log entry 85); rows beyond the spans keep their number. -/
def spanRow : List RowSpan → Nat → Nat
  | [], r => r
  | x :: xs, r => if r < x.count then x.first + r else spanRow xs (r - x.count)

/-- Rows of the token matrix as far as the operation's spans reach. -/
def spanEnd (xs : List RowSpan) : Nat := (xs.map fun x => x.first + x.count).foldl max 0

/-- Row of operand A of row `r`. -/
def ElandOp.aRow (op : ElandOp) (r : Nat) : Nat := if op.gather then spanRow op.rows r else r

/-- Rows of operand A. -/
def ElandOp.aRows (op : ElandOp) : Nat := if op.gather then max op.tokens (spanEnd op.rows) else op.desc.m.toNat

/-- Row of the output of row `r`. -/
def ElandOp.cRow (op : ElandOp) (r : Nat) : Nat := if op.scatter then spanRow op.rows r else r

/-- Rows of the output. -/
def ElandOp.cRows (op : ElandOp) : Nat := if op.scatter then max op.tokens (spanEnd op.rows) else op.desc.m.toNat

/-! ### Output tiles (R93, R105) -/

/-- Rows and columns of the output, which is cut into tiles (R93): for SwiGLU the N columns before the halves are joined. -/
def State.elandOut (s : State) (op : ElandOp) : Nat × Nat :=
  let d := op.desc
  match op.units with
  | u :: _ => ((s.reduction u.red).positions.length, (s.reduction u.red).shape.queryHeads * (s.reduction u.red).shape.dv)
  | [] => match d.kind? with
    | some .attnFwd | some .attnTree => (d.m.toNat, d.g.toNat * (if d.mode.getLsbD 4 then s.valueWidth d else d.k.toNat))
    | some .attnBwd | some .kvPack => (d.m.toNat, d.g.toNat * d.k.toNat)
    | some .distTable => (d.m.toNat, d.g.toNat * 256)
    | _ => (d.m.toNat, d.n.toNat)

/-- An output tile: its group, and its rows and columns. -/
structure TilePlace where
  group : Nat := 0
  lo : Nat := 0
  hi : Nat := 0
  c0 : Nat := 0
  c1 : Nat := 0
  deriving DecidableEq, Repr, Inhabited

/-- ROW_COUNT of a group (R105). -/
def State.groupCount (s : State) (d : ElandDesc) (g : Nat) : Nat := s.loadLE (d.auxAddr.toNat + 16 * g + 4) 4

/-- Byte offset of a group's weights (R105). -/
def State.groupOffset (s : State) (d : ElandDesc) (g : Nat) : Nat := s.loadLE (d.auxAddr.toNat + 16 * g + 8) 8

/-- Finds a tile among the groups of GROUPED_GEMM (R105): the group, its first row, and the tile's number in it. -/
def State.groupTile (s : State) (d : ElandDesc) (cols : Nat) : Nat → Nat → Nat → Nat → Nat × Nat × Nat
  | 0, g, row, tile => (g, row, tile)
  | k + 1, g, row, tile =>
    let n := (s.groupCount d g + 255) / 256 * cols
    if tile < n then (g, row, tile) else s.groupTile d cols k (g + 1) (row + s.groupCount d g) (tile - n)

/-- Where a tile lies in the output: tiles are numbered row block by row block, and group by group (R93, R105). -/
def State.tilePlace (s : State) (op : ElandOp) (tile : Nat) : TilePlace :=
  let d := op.desc
  let (m, n) := s.elandOut op
  let cols := max 1 ((n + 255) / 256)
  let x : Nat × Nat × Nat := if d.kind = 2 then s.groupTile d cols d.g.toNat 0 0 tile else (0, 0, tile)
  let most := if d.kind = 2 then x.2.1 + s.groupCount d x.1 else m
  let lo := x.2.1 + 256 * (x.2.2 / cols)
  { group := x.1, lo := lo, hi := min most (lo + 256), c0 := x.2.2 % cols * 256, c1 := min n (x.2.2 % cols * 256 + 256) }

/-- Output tiles of an operation (R93, R105). -/
def State.elandTiles (s : State) (op : ElandOp) : Nat :=
  let (m, n) := s.elandOut op
  let cols := (n + 255) / 256
  if op.desc.kind = 2 then ((List.range op.desc.g.toNat).map fun i => (s.groupCount op.desc i + 255) / 256).sum * cols
  else (m + 255) / 256 * cols

/-- Tile of an ordinary operation that holds an output row and column. -/
def State.tileAtCell (s : State) (op : ElandOp) (row col : Nat) : Nat := row / 256 * (((s.elandOut op).2 + 255) / 256) + col / 256

/-- Rows of a tile that belong to each Herd slot: (slot, rows). -/
def rowsIn : List RowSpan → Nat → Nat → Nat → List (Nat × Nat)
  | [], _, _, _ => []
  | x :: xs, off, lo, hi =>
    let c := min hi (off + x.count) - max lo off
    if c = 0 then rowsIn xs (off + x.count) lo hi else (x.slot, c) :: rowsIn xs (off + x.count) lo hi

/-! ### Matrix products (R108, R109) -/

/-- Row `r` of operand A. -/
def State.matrixRow (s : State) (op : ElandOp) (r : Nat) : List FNum :=
  let d := op.desc
  let k := d.k.toNat
  (List.range k).map fun i => s.operand d.fa d.aAddr.toNat (op.aRows * k) (op.aRow r * k + i) ((op.aRow r * k + i) / 32)

/-- Column `c` of operand B, or of a group's weights; MX blocks run along K (log entry 82). -/
def State.matrixColumn (s : State) (d : ElandDesc) (group c : Nat) : List FNum :=
  let n := d.n.toNat
  let a := d.bAddr.toNat + (if d.kind = 2 then s.groupOffset d group else 0)
  (List.range d.k.toNat).map fun i => s.operand d.fb a (d.k.toNat * n) (i * n + c) (i / 32 * n + c)

/-- Exact products of a row and a column. -/
def State.matrixProducts (s : State) (op : ElandOp) (p : TilePlace) (r c : Nat) : List FNum :=
  List.zipWith FNum.times (s.matrixRow op r) (s.matrixColumn op.desc p.group c)

/-- The FP32 sum of an output row and column in a run: a sound one, or what the run's upsets left. -/
def State.matrixSum (s : State) (op : ElandOp) (p : TilePlace) (run : TileRun) (r c : Nat) : FNum :=
  match run.upsets.find? fun x => decide (p.lo + x.1 = r) && decide (p.c0 + x.2.1 = c) with
  | some x => ofBits x.2.2
  | none => sumFree op.draw (r * op.desc.n.toNat + c) (s.matrixProducts op p r c)

/-! ### Epilogues (R110, R111) -/

/-- Address of the epilogue block: AUX_ADDR, and after the group table in GROUPED_GEMM, whose AUX_ADDR that table takes (log entry
86). -/
def ElandDesc.epilogueAt (d : ElandDesc) : Nat := if d.kind = 2 then d.auxAddr.toNat + 16 * d.g.toNat else d.auxAddr.toNat

/-- 1 / (1 + e^−x). -/
def sigmoid (x : FNum) : FNum := FNum.one.div (FNum.one.add (x.neg.exp .vector))

/-- Activation of a code (R110): each operation in FP32 (log entry 83). SwiGLU's first factor is SiLU. -/
def activate (code : Nat) (x : FNum) : FNum :=
  let half : FNum := .num false 1 (-1)
  match code with
  | 1 => if x.isNan then x else x.max .zero
  | 2 => (half.mul x).mul (FNum.one.add ((x.mul (fp32.decode 0x3F3504F3)).erf .vector))
  | 3 =>
    let cube := ((x.mul x).mul x).mul (fp32.decode 0x3D372713)
    (half.mul x).mul (FNum.one.add (((x.add cube).mul (fp32.decode 0x3F4C422A)).tanh .vector))
  | 4 | 5 => x.div (FNum.one.add (x.neg.exp .vector))
  | 6 => sigmoid x
  | _ => x

/-- Steps 1 and 2 of the epilogue: scale and bias. -/
def State.biased (s : State) (d : ElandDesc) (c : Nat) (x : FNum) : FNum :=
  let y := x.mul (fp32.decode d.param0.toNat)
  if d.mode.getLsbD 4 then y.add (fp32.decode (s.loadLE (s.loadLE d.epilogueAt 8 + 4 * c) 4)) else y

/-- Columns that the epilogue writes (R110). -/
def ElandDesc.outCols (d : ElandDesc) : Nat := if d.mode.toNat % 16 = 5 then d.n.toNat / 2 else d.n.toNat

/-- Step 4: the residual, which has the output's shape and format (log entry 82). -/
def State.residual (s : State) (op : ElandOp) (r c : Nat) (x : FNum) : FNum :=
  let d := op.desc
  let i := op.cRow r * d.outCols + c
  if d.mode.getLsbD 5 then x.add (s.operand d.fo (s.loadLE (d.epilogueAt + 8) 8) (op.cRows * d.outCols) i (i / 32)) else x

/-- The output columns that a tile writes, from the first (R110): under SwiGLU, the tile that holds column j + N/2 writes column
j. -/
def ElandDesc.tileCols (d : ElandDesc) (p : TilePlace) : Nat × Nat :=
  if d.mode.toNat % 16 = 5 then (p.c0 - d.n.toNat / 2, p.c1 - d.n.toNat / 2) else (p.c0, p.c1)

/-- An output element before its conversion (R110). -/
def State.gemmValue (s : State) (op : ElandOp) (p : TilePlace) (run : TileRun) (r c : Nat) : FNum :=
  let d := op.desc
  let x (c : Nat) := s.biased d c (s.matrixSum op p run r c)
  let y := if d.mode.toNat % 16 = 5 then (activate 5 (x c)).mul (x (c + d.n.toNat / 2)) else activate (d.mode.toNat % 16) (x c)
  s.residual op r c y

/-- A matrix tile's output is written (R109, R118, R122): converted, or with poison. -/
def State.commitMatrix (s : State) (op : ElandOp) (p : TilePlace) (run : TileRun) (poison : Bool) : State × Nat × Nat :=
  let d := op.desc
  let cs := d.tileCols p
  (List.range (p.hi - p.lo)).foldl (fun (x : State × Nat × Nat) i =>
    let r := p.lo + i
    let vs := (List.range (cs.2 - cs.1)).map fun j => s.gemmValue op p run r (cs.1 + j)
    let y := x.1.putElems d.fo d.cAddr.toNat (op.cRows * d.outCols) (op.cRow r * d.outCols + cs.1) vs poison
    (y.1, x.2.1 + (if poison then 0 else y.2.1), x.2.2 + (if poison then 0 else y.2.2))) (s, 0, 0)

/-! ### Attention (R154-R164, R174) -/

/-- An entry of a ragged length table (R161). -/
structure RaggedEntry where
  qStart : Nat := 0
  qCount : Nat := 0
  pos : Nat := 0
  kvStart : Nat := 0
  prefixLen : Nat := 0
  ref : Nat := 0
  sparse : Nat := 0
  tree : Nat := 0
  deriving DecidableEq, Repr, Inhabited

/-- Entry `i` of the table at `a`. -/
def State.raggedEntry (s : State) (a i : Nat) : RaggedEntry :=
  let b := a + 64 + 32 * i
  { qStart := s.loadLE b 4, qCount := s.loadLE (b + 4) 4, pos := s.loadLE (b + 8) 4, kvStart := s.loadLE (b + 12) 4, prefixLen := s.loadLE (b + 16) 4
    ref := s.loadLE (b + 20) 4, sparse := s.loadLE (b + 24) 4, tree := s.loadLE (b + 28) 4 }

/-- Entries of a table. -/
def State.raggedList (s : State) (a : Nat) : List RaggedEntry := (List.range (s.loadLE (a + 4) 4)).map (s.raggedEntry a)

/-- The entry that holds a row. -/
def State.raggedOf (s : State) (a row : Nat) : RaggedEntry :=
  ((s.raggedList a).find? fun e => decide (e.qStart ≤ row ∧ row < e.qStart + e.qCount)).getD {}

/-- Nodes of the tree of an entry in the table at `a`, for ATTN_TREE (R172). -/
def State.raggedNodes (s : State) (d : ElandDesc) (a : Nat) (e : RaggedEntry) : Option (List TreeNode) :=
  if d.kind = 4 then
    let b := s.loadLE (a + 0x20) 8 + 1024 * e.tree
    some ((List.range (min 64 (s.loadLE (b + 1) 1))).map fun i =>
      { token := BitVec.ofNat 32 (s.loadLE (b + 0x40 + 8 * i) 4), parent := s.loadLE (b + 0x44 + 8 * i) 1, depth := s.loadLE (b + 0x45 + 8 * i) 1 })
  else none

/-- Positions of an entry's rows (R163, R173). -/
def raggedPositions (e : RaggedEntry) (nodes : Option (List TreeNode)) : List Nat :=
  match nodes with
  | some ns => (ns.take e.qCount).map fun n => e.pos + n.depth
  | none => (List.range e.qCount).map fun k => e.pos + k

/-- The layer's attention as a descriptor, its table and an entry give it. -/
def State.descShape (s : State) (op : ElandOp) (a : Nat) (e : RaggedEntry) : AttnShape :=
  let d := op.desc
  { heads := d.kvHeads, queryHeads := d.g.toNat, width := d.k.toNat, latent := d.mode.getLsbD 4, valueWidth := s.valueWidth d, mask := d.mode.toNat % 16
    window := d.n.toNat, sinks := d.sinks, prefixLen := e.prefixLen, kvStart := e.kvStart
    sparseAt := if e.sparse = 0xFFFFFFFF then none else some (s.loadLE (a + 0x18) 8 + 8 * e.sparse)
    scale := d.param0, rotated := s.loadLE (a + 1) 1 / 2 % 2 = 1, rope := s.loadLE (a + 0x10) 8, kvScale := s.loadLE (a + 0x28) 8
    newKv := s.loadLE (a + 8) 8, newFmt := op.newFmt }

/-- Tile positions of a root and layer that the step has staged, their PREFETCH slot DONE (R229). -/
def State.stagedOf (s : State) (root layer : Nat) : Option Staged :=
  match s.herd.step with
  | none => none
  | some st => st.staged.find? fun x => x.done && decide (x.root = root) && decide (x.layer = layer)

/-- Where the committed keys and values of an entry lie (R163, R164, R229). -/
def State.descSource (s : State) (op : ElandOp) (a : Nat) (e : RaggedEntry) : KvSource :=
  let d := op.desc
  let b := if d.kind = 5 then s.loadLE (d.aAddr.toNat + 32) 8 else d.bAddr.toNat
  if s.loadLE (a + 1) 1 % 2 = 1 then .dense (b + 256 * e.ref) (e.kvStart / 64) d.fb
  else match s.stagedOf e.ref (s.loadLE (a + 2) 1), op.source with
    | some x, .sequencer => .staged e.ref x.layer x.at_ x.first x.count
    | _, _ => .pages e.ref (s.loadLE (a + 2) 1)

/-- The query of a row and head as it lies in operand A (R155). -/
def State.queryRow (s : State) (op : ElandOp) (c : AttnShape) (a row head : Nat) : List FNum :=
  let n := op.aRows * c.queryHeads * c.dq
  (List.range c.dq).map fun ch =>
    let i := (op.aRow row * c.queryHeads + head) * c.dq + ch
    s.operand op.desc.fa a n i (i / 32)

/-- Committed positions that a row sees. -/
def State.oldPositions (s : State) (c : AttnShape) (e : RaggedEntry) (pos : Nat) : List Nat :=
  ((List.range (e.pos - e.kvStart)).map fun k => e.kvStart + k).filter fun j => s.maskSees c pos j

/-- The partial row of a query row and head over the committed and the new positions that it sees (R154, R163). -/
def State.attnRow (s : State) (op : ElandOp) (row head : Nat) : PRow :=
  let a := s.raggedAt op.desc
  let e := s.raggedOf a row
  let c := s.descShape op a e
  let src := s.descSource op a e
  let nodes := s.raggedNodes op.desc a e
  let ps := raggedPositions e nodes
  let pos := ps.getD (row - e.qStart) 0
  let n := row * c.queryHeads + head
  let h := head / max 1 c.group
  let q := ofBf16 (s.prepare c op.draw (2 ^ 40 * (n + 1)) pos (s.queryRow op c op.desc.aAddr.toNat row head))
  let layer := s.loadLE (a + 2) 1
  let qs := scaleQuery (s.kvScale c src layer h 0) q
  let vs := s.kvScale c src layer h 1
  let old := (s.oldPositions c e pos).map fun j => s.kvRow c src h j
  let items := old.zipIdx.map fun x => ((dot op.draw (2 ^ 41 * (n + 1) + x.2) qs x.1.k).mul (fp32.decode c.scale.toNat), x.1.v.map fun v => v.mul vs)
  let new := s.newItems c nodes op.draw (2 ^ 42 * (n + 1)) (op.aRow e.qStart) ps (row - e.qStart) head q
  softRow .vector op.draw (2 ^ 43 * (n + 1)) c.dv (items ++ new.1) (old.any KvRow.poison || new.2)

/-- Address of the row statistics (R104): after the output rows. -/
def State.statsAt (s : State) (op : ElandOp) : Nat := op.desc.cAddr.toNat + extent op.desc.fo (op.cRows * (s.elandOut op).2)

/-- Heads of a tile: head, and its channels that lie in the tile, as first and end. -/
def headsIn (width : Nat) (p : TilePlace) : List (Nat × Nat × Nat) :=
  (List.range ((p.c1 + width - 1) / max 1 width - p.c0 / max 1 width)).map fun i =>
    let h := p.c0 / max 1 width + i
    (h, max p.c0 (h * width) - h * width, min p.c1 ((h + 1) * width) - h * width)

/-- A tile of attention is written (R104, R122): the channels of each row and head, and with a head's first channel its row
statistics. -/
def State.commitAttn (s : State) (op : ElandOp) (p : TilePlace) (poison : Bool) : State × Nat × Nat :=
  let d := op.desc
  let cols := (s.elandOut op).2
  let dv := cols / max 1 d.g.toNat
  let stats := s.statsAt op
  (List.range (p.hi - p.lo)).foldl (fun (x : State × Nat × Nat) i => (headsIn dv p).foldl (fun (x : State × Nat × Nat) h =>
    let r := p.lo + i
    let row := s.attnRow op r h.1
    let bad := poison || row.poisoned
    let y := x.1.putElems d.fo d.cAddr.toNat (op.cRows * cols) (op.cRow r * cols + h.1 * dv + h.2.1) (((row.out.drop h.2.1).take (h.2.2 - h.2.1)).map ofBits) bad
    let t := if h.2.1 = 0 then y.1.writeP (stats + 8 * (op.cRow r * d.g.toNat + h.1)) (leBytes 4 row.m.toNat ++ leBytes 4 row.lse.toNat) bad else y.1
    (t, x.2.1 + (if bad then 0 else y.2.1), x.2.2 + (if bad then 0 else y.2.2))) x) (s, 0, 0)

/-- The partial rows that an attention operation gives a Herd slot's reduction: those of poisoned tiles are poisoned. -/
def State.attnPart (s : State) (op : ElandOp) (slot : Nat) : List (Nat × PRow) :=
  let d := op.desc
  let dv := (s.elandOut op).2 / max 1 d.g.toNat
  let starts := (op.rows.foldl (fun (x : Nat × List (Nat × RowSpan)) r => (x.1 + r.count, x.2 ++ [(x.1, r)])) (0, [])).2
  (starts.filter fun x => decide (x.2.slot = slot)).flatMap fun x => (List.range x.2.count).flatMap fun i => (List.range d.g.toNat).map fun h =>
    let row := s.attnRow op (x.1 + i) h
    (i * d.g.toNat + h, { row with poisoned := row.poisoned || op.poison.any fun t => decide (t = s.tileAtCell op (x.1 + i) (h * dv)) })

/-! ### Gradients (R179, R180) -/

/-- Row values at `a`: `n` channels of element index `i` of a matrix of `total` elements. -/
def State.rowValues (s : State) (f a total i n : Nat) : List FNum := (List.range n).map fun ch => s.operand f a total (i + ch) ((i + ch) / 32)

/-- The row with its value times a scale (R46). -/
def KvRow.scaled (x : KvRow) (k : FNum) : KvRow := { x with v := x.v.map fun v => v.mul k }

/-- Everything that a query row and head contributes (R180): for each visible key position of its entry, P and dS. Operands are
in A_FMT (log entry 82). -/
def State.gradRow (s : State) (op : ElandOp) (row head : Nat) : List (Nat × KvRow × FNum × FNum) × List FNum × List FNum :=
  let d := op.desc
  let a := s.raggedAt d
  let e := s.raggedOf a row
  let c := s.descShape op a e
  let src := s.descSource op a e
  let m := d.m.toNat
  let at_ (k : Nat) := s.loadLE (d.aAddr.toNat + 8 * k) 8
  let i := (row * c.queryHeads + head)
  let q := s.rowValues d.fa (at_ 0) (m * c.queryHeads * c.dq) (i * c.dq) c.dq
  let dO := s.rowValues d.fa (at_ 1) (m * c.queryHeads * c.dv) (i * c.dv) c.dv
  let o := s.rowValues d.fa (at_ 2) (m * c.queryHeads * c.dv) (i * c.dv) c.dv
  let lse := fp32.decode (s.loadLE (d.auxAddr.toNat + 8 * i + 4) 4)
  let pos := e.pos + (row - e.qStart)
  let h := head / max 1 c.group
  let vs := s.kvScale c src (s.loadLE (a + 2) 1) h 1
  let n := 2 ^ 40 * (i + 1)
  let dd := dot op.draw n dO o
  let old := (s.oldPositions c e pos).map fun j => (j - e.kvStart, (s.kvRow c src h j).scaled vs)
  let new := (s.newVisible c none (raggedPositions e none) (row - e.qStart)).map fun x =>
    (x.2 - e.kvStart, s.newRow c op.draw (n + 1024 * (x.1 + 1)) (e.qStart + x.1) h x.2)
  let rows := (old ++ new).zipIdx.map fun x =>
    let kv := x.1.2
    let p := (((dot op.draw (2 * n + x.2) q kv.k).mul (fp32.decode c.scale.toNat)).sub lse).exp .vector
    (x.1.1, kv, p, p.mul ((dot op.draw (3 * n + x.2) dO kv.v).sub dd))
  (rows, q, dO)

/-- Positions that an entry has a key gradient for. -/
def RaggedEntry.span (e : RaggedEntry) : Nat := e.pos + e.qCount - e.kvStart

/-- dQ of a row and head (R180). -/
def State.gradQ (s : State) (op : ElandOp) (row head : Nat) : List FNum :=
  let x := s.gradRow op row head
  (List.range x.2.1.length).map fun ch =>
    (fp32.decode op.desc.param0.toNat).mul (sumFree op.draw (2 ^ 44 * (row * op.desc.g.toNat + head + 1) + ch) (x.1.map fun y => y.2.2.2.times (y.2.1.k.getD ch .zero)))

/-- Adds gradients to `n` FP32 values at `a` (R180): the additions are in a free order. -/
def State.addFp32 (s : State) (op a : Nat) (cols : List (List FNum)) (poison : Bool) : State :=
  let vs := cols.zipIdx.map fun x => sumFree op (a + 4 * x.2) (fp32.decode (s.loadLE (a + 4 * x.2) 4) :: x.1)
  s.writeP a (vs.flatMap fun v => leBytes 4 v.bits.toNat) (poison || s.poisoned a (4 * cols.length))

/-- dK and dV of a position and KV head of an entry whose first gradient row is `base` (R180). -/
def State.gradKv (s : State) (op : ElandOp) (e : RaggedEntry) (base h j : Nat) (poison : Bool) : State :=
  let d := op.desc
  let c := s.descShape op (s.raggedAt d) e
  let rows := (List.range e.qCount).flatMap fun r => (List.range c.group).filterMap fun g =>
    let x := s.gradRow op (e.qStart + r) (h * c.group + g)
    (x.1.find? fun y => decide (y.1 = j)).map fun y => (y.2.2.1, y.2.2.2, x.2.1, x.2.2)
  let sigma := fp32.decode d.param0.toNat
  let i := (base + j) * c.heads + h
  let at_ (k : Nat) := s.loadLE (d.cAddr.toNat + 8 * k) 8
  let s' := s.addFp32 op.draw (at_ 1 + 4 * (i * c.dq)) ((List.range c.dq).map fun ch => rows.map fun y => sigma.mul (y.2.1.times (y.2.2.1.getD ch .zero)).toFp32) poison
  s'.addFp32 op.draw (at_ 2 + 4 * (i * c.dv)) ((List.range c.dv).map fun ch => rows.map fun y => y.1.times (y.2.2.2.getD ch .zero)) poison

/-- ATTN_BWD has run all its tiles (R180): dQ in OUT_FMT, and dK and dV added to what software put there, entry after entry and
position after position (log entry 82). What poisoned tiles take part in is poisoned (R122). -/
def State.backwardDone (s : State) (op : ElandOp) : State × Nat × Nat :=
  let d := op.desc
  let a := s.raggedAt d
  let c0 := s.descShape op a (s.raggedEntry a 0)
  let g := d.g.toNat
  let x := (List.range d.m.toNat).foldl (fun (x : State × Nat × Nat) r => (List.range g).foldl (fun (x : State × Nat × Nat) h =>
    let y := x.1.putElems d.fo (s.loadLE d.cAddr.toNat 8) (d.m.toNat * g * c0.dq) ((r * g + h) * c0.dq) (s.gradQ op r h)
      (op.poison.any fun t => decide (t / max 1 (((s.elandOut op).2 + 255) / 256) = r / 256))
    (y.1, x.2.1 + y.2.1, x.2.2 + y.2.2)) x) (s, 0, 0)
  let y := (s.raggedList a).foldl (fun (y : State × Nat) e =>
    let bad := op.poison.any fun t =>
      let b := t / max 1 (((s.elandOut op).2 + 255) / 256) * 256
      decide (b < e.qStart + e.qCount ∧ e.qStart < b + 256)
    ((List.range e.span).foldl (fun t j => (List.range d.kvHeads).foldl (fun t h => t.gradKv op e y.2 h j bad) t) y.1, y.2 + e.span)) (x.1, 0)
  (y.1, x.2)

/-! ### Packing (R45-R47, R50, R53, R106, R167) -/

/-- The shape that KV_PACK's operands give. -/
def ElandDesc.packShape (d : ElandDesc) (latent : Bool) : AttnShape :=
  { heads := d.g.toNat, width := d.k.toNat, latent := latent, rotated := d.mode.getLsbD 1, rope := if d.mode.getLsbD 0 then d.bAddr.toNat else 0
    newKv := d.aAddr.toNat, newFmt := d.fa, kvScale := d.auxAddr.toNat }

/-- The channels of a tile of a row (R42, R50): those of slice `i` of the key or the value, zero beyond the width. -/
def sliceOf (xs : List FNum) (i : Nat) : List FNum := ((xs.drop (128 * i)).take 128 ++ List.replicate 128 FNum.zero).take 128

/-- The row that tile `t` of a tile position takes (R53, R106, R167): rotary encoding, then rotation of keys. -/
def State.packValues (s : State) (c : AttnShape) (op row pos t : Nat) : List FNum :=
  let n := slicesOf c.width
  let h := t / (2 * n)
  let kv := s.newRow c op (2 ^ 20 * (row + 1)) row h pos
  let full := if c.latent then s.rotary c.rope pos (s.projected c row h 0 ++ s.projected c row h 1) else []
  let part := if c.latent then (if t % 2 = 0 then full.take c.width else full.drop c.width)
    else if t % 2 = 0 then kv.k else s.projected c row h 1
  sliceOf part (t / 2 % n)

/-- Writes a packed row into a tile (R43, R47): a write unseals it, and row 63 seals it. Answers what saturated and what was NaN. -/
def State.packTile (s : State) (p slot row : Nat) (scale : FNum) (xs : List FNum) (poison : Bool) : State × Nat × Nat :=
  let f := (s.page p).format.toNat
  let bs := (List.range 4).map fun i => packBlock f scale ((xs.drop (32 * i)).take 32)
  let bytes := [elemBytes f (bs.flatMap Packed.elems), bs.map fun b => BitVec.ofNat 8 b.scale]
  let s := ((rowParts f row).zip bytes).foldl (fun s x => s.writeP (s.tileAddr p slot + x.1.1) x.2 (poison && decide (64 ≤ x.1.2))) s
  let s := s.unseal p slot
  (if row = 63 then s.sealSlot p slot else s, (bs.map Packed.saturated).sum, (bs.map Packed.nans).sum)

/-- KV_PACK writes the row at a position of a layer, in every tile of its tile position (R53, R106): `r` is its row in the
operation, `row` in operand A, and `at_` the position at which its keys are encoded (R173). -/
def State.packRow (x : State × Nat × Nat) (op : ElandOp) (slot r row pos at_ : Nat) : State × Nat × Nat :=
  let s := x.1
  let d := op.desc
  let e := s.entry slot
  let root := e.pageRoot.getD 0
  let c := d.packShape (decide ((s.plan e.model).valueWidth ≠ 0))
  let n := slicesOf c.width
  (s.tpPages root d.kvHeads (pos / 64)).foldl (fun x p => (List.range (x.1.page p).tileCount).foldl (fun (x : State × Nat × Nat) i =>
    let t := (x.1.page p).firstTile + i
    let bad := op.poison.any fun k => decide (k = x.1.tileAtCell op r (t / (2 * n) * c.width + 128 * (t / 2 % n)))
    let scale := if isFp8 (x.1.page p).format.toNat then x.1.scaleOf c.kvScale d.kvHeads c.heads n t else .one
    let y := x.1.packTile p i (pos % 64) scale (s.packValues c op.draw row at_ t) bad
    (y.1, x.2.1 + y.2.1, x.2.2 + y.2.2)) x) x

/-! ### Distance tables (R349) -/

/-- Bytes of the distance table of one query in a format, for M sub-spaces (R349). -/
def distTableSize (fmt m : Nat) : Nat := if fmt = 0 then 512 * m else 256 * m + 64

/-- A DIST_TABLE for HAMMING: its distance code is 3.0 (R349). -/
def ElandDesc.hamming (d : ElandDesc) : Bool := d.param0 == 0x40400000

/-- Query `q` of a DIST_TABLE: under COSINE scaled to unit length (R349). -/
def State.distQuery (s : State) (op : ElandOp) (q : Nat) : List FNum :=
  let d := op.desc
  let xs := s.rowValues d.fa d.aAddr.toNat (d.m.toNat * d.k.toNat) (q * d.k.toNat) d.k.toNat
  if d.param0 == 0x40000000 then
    let k := (dot op.draw (2 ^ 50 + q) xs xs).rsqrt .vector
    xs.map fun x => x.mul k
  else xs

/-- Centroid `j` of sub-space `sub`. -/
def State.centroid (s : State) (d : ElandDesc) (sub j : Nat) : List FNum :=
  let n := d.k.toNat / max 1 d.g.toNat
  s.rowValues d.fb d.bAddr.toNat (256 * d.k.toNat) ((256 * sub + j) * n) n

/-- Entry t[s][j] of a query's table (R349): each step in FP32, the sum in any order. -/
def State.distEntry (s : State) (op : ElandOp) (q sub j : Nat) : FNum :=
  let d := op.desc
  let n := d.k.toNat / max 1 d.g.toNat
  let e := (q * d.g.toNat + sub) * 256 + j
  if d.hamming then .num false (popByte (s.loadLE (d.aAddr.toNat + q * d.g.toNat + sub) 1 ^^^ j)) 0
  else
    let x := ((s.distQuery op q).drop (sub * n)).take n
    let y := s.centroid d sub j
    if d.param0 == 0 then sumFree op.draw e ((List.zipWith FNum.sub x y).map fun v => v.times v) else (dot op.draw e x y).neg

/-- LO and STEP of a query's UINT8 table (R349). -/
def State.distRange (s : State) (op : ElandOp) (q : Nat) : FNum × FNum :=
  if op.desc.hamming then (.zero, .one)
  else
    let all := (List.range op.desc.g.toNat).flatMap fun sub => (List.range 256).map fun j => s.distEntry op q sub j
    let lo := (all.map FNum.neg).foldl FNum.max .bottom |>.neg
    (lo, ((all.foldl FNum.max .bottom).sub lo).div (.num false 255 0))

/-- A table entry as UINT8: round((t − LO) / STEP), saturated to 255; where STEP is zero or not a number the spec states none, and
it is free. -/
def uint8Of (free : Nat) (t lo step : FNum) : Nat :=
  match (t.sub lo).div step with
  | .num _ m e => min 255 (roundEven m (-e))
  | .inf _ => 255
  | .nan _ => free % 256

/-- The entries of sub-space `sub` of one query's table (R349). -/
def State.writeTable (s : State) (op : ElandOp) (q sub : Nat) (poison : Bool) : State :=
  let d := op.desc
  let fmt := d.mode.toNat
  let base := d.cAddr.toNat + q * distTableSize fmt d.g.toNat
  let ts := (List.range 256).map fun j => s.distEntry op q sub j
  if fmt = 0 then (s.putElems 6 (base + 512 * sub) 256 0 ts poison).1
  else
    let r := s.distRange op q
    let s' := if sub = 0 then s.writeP base (leBytes 4 r.1.bits.toNat ++ leBytes 4 r.2.bits.toNat) poison else s
    s'.writeP (base + 64 + 256 * sub)
      (ts.zipIdx.map fun x => BitVec.ofNat 8 (uint8Of (Config.freeOrder op.draw (2 ^ 51 + (q * d.g.toNat + sub) * 256 + x.2) 0) x.1 r.1 r.2)) poison

/-- A tile of a DIST_TABLE: one sub-space of up to 256 queries. -/
def State.commitTable (s : State) (op : ElandOp) (p : TilePlace) (poison : Bool) : State :=
  (List.range (p.hi - p.lo)).foldl (fun s i => s.writeTable op (p.lo + i) (p.c0 / 256) poison) s

/-! ### Sampling (R113, R114) -/

/-- An FP32 logit that no sampling admits (R113): a NaN or +∞. -/
def badLogit (v : Nat) : Bool := decide (0x7F800000 ≤ v ∧ v < 0x80000000) || decide (0xFF800000 < v)

/-- Order of FP32 values that are not NaN. -/
def floatKey (v : Nat) : Int := if v < 0x80000000 then v else 0x80000000 - (v : Int)

/-- Values in descending order, ties by the lower token ID (R113): their token IDs. -/
def tokenOrder (xs : List FNum) : List Nat :=
  let ks := xs.map fun x => floatKey x.bits.toNat
  (sortBy (fun a b => decide (b.1 < a.1) || (decide (a.1 = b.1) && decide (a.2 ≤ b.2))) ks.zipIdx).map Prod.snd

/-- The FP32 words of some bytes. -/
def wordsOf (bs : List Byte) : List Nat := (List.range (bs.length / 4)).map fun i => leNat ((bs.drop (4 * i)).take 4)

/-- Step 2 of R113: the repetition penalty of the tokens in the history ring. -/
def penalise (penalty : FNum) (ring : List U32) (xs : List FNum) : List FNum :=
  xs.zipIdx.map fun x =>
    if ring.contains (BitVec.ofNat 32 x.2) then (if x.1.less .zero then x.1.mul penalty else x.1.div penalty) else x.1

/-- A sampling parameter entry (R112). -/
structure SampleParams where
  temperature : FNum := .zero
  topP : FNum := .one
  penalty : FNum := .one
  topK : Nat := 0
  seed : U64 := 0
  count : Nat := 0
  history : Nat := 0
  deriving DecidableEq, Repr, Inhabited

/-- A parameter entry's bytes. -/
def sampleParamsOf (bs : List Byte) : SampleParams :=
  let f (o n : Nat) : Nat := leNat ((bs.drop o).take n)
  { temperature := fp32.decode (f 0 4), topP := fp32.decode (f 4 4), penalty := fp32.decode (f 8 4), topK := f 12 2, seed := BitVec.ofNat 64 (f 16 8)
    count := f 24 4, history := f 28 4 }

/-- Sums of a list's prefixes in FP32. -/
def prefixSums : FNum → List FNum → List FNum
  | _, [] => []
  | a, x :: xs => a.add x :: prefixSums (a.add x) xs

/-- Steps 3 to 7 of R113 on penalised logits: sum `e` of the operation that drew `op`. -/
def chooseToken (op e : Nat) (p : SampleParams) (node : Nat) (xs : List FNum) : Nat :=
  if p.temperature.exact.m = 0 then (tokenOrder xs).headD 0
  else
    let zs := xs.map fun x => x.div p.temperature
    let order := tokenOrder zs
    let kept := if p.topK = 0 then order else order.take p.topK
    let best := zs.getD (order.headD 0) .zero
    let es := kept.map fun i => ((zs.getD i .zero).sub best).exp .vector
    let total := sumFree op e es
    let ps := es.map fun x => x.div total
    let ranked := (tokenOrder ps).map fun i => (kept.getD i 0, ps.getD i .zero)
    let ranked := sortBy (fun a b => b.2.less a.2 || (!a.2.less b.2 && decide (a.1 ≤ b.1))) ranked
    let cum := prefixSums .zero (ranked.map Prod.snd)
    let n := if p.topP.less .one then ((cum.findIdx fun c => !c.less p.topP) + 1) else cum.length
    let all := (ranked.zip cum).take n
    let limit := (drawU p.seed p.count node).mul ((all.getLast?.map Prod.snd).getD .zero)
    match all.find? fun x => limit.less x.2 with
    | some x => x.1.1
    | none => (((all.filter fun x => FNum.zero.less x.1.2).getLast?).map fun x => x.1.1).getD 0

/-- The log-probability of a token (R114): log-softmax of the penalised logits at temperature 1, in BF16. -/
def logProb (op e : Nat) (xs : List FNum) (token : Nat) : Nat :=
  let best := xs.foldl FNum.max .bottom
  let sum := sumFree op e (xs.map fun x => (x.sub best).exp .vector)
  (elemFmt 0).wide (((xs.getD token .bottom).sub best).sub (sum.log .vector))

/-- A row of logits and parameters yields no token (R113). -/
def badRow (v : List Nat) : Bool := v.any badLogit || v.all (· == 0xFF800000)

/-- The penalised logits of a row. -/
def State.rowLogits (s : State) (p : SampleParams) (v : List Nat) : List FNum :=
  penalise p.penalty (s.entry p.history).recent (v.map fun x => fp32.decode x)

/-- The token of a sample row and its status (R113): parameters, logits, and whether either reads as poison. -/
def State.drawToken (s : State) (op e node : Nat) (p : SampleParams) (v : List Nat) (poison : Bool) : U32 × Byte :=
  if badRow v || poison then (0, stPOISON) else (BitVec.ofNat 32 (chooseToken op e p node (s.rowLogits p v)), stOK)

/-- Writes a row's result (R114); a row without a token has no log-probability, and its field is free. -/
def State.putSample (s : State) (op e a : Nat) (p : SampleParams) (v : List Nat) (token : U32) (st : Byte) : State :=
  let l := if st = stOK then logProb op (e + 1) (s.rowLogits p v) token.toNat else Config.freeOrder op e 1
  s.write a (packBytes [(4, token.toNat), (1, st.toNat), (1, 0), (2, l)])

/-! ### The checker (R116, R117) -/

/-- An FP32 value is neither a NaN nor an infinity. -/
def allFinite (xs : List FNum) : Bool := xs.all FNum.finite

/-- The sums of a row or a column differ from their checksum by more than R116 allows: exact products and the sums that came
out. One that holds a NaN or an infinity is not compared. -/
def lineDiffers (tol k : Nat) (products : List (List FNum)) (sums : List FNum) : Bool :=
  let ps := products.flatMap id
  allFinite sums && allFinite ps && (exactSum sums).beyond (exactSum ps) (exactSum (ps.map FNum.abs)) tol ((k + 255) / 256)

/-- A tile passes its check (R116): rows of products, and rows of the sums that came out. -/
def checkPasses (tol k : Nat) (products : List (List (List FNum))) (sums : List (List FNum)) : Bool :=
  let cols := (products.map List.length).foldl max 0
  !((products.zip sums).any fun x => lineDiffers tol k x.1 x.2)
    && !((List.range cols).any fun c => lineDiffers tol k (products.map fun r => r.getD c []) (sums.map fun r => r.getD c .zero))

/-- The products of a tile's matrix step, by row and column (R117): scores of attention, sub-space products of a DIST_TABLE, the
rotation of KV_PACK; SAMPLE has no matrix step. -/
def State.stepProducts (s : State) (op : ElandOp) (p : TilePlace) : List (List (List FNum)) :=
  let d := op.desc
  let rows := (List.range (p.hi - p.lo)).map fun i => p.lo + i
  match op.units, d.kind? with
  | u :: _, _ =>
    let r := s.reduction u.red
    rows.map fun i => op.units.flatMap fun u => (r.unitIndices u.head).flatMap fun x =>
      if x / max 1 r.shape.queryHeads = i then (s.unitSees r u x).map fun j => List.zipWith FNum.times (s.unitQuery r u x) (s.kvRow r.shape (s.kvOf r) u.head j).k
      else []
  | [], some .gemm | [], some .groupedGemm => rows.map fun r => (List.range (p.c1 - p.c0)).map fun c => s.matrixProducts op p r (p.c0 + c)
  | [], some .attnFwd | [], some .attnTree | [], some .attnBwd =>
    let a := s.raggedAt d
    let width := (s.elandOut op).2 / max 1 d.g.toNat
    rows.map fun r =>
      let e := s.raggedOf a r
      let c := s.descShape op a e
      let pos := (raggedPositions e (s.raggedNodes d a e)).getD (r - e.qStart) 0
      (headsIn width p).flatMap fun h =>
        let q := s.queryRow op c (if d.kind = 5 then s.loadLE d.aAddr.toNat 8 else d.aAddr.toNat) r h.1
        (s.oldPositions c e pos).map fun j => List.zipWith FNum.times q (s.kvRow c (s.descSource op a e) (h.1 / max 1 c.group) j).k
  | [], some .distTable =>
    if d.hamming then []
    else
      let n := d.k.toNat / max 1 d.g.toNat
      let sub := p.c0 / 256
      rows.map fun q => (List.range 256).map fun j => List.zipWith FNum.times (((s.distQuery op q).drop (sub * n)).take n) (s.centroid d sub j)
  | [], some .kvPack =>
    if d.mode.getLsbD 1 then
      rows.map fun r => (headsIn d.k.toNat p).flatMap fun h =>
        (slices128 ((s.projected (d.packShape false) (op.aRow r) h.1 0))).flatMap fun xs =>
          (List.range xs.length).map fun i => xs.zipIdx.map fun x => if popByte (i &&& x.2) % 2 = 1 then x.1.neg else x.1
    else []
  | [], _ => []

/-- The sums of a run's matrix step: sound ones, or what its upsets left. -/
def stepSums (op : ElandOp) (run : TileRun) (products : List (List (List FNum))) : List (List FNum) :=
  products.zipIdx.map fun r => r.1.zipIdx.map fun c =>
    match run.upsets.find? fun x => decide (x.1 = r.2) && decide (x.2.1 = c.2) with
    | some x => ofBits x.2.2
    | none => sumFree op.draw (2 ^ 52 + 2 ^ 20 * r.2 + c.2) c.1

/-- The sums of a run that the checker compares; those of a matrix tile are the ones its output is made of. -/
def State.runSums (s : State) (op : ElandOp) (p : TilePlace) (run : TileRun) (products : List (List (List FNum))) : List (List FNum) :=
  match op.units, op.desc.kind? with
  | [], some .gemm | [], some .groupedGemm =>
    (List.range (p.hi - p.lo)).map fun i => (List.range (p.c1 - p.c0)).map fun c => s.matrixSum op p run (p.lo + i) (p.c0 + c)
  | _, _ => stepSums op run products

/-- Reduction length of a tile's matrix step: K, and of a DIST_TABLE the sub-space's. -/
def ElandDesc.tileK (d : ElandDesc) : Nat := if d.kind = 7 then d.k.toNat / max 1 d.g.toNat else d.k.toNat

/-- The run of a tile passes its check (R116, R117). -/
def State.runPasses (s : State) (op : ElandOp) (p : TilePlace) (run : TileRun) : Bool :=
  let ps := s.stepProducts op p
  checkPasses (s.rdN Reg.ELAND_ABFT_TOL) op.desc.tileK ps (s.runSums op p run ps)

/-! ### Poison, cycles and homes (R94, R122-R124) -/

/-- `n` elements from element `i` of an operand at `a` read as poison. -/
def State.elemsPoisoned (s : State) (f a i n : Nat) : Bool := s.poisoned (a + i * elemBits f / 8) ((n * elemBits f + 7) / 8)

/-- The tile reads a poisoned operand word (R122). -/
def State.tilePoison (s : State) (op : ElandOp) (p : TilePlace) : Bool :=
  let d := op.desc
  let rows := (List.range (p.hi - p.lo)).map fun i => p.lo + i
  let k := d.k.toNat
  match op.units, d.kind? with
  | _ :: _, _ => false
  | [], some .gemm | [], some .groupedGemm =>
    let b := d.bAddr.toNat + (if d.kind = 2 then s.groupOffset d p.group else 0)
    rows.any (fun r => s.elemsPoisoned d.fa d.aAddr.toNat (op.aRow r * k) k)
      || (List.range k).any (fun i => s.elemsPoisoned d.fb b (i * d.n.toNat + p.c0) (p.c1 - p.c0))
      || (d.mode.getLsbD 4 && s.poisoned (s.loadLE d.epilogueAt 8 + 4 * p.c0) (4 * (p.c1 - p.c0)))
      || (d.mode.getLsbD 5 && rows.any fun r =>
        s.elemsPoisoned d.fo (s.loadLE (d.epilogueAt + 8) 8) (op.cRow r * d.outCols + (d.tileCols p).1) ((d.tileCols p).2 - (d.tileCols p).1))
  | [], some .attnFwd | [], some .attnTree =>
    let width := (s.elandOut op).2 / max 1 d.g.toNat
    rows.any fun r => (headsIn width p).any fun h =>
      let c := s.descShape op (s.raggedAt d) {}
      s.elemsPoisoned d.fa d.aAddr.toNat ((op.aRow r * c.queryHeads + h.1) * c.dq) c.dq || (s.attnRow op r h.1).poisoned
  | [], some .attnBwd =>
    let c := s.descShape op (s.raggedAt d) {}
    rows.any fun r => (headsIn k p).any fun h =>
      s.elemsPoisoned d.fa (s.loadLE d.aAddr.toNat 8) ((r * c.queryHeads + h.1) * c.dq) c.dq
        || (List.range 2).any (fun i => s.elemsPoisoned d.fa (s.loadLE (d.aAddr.toNat + 8 + 8 * i) 8) ((r * c.queryHeads + h.1) * c.dv) c.dv)
        || (s.gradRow op r h.1).1.any fun x => x.2.1.poison
  | [], some .kvPack => rows.any fun r => (headsIn k p).any fun h => s.projectedPoison (d.packShape false) (op.aRow r) h.1
  | [], some .distTable =>
    if d.hamming then rows.any fun q => s.poisoned (d.aAddr.toNat + q * d.g.toNat + p.c0 / 256) 1
    else rows.any (fun q => s.elemsPoisoned d.fa d.aAddr.toNat (q * k) k) || s.elemsPoisoned d.fb d.bAddr.toNat (256 * d.tileK * (p.c0 / 256)) (256 * d.tileK)
  | [], some .sample => rows.any fun r => s.elemsPoisoned 0xA d.aAddr.toNat (r * d.n.toNat + p.c0) (p.c1 - p.c0) || s.poisoned (d.auxAddr.toNat + 32 * r) 32
  | [], none => false

/-- Twice the products per cell per cycle of an operand format (R107). -/
def elandRate2 (f : Nat) : Nat :=
  match f with
  | 0 | 6 | 0xA => 1
  | 3 | 4 | 5 => 4
  | _ => 2

/-- Twice r of an operation: that of its slower operand (R107); KV_PACK and SAMPLE have operand A alone. -/
def ElandDesc.rate2 (d : ElandDesc) : Nat :=
  if d.kind = 6 ∨ d.kind = 8 then elandRate2 d.fa else min (elandRate2 d.fa) (elandRate2 d.fb)

/-- The 256-position key blocks that a tile of attention computes for one head (R124): those of which some row of the tile sees a
position, for each entry. -/
def State.keyBlocks (s : State) (op : ElandOp) (p : TilePlace) : Nat :=
  let a := s.raggedAt op.desc
  ((s.raggedList a).map fun e =>
    let c := s.descShape op a e
    let ps := raggedPositions e (s.raggedNodes op.desc a e)
    let rows := (ps.zipIdx.filter fun x => decide (p.lo ≤ e.qStart + x.2 ∧ e.qStart + x.2 < p.hi)).map Prod.fst
    let last := ps.foldl max e.pos + 1
    ((List.range (last / 256 + 1)).filter fun b => s.seesSome c rows (max e.kvStart (256 * b)) (min last (256 * b + 256))).length).sum

/-- Cycles of a tile on its sub-array (R123, R124): ⌈K′ / r⌉ + 384, and for attention the blocks that it computes at three
quarters of the dense rate. Head widths other than 128 are charged in proportion (log entry 87). -/
def State.tileCycles (s : State) (op : ElandOp) (p : TilePlace) : Nat :=
  let d := op.desc
  let r := max 1 d.rate2
  match op.units, d.kind? with
  | u :: _, _ =>
    let c := (s.reduction u.red).shape
    let keys := (op.units.map fun u => u.tps.length * 64).sum
    ((keys + 255) / 256 * 8 * (c.dq + c.dv) + 2) / 3 + 384
  | [], some .attnFwd | [], some .attnTree | [], some .attnBwd =>
    let width := (s.elandOut op).2 / max 1 d.g.toNat
    let heads := ((headsIn width p).filter fun h => decide (h.2.1 = 0)).length
    (s.keyBlocks op p * heads * 8 * (d.k.toNat + width) + 3 * r - 1) / (3 * r) + 384
  | [], _ => (2 * ((d.tileK + 63) / 64 * 64) + r - 1) / r + 384

/-- Quadrant that holds an address: its tile store, or the HBM stacks of its channel. -/
def State.quadOf (s : State) (a : Nat) : Nat := if addrSpace a = 1 then addrOff a / 0x20000000 % 4 else s.memLane a / 160

/-- The quadrant with the most of some quadrants, the lowest-numbered of equals. -/
def mostOf (qs : List Nat) : Nat :=
  ([1, 2, 3] : List Nat).foldl (fun b q => if qs.count b < qs.count q then q else b) 0

/-- The home quadrant of a tile (R94). An operand block lies where its first byte does, and one operand has one address, so no
two tile stores hold a block (log entry 31). -/
def State.homeOf (s : State) (op : ElandOp) (tile : Nat) : Nat :=
  let d := op.desc
  let p := s.tilePlace op tile
  match op.units, d.kind? with
  | us@(_ :: _), _ => mostOf (us.map fun u => u.lane / 160)
  | [], some .gemm => s.quadOf (d.bAddr.toNat + p.c0 * elemBits d.fb / 8)
  | [], some .groupedGemm => s.quadOf (d.bAddr.toNat + s.groupOffset d p.group + p.c0 * elemBits d.fb / 8)
  | [], some .distTable => s.quadOf (if d.hamming then d.aAddr.toNat + p.lo * d.g.toNat else d.bAddr.toNat + 256 * d.tileK * (p.c0 / 256) * elemBits d.fb / 8)
  | [], some .attnFwd | [], some .attnTree | [], some .attnBwd =>
    let a := s.raggedAt d
    mostOf (((s.raggedList a).filter fun e => decide (e.qStart < p.hi ∧ p.lo < e.qStart + e.qCount)).flatMap fun e =>
      let c := s.descShape op a e
      let ps := raggedPositions e (s.raggedNodes d a e)
      ((List.range ((e.pos + 63) / 64 - e.kvStart / 64)).filter fun k =>
          s.seesSome c ps (max e.kvStart (64 * (e.kvStart / 64 + k))) (min e.pos (64 * (e.kvStart / 64 + k) + 64))).flatMap fun k =>
        (List.range (tilesAt c.heads (slicesOf c.width))).filterMap fun t => (s.tileAt c (s.descSource op a e) (e.kvStart / 64 + k) t).map fun x => s.quadOf x.1)
  | [], some .kvPack => s.quadOf (d.aAddr.toNat + op.aRow p.lo * 2 * d.g.toNat * d.k.toNat * elemBits d.fa / 8)
  | [], _ => s.quadOf (d.aAddr.toNat + op.aRow p.lo * d.n.toNat * elemBits d.fa / 8)

end Sys2Proof.Machine
end

