-- ==== Sys2Proof/Machine/Eland.lean ====
section
/-! DEFINITION. The Eland array (chapter 04): descriptor checks, the operation queue, the issue of output tiles to sub-arrays, the
outcome of their checks, fences, and what each operation leaves. -/

namespace Sys2Proof.Machine

/-! ### Descriptor checks (R103) -/

/-- The level is readable, reserved fields are zero and the formats are defined (R10, R102, R107). -/
def ElandDesc.fieldsOk (d : ElandDesc) : Bool :=
  readable d.level.toNat && d.kind?.isSome && reserved d.level.toNat (decide (d.flags.toNat < 8) && decide (d.partition.toNat < 8)
      && decide (d.aFmt.toNat < 16) && decide (d.bFmt.toNat < 16) && decide (d.outFmt.toNat < 16))
    && decide (d.fa ≤ 0xA) && decide (d.fb ≤ 0xA) && decide (d.fo ≤ 0xA)

/-- Formats of the operands of a matrix operation: no FP32 operand, no mixing of INT8 with floating point, K in MX blocks (R103,
R107). -/
def ElandDesc.operandsOk (d : ElandDesc) : Bool :=
  operandFmt d.fa && operandFmt d.fb && (d.fa == 7) == (d.fb == 7) && (!(isMx d.fa || isMx d.fb) || decide (d.k.toNat % 32 = 0))

/-- An MX output has columns in blocks of 32 (R107). -/
def ElandDesc.outOk (d : ElandDesc) (cols : Nat) : Bool := !isMx d.fo || decide (cols % 32 = 0)

/-- MODE of GEMM and GROUPED_GEMM (R110): a known activation; SwiGLU needs an even N. -/
def ElandDesc.epilogueOk (d : ElandDesc) : Bool :=
  decide (d.mode.toNat < 64) && decide (d.mode.toNat % 16 ≤ 6) && (decide (d.mode.toNat % 16 ≠ 5) || decide (d.n.toNat % 2 = 0))

/-- M, N and K of a GEMM. -/
def ElandDesc.gemmDims (d : ElandDesc) : Bool :=
  decide (1 ≤ d.n.toNat ∧ d.n.toNat ≤ 1048576) && decide (1 ≤ d.k.toNat ∧ d.k.toNat ≤ 1048576)
    && decide (1 ≤ d.m.toNat ∧ d.m.toNat ≤ 16777216)

/-- Heads of an attention operation. -/
def ElandDesc.headsOk (d : ElandDesc) : Bool :=
  decide (64 ≤ d.k.toNat ∧ d.k.toNat ≤ 512) && decide (1 ≤ d.g.toNat ∧ d.g.toNat ≤ 256)
    && decide (1 ≤ d.kvHeads ∧ d.kvHeads ≤ d.g.toNat) && decide (d.g.toNat % max 1 d.kvHeads = 0) && decide (1 ≤ d.m.toNat)

/-- N and H[15:8] in the range of the mask kind (R157). -/
def ElandDesc.maskOk (d : ElandDesc) : Bool :=
  decide (d.mode.toNat < 32) && match d.mode.toNat % 16 with
    | 0 | 1 | 3 | 4 => decide (d.n = 0) && decide (d.sinks = 0)
    | 2 => decide (d.n.toNat ≤ 1048576)
    | _ => false

/-- Entries of a ragged length table keep R162: in order of Q_START, contiguous, each with a row, KV_START a multiple of 64;
answers the rows they cover. -/
def State.raggedRows (s : State) (a : Nat) : Nat → Nat → Option Nat
  | 0, row => some row
  | k + 1, row =>
    let q := s.loadLE (a + 4) 4
    if s.loadLE a 4 ≠ row ∨ q = 0 ∨ s.loadLE (a + 12) 4 % 64 ≠ 0 then none else s.raggedRows (a + 32) k (row + q)

/-- The ragged length table is well formed (R161, R162, R165). -/
def State.raggedOk (s : State) (d : ElandDesc) : Bool :=
  let a := s.raggedAt d
  let level := s.loadLE a 1
  let rope := s.loadLE (a + 0x10) 8
  readable level && reserved level (decide (s.loadLE (a + 1) 1 < 4) && decide (s.loadLE (a + 3) 1 = 0) && decide (s.loadLE (a + 0x32) 14 = 0))
    && decide (s.loadLE (a + 2) 1 < 240)
    && decide (1 ≤ s.loadLE (a + 4) 4 ∧ s.loadLE (a + 4) 4 ≤ 65536) && (!d.wl || decide (s.loadLE (a + 1) 1 % 2 = 0))
    && decide (s.raggedRows (a + 64) (s.loadLE (a + 4) 4) 0 = some d.m.toNat)
    && (decide (rope = 0) || s.ropeOk rope (if d.mode.getLsbD 4 then 2 * d.k.toNat else d.k.toNat))

/-- LATENT keeps R156. -/
def State.latentOk (s : State) (d : ElandDesc) : Bool :=
  let dv := s.valueWidth d
  !d.mode.getLsbD 4 || (decide (d.kvHeads = 1) && decide (dv ≠ 0) && decide (dv % 64 = 0) && decide (dv ≤ 2 * d.k.toNat))

/-- The tile formats that attention reads (R128, R179). -/
def tileFmt (f : Nat) : Bool := decide (f ≤ 5)

/-- The group table of GROUPED_GEMM is in order, contiguous, and its counts sum to M (R105). -/
def State.groupsOk (s : State) (a : Nat) : Nat → Nat → Nat → Bool
  | 0, row, m => decide (row = m)
  | k + 1, row, m => decide (s.loadLE a 4 = row) && s.groupsOk (a + 16) k (row + s.loadLE (a + 4) 4) m

/-- The distance code of a DIST_TABLE is one of the four (R349). -/
def ElandDesc.distOk (d : ElandDesc) : Bool := [0x00000000, 0x3F800000, 0x40000000, 0x40400000].contains d.param0.toNat

/-- What the attention kinds share: heads, a KV format, queries in an operand format that is no integer, the table, and LATENT. -/
def State.attnOk (s : State) (d : ElandDesc) : Bool :=
  d.headsOk && tileFmt d.fb && operandFmt d.fa && decide (d.fa ≠ 7) && (!isMx d.fa || decide (d.k.toNat % 32 = 0))
    && d.outOk (d.g.toNat * (if d.mode.getLsbD 4 then s.valueWidth d else d.k.toNat)) && s.raggedOk d && s.latentOk d

/-- The limits of each kind (R103, R106, R156, R157, R162, R174, R179). -/
def State.elandOk (s : State) (d : ElandDesc) : Bool :=
  d.fieldsOk && match d.kind? with
  | none => false
  | some .gemm => d.gemmDims && decide (d.g = 0) && decide (d.h = 0) && d.operandsOk && d.epilogueOk && d.outOk d.outCols
  | some .groupedGemm => d.gemmDims && decide (1 ≤ d.g.toNat ∧ d.g.toNat ≤ 512) && decide (d.h = 0) && d.operandsOk && d.epilogueOk && d.outOk d.outCols
      && s.groupsOk d.auxAddr.toNat d.g.toNat 0 d.m.toNat
  | some .attnFwd => s.attnOk d && d.maskOk
  | some .attnTree => s.attnOk d && decide (d.mode.toNat < 32) && (decide (d.mode.toNat % 16 = 1) || decide (d.mode.toNat % 16 = 2))
      && decide (d.n.toNat ≤ 1048576) && (decide (d.mode.toNat % 16 = 2) || (decide (d.n = 0) && decide (d.sinks = 0)))
  | some .attnBwd => s.attnOk d && d.maskOk && !d.wl && decide (d.fb ≤ 2) && decide (s.loadLE (s.raggedAt d + 1) 1 = 1)
  | some .kvPack => d.wl && decide (1 ≤ d.m.toNat) && decide (d.n = 0) && decide (64 ≤ d.k.toNat ∧ d.k.toNat ≤ 512) && decide (1 ≤ d.g.toNat ∧ d.g.toNat ≤ 256)
      && decide (d.kvHeads < 240) && decide (d.sinks = 0) && decide (d.mode.toNat < 4) && (decide (d.fa = 0) || decide (d.fa = 0xA)) && tileFmt d.fo
      && decide (d.param0 = 0) && (!d.mode.getLsbD 0 || decide (d.bAddr = 0) || s.ropeOk d.bAddr.toNat (2 * d.k.toNat))
  | some .distTable => decide (d.mode.toNat < 2) && decide (1 ≤ d.m.toNat ∧ d.m.toNat ≤ 4096) && decide (d.n.toNat = 256) && [8, 16, 32, 48, 64].contains d.g.toNat
      && decide (d.k.toNat % max 1 d.g.toNat = 0) && decide (1 ≤ d.k.toNat) && decide (d.h = 0) && decide (d.auxAddr = 0) && d.distOk && d.operandsOk
  | some .sample => decide (1 ≤ d.m.toNat ∧ d.m.toNat ≤ 65536) && decide (2 ≤ d.n.toNat ∧ d.n.toNat ≤ 1048576) && decide (d.k = 0)
      && decide (d.g = 0) && decide (d.h = 0) && decide (d.mode.toNat < 2) && decide (d.param0 = 0) && decide (d.fa = 0xA)

/-! ### Addresses (R103, R182, R183, R191) -/

/-- Tables that attention reads through its ragged length table: address and bytes. -/
def State.raggedExtents (s : State) (op : ElandOp) : List (Nat × Nat) :=
  let d := op.desc
  let a := s.raggedAt d
  let n := s.loadLE (a + 4) 4
  let rope := s.loadLE (a + 0x10) 8
  let scale := s.loadLE (a + 0x28) 8
  let es := s.raggedList a
  let kv := if d.kind = 5 then s.loadLE (d.aAddr.toNat + 32) 8 else d.bAddr.toNat
  let per := tilesAt d.kvHeads (slicesOf d.k.toNat) * tileSize d.fb
  [(a, 64 + 32 * n), (s.loadLE (a + 8) 8, spanEnd op.rows * 2 * d.kvHeads * d.k.toNat * elemBits op.newFmt / 8)]
    ++ (if rope = 0 then [] else [(rope, 32 + (if s.loadLE (rope + 2) 1 % 2 = 1 then 2 * s.loadLE (rope + 6) 2 else 0))])
    ++ (if isFp8 d.fb && scale ≠ 0 then [(scale, 8 * d.kvHeads * (s.loadLE (a + 2) 1 + 1))] else [])
    ++ (if s.loadLE (a + 1) 1 % 2 = 1 then es.map fun e => (kv + 256 * e.ref, per * ((e.pos + 63) / 64 - e.kvStart / 64)) else [])
    ++ es.filterMap fun e => if d.mode.toNat % 16 = 4 ∧ e.sparse ≠ 0xFFFFFFFF then some (s.loadLE (a + 0x18) 8 + 8 * e.sparse, 8) else none

/-- Bytes from each address that a descriptor names, each with whether the operation writes there. -/
def State.elandExtents (s : State) (op : ElandOp) : List (Nat × Nat × Bool) :=
  let d := op.desc
  let out := s.elandOut op
  let k := d.k.toNat
  let reads (xs : List (Nat × Nat)) := xs.map fun x => (x.1, x.2, false)
  let epilogue := if d.mode.toNat / 16 = 0 then [] else
    [(d.epilogueAt, 32)] ++ (if d.mode.getLsbD 4 then [(s.loadLE d.epilogueAt 8, 4 * d.n.toNat)] else [])
      ++ (if d.mode.getLsbD 5 then [(s.loadLE (d.epilogueAt + 8) 8, extent d.fo (op.cRows * d.outCols))] else [])
  let stats := 8 * op.cRows * d.g.toNat
  match op.units, d.kind? with
  | _ :: _, _ | [], none => []
  | [], some .gemm =>
    reads ([(d.aAddr.toNat, extent d.fa (op.aRows * k)), (d.bAddr.toNat, extent d.fb (k * d.n.toNat))] ++ epilogue)
      ++ [(d.cAddr.toNat, extent d.fo (op.cRows * d.outCols), true)]
  | [], some .groupedGemm =>
    reads ([(d.aAddr.toNat, extent d.fa (op.aRows * k)), (d.auxAddr.toNat, 16 * d.g.toNat)]
        ++ ((List.range d.g.toNat).map fun g => (d.bAddr.toNat + s.groupOffset d g, extent d.fb (k * d.n.toNat))) ++ epilogue)
      ++ [(d.cAddr.toNat, extent d.fo (op.cRows * d.outCols), true)]
  | [], some .attnFwd | [], some .attnTree =>
    reads ((d.aAddr.toNat, extent d.fa (op.aRows * d.g.toNat * (if d.mode.getLsbD 4 then 2 * k else k))) :: s.raggedExtents op)
      ++ [(d.cAddr.toNat, extent d.fo (op.cRows * out.2) + stats, true)]
  | [], some .attnBwd =>
    let dq := if d.mode.getLsbD 4 then 2 * k else k
    let dv := if d.mode.getLsbD 4 then s.valueWidth d else k
    let at_ (i : Nat) := s.loadLE (d.aAddr.toNat + 8 * i) 8
    let n := ((s.raggedList (s.raggedAt d)).map RaggedEntry.span).sum * d.kvHeads
    let c (i : Nat) := s.loadLE (d.cAddr.toNat + 8 * i) 8
    reads ([(d.aAddr.toNat, 64), (d.cAddr.toNat, 32), (d.auxAddr.toNat, 8 * d.m.toNat * d.g.toNat), (at_ 0, extent d.fa (d.m.toNat * d.g.toNat * dq))
        , (at_ 1, extent d.fa (d.m.toNat * d.g.toNat * dv)), (at_ 2, extent d.fa (d.m.toNat * d.g.toNat * dv))] ++ s.raggedExtents op)
      ++ [(c 0, extent d.fo (d.m.toNat * d.g.toNat * dq), true), (c 1, 4 * n * dq, true), (c 2, 4 * n * dv, true)]
  | [], some .kvPack =>
    reads ([(d.aAddr.toNat, op.aRows * 2 * d.g.toNat * k * elemBits d.fa / 8)]
      ++ (if d.mode.getLsbD 0 && d.bAddr ≠ 0 then [(d.bAddr.toNat, 32)] else [])
      ++ (if isFp8 d.fo then [(d.auxAddr.toNat, 8 * d.g.toNat * (d.kvHeads + 1))] else []))
  | [], some .distTable =>
    let table := d.m.toNat * distTableSize d.mode.toNat d.g.toNat
    reads (if d.hamming then [(d.aAddr.toNat, d.m.toNat * d.g.toNat)] else [(d.aAddr.toNat, extent d.fa (d.m.toNat * k)), (d.bAddr.toNat, extent d.fb (256 * k))])
      ++ [(d.cAddr.toNat, table, true)]
  | [], some .sample =>
    reads [(d.aAddr.toNat, 4 * d.m.toNat * d.n.toNat), (d.auxAddr.toNat, 32 * d.m.toNat)] ++ [(d.cAddr.toNat, 8 * d.m.toNat, true)]

/-- The first address that an operation may not reach, with the status (R103, R182, R183, R191): every access carries bits [2:0] of
the descriptor's PARTITION, and device regions are open to the device's own agents. -/
def State.elandReach (s : State) (op : ElandOp) : Option (Nat × Byte) :=
  (s.elandExtents op).findSome? fun x => (s.engineStatus x.1 x.2.1 (op.desc.partition.toNat % 8) x.2.2).map fun st => (x.1, st)

/-! ### The queue and the sub-arrays (R94-R98) -/

/-- Replaces an operation of the queue. -/
def State.setOp (s : State) (i : Nat) (op : ElandOp) : State :=
  { s with eland := { s.eland with queue := s.eland.queue.set i op } }

/-- Every sub-array is fenced (R120). -/
def State.allFenced (s : State) : Bool := s.eland.fenced == 0xFFFF

/-- The sub-array is active. -/
def State.saActive (s : State) (u : Nat) : Bool := !s.eland.fenced.getLsbD u

/-- The tile that a sub-array runs. -/
def State.saTile (s : State) (u : Nat) : Option RunTile := s.eland.running.get u

/-- Sets what a sub-array runs. -/
def State.setSa (s : State) (u : Nat) (r : Option RunTile) : State :=
  { s with eland := { s.eland with running := s.eland.running.set u r } }

/-- The quadrant has an active sub-array, and all of them are free (R95). -/
def State.quadFree (s : State) (q : Nat) : Bool :=
  ((List.range 4).any fun k => s.saActive (4 * q + k)) && (List.range 4).all fun k => !s.saActive (4 * q + k) || (s.saTile (4 * q + k)).isNone

/-- Waiting tiles of a quadrant: place in the queue, and tile (R94); those of the head first (R97). -/
def State.waitingIn (s : State) (q : Nat) : List (Nat × Nat) :=
  ((s.eland.queue.take 2).zipIdx.filter fun x => x.1.begun).flatMap fun x => (x.1.waiting.filter fun t => decide (s.homeOf x.1 t = q)).map fun t => (x.2, t)

/-- The quadrant from which another takes a tile (R95): the one with the most waiting, when that is at least ELAND_STEAL_MIN and
this is not 0; a quadrant whose sub-arrays are all fenced gives its tiles whatever it is (R120). -/
def State.victim (s : State) (q : Nat) : Option Nat :=
  let n (v : Nat) := (s.waitingIn v).length
  let least := s.rdN Reg.ELAND_STEAL_MIN
  let out (v : Nat) : Bool := (List.range 4).all fun k => !s.saActive (4 * v + k)
  let may := (List.range 4).filter fun v => decide (v ≠ q) && decide (0 < n v) && (out v || (decide (least ≠ 0) && decide (least ≤ n v)))
  may.foldl (fun (b : Option Nat) v => match b with
    | none => some v
    | some w => if n w < n v then some v else b) none

/-- A sub-array begins a waiting tile. -/
def State.startTile (s : State) (u : Nat) (x : Nat × Nat) (stolen : Bool) : State :=
  match s.eland.queue[x.1]? with
  | none => s
  | some op =>
    let s := (s.setOp x.1 { op with waiting := op.waiting.erase x.2 }).setSa u (some { op := op.id, tile := x.2, stolen := stolen })
    if stolen then s.count (Reg.ELAND_Q_STOLEN + 0x40000 * (u / 4)) 1 else s

/-- A free active sub-array takes the next tile of its quadrant (R94), or, when its quadrant is idle, one of another (R95). -/
def State.feed (s : State) (u : Nat) : State :=
  if !s.saActive u || (s.saTile u).isSome then s
  else match s.waitingIn (u / 4) with
  | x :: _ => s.startTile u x false
  | [] =>
    if s.quadFree (u / 4) then
      match s.victim (u / 4) with
      | some v => match s.waitingIn v with
        | x :: _ => s.startTile u x true
        | [] => s
      | none => s
    else s

/-- Waiting tiles go to the sub-arrays that are free (R93-R95). -/
def State.issueTiles (s : State) : State := (List.range 16).foldl State.feed s

/-! ### What operations leave -/

/-- The work-list entry of a slot in the step that runs. -/
def State.workOf (s : State) (n : Nat) : Option WorkEntry :=
  match s.herd.step with
  | none => none
  | some st => st.entries.find? fun w => decide (w.slot = n) && !w.dropped

/-- The positions at which a work-list entry's rows are encoded (R163, R173). -/
def State.encodedAt (s : State) (w : WorkEntry) (k : Nat) : Nat := (s.queryPositions w).getD k (w.pos + k)

/-- First row of a Herd slot in an operation. -/
def rowOfSlot : List RowSpan → Nat → Nat → Nat
  | [], _, off => off
  | x :: xs, n, off => if x.slot = n then off else rowOfSlot xs n (off + x.count)

/-- KV_PACK has run (R106, R239, R240): the rows of an entry lie in its pages; the tile positions of a chunk that it fills, and
those of a chunk that ends the prompt, may be sent. Answers what saturated and what was NaN. -/
def State.packEntry (x : State × Nat × Nat) (op : ElandOp) (n : Nat) : State × Nat × Nat :=
  match x.1.workOf n with
  | none => x
  | some w =>
    let layer := op.desc.kvHeads
    let first := rowOfSlot op.rows n 0
    let y := (List.range w.count).foldl (fun y k => State.packRow y op n (first + k) (op.aRow (first + k)) (w.pos + k) (x.1.encodedAt w k)) x
    let s := y.1.filledTo ((y.1.entry n).pageRoot.getD 0) (w.pos + w.count)
    let y := (s, y.2)
    match w.kind, s.holding n, w.poisoned with
    | .chunk, some id, false =>
      let t := s.transfer id
      let stop := if w.pos + w.count = t.stop then t.endTp else (w.pos + w.count) / 64
      let last := (s.root ((s.entry n).pageRoot.getD 0)).lists.get layer
      let s := if w.pos + w.count = t.stop then
          (last.filter fun p => decide ((s.page p).tilePos + 1 = t.endTp)).foldl (fun s p => (List.range (s.page p).tileCount).foldl (fun s i => s.sealSlot p i) s) s
        else s
      ((s.setTransfer id { t with packed := t.packed.set layer stop }).holderGoesOn id, y.2)
    | _, _, _ => y

/-- The anchor's token for a sample row of a DECODE entry, when it holds one (R258). -/
def State.heldToken (s : State) (n : Nat) : Option U32 := (s.entry n).heldTokens.head?

/-- What SAMPLE reads of row `k` (R112): its parameter entry and its logits. -/
def State.sampleBytes (s : State) (d : ElandDesc) (k : Nat) : List Byte × List Byte :=
  (s.bytes (d.auxAddr.toNat + 32 * k) 32, s.bytes (d.aAddr.toNat + 4 * d.n.toNat * k) (4 * d.n.toNat))

/-- Row `k` of SAMPLE reads poison. -/
def State.samplePoison (s : State) (d : ElandDesc) (k : Nat) : Bool :=
  s.poisoned (d.auxAddr.toNat + 32 * k) 32 || s.poisoned (d.aAddr.toNat + 4 * d.n.toNat * k) (4 * d.n.toNat)

/-- SAMPLE for row `k` of its operation and `item` of the step (R113-R115, R258). A row's parameter entry comes before its logits in
the exchange buffer (DESIGN CHOICE, log entry 35). -/
def State.sampleRow (s : State) (op : ElandOp) (x : SampleRow) (item k : Nat) : State × SampleRow :=
  let b := s.sampleBytes op.desc k
  let p := sampleParamsOf b.1
  let v := wordsOf b.2
  let out := op.desc.cAddr.toNat + 8 * k
  let held := match s.workOf x.slot with
    | some w => if w.kind = WorkKind.decode then s.heldToken x.slot else none
    | none => none
  let (t, st) := s.drawToken op.draw (2 * k) x.node p v (s.samplePoison op.desc k)
  match held, st == stOK with
  | some h, _ => (s.putSample op.draw (2 * k) out p v h stOK, { x with token := h, known := true })
  | none, false => (s.putSample op.draw (2 * k) out p v 0 st, { x with status := st, known := true })
  | none, true =>
    if s.fnMode 3 = FnMode.hostAssist then
      (s.askHost 3 { item := item, herdSlot := x.slot, step := op.desc.n.toNat, layer := out, question := b.1 ++ b.2 }, x)
    else (s.putSample op.draw (2 * k) out p v t stOK, { x with token := t, known := true })

/-- SAMPLE over rows, the first of them row `k` of the operation and `item` of the step. -/
def State.sampleRows (s : State) (op : ElandOp) : Nat → Nat → List SampleRow → State × List SampleRow
  | _, _, [] => (s, [])
  | item, k, x :: xs =>
    let (s, y) := s.sampleRow op x item k
    let (s, ys) := s.sampleRows op (item + 1) (k + 1) xs
    (s, y :: ys)

/-- Sample rows of work-list entries: (Herd slot, node), in list order (R112). -/
def sampleSlots (ws : List WorkEntry) : List SampleRow :=
  (ws.filter fun w => w.sample).flatMap fun w =>
    match w.kind with
    | .tree => (List.range w.count).map fun i => { slot := w.slot, node := i }
    | _ => [{ slot := w.slot }]

/-- Entries of the step that a SAMPLE's rows belong to and that have no sample rows yet. -/
def Step.toSample (st : Step) (op : ElandOp) : List WorkEntry :=
  st.entries.filter fun w => !w.dropped && (op.rows.any fun r => decide (r.slot = w.slot)) && !(st.samples.any fun x => decide (x.slot = w.slot))

/-- The sequencer's SAMPLE completes: its rows have their tokens, or await the host's (R115). -/
def State.sampleDone (s : State) (op : ElandOp) : State :=
  match s.herd.step with
  | none => s
  | some st =>
    let (s, rows) := s.sampleRows op st.samples.length 0 (sampleSlots (st.toSample op))
    { s with herd := { s.herd with step := s.herd.step.map fun st => { st with samples := st.samples ++ rows } } }

/-- Node index of row `k` of a SAMPLE that is not the sequencer's: under MODE 1 the rows of a tree are those that repeat one
parameter entry (R112, R114); else 0. -/
def State.sampleNode (s : State) (d : ElandDesc) (k : Nat) : Nat :=
  if d.mode = 1 then
    (((List.range k).reverse.map fun i => s.bytes (d.auxAddr.toNat + 32 * i) 32).takeWhile fun b => b == s.bytes (d.auxAddr.toNat + 32 * k) 32).length
  else 0

/-- A SAMPLE of another source writes its rows (R113, R114): its history rings are those that its parameter entries name. -/
def State.samplePlain (s : State) (op : ElandOp) : State :=
  (List.range op.desc.m.toNat).foldl (fun s k =>
    let b := s.sampleBytes op.desc k
    let p := sampleParamsOf b.1
    let v := wordsOf b.2
    let t := s.drawToken op.draw (2 * k) (s.sampleNode op.desc k) p v (s.samplePoison op.desc k)
    s.putSample op.draw (2 * k) (op.desc.cAddr.toNat + 8 * k) p v t.1 t.2) s

/-- A SAMPLE that ran no tile leaves its rows without tokens (log entry 32). -/
def State.sampleLost (s : State) (op : ElandOp) : State :=
  { s with herd := { s.herd with step := s.herd.step.map fun st =>
      { st with samples := st.samples ++ (sampleSlots (st.toSample op)).map fun x => { x with status := stPOISON, known := true } } } }

/-- The units that the array computed in the lanes' place go to their reducers (R149); those of an operation that ran no tile are
poisoned. -/
def State.unitsDone (s : State) (op : ElandOp) (ran : Bool) : State :=
  op.units.foldl (fun s u =>
    s.partialIn u.red (u.lane / 160) ((s.unitRows u).rows.map fun x => (x.1, { x.2 with poisoned := x.2.poisoned || !ran }))) s

/-- An attention operation gives a slot's reduction the array's part, where one awaits it. -/
def State.attnDone (s : State) (op : ElandOp) (ran : Bool) (n : Nat) : State :=
  match s.reductionOf n op.layer with
  | none => s
  | some k => s.elandPart k (if ran then s.attnPart op n else [(0, { PRow.empty 0 with poisoned := true })])

/-- What an operation leaves once all its tiles have run: pages, tokens, gradients, or partial rows (R87, R106, R115, R180). Answers
what saturated and what was NaN. One that ran no tile leaves its entries with poisoned inputs (log entry 32). -/
def State.opEffect (s : State) (op : ElandOp) : State × Nat × Nat :=
  let slots := (op.rows.map RowSpan.slot).eraseDups
  let ran := op.status == stOK || op.status == stPOISON
  let s := if ran then s else slots.foldl State.poisonWork s
  match op.units, op.desc.kind? with
  | _ :: _, _ => (s.unitsDone op ran, 0, 0)
  | [], some .kvPack => if ran then slots.foldl (fun x n => State.packEntry x op n) (s, 0, 0) else (s, 0, 0)
  | [], some .attnBwd => if ran then s.backwardDone op else (s, 0, 0)
  | [], some .attnFwd | [], some .attnTree => (slots.foldl (fun s n => s.attnDone op ran n) s, 0, 0)
  | [], some .sample =>
    (if op.source = .sequencer then (if ran then s.sampleDone op else s.sampleLost op) else if ran then s.samplePlain op else s, 0, 0)
  | [], _ => (s, 0, 0)

/-- The highest queue depth is kept (R125). -/
def State.noteDepth (s : State) : State :=
  if s.rdN Reg.ELAND_QUEUE_HWM < s.eland.queue.length then s.wr Reg.ELAND_QUEUE_HWM (BitVec.ofNat 32 s.eland.queue.length) else s

/-- The head of the queue is complete: its completion is reported to its source, and under NOTIFY to the firmware (R98, R101, R102),
and an entry frees for a held source. -/
def State.elandReport (s : State) (op : ElandOp) : State :=
  let st := if op.status = stOK ∧ op.poison ≠ [] then stPOISON else op.status
  let x := s.opEffect { op with status := st }
  let s := x.1
  let c : ElandCompletion := { source := op.source, serial := op.desc.serial, status := st, kind := op.desc.kind, replays := min 65535 op.replays
                               poisonTiles := op.poison.length, saturated := min 65535 (op.saturated + x.2.1), nans := min 65535 (op.nans + x.2.2) }
  let cs := if op.desc.notify ∧ op.source ≠ .firmware then [{ c with source := .firmware }, c] else [c]
  let s := { s with eland := { s.eland with
      queue := s.eland.queue.drop 1 ++ s.eland.heldOps.take 1, heldOps := s.eland.heldOps.drop 1, lastStatus := st, completions := cs ++ s.eland.completions } }
  let s := s.noteDepth.count64 Reg.ELAND_OPS_LO 1
  let s := if st = stMALFORMED ∨ st = stPRIVILEGE then s.setFlag Reg.ELAND_STATUS 4 true else s
  let s := s.offer 3 [(4, op.desc.serial.toNat), (1, op.desc.kind.toNat), (1, st.toNat), (2, c.replays), (4, s.now - op.beganAt), (4, op.total)]
  match op.seq with
  | some k => s.opDone k
  | none => s

/-! ### Beginning an operation (R97, R100, R103) -/

/-- The operation `i` of the queue ends before any tile runs, with a status. -/
def State.refuseOp (s : State) (i : Nat) (op : ElandOp) (st : Byte) : State := s.setOp i { op with begun := true, status := st, beganAt := s.now }

/-- Begins operation `i` of the queue: the cascade of R100, all sub-arrays fenced, MALFORMED, or PRIVILEGE with its record; else its
tiles wait for sub-arrays. Where limits and an address are both broken, MALFORMED comes first and no record is written (DESIGN
CHOICE, log entry 88). -/
def State.beginOp (s : State) (i : Nat) (op : ElandOp) : State :=
  let last := s.eland.lastStatus
  if op.desc.dep ∧ (last = stMALFORMED ∨ last = stPRIVILEGE ∨ last = stFENCED) then s.refuseOp i op last
  else if s.allFenced then s.refuseOp i op stFENCED
  else if op.units = [] ∧ s.elandOk op.desc = false then s.refuseOp i op stMALFORMED
  else match s.elandReach op with
  | some (a, st) =>
    let src := match op.source with
      | .sequencer => 0 | .chamois => 1 | .firmware => 2
    let s := if st = stPRIVILEGE then
        s.raise { severity := .contained, block := 0x004, cause := 0x0013, status := stPRIVILEGE, unit := src
                  detail0 := BitVec.ofNat 64 a, detail1 := op.desc.serial.zeroExtend 64, tenant := op.tenant }
      else s
    s.refuseOp i op st
  | none =>
    let n := s.elandTiles op
    (s.setOp i { op with begun := true, total := n, waiting := List.range n, beganAt := s.now, draw := s.fresh }).drawn

/-- The operation that may begin now: the head, or the next one, without DEP, once every tile of the head has been issued (R97);
none under HOLD (R125). -/
def State.nextToBegin (s : State) : Option (Nat × ElandOp) :=
  if s.flag Reg.ELAND_CTRL 0 then none
  else match s.eland.queue with
  | a :: rest =>
    if !a.begun then some (0, a)
    else match rest with
    | b :: _ => if !b.begun && !b.desc.dep && a.waiting.isEmpty then some (1, b) else none
    | [] => none
  | [] => none

/-- Reports every operation at the head that has run all its tiles (R98), and refuses one of a reserved kind, which no command of a
kind begins, when its turn comes (R103). -/
def State.elandSettle : Nat → State → State
  | 0, s => s
  | fuel + 1, s =>
    match s.eland.queue with
    | op :: _ =>
      if op.begun ∧ op.total ≤ op.doneTiles.length then State.elandSettle fuel (s.elandReport op)
      else match s.nextToBegin with
      | some (i, op) => if op.desc.kind?.isNone ∧ op.units = [] then State.elandSettle fuel (s.beginOp i op) else s
      | none => s
    | [] => s

/-- Reports what is complete, and issues what waits. -/
def State.elandGoesOn (s : State) : State := (State.elandSettle (2 * s.eland.queue.length + 2 * s.eland.heldOps.length) s).issueTiles

/-- The next operation begins when it is of a kind. -/
def State.beginKind (s : State) (k : ElandKind) : State :=
  match s.nextToBegin, s.alive with
  | some (i, op), true => if op.desc.kind.toNat = k.code then (s.beginOp i op).elandGoesOn else s
  | _, _ => s

/-- GEMM (R103, R110). -/
def execGemm (s : State) : Host.Outcome State Fault Refusal := .next (s.beginKind .gemm)

/-- GROUPED_GEMM (R105). -/
def execGroupedGemm (s : State) : Host.Outcome State Fault Refusal := .next (s.beginKind .groupedGemm)

/-- ATTN_FWD (R154, R157, R161). -/
def execAttnFwd (s : State) : Host.Outcome State Fault Refusal := .next (s.beginKind .attnFwd)

/-- ATTN_TREE (R174). -/
def execAttnTree (s : State) : Host.Outcome State Fault Refusal := .next (s.beginKind .attnTree)

/-- ATTN_BWD (R179, R180). -/
def execAttnBwd (s : State) : Host.Outcome State Fault Refusal := .next (s.beginKind .attnBwd)

/-- KV_PACK (R106). -/
def execKvPack (s : State) : Host.Outcome State Fault Refusal := .next (s.beginKind .kvPack)

/-- DIST_TABLE (R349). -/
def execDistTable (s : State) : Host.Outcome State Fault Refusal := .next (s.beginKind .distTable)

/-- SAMPLE (R112-R115, R175). -/
def execSample (s : State) : Host.Outcome State Fault Refusal := .next (s.beginKind .sample)

/-- Every queued operation completes with FENCED (R120). -/
def State.fenceOps : Nat → State → State
  | 0, s => s
  | fuel + 1, s =>
    match s.eland.queue with
    | op :: _ => State.fenceOps fuel (s.elandReport { op with status := stFENCED })
    | [] => s

/-- ELAND_OP_ENQUEUE (R96, R120): the control firmware adds an operation; the step sequencer's and the Chamois engine's are added by
SEQUENCER_ISSUE_OP and BATCH_BEGIN. An operation of a reserved kind completes MALFORMED (R103), and once every sub-array is fenced
each completes with FENCED. -/
def execElandOpEnqueue (d : ElandDesc) (s : State) : Host.Outcome State Fault Refusal :=
  .next (let t := s.elandAdd { desc := d, source := .firmware }
    if s.alive then t.elandGoesOn else if s.allFenced && s.pins.resetN then State.fenceOps 1 t else s)

/-! ### Tiles, checksums and fences (R116-R122) -/

/-- Shares `cycles` among accounts in proportion to rows, by the largest-remainder rule (R374, R376). -/
def shareCycles (cycles : Nat) (rows : List (Nat × Nat)) : List (Nat × Nat) :=
  let total := (rows.map Prod.snd).sum
  let base := rows.map fun (t, r) => (t, cycles * r / max 1 total, cycles * r % max 1 total)
  let left := cycles - (base.map fun x => x.2.1).sum
  let best := (sortBy (fun a b => decide (b.2.2 < a.2.2) || (decide (a.2.2 = b.2.2) && decide (a.1 ≤ b.1))) base).take left
  base.map fun x => (x.1, x.2.1 + (if best.contains x then 1 else 0))

/-- Rows of a tile by tenant. -/
def State.tenantRows (s : State) (rows : List (Nat × Nat)) : List (Nat × Nat) :=
  let ts := (rows.map fun x => (s.entry x.1).tenant.toNat).eraseDups
  ts.map fun t => (t, ((rows.filter fun x => decide ((s.entry x.1).tenant.toNat = t)).map Prod.snd).sum)

/-- Attributes a tile's cycles (R374). -/
def State.chargeTile (s : State) (op : ElandOp) (p : TilePlace) (cycles : Nat) : State :=
  let s := s.spend cycles
  let rows := s.tenantRows (rowsIn op.rows 0 p.lo p.hi)
  let add (c : Nat) (u : Usage) : Usage := { u with elandCycles := u.elandCycles + c }
  match op.tenant, rows with
  | some t, _ => s.tally t.toNat (add cycles)
  | none, [] => s.tally 1024 (add cycles)
  | none, _ => (shareCycles cycles rows).foldl (fun s (t, c) => s.tally t (add c)) s

/-- The tile that a sub-array ran waits again, for another (R119). -/
def State.giveBack (s : State) (u : Nat) : State :=
  match s.saTile u with
  | none => s
  | some r =>
    let s := s.setSa u none
    { s with eland := { s.eland with queue := s.eland.queue.map fun (op : ElandOp) =>
        if op.id = r.op then
          { op with waiting := r.tile :: op.waiting, retries := op.retries.filter fun (x : Nat × Nat × TilePhase) => !(decide (x.1 = r.tile) && decide (x.2.2 = TilePhase.replay)) }
        else op } }

/-- Fences a sub-array (R119, R121): its tile is issued again, and the fence is entered in the life log; with the last one every
operation completes with FENCED, and the device is FATAL (R120). -/
def State.fenceSa (s : State) (u : Nat) : State :=
  if s.eland.fenced.getLsbD u then s
  else
    let n := s.eland.fences.get u + 1
    let s := { s with eland := { s.eland with fenced := s.eland.fenced ||| BitVec.ofNat 16 (2 ^ u), fences := s.eland.fences.set u n } }
    let body := packBytes [(1, s.freeNow.toNat), (2, u), (1, min 255 n), (1, if 3 ≤ n then 1 else 0)] ++ List.replicate 27 0
    let s := (s.giveBack u).drawn.lifeRecord 4 (BitVec.ofNat 8 (isletDie (saIslet u))) true body
    if s.allFenced then
      (State.fenceOps (s.eland.queue.length + s.eland.heldOps.length) s).fatal { severity := .fatal, block := 0x004, cause := 0x0012, status := stFENCED }
    else s

/-- A tile's output is written (R118, R122): for the kinds whose output lies at C_ADDR. Answers what saturated and what was NaN. -/
def State.commitTile (s : State) (op : ElandOp) (p : TilePlace) (run : TileRun) (poison : Bool) : State × Nat × Nat :=
  match op.units, op.desc.kind? with
  | [], some .gemm | [], some .groupedGemm => s.commitMatrix op p run poison
  | [], some .attnFwd | [], some .attnTree => s.commitAttn op p poison
  | [], some .distTable => (s.commitTable op p poison, 0, 0)
  | _, _ => (s, 0, 0)

/-- A tile is done, and its output committed (R118, R122). -/
def State.tileDone (s : State) (i : Nat) (op : ElandOp) (tile u : Nat) (run : TileRun) (poison : Bool) : State :=
  let p := s.tilePlace op tile
  let x := s.commitTile op p run poison
  let s := (x.1.setSa u none).count64 (Reg.ELAND_Q_TILES_LO + 0x40000 * (u / 4)) 1
  let s := if poison then
      let s := (s.count Reg.ELAND_POISON_TILES 1).setFlag Reg.ELAND_STATUS 5 true
      (rowsIn op.rows 0 p.lo p.hi).foldl (fun s x => s.poisonWork x.1) s
    else s
  (s.setOp i { op with
    doneTiles := op.doneTiles ++ [tile], retries := op.retries.filter fun x => !(x.1 == tile), poison := if poison then op.poison ++ [tile] else op.poison
    saturated := min 65535 (op.saturated + x.2.1), nans := min 65535 (op.nans + x.2.2) }).elandGoesOn

/-- A fault record of a tile (R118). -/
def State.abftFault (s : State) (u : Nat) (op : ElandOp) (tile : Nat) (sev : Severity) (cause : U16) (fence : Bool) : State :=
  s.raise (FaultInfo.onIslet { severity := sev, block := 0x004, cause := cause, status := if sev = .deferred then stPOISON else stOK, fence := fence
                               unit := BitVec.ofNat 16 u, detail0 := op.desc.serial.zeroExtend 64, detail1 := BitVec.ofNat 64 tile } (saIslet u))

/-- The check of a tile fails on sub-array `u` (R118): it is replayed there, then rerun on another, then written with poison. -/
def State.tileMismatch (s : State) (i : Nat) (op : ElandOp) (tile u : Nat) (run : TileRun) : State :=
  let abft := Reg.ELAND_Q_SA_ABFT + 0x40000 * (u / 4) + 4 * (u % 4)
  match op.retries.find? fun x => x.1 == tile with
  | none =>
    let s := ((s.abftFault u op tile .corrected 0x0010 false).bump abft 0 16 1).count Reg.ELAND_REPLAYS 1
    s.setOp i { op with replays := op.replays + 1, retries := op.retries ++ [(tile, u, .replay)] }
  | some (_, _, .replay) =>
    let s := (s.abftFault u op tile .corrected 0x0010 true).bump abft 16 16 1
    ((s.setOp i { op with retries := (op.retries.filter fun x => !(x.1 == tile)) ++ [(tile, u, .rerun)] }).fenceSa u).issueTiles
  | some (_, _, .rerun) => (s.abftFault u op tile .deferred 0x0011 false).tileDone i op tile u run true

/-- OUTPUT_TILE_DONE (R93-R98, R116-R123): sub-array `sub` of a quadrant, number 4q + s, ends the run of its tile; `run` says what went
wrong in it. -/
def execOutputTileDone (quad sub : Fin 4) (tile : Nat) (run : TileRun) (s : State) : Host.Outcome State Fault Refusal :=
  .next (let sa := 4 * quad.val + sub.val
    match s.saTile sa, s.alive with
    | some r, true =>
      match s.eland.queue.findIdx? fun op => decide (op.id = r.op) with
      | none => s
      | some i =>
        if r.tile ≠ tile then s
        else
          let op := s.eland.queue.getD i {}
          let p := s.tilePlace op tile
          let c := s.tileCycles op p
          let t := (s.count64 (Reg.ELAND_Q_BUSY_LO + 0x40000 * quad.val) c).chargeTile op p c
          if s.tilePoison op p then t.tileDone i op tile sa run true
          else if s.runPasses op p run then t.tileDone i op tile sa run false
          else t.tileMismatch i op tile sa run
    | _, _ => s)

/-- ELAND_FENCED_WRITE (R121): software fences sub-arrays; it lifts none. -/
def execElandFencedWrite (v : U32) (s : State) : Host.Outcome State Fault Refusal :=
  .next (((List.range 16).filter fun k => v.getLsbD k).foldl State.fenceSa s).issueTiles

/-- ELAND_HOLD (R125): while it is set no operation begins. -/
def execElandHold (on : Bool) (s : State) : Host.Outcome State Fault Refusal :=
  .next (let t := s.setFlag Reg.ELAND_CTRL 0 on
    if on || !s.alive then t else t.elandGoesOn)

/-- ELAND_CLEAR_HWM (R125). -/
def execElandClearHwm (s : State) : Host.Outcome State Fault Refusal := .next (s.wr Reg.ELAND_QUEUE_HWM 0)

end Sys2Proof.Machine
end

