-- ==== Sys2Proof/Machine/Tenants.lean ====
section
/-! DEFINITION. Tenants, budgets and accounting (chapter 13). -/

namespace Sys2Proof.Machine

/-! ### Accounting intervals (R374-R376) -/

/-- Adds two counts, each a 64-bit counter that wraps (R376). -/
def add64 (a b : Nat) : Nat := (a + b) % 2 ^ 64

/-- Adds an interval's counts to an account's totals (R376). -/
def Usage.add (a b : Usage) : Usage :=
  { promptRows := add64 a.promptRows b.promptRows, genRows := add64 a.genRows b.genRows, elandCycles := add64 a.elandCycles b.elandCycles
    laneCycles := add64 a.laneCycles b.laneCycles, scanCycles := add64 a.scanCycles b.scanCycles, moved := add64 a.moved b.moved
    netTx := add64 a.netTx b.netTx, netRx := add64 a.netRx b.netRx, energy := add64 a.energy b.energy, deferred := add64 a.deferred b.deferred
    poisonRows := add64 a.poisonRows b.poisonRows, admits := add64 a.admits b.admits, delivered := add64 a.delivered b.delivered
    hbm := add64 a.hbm b.hbm }

/-- Events of the six energy classes (R375). -/
def Usage.events (u : Usage) : List Nat :=
  [u.elandCycles, u.laneCycles, u.scanCycles, u.hbm, (u.moved + 63) / 64, u.netTx + u.netRx]

/-- The dynamic term d_a of an account (R375). The squared ratio of each class's mean voltage to its nominal voltage is a
free value of the interval (log entry 2). -/
def State.dynamicTerm (s : State) (u : Usage) : Nat :=
  ((List.range 6).map fun k => s.sec.ecoef.get k * (Config.freeValue (s.fresh + k)).toNat * u.events.getD k 0).sum

/-- What an account receives of the metered energy (R375). Since the static term is divided in proportion to d, e_a is in
proportion to d_a, and the whole goes to the device account when every d is zero. -/
def energyShare (meter d total : Nat) : Nat := if total = 0 then 0 else meter * d / total

/-- The accounting invariant (R395, R396): the cycles attributed to accounts are the cycles that the engines spent. What differs
goes to the device account, as Eland cycles (log entry 93). -/
def State.auditAccounts (s : State) : State :=
  let attributed := (s.tenant.current.map fun e => e.2.elandCycles + e.2.laneCycles + e.2.scanCycles).sum
  if attributed = s.tenant.spent then s
  else (s.imbalance 5 .corrected attributed s.tenant.spent).tally 1024 fun u =>
    { u with elandCycles := u.elandCycles + (s.tenant.spent - attributed) }

/-- The interval's energy by account (R375): what is left of the division goes to the device account 1,024, so that the counters
sum to the meter. -/
def State.divideEnergy (s : State) : Tab Usage :=
  let meter := s.pwr.energy - s.tenant.meterAt
  let cur := s.tenant.current
  let total := (cur.map fun e => s.dynamicTerm e.2).sum
  let shares := cur.map fun e => (e.1, energyShare meter (s.dynamicTerm e.2) total)
  let rest := meter - (shares.map Prod.snd).sum
  let closed := cur.foldl (fun t e => t.mod e.1 fun u => u.add e.2) s.tenant.closed
  let closed := shares.foldl (fun t e => t.mod e.1 fun u => { u with energy := add64 u.energy e.2 }) closed
  closed.mod 1024 fun u => { u with energy := add64 u.energy rest }

/-- An interval closes (R374-R376, R395): its sums are audited, its energy is divided, and its counts join the totals. -/
def State.closeInterval (s : State) : State :=
  let s := s.auditAccounts
  ({ s with tenant := { s.tenant with
      closed := s.divideEnergy, current := [], spent := 0, interval := s.tenant.interval + 1, meterAt := s.pwr.energy } }).drawN 6

/-- ACCOUNTING_INTERVAL_CLOSE (R374): 1 ms has passed without a step close. -/
def execAccountingIntervalClose (s : State) : Host.Outcome State Fault Refusal := .next s.closeInterval

/-- An account's counters in a view (R376): LIVE includes the interval in progress. -/
def State.usageOf (s : State) (account : Nat) (closed : Bool) : Usage :=
  if closed then s.tenant.closed.get account else (s.tenant.closed.get account).add (s.tenant.current.get account)

/-- TENANT_SEL_WRITE (R376, R378, R560): the account and view are selected, and a snapshot of the record is taken; an account
above 1,024 is ignored with CFG_ERR. -/
def execTenantSelWrite (v : U32) (s : State) : Host.Outcome State Fault Refusal :=
  .next (let a := v.toNat % 2048
    if 1024 < a then s.setFlag Reg.TENANT_STATUS 0 true
    else
      let c := v.getLsbD 16
      let s := s.wr Reg.TENANT_SEL (BitVec.ofNat 32 (a + (if c then 65536 else 0)))
      { s with tenant := { s.tenant with
          snap := some { account := a, closed := c, isOpen := !c, interval := s.tenant.interval, use := s.usageOf a c } } })

/-! ### Budgets (R371-R373) -/

/-- A refill of one balance (R372): a debt is repaid first, and no balance is lowered. -/
def refilled (bal : Int) (quota cap : Nat) : Int := satInt 32 (max bal (min (bal + quota) cap))

/-- Applies one period boundary to every enabled tenant (R372). -/
def State.refill (s : State) : State :=
  if s.flag Reg.TENANT_CTRL 0 then
    (s.tenant.table.keysWhere fun _ e => e.enable).foldl (fun s t =>
      let e := s.tenantOf t
      s.setTenant t { e with tok := refilled e.tok e.tokQuota e.tokCap, adm := refilled e.adm e.admQuota e.admCap }) s
  else s

/-- The boundaries that passed while a step ran are applied at its end (R372). -/
def State.refillDue : Nat → State → State
  | 0, s => s
  | n + 1, s => State.refillDue n s.refill

/-- What changes at a step boundary for tenants: shares (R370), refills (R372), then the balances written (R373). -/
def State.tenantBoundary (s : State) : State :=
  let s := State.refillDue s.tenant.due { s with tenant := { s.tenant with due := 0 } }
  (s.tenant.table.keysWhere fun _ e => e.sharePending.isSome || e.tokPending.isSome).foldl (fun s t =>
    let e := s.tenantOf t
    s.setTenant t { e with share := e.sharePending.getD e.share, tok := e.tokPending.getD e.tok, sharePending := none, tokPending := none }) s

/-- The period boundary after the last one applied: a whole multiple of the period in force (R372). -/
def State.nextPeriod (s : State) : Nat :=
  let p := s.tenant.period * 1000000
  (s.tenant.boundary / p + 1) * p

/-- PERIOD_BOUNDARY (R372): the next boundary of the period in force has passed; each is applied once and in order. A new period
takes effect at it. With a step running the refill waits for the step boundary. -/
def execPeriodBoundary (s : State) : Host.Outcome State Fault Refusal :=
  .next (let b := s.nextPeriod
    if s.now < b then s
    else
      let p := s.tenant.periodNext.getD s.tenant.period
      let s := { s with tenant := { s.tenant with boundary := b, period := p, periodNext := none } }
      if s.herd.step.isSome then { s with tenant := { s.tenant with due := s.tenant.due + 1 } } else s.refill)

/-! ### Registers of the selected tenant (R378) -/

/-- The account selected; only tenants 0-1,023 have the per-tenant registers. -/
def State.selTenant (s : State) : Option Nat :=
  let a := s.field Reg.TENANT_SEL 0 11
  if a < 1024 then some a else none

/-- TENANT_TOK_BALANCE_WRITE (R373): the last value received takes effect at the next step boundary. -/
def execTenantTokBalanceWrite (v : U32) (s : State) : Host.Outcome State Fault Refusal :=
  .next (match s.selTenant with
    | some t => s.setTenant t { s.tenantOf t with tokPending := some v.toInt }
    | none => s)

/-- TENANT_ADM_BALANCE_WRITE (R373): it takes effect at once. -/
def execTenantAdmBalanceWrite (v : U32) (s : State) : Host.Outcome State Fault Refusal :=
  .next (match s.selTenant with
    | some t => s.setTenant t { s.tenantOf t with adm := v.toInt }
    | none => s)

/-- TENANT_CFG_WRITE (R370, R378): the share takes effect at the next step boundary, ENABLE at once, and PARTITION only
while no bitstream is loaded; a share of 0 is out of range, and the write is ignored with CFG_ERR. -/
def execTenantCfgWrite (v : U32) (s : State) : Host.Outcome State Fault Refusal :=
  .next (match s.selTenant with
    | none => s
    | some t =>
      if v.toNat % 65536 = 0 then s.setFlag Reg.TENANT_STATUS 0 true
      else
        let e := s.tenantOf t
        let part : Fin 8 := ⟨v.toNat / 65536 % 8, Nat.mod_lt _ (by decide)⟩
        s.setTenant t { e with
          sharePending := some (v.truncate 16), enable := v.getLsbD 19
          partition := if s.struct.loaded.isSome then e.partition else part })

/-- TENANT_PERIOD_WRITE (R35, R372, R378): the period is an expert field; out of its range it is ignored with CFG_ERR. -/
def execTenantPeriodWrite (v : U32) (s : State) : Host.Outcome State Fault Refusal :=
  execExpertFieldWrite Reg.TENANT_PERIOD v s

end Sys2Proof.Machine
end

