-- ==== Sys2Proof/Machine/Boundary.lean ====
section
/-! DEFINITION. Step boundaries (R35, R70, R73): control writes, tenants, ended entries, offloads, preemption and resumption
(R85, R86), transfers that are tried again, restores (R254), offload selection (R251) and replica refreshes (R255). -/

namespace Sys2Proof.Machine

/-! ### Entries -/

/-- Slots whose entries satisfy `p`, lowest first. -/
def State.slotsIn (s : State) (p : HerdEntry → Bool) : List Nat := s.herd.entries.keysWhere fun _ e => p e

/-- DONE entries, and FAILED ones whose last page is released, return to IDLE (R70). -/
def State.clearEnded (s : State) : State :=
  (s.slotsIn fun e => decide (e.state = .done) || decide (e.state = .failed)).foldl
    (fun s n => if (s.entry n).state = .done ∨ (s.ownedPages n).isEmpty = true then s.toIdle n else s) s

/-- Pages of a sequence below a tile position. -/
def State.pagesBelow (s : State) (n tp : Nat) : List Nat :=
  ((s.root ((s.entry n).pageRoot.getD 0)).lists.flatMap fun x => x.2).filter fun p => decide ((s.page p).tilePos < tp)

/-- The entry's state once an offload of it has taken effect (R70). -/
def HState.offloadedFrom (st : HState) : HState :=
  match st with
  | .decoding | .speculating | .offloaded => .offloaded
  | x => x

/-- An offload that has committed takes effect at its holder (R58, R70, R243): the range's pages are released, FIRST_TP and RANGE_START move to D,
and the receiver joins LOWER_PEERS unless it already holds the highest lower range (R38). -/
def State.applyOffload (s : State) (n : Nat) : State :=
  let e := s.entry n
  match e.offloaded with
  | none => s
  | some (d, peer) =>
    let joins := e.lowerPeers.getLast? == some peer
    let low := s.pagesBelow n (d / 64)
    let s := s.setEntry n { e with
      offloaded := none, rangeStart := d
      lowerPeers := if joins then e.lowerPeers else e.lowerPeers ++ [peer]
      lowerStarts := if joins then e.lowerStarts else e.lowerStarts ++ [e.rangeStart]
      state := e.state.offloadedFrom, prevState := e.prevState.map HState.offloadedFrom
      stateTide := if e.state.offloadedFrom = e.state then e.stateTide else s.now
      replicaDev := if e.replicaDev = some peer then none else e.replicaDev
      covered := if e.replicaDev = some peer then 0 else e.covered }
    let root := e.pageRoot.getD 0
    (s.letGo low).setRoot root { (s.letGo low).root root with firstTp := d / 64 }

/-- Every offload that waits takes effect. -/
def State.applyOffloads (s : State) : State := (s.slotsIn fun e => e.offloaded.isSome).foldl State.applyOffload s

/-- Entries of fenced tenants fail (R387). -/
def State.failFenced (s : State) : State := (s.fault.fences.keysWhere fun _ f => f.fenced).foldl State.failTenant s

/-! ### Preemption and resumption (R85, R86) -/

/-- States that are preemptible (R70). -/
def HState.preemptible (st : HState) : Bool :=
  match st with
  | .prefilling | .decoding | .speculating | .offloaded => true
  | _ => false

/-- Preempts an entry (R70, R85). -/
def State.preemptEntry (s : State) (byBuilder : Bool) (n : Nat) : State :=
  let e := s.entry n
  if e.state.preemptible then
    s.setEntry n { e with
      state := .preempted, prevState := some e.state, specTree := none, byBuilder := byBuilder
      preemptCount := satAdd 16 e.preemptCount 1, stateTide := s.now }
  else s.unlisted

/-- Resumes an entry (R70, R86): SPECULATING resumes as DECODING. -/
def State.resumeEntry (s : State) (n : Nat) : State :=
  let e := s.entry n
  match e.state, e.prevState with
  | .preempted, some st =>
    s.setEntry n { e with
      state := if st = .speculating then .decoding else st, prevState := none, byBuilder := false, stateTide := s.now }
  | _, _ => s.unlisted

/-- Entries that a PREEMPT or RESUME names, or the one of a TREE_ATTACH (R85, R470). -/
def State.named (s : State) (o : HerdOrder) : List Nat :=
  match o.selector with
  | 0 => if o.value.toNat < s.herdSize ∧ (s.entry o.value.toNat).state ≠ .idle then [o.value.toNat] else []
  | 1 => s.slotsIn fun e => decide (e.state ≠ .idle) && e.requestId == o.value
  | 2 => s.slotsIn fun e => decide (e.state ≠ .idle) && decide (e.tenant.toNat = o.value.toNat)
  | _ => []

/-- States in which an entry is not preemptible and takes no host order (R85 case 3). -/
def HState.moving (st : HState) : Bool := decide (st = .handoffOut) || decide (st = .handoffIn) || decide (st = .restoring)

/-- Status with which a host order of the Herd table fails, when it does (R85, R172, R366). An order that names no entry is
MALFORMED (DESIGN CHOICE, log entry 73), and a TREE_ATTACH for a model whose plan names its own draft operations as the source is
PRIVILEGE (DESIGN CHOICE, log entry 94). -/
def State.orderStatus (s : State) (o : HerdOrder) : Option Byte :=
  let ns := s.named o
  if ns.isEmpty then some stMALFORMED
  else if (match o.tenant with | some t => ns.any fun n => (s.entry n).tenant != t | none => false) then some stPRIVILEGE
  else match o.kind with
  | .attach =>
    let e := s.entry o.value.toNat
    if (s.treeAddr o.handle.toNat).isNone then some stMALFORMED
    else if e.state ≠ .decoding ∧ e.state ≠ .speculating ∧ e.state ≠ .offloaded then some stNOT_READY
    else if !e.specAllowed || (s.plan e.model).drafts then some stPRIVILEGE
    else none
  | _ => if ns.any fun n => (s.entry n).state.moving then some stNOT_READY else none

/-- Attaches a tree (R70, R172): DECODING becomes SPECULATING where the whole range is held. -/
def State.attachTree (s : State) (n : Nat) (h : U32) : State :=
  let e := s.entry n
  let spec := e.state = .decoding ∧ e.lowerPeers = []
  s.setEntry n { e with
    specTree := some h, state := if spec then .speculating else e.state, stateTide := if spec then s.now else e.stateTide }

/-- Carries out a host order. -/
def State.obey (s : State) (o : HerdOrder) : State :=
  match o.kind with
  | .preempt => (s.named o).foldl (fun s n => s.preemptEntry false n) s
  | .resume => (s.named o).foldl State.resumeEntry s
  | .attach => s.attachTree o.value.toNat (o.handle.truncate 32)

/-- Counts a PREEMPT or RESUME once for every entry it names that is not preemptible: R70 lists no such event (R70, R85
case 3). -/
def State.countMoving (s : State) (o : HerdOrder) : State :=
  match o.kind with
  | .attach => s
  | _ => ((s.named o).filter fun n => (s.entry n).state.moving).foldl (fun s _ => s.unlisted) s

/-- A host order is carried out at the boundary, and its command completes (R73). An order for an entry in a state that R70
lists neither for it nor in R85 case 3 has no effect but the count, and completes OK (DESIGN CHOICE, log entry 73). -/
def State.runOrder (s : State) (o : HerdOrder) : State :=
  match s.orderStatus o with
  | some st => (s.countMoving o).complete o.cmd st
  | none => (s.obey o).complete o.cmd stOK

/-- PREEMPT, RESUME and TREE_ATTACH take effect at the boundary (R73). -/
def State.applyOrders (s : State) : State :=
  s.herd.orders.foldl State.runOrder { s with herd := { s.herd with orders := [] } }

/-! ### Unloading a plan (R189) -/

/-- Addresses that an Ibex descriptor names. -/
def IbexDesc.named (d : IbexDesc) : List Nat := [d.src.toNat, d.dst.toNat, d.aux.toNat]

/-- Addresses that the Chamois engine's work names: batches not completed, and mutations not finished. -/
def ChamSt.named (c : ChamSt) : List Nat :=
  let ix := fun (h : IndexHeader) => [h.addr, h.codebook, h.coarse, h.directory, h.items, h.segments, h.dellog, h.tables, h.combine]
  (c.batches.flatMap fun b => [b.header.addr, b.header.queryAddr, b.header.entryAddr, b.header.filterAddr, b.header.resultAddr]
      ++ ix (c.indexes.get b.header.index).header)
    ++ c.indexes.flatMap fun x => if x.2.jobs.isEmpty && x.2.compacting.isEmpty then [] else ix x.2.header ++ x.2.jobs.map MutJob.addr

/-- An operation or a transfer that has not committed names a region of a model: a step in progress, an operation of the array or
one whose source is held, a descriptor in a queue or in a slot, or the search engine's work (R189). -/
def State.planInUse (s : State) (m : BitVec 6) : Bool :=
  let rs := s.regionList.filter fun r => r.model == some m
  let hits (a : Nat) : Bool := rs.any fun r => r.holds a 1
  let moves := (s.ibex.slots.filter fun x => decide (x.2.state = .waiting) && decide (x.2.awaits = .descriptor)).map (fun x => x.2.desc)
    ++ s.ibex.queues.flatMap fun x => x.2.waiting ++ x.2.held
  (match s.herd.step with | some st => st.entries.any fun w => w.model == m | none => false)
    || (s.eland.queue ++ s.eland.heldOps).any (fun op => (s.elandExtents op).any fun x => hits x.1)
    || (moves.any fun d => d.named.any hits) || s.cham.named.any hits

/-- A plan that is being unloaded leaves the table once nothing names it, and its command completes. -/
def State.settleUnload (s : State) (m : Nat) : State :=
  match (s.tier.plans.get m).unload with
  | none => s
  | some ref =>
    if s.planInUse (BitVec.ofNat 6 m) then s
    else
      let s := s.dropModel (BitVec.ofNat 6 m)
      ({ s with tier := { s.tier with plans := s.tier.plans.set m {} } }).complete ref stOK

/-- Plans that are being unloaded. -/
def State.settleUnloads (s : State) : State :=
  (s.tier.plans.keysWhere fun _ p => p.unload.isSome).foldl State.settleUnload s

/-! ### Resumption and preemption -/

/-- Pairs of layer and tile position that rows at positions `first` to `last` of a sequence would open (R79). -/
def State.newCells (s : State) (n first last : Nat) : List (Nat × Nat) :=
  let r := s.root ((s.entry n).pageRoot.getD 0)
  (List.range (last / 64 + 1 - first / 64)).flatMap fun i =>
    ((List.range r.layers).filter fun l => !((r.lists.get l).any fun p => decide ((s.page p).tilePos = first / 64 + i))).map
      fun l => (l, first / 64 + i)

/-- The next page need of a preempted entry (R86). -/
def State.nextNeed (s : State) (n : Nat) : Nat :=
  let e := s.entry n
  let ppt := (s.root (e.pageRoot.getD 0)).ppt
  match e.prevState with
  | some .prefilling =>
    let c := min (e.promptLen - e.prefilled) (s.rdN Reg.HERD_CHUNK_MAX)
    ppt * (s.newCells n e.prefilled (e.prefilled + max c 1 - 1)).length
  | _ => ppt * (s.newCells n e.length e.length).length

/-- Lexicographic order of keys. -/
def lexLe : List Nat → List Nat → Bool
  | [], _ => true
  | _, [] => false
  | a :: as, b :: bs => if a < b then true else if b < a then false else lexLe as bs

/-- Sorts slots by a key, least first. -/
def sortByKey (key : Nat → List Nat) (ns : List Nat) : List Nat := sortBy (fun a b => lexLe (key a) (key b)) ns

/-- Resumption of entries that the builder preempted (R86): `spare` is what the free pages exceed TIER_POOL_LOW_WM by, less
the needs of those resumed before. -/
def State.resumeAll : List Nat → Nat → State → State
  | [], _, s => s
  | n :: ns, spare, s =>
    let need := s.nextNeed n
    if need ≤ spare then State.resumeAll ns (spare - need) (s.resumeEntry n) else State.resumeAll ns spare s

/-- Resumes what R86 allows, unless the free pages do not reach TIER_POOL_LOW_WM. -/
def State.autoResume (s : State) : State :=
  let low := s.rdN Reg.TIER_POOL_LOW_WM
  if s.tier.free < low then s
  else
    let ns := s.slotsIn fun e => decide (e.state = .preempted) && e.byBuilder
    State.resumeAll (sortByKey (fun n => [15 - (s.entry n).priority.toNat, (s.entry n).stateTide, n]) ns) (s.tier.free - low) s

/-- PREEMPT_MAX_EXPIRY (R70, R86): the entry of a slot has been preempted for longer than HERD_PREEMPT_MAX. Its row of R70
writes no record: STATUS is NO_PAGES and the anchor is told. -/
def execPreemptMaxExpiry (slot : Fin 65536) (s : State) : Host.Outcome State Fault Refusal :=
  .next (if s.alive && decide ((s.entry slot.val).state = .preempted) then s.failQuiet slot.val stNO_PAGES else s)

/-! ### Transfers tried again, restores, offloads and replicas -/

/-- A REGISTER refused NOT_READY, and a REDIRECT without a candidate, are sent again (R233, R246). -/
def State.retryTransfer (s : State) (id : Nat) : State :=
  let t := s.transfer id
  if t.redirecting then s.sendRedirect id t.cause
  else (s.setTransfer id { t with again := false }).sendRegister id

/-- Every transfer that waits for a boundary is tried again. -/
def State.retryTransfers (s : State) : State :=
  (s.handoff.transfers.keysWhere fun _ t => decide (t.phase ≠ .closed) && t.again).foldl State.retryTransfer s

/-- No offload or restore of the entry is open (R233). -/
def State.moveFree (s : State) (n : Nat) : Bool :=
  !((s.transfersOf n).any fun i => decide ((s.transfer i).kind = .offload) || decide ((s.transfer i).kind = .restore))

/-- Pages that the lower ranges of an entry need (R254). -/
def State.restoreNeed (s : State) (n : Nat) : Nat :=
  let e := s.entry n
  let r := s.root (e.pageRoot.getD 0)
  r.layers * r.ppt * ((e.rangeStart + 63) / 64)

/-- Restores that were ordered, or whose next range is due, begin (R254). -/
def State.orderedRestores (s : State) : State :=
  (s.slotsIn fun e => e.restoring && !e.lowerPeers.isEmpty && (decide (e.state = .offloaded) || decide (e.state = .restoring))).foldl
    (fun s n => if s.moveFree n then s.startRestore n else s) s

/-- Automatic restores (R254, R266): NO_RESTORE stops them. -/
def State.autoRestores : List Nat → Nat → State → State
  | [], _, s => s
  | n :: ns, spare, s =>
    let need := s.restoreNeed n
    if need ≤ spare ∧ s.moveFree n = true then State.autoRestores ns (spare - need) (s.startRestore n) else State.autoRestores ns spare s

/-- Restores that begin at a boundary (R254). -/
def State.restores (s : State) : State :=
  if !s.role.generates then s
  else
    let s := s.orderedRestores
    let wm := s.rdN Reg.HANDOFF_RESTORE_WM
    if wm = 0 ∨ s.flag Reg.HANDOFF_CTRL 1 = true ∨ s.tier.free < wm then s
    else State.autoRestores (s.slotsIn fun e => decide (e.state = .offloaded) && !e.restoring && !e.lowerPeers.isEmpty) (s.tier.free - wm) s

/-- An awaited decision of a function and message kind about a Herd slot. -/
def Slot.asks (x : Slot) (fn : Fin 10) (kind n : Nat) : Bool :=
  decide (x.awaits = .decision) && x.fn == fn && decide (x.msgKind = kind) && decide (x.herdSlot = n)

/-- The host has been asked for a decision about a Herd slot and has not answered. -/
def State.asked (s : State) (fn : Fin 10) (kind n : Nat) : Bool :=
  s.ibex.slots.anyWhere (fun _ x => x.asks fn kind n) || s.ibex.slotWait.any fun x => x.asks fn kind n

/-- A candidate of R251 step 1. -/
def State.offloadable (s : State) (n : Nat) : Bool :=
  let e := s.entry n
  (decide (e.state = .decoding) || decide (e.state = .offloaded)) && decide ((s.plan e.model).mask ≠ 4) && decide (e.rangeStart < s.offloadTo e)
    && !e.rangePending && !e.restoring && e.offloaded.isNone && s.moveFree n && !s.asked 2 mOPEN n

/-- Candidates in the order of R251 step 2: descending held range. -/
def State.offloadCands (s : State) : List Nat :=
  sortByKey (fun n => [2 ^ 32 - ((s.entry n).length - (s.entry n).rangeStart), n])
    ((s.herd.entries.map Prod.fst).filter s.offloadable)

/-- The conditions under which offloads are selected at a boundary (R251). -/
def State.wantsOffload (s : State) : Bool :=
  s.role.generates && !s.flag Reg.HANDOFF_CTRL 0 && decide (s.tier.free < s.rdN Reg.TIER_POOL_LOW_WM)

/-- Pages that the offloads under way will free. -/
def State.offloadGain (s : State) : Nat :=
  ((s.handoff.transfers.filter fun (_, t) => decide (t.phase ≠ .closed) && t.holder && decide (t.kind = .offload)).map
    fun (_, t) => (s.pagesBelow t.slot (t.stop / 64)).length).sum

/-- Takes candidates until the pages they will free would raise TIER_POOL_FREE to twice TIER_POOL_LOW_WM (R251 step 2). -/
def State.takeOffloads : List Nat → Nat → State → State
  | [], _, s => s
  | n :: ns, have_, s =>
    if 2 * s.rdN Reg.TIER_POOL_LOW_WM ≤ have_ then s
    else State.takeOffloads ns (have_ + (s.pagesBelow n (s.offloadTo (s.entry n) / 64)).length) (s.offloadEntry n)

/-- Offload selection (R251). -/
def State.selectOffloads (s : State) : State :=
  if s.wantsOffload then State.takeOffloads s.offloadCands (s.tier.free + s.offloadGain) s else s

/-- Owners bring their replicas up to date (R255). -/
def State.advanceReplicas (s : State) : State :=
  (s.slotsIn fun e => e.live && e.replicaDev.isSome && !e.replica).foldl (fun s n => if s.role.generates then s.replicaAdvance n else s) s

/-- What every step boundary does before a build (R35, R70, R73). -/
def State.boundary (s : State) : State :=
  let s := (s.applyStaged.applyPartial).tenantBoundary
  let s := ((s.clearEnded.applyOffloads).failFenced).applyOrders
  let s := s.autoResume.retryTransfers
  s.restores.selectOffloads.advanceReplicas.settleUnloads

/-- A boundary may be passed: no step runs, and the device is neither stopped nor paused for a handover (R73, R498). -/
def State.atBoundary (s : State) : Bool := s.alive && !s.paused && s.herd.step.isNone

/-- IDLE_BOUNDARY (R35): a device with no step running passes a boundary; it builds no step. -/
def execIdleBoundary (s : State) : Host.Outcome State Fault Refusal := .next (if s.atBoundary then s.boundary else s)

end Sys2Proof.Machine
end

