-- ==== Sys2Proof/Machine/Firmware.lean ====
section
/-! DEFINITION. Firmware: image checks, staging, activation and handover, the boot chain, and anti-rollback
(chapter 19). -/

namespace Sys2Proof.Machine

/-! ### Image checks (R490) -/

/-- KIND of the image that a slot takes (R482, R487). -/
def slotKind : Nat → Nat
  | 0 => 1 | 1 => 2 | 2 | 3 => 3 | _ => 4

/-- Check 1 of R490. -/
def Image.formed (i : Image) (slot : Nat) : Bool :=
  i.magic == 0x5746574C && i.level == 1 && decide (i.kind = slotKind slot) && decide (1 ≤ i.blocks) && decide (i.blocks ≤ 1023)
    && decide (i.svn ≤ 64) && decide (i.compat.length ≤ 64) && decide (i.schemaMin.toNat ≤ i.schema.toNat)
    && decide (i.payloadLen ≤ 65520 * i.blocks) && (decide (i.sigLen = 96) || decide (i.sigLen = 3405)) && i.layoutOk
    && i.compat.all fun c => decide (i.schemaMin.toNat ≤ c.2.toNat) && decide (c.2.toNat ≤ i.schema.toNat)

/-- The status of the first check of R490 that a slot's image fails. -/
def State.imageFault (s : State) (c : SlotContent) (slot : Nat) : Option Byte :=
  match c with
  | .image i =>
    if !i.formed slot then some stMALFORMED
    else if 0x0100 < i.hwMin.toNat ∨ i.hwMax.toNat < 0x0100 ∨ i.steppings.getLsbD 0 = false then some stINCOMPATIBLE
    else if !i.keyOk || !i.ecdsaOk || (s.sec.mldsaReq && !(decide (i.sigLen = 3405) && i.mldsaOk)) then some stPRIVILEGE
    else if i.svn < s.fw.svn then some stPRIVILEGE
    else if !i.blocksOk then some stCHECK_FAIL
    else none
  | _ => some stMALFORMED

/-- The final check of a staging: R490 for image slots, checks 1-4 of R456 for structure slots (R492). -/
def State.stagingFault (s : State) (c : SlotContent) (slot : Nat) : Option Byte :=
  if 5 ≤ slot then
    match c with
    | .bits b => (s.bitsFault4 (Bitstream.parse b)).map Prod.fst
    | _ => some stMALFORMED
  else s.imageFault c slot

/-! ### Staging (R491, R492) -/

/-- The control slot that ACTIVE does not name (R492). -/
def State.inactiveSlot (s : State) : Nat := if s.bootRec.active = 2 then 3 else 2

/-- Sizes of the slots in bytes (R482). -/
def slotSize : Nat → Nat
  | 0 => 0x200000 | 1 => 0x800000 | 2 | 3 | 4 => 0x4000000 | _ => 0x1000000

/-- A handover before CONFIRMING is running. -/
def State.handingOver (s : State) : Bool :=
  match s.fw.handover with
  | .idle | .confirming => false
  | _ => true

/-- A structure load is running. -/
def State.structLoading (s : State) : Bool := s.struct.drain.isSome || s.struct.part.isSome

/-- Slot a FW_BEGIN names: 2 and 3 mean the inactive control slot (R491). -/
def State.beginSlot (s : State) (c : HostCmd) : Nat :=
  let n := c.arg0.toNat % 8
  if n = 2 ∨ n = 3 then s.inactiveSlot else n

/-- FW_BEGIN (R491, R492): opens a session and erases the slot. `file` is the image or bitstream that ARG2 names in HW mode. -/
def execFwBegin (w : WinRef) (file : SlotFile) (s : State) : Host.Outcome State Fault Refusal :=
  .next (s.hostCmd w 0x18 fun c ref s =>
    let slot := s.beginSlot c
    if slot = 7 ∨ slotSize slot < c.arg1.toNat then s.fwComplete (some ref) stMALFORMED
    else if s.fw.session.isSome || s.handingOver || s.structLoading || s.sec.error
        || (s.struct.loaded.isSome && decide (slot = 5 + s.struct.slot.val))
        || (decide (s.fw.handover = .confirming) && decide (slot = 2 ∨ slot = 3))
        || (decide (s.fw.service = .minimal) && decide (slot ≠ 0 ∧ slot ≠ 1 ∧ slot ≠ 4))
    then s.fwComplete (some ref) stNOT_READY
    else
      let hw := decide (s.fnMode 9 ≠ .hostAssist)
      let s := s.setSlot slot { state := .staging }
      let x : Session := { slot := slot, port := w.port.val, length := c.arg1.toNat, hw := hw, file := if hw then file else {}, cmd := if hw then some ref else none }
      let s := { s with fw := { s.fw with session := some x } }
      if hw then s else s.fwComplete (some ref) stOK)

/-- FW_BLOCK (R491, R492): one block of a HOST_ASSIST staging, in index order, manifest first. -/
def execFwBlock (w : WinRef) (blk : StagedBlock) (s : State) : Host.Outcome State Fault Refusal :=
  .next (s.hostCmd w 0x19 fun c ref s =>
    match s.fw.session with
    | none => s.fwComplete (some ref) (if s.fnMode 9 = .hostAssist then stNOT_READY else stMALFORMED)
    | some x =>
      if s.sec.error then s.fwComplete (some ref) stNOT_READY
      else if x.hw || decide (c.arg0.toNat ≠ x.next) then s.fwComplete (some ref) stMALFORMED
      else if !blk.tagOk && decide (x.next ≠ 0) && decide (x.slot = 1 ∨ x.slot = 2 ∨ x.slot = 3) then s.fwComplete (some ref) stCHECK_FAIL
      else
        let x := { x with next := x.next + 1, file := x.file.add blk.file x.slot x.next }
        (({ s with fw := { s.fw with session := some x } }).decided 9).fwComplete (some ref) stOK)

/-- What a session has received, for its final check: an image whose blocks have not all come is damaged (R490). -/
def Session.whole (x : Session) : SlotFile :=
  let got := if x.hw then x.length else 65536 * x.next
  match x.file.content x.slot with
  | .image i => { x.file with blocksOk := x.file.blocksOk && decide (65536 * (i.blocks + 1) ≤ got) }
  | _ => x.file

/-- Ends a session with its final check: the slot becomes VALID, or INVALID with the failing status (R492). -/
def State.endSession (s : State) (x : Session) (c : Option CmdRef) : State :=
  let content := x.whole.content x.slot
  let st := if s.sec.error then some stNOT_READY else s.stagingFault content x.slot
  let s := { s with fw := { s.fw with session := none } }
  let s := s.setSlot x.slot { state := if st.isNone then .valid else .invalid, content := content }
  s.fwComplete c (st.getD stOK)

/-- FW_END (R491, R492). -/
def execFwEnd (w : WinRef) (s : State) : Host.Outcome State Fault Refusal :=
  .next (s.hostCmd w 0x1A fun _ ref s =>
    match s.fw.session with
    | none => s.fwComplete (some ref) (if s.fnMode 9 = .hostAssist then stNOT_READY else stMALFORMED)
    | some x => if x.hw then s.fwComplete (some ref) stMALFORMED else s.endSession x (some ref))

/-! ### Activation (R493-R496) -/

/-- The security-interface level that the security firmware and an image share (R496). -/
def State.sharedSec (s : State) (i : Image) : Option U16 :=
  let l := if i.secIf.toNat < s.fw.secIf.toNat then i.secIf else s.fw.secIf
  if i.secIfMin.toNat ≤ l.toNat ∧ s.fw.secIfMin.toNat ≤ l.toNat then some l else none

/-- The highest schema in both images' ranges (R494). -/
def Image.sharedSchema (a b : Image) : Option Nat :=
  let hi := min a.schema.toNat b.schema.toNat
  if max a.schemaMin.toNat b.schemaMin.toNat ≤ hi then some hi else none

/-- Levels of an image as a fault detail: IMG_IF then SCHEMA. -/
def Image.levels (i : Image) : U64 := BitVec.ofNat 64 (i.imgIf.toNat + 65536 * i.schema.toNat)

/-- An activation is refused INCOMPATIBLE (R494, R496). -/
def State.incompatible (s : State) (c : Option CmdRef) (slot : Nat) (old new : Image) : State :=
  let s := ({ s with fw := { s.fw with incompatible := true } }).raise
    { severity := .corrected, block := 0x020, cause := 0x0130, status := stINCOMPATIBLE, unit := BitVec.ofNat 16 slot, detail0 := old.levels, detail1 := new.levels }
  s.fwComplete c stINCOMPATIBLE

/-- Begins an activation of the inactive control slot (R493, R494, R496, R497). -/
def State.activate (s : State) (c : Option CmdRef) (force : Bool) : State :=
  let slot := s.inactiveSlot
  let x := s.fw.slots.get slot
  match x.content, s.fw.run with
  | .image new, some old =>
    if decide (s.fw.handover ≠ .idle) || decide (x.state ≠ .valid) || s.fw.session.isSome || s.structLoading
        || decide (s.fault.recovery.step ≠ 0) || s.sec.error then s.fwComplete c stNOT_READY
    else match s.imageFault x.content slot with
    | some st => s.fwComplete c st
    | none =>
      let normal := new.compat.contains (old.imgIf, old.schema)
      if (s.sharedSec new).isNone || (!normal && (!force || (old.sharedSchema new).isNone)) then s.incompatible c slot old new
      else { s with fw := { s.fw with
          handover := .prepare, next := some new, nextSlot := slot, nextConservative := !normal, cmd := c } }
  | _, _ => s.fwComplete c stNOT_READY

/-- FW_ACTIVATE (R491, R493). -/
def execFwActivate (w : WinRef) (s : State) : Host.Outcome State Fault Refusal :=
  .next (s.hostCmd w 0x1B fun c ref s => s.activate (some ref) (c.arg0.getLsbD 0))

/-- FW_STAGING_DONE (R492, R493): a HW-mode staging is written and checked; a VALID control image is activated unless
MANUAL is set. -/
def execFwStagingDone (s : State) : Host.Outcome State Fault Refusal :=
  .next (match s.fw.session with
    | none => s
    | some x =>
      if !x.hw then s
      else
        let s := s.endSession x x.cmd
        if (x.slot = 2 ∨ x.slot = 3) ∧ (s.fw.slots.get x.slot).state = .valid ∧ s.flag Reg.FW_CTRL 0 = false then
          s.activate none (s.flag Reg.FW_CTRL 1)
        else s)

/-! ### Handover (R497-R499) -/

/-- Abandons the handover: HANDOVER_ABANDONED, counted; the command completes with a status. The old image runs. -/
def State.abandon (s : State) (st : Byte) : State :=
  let left := s.fw.handover
  let fw := s.fw
  let fw := { fw with
    handover := .idle, next := none, abandoned := satAdd 16 fw.abandoned 1, cmd := none
    run := if left = .switched then fw.old else fw.run
    runSlot := if left = .switched then fw.oldSlot else fw.runSlot
    pauseLast := if left = .pause ∨ left = .switched then (s.now - fw.pauseStart) / 1000 else fw.pauseLast }
  let c := s.fw.cmd
  let slot := s.fw.nextSlot
  let s := ({ s with fw := fw }).raise
    { severity := .corrected, block := 0x020, cause := 0x0132, status := st, unit := BitVec.ofNat 16 slot, detail0 := BitVec.ofNat 64 left.code, detail1 := BitVec.ofNat 64 st.toNat }
  s.fwComplete c st

/-- STANDBY_READY (R497): PREPARE to QUIESCE; the active set stops consuming commands. -/
def execStandbyReady (s : State) : Host.Outcome State Fault Refusal :=
  .next (if s.fw.handover = .prepare then { s with fw := { s.fw with handover := .quiesce } } else s)

/-- PREPARE_TIMEOUT (R497): the standby set is not ready within 5 s. -/
def execPrepareTimeout (s : State) : Host.Outcome State Fault Refusal :=
  .next (if s.fw.handover = .prepare then s.abandon stTIMEOUT else s)

/-- QUIESCE_READY (R497): no firmware-run command in progress and no recovery running; the pause begins. -/
def execQuiesceReady (s : State) : Host.Outcome State Fault Refusal :=
  .next (if s.fw.handover = .quiesce ∧ s.fault.recovery.step = 0 ∧ s.tier.plans.anyWhere (fun _ p => p.loading) = false then
      { s with fw := { s.fw with handover := .pause, pauseStart := s.now } }
    else s)

/-- QUIESCE_TIMEOUT (R497): FW_QUIESCE_MAX elapses. -/
def execQuiesceTimeout (s : State) : Host.Outcome State Fault Refusal :=
  .next (if s.fw.handover = .quiesce then s.abandon stTIMEOUT else s)

/-- STATE_READ (R497): the new set has read the state, and register ownership moves to it in one write. -/
def execStateRead (s : State) : Host.Outcome State Fault Refusal :=
  .next (if s.fw.handover = .pause then
      { s with fw := { s.fw with
          handover := .switched, old := s.fw.run, oldSlot := s.fw.runSlot, run := s.fw.next, runSlot := s.fw.nextSlot } }
    else s)

/-- PAUSE_TIMEOUT (R497): FW_PAUSE_MAX from the pause's start, in PAUSE or SWITCHED. -/
def execPauseTimeout (s : State) : Host.Outcome State Fault Refusal :=
  .next (if s.fw.handover = .pause ∨ s.fw.handover = .switched then s.abandon stTIMEOUT else s)

/-- Features in force once an image runs (R495). -/
def State.featuresOf (s : State) (new : Image) : U64 :=
  match s.fw.nextConservative, s.fw.old with
  | true, some o => new.features &&& o.features
  | _, _ => new.features

/-- NEW_SET_RUN (R497-R499): the pause ends, PENDING names the new slot and the command completes OK; with FW_CONFIRM at
0 ACTIVE is written at once. -/
def execNewSetRun (s : State) : Host.Outcome State Fault Refusal :=
  .next (match s.fw.handover, s.fw.run with
    | .switched, some new =>
      let slot := s.fw.nextSlot
      let c := s.fw.cmd
      let at0 := decide (s.rdN Reg.FW_CONFIRM = 0)
      let s := { s with fw := { s.fw with
          handover := if at0 then .idle else .confirming, features := s.featuresOf new, conservative := s.fw.nextConservative
          secLevel := (s.sharedSec new).getD 0, completed := satAdd 16 s.fw.completed 1, next := none, cmd := none
          pauseLast := (s.now - s.fw.pauseStart) / 1000 } }
      let id : Fin 4 := if slot = 2 then 2 else 3
      let s := s.writeBoot fun r => if at0 then { r with active := id, pending := 0 } else { r with pending := id }
      s.fwComplete c stOK
    | _, _ => s)

/-- CONFIRM_ELAPSED (R497, R499): FW_CONFIRM elapses with no FATAL, and ACTIVE names the new slot. -/
def execConfirmElapsed (s : State) : Host.Outcome State Fault Refusal :=
  .next (if s.fw.handover = .confirming ∧ s.alive = true then
      let p := s.bootRec.pending
      ({ s with fw := { s.fw with handover := .idle } }).writeBoot fun r => { r with active := p, pending := 0 }
    else s)

/-- FW_ABORT (R492, R497): ends a staging session, or abandons a handover in PREPARE, QUIESCE or PAUSE. -/
def execFwAbort (s : State) : Host.Outcome State Fault Refusal :=
  let s := s.dropSession
  .next (match s.fw.handover with
    | .prepare | .quiesce | .pause => s.abandon stTIMEOUT
    | _ => s)

/-- STANDBY_SET_FAULT (R497): the standby set faults in PREPARE or PAUSE. -/
def execStandbySetFault (s : State) : Host.Outcome State Fault Refusal :=
  .next (match s.fw.handover with
    | .prepare | .pause => s.abandon stTIMEOUT
    | _ => s)

/-! ### Anti-rollback and registers (R500, R501) -/

/-- The slot is VALID and its image's SVN is at least `v` (R500). -/
def State.slotSvn (s : State) (n v : Nat) : Bool :=
  let x := s.fw.slots.get n
  match x.content with
  | .image i => decide (x.state = .valid) && decide (v ≤ i.svn)
  | _ => false

/-- FW_SVN_ADVANCE (R500): the fuse counter rises to the target, or the write is ignored with CFG_ERR. -/
def execFwSvnAdvance (v : U32) (s : State) : Host.Outcome State Fault Refusal :=
  let t := v.toNat % 128
  .next (if s.fw.svn < t ∧ t ≤ 64 ∧ ([0, 1, 4, s.bootRec.active.val].all fun n => s.slotSvn n t) = true then
      { s with fw := { s.fw with svn := t } }
    else s.setFlag Reg.FW_STATUS 10 true)

/-- FW_SEL_WRITE (R501, R560): a snapshot of a VALID slot's image header; a value above 6 is ignored with CFG_ERR. -/
def execFwSelWrite (v : U32) (s : State) : Host.Outcome State Fault Refusal :=
  let n := v.toNat % 8
  .next (if n = 7 then s.setFlag Reg.FW_STATUS 10 true
    else
      let x := s.fw.slots.get n
      let i := match x.state, x.content with
        | .valid, .image i => some i
        | _, _ => none
      { s.wr Reg.FW_SEL (BitVec.ofNat 32 n) with fw := { s.fw with hdrSnap := i } })

/-! ### The boot chain (R485, R486) -/

/-- Enters a level of service other than NORMAL (R486). -/
def State.enterService (s : State) (v : Service) (cause slot : Nat) (st : Byte) : State :=
  ({ s with fw := { s.fw with service := v, recoveryCause := cause } }).raise
    { severity := .contained, block := 0x020, cause := 0x0131, status := st, unit := BitVec.ofNat 16 cause, detail0 := BitVec.ofNat 64 slot, detail1 := BitVec.ofNat 64 st.toNat }

/-- Starts GOLDEN in recovery service, or enters MINIMAL when GOLDEN fails (R485 steps 3 to 5). -/
def State.bootGolden (s : State) (cause slot : Nat) (st : Byte) : State :=
  let g := (s.fw.slots.get 4).content
  match s.imageFault g 4, g with
  | none, .image i =>
    ({ s with fw := { s.fw with run := some i, runSlot := 4, features := i.features, secLevel := (s.sharedSec i).getD 0 } }).enterService
      .recovery cause slot st
  | e, _ => ({ s with fw := { s.fw with run := none } }).enterService .minimal 4 4 (e.getD stMALFORMED)

/-- The boot chain of R485, the start of it: nothing runs yet. -/
def State.bootClear (s : State) : State :=
  { s with fw := { s.fw with
      service := .normal, recoveryCause := 0, bootRun := none, secRun := none, handover := .idle, next := none, cmd := none, conservative := false } }

/-- Labels that tell the uses of a secret apart in its derivation; the spec gives no info bytes (log entry 90). -/
def labelDeviceId : Byte := 1
@[inherit_doc labelDeviceId] def labelImport : Byte := 2
@[inherit_doc labelDeviceId] def labelLayer : Byte := 3
@[inherit_doc labelDeviceId] def labelKey : Byte := 4

/-- DeviceID's private key, from UDS (R503). -/
def KeySt.deviceKey (k : KeySt) : BitVec 384 := Config.hkdf k.uds [labelDeviceId]

/-- CDI_0: of UDS, by the boot stage's manifest digest, DEBUG_LOCK and the SVN fuse value (R503). -/
def KeySt.cdi0 (k : KeySt) (boot : BitVec 384) (lock : Bool) (svn : Nat) : BitVec 384 :=
  Config.hkdf k.uds (labelLayer :: leBytes 48 boot.toNat ++ [if lock then 1 else 0, BitVec.ofNat 8 svn])

/-- CDI_1: of CDI_0, by the security firmware's manifest digest and its SEC_IF (R503). -/
def cdi1 (c0 fw : BitVec 384) (secIf : U16) : BitVec 384 := Config.hkdf c0 (labelLayer :: leBytes 48 fw.toNat ++ leBytes 2 secIf.toNat)

/-- The keys that a boot derives (R503, R504): DeviceID, the import key and the image keys from the fuses, and the L1 alias key with
its certificate from both layers. UDS is a fuse; CDI_0, CDI_1 and DeviceID's private key are kept nowhere. -/
def KeySt.derive (k : KeySt) (boot : Option Image) (f : Image) (lock : Bool) (svn : Nat) : KeySt :=
  let digest (i : Image) : BitVec 384 := Config.sha384 i.manifest
  let l1 := Config.hkdf (cdi1 (k.cdi0 ((boot.map digest).getD 0) lock svn) (digest f) f.secIf) [labelKey]
  { k with
    deviceId := Config.publicKey k.deviceKey, l1Key := l1, l1Cert := Config.certificate k.deviceKey (Config.publicKey l1)
    importKey := Config.hkdf k.uds [labelImport], images := [1, 2, 3, 4].map fun n => (n, Config.imageKey k.imageRoot n) }

/-- The boot chain of R485: the boot stage and the security firmware `f` that passed their checks run, with the keys of R503. -/
def State.bootLower (s : State) (boot : SlotContent) (f : Image) : State :=
  let bootImage := match boot with
    | .image b => some b
    | _ => none
  { s with
    fw := { s.fw with secIf := f.secIf, secIfMin := f.secIfMin, bootRun := bootImage, secRun := some f }
    sec := { s.sec with keys := s.sec.keys.derive bootImage f s.sec.debugLock s.fw.svn } }

/-- The boot chain of R485: a pending set that was never confirmed is reverted, and the revert is reported. -/
def State.bootRevert (s : State) : State :=
  let p := s.bootRec.pending
  if p = 0 then s
  else (({ s with fw := { s.fw with reverted := true } }).writeBoot fun r => { r with pending := 0 }).raise
    { severity := .corrected, block := 0x020, cause := 0x0133, unit := BitVec.ofNat 16 p.val }

/-- The boot chain of R485: the control image of slot `n` runs if it passes its checks and an interface is shared; else the
golden image. -/
def State.bootControl (s : State) (n : Nat) : State :=
  let a := (s.fw.slots.get n).content
  match s.imageFault a n, a with
  | none, .image i =>
    match s.sharedSec i with
    | some l => { s with fw := { s.fw with run := some i, runSlot := n, features := i.features, secLevel := l } }
    | none => s.bootGolden 3 n stINCOMPATIBLE
  | e, _ => s.bootGolden 2 n (e.getD stMALFORMED)

/-- The boot chain of R485, from a chosen boot stage and a chosen security firmware on. -/
def State.bootFrom (s : State) (boot sec : SlotContent) : State :=
  match s.imageFault boot 0, s.imageFault sec 1, sec with
  | none, none, .image f =>
    let s := s.bootLower boot f
    if s.pins.sb6 then s.bootGolden 1 4 stOK
    else s.bootRevert.bootControl s.bootRec.active.val
  | e0, e1, _ =>
    ({ s with fw := { s.fw with run := none } }).enterService .minimal 0 (if e0.isSome then 0 else 1)
      ((e0.orElse fun _ => e1).getD stMALFORMED)

/-- The boot chain of R485, steps 1 to 5: boot stage, security firmware, control image. -/
def State.bootChain (s : State) : State :=
  let s := s.bootClear
  let flashBoot := (s.fw.slots.get 0).content
  let boot := if s.pins.sb7 || (s.imageFault flashBoot 0).isSome then s.fw.boardBoot else flashBoot
  let flashSec := (s.fw.slots.get 1).content
  let sec := if s.pins.sb7 || (s.imageFault flashSec 1).isSome then s.fw.boardSec else flashSec
  s.bootFrom boot sec

end Sys2Proof.Machine
end

