-- ==== Sys2Proof/Machine/Security.lean ====
section
/-! DEFINITION. Security: self-tests and the error state, structure keys, fuses, and attestation (chapter 20). -/

namespace Sys2Proof.Machine

/-! ### Self-tests (R516-R518) -/

/-- Partitions that hold a key which is still usable. -/
def State.keyedPartitions (s : State) : List Nat :=
  (List.range 8).filter fun p => (s.tier.partitions.get p).encrypt && !s.sec.keyUnusable.getLsbD p

/-- Counts failed self-tests (SEC_SELFTEST [31:16]). -/
def State.testFailures (s : State) (n : Nat) : State :=
  if n = 0 then s
  else { s with sec := { s.sec with failures := satAdd 16 s.sec.failures n, failedSince := true } }

/-- The islet enters its error state: every partition key becomes unusable (R517). -/
def State.secError (s : State) : State :=
  let keys := s.keyedPartitions
  keys.foldl (fun s p => s.keyUnusable p 2) { s with sec := { s.sec with error := true } }

/-- SELFTEST_FAIL of a test, by its bit of SEC_SELFTEST. -/
def State.testFail (s : State) (test : Nat) : State :=
  s.raise { severity := .contained, block := 0x022, cause := 0x0140, unit := BitVec.ofNat 16 test }

/-- Runs the islet's tests (R516, R517): `pass` is the outcome of each known-answer test by its bit, and `inlineFail`
names the partitions whose inline-engine test fails. Bit 9, the entropy start-up test, is run at reset alone. -/
def State.runTests (s : State) (pass : BitVec 10) (inlineFail : BitVec 8) (atReset : Bool) : State :=
  let bad := (List.range 10).filter fun i => !pass.getLsbD i && decide (i ≠ 4) && (atReset || decide (i ≠ 9))
  let keys := s.keyedPartitions.filter fun p => inlineFail.getLsbD p
  let xts : BitVec 10 := if atReset then 0 else if s.keyedPartitions.isEmpty then s.sec.passed &&& 0x010#10
    else if keys.isEmpty then 0x010#10 else 0
  let entropy : BitVec 10 := if atReset then pass &&& 0x200#10 else s.sec.passed &&& 0x200#10
  let s := { s with sec := { s.sec with passed := (pass &&& 0x1EF#10) ||| xts ||| entropy } }
  let s := s.testFailures (bad.length + keys.length)
  let s := keys.foldl (fun s p => s.keyUnusable p 3) s
  let s := bad.foldl State.testFail s
  if bad.isEmpty then s else s.secError

/-- SELFTEST (R516, R517). -/
def execSelftest (pass : BitVec 10) (inlineFail : BitVec 8) (s : State) : Host.Outcome State Fault Refusal :=
  .next (s.runTests pass inlineFail false)

/-- CONTINUOUS_ENTROPY_TEST (R516, R517): the test fails on a sample, and the islet enters its error state. -/
def execContinuousEntropyTest (s : State) : Host.Outcome State Fault Refusal :=
  let s := { s with sec := { s.sec with passed := s.sec.passed &&& 0x1FF#10 } }
  .next ((s.testFailures 1).testFail 9).secError

/-- APPROVED (R518). -/
def State.approved (s : State) : Bool :=
  s.sec.debugLock && !s.sec.failedSince && !s.sec.error && s.struct.loaded.isSome && !s.struct.unsigned

/-! ### Structure keys (R508-R510) -/

/-- Valid structure slots, in slot order (R508). -/
def State.validSkeys (s : State) : List Nat := (List.range 4).filter fun k => (s.sec.skeys.get k).valid

/-- The hash that fuses the keys a record enrols (R508). -/
def EnrolRec.newHash (r : EnrolRec) : BitVec 384 := Config.sha384 r.pub

/-- The record at SEC_ENROLL_ADDR: in an EXCHANGE region (R509). A record elsewhere has no valid layout (log entry 90). -/
def State.enrolRec (s : State) : EnrolRec :=
  let a := s.rdN Reg.SEC_ENROLL_ADDR_LO + 2 ^ 32 * s.rdN (Reg.SEC_ENROLL_ADDR_LO + 4)
  match s.regionAt a 5485 with
  | some r => if r.kind = 0x0D then EnrolRec.parse (s.bytes a 5485) else { level := 0 }
  | none => { level := 0 }

/-- The status of the first check of R510 that a record fails; `sigs` says that both signatures verify. -/
def State.enrolFault (s : State) (r : EnrolRec) (sigs : Bool) : Option Byte :=
  let k := s.sec.skeys.get r.slot
  let never := !(s.sec.skeys.anyWhere fun _ k => k.used)
  if readable r.level.toNat = false ∨ (r.op ≠ 1 ∧ r.op ≠ 2) ∨ 4 ≤ r.slot ∨ reserved r.level.toNat r.layoutOk = false then some stMALFORMED
  else if r.op = 1 ∧ k.used ∨ r.op = 2 ∧ (!k.valid ∨ s.validSkeys.length ≤ 1) then some stNOT_READY
  else if (if never && r.op == 1 then r.authKeyId == r.newHash.truncate 64
      else s.validSkeys.any fun j => (s.sec.skeys.get j).keyId == r.authKeyId) && sigs then none
  else some stPRIVILEGE

/-- Bit k of the KEYS field of a boot-record copy set. -/
def BootCopy.withKey (c : BootCopy) (k : Nat) (pub : List Byte) : BootCopy :=
  { c with keys := c.keys ||| BitVec.ofNat 4 (2 ^ k), pubs := c.pubs.set k pub }

/-- ENROLL (R509, R510): processes the record that lies at SEC_ENROLL_ADDR; `sigs` says that both its signatures verify under the key
of AUTH_KEY_ID. An enrolment goes to both boot-record copies, the older first. -/
def execEnroll (sigs : Bool) (s : State) : Host.Outcome State Fault Refusal :=
  let r := s.enrolRec
  let st := s.enrolFault r sigs
  let s := { s with sec := { s.sec with enrollStatus := st.getD stOK } }
  .next (match st with
    | some e => s.raise
        { severity := .corrected, block := 0x022, cause := 0x0142, unit := BitVec.ofNat 16 r.slot, detail0 := BitVec.ofNat 64 r.op.toNat, detail1 := BitVec.ofNat 64 e.toNat }
    | none =>
      if r.op = 1 then
        let k : SkeySlot := { hash := r.newHash, used := true, present := true }
        let s := { s with sec := { s.sec with skeys := s.sec.skeys.set r.slot k } }
        (s.writeBoot fun c => c.withKey r.slot r.pub).writeBoot fun c => c.withKey r.slot r.pub
      else
        let s := { s with sec := { s.sec with skeys := s.sec.skeys.mod r.slot fun k => { k with revoked := true } } }
        (s.writeBoot id).writeBoot id)

/-! ### Fuses (R511-R514) -/

/-- The write of SEC_FUSE_CMD carries its key; otherwise it is ignored with CFG_ERR (R523). -/
def State.fuseCmd (s : State) (key : U16) (f : State → State) : State :=
  if key = 0xB10E then f s else s.setFlag Reg.SEC_STATUS 4 true

/-- BLOW_DEBUG_LOCK (R513, R514). -/
def execBlowDebugLock (key : U16) (s : State) : Host.Outcome State Fault Refusal :=
  .next (s.fuseCmd key fun s => { s with sec := { s.sec with debugLock := true } })

/-- An image carries an ML-DSA signature (R451). -/
def Image.mldsa (i : Image) : Bool := decide (i.sigLen = 3405)

/-- A VALID image slot's image carries an ML-DSA signature. -/
def FwSlot.mldsa (x : FwSlot) : Bool :=
  match x.state, x.content with
  | .valid, .image i => i.mldsa
  | _, _ => true

/-- Everything that R513 names carries ML-DSA signatures or keys. -/
def State.allMldsa (s : State) : Bool :=
  (match s.fw.secRun with
    | some i => i.mldsa
    | none => true)
    && (match s.fw.run with
    | some i => i.mldsa
    | none => true)
    && ((List.range 5).all fun n => (s.fw.slots.get n).mldsa)
    && (match s.struct.loaded with
    | some b => decide (b.sigLen = 3405)
    | none => true)

/-- BLOW_MLDSA_REQ (R513). -/
def execBlowMldsaReq (key : U16) (s : State) : Host.Outcome State Fault Refusal :=
  .next (s.fuseCmd key fun s =>
    if s.allMldsa then { s with sec := { s.sec with mldsaReq := true } } else s.setFlag Reg.SEC_STATUS 4 true)

/-! ### Attestation (R519-R521) -/

/-- Flags of measurement block 4 (R520). -/
def State.stateFlags (s : State) : Nat :=
  (if s.sec.debugLock then 1 else 0) + (if s.sec.mldsaReq then 2 else 0) + (if s.approved then 4 else 0)
    + (if s.fw.conservative then 8 else 0)

/-- Structure slots that satisfy `p`, as bits. -/
def State.skeyBits (s : State) (p : SkeySlot → Bool) : Nat :=
  ((List.range 4).map fun k => if p (s.sec.skeys.get k) then 2 ^ k else 0).sum

/-- Measurement block 4: the device state, 16 bytes (R520). -/
def State.deviceState (s : State) : List Byte :=
  packBytes [(1, s.order.val), (1, s.stateFlags), (1, s.fw.svn), (1, s.sec.novuoRevoke.toNat + 16 * s.skeyBits (·.revoked)),
    (1, s.skeyBits (·.used)), (1, s.fw.service.code), (10, 0)]

/-- A digest as a block's bytes. -/
def digestBytes (d : BitVec 384) : List Byte := leBytes 48 d.toNat

/-- The manifest digest of an image, or zeros when none runs. -/
def imageMeasure (i : Option Image) : List Byte :=
  match i with
  | some i => digestBytes (Config.sha384 i.manifest)
  | none => leBytes 48 0

/-- Measurement block `n` (R520). -/
def State.measurement (s : State) (n : Nat) : List Byte :=
  match n with
  | 1 => imageMeasure s.fw.bootRun
  | 2 => imageMeasure s.fw.secRun
  | 3 => imageMeasure s.fw.run
  | 4 => s.deviceState
  | 5 => match s.struct.loaded with
    | some b => digestBytes (Config.sha384 (b.bytes.take b.sigOff))
    | none => leBytes 48 0
  | 6 => digestBytes (Config.sha384 (s.validSkeys.flatMap fun k => digestBytes (s.sec.skeys.get k).hash))
  | 7 => digestBytes (Config.sha384 ((List.range 64).flatMap fun m => leBytes 8 (s.tier.plans.get m).check.toNat))
  | _ =>
    let r := s.fw.run.getD {}
    packBytes [(2, s.fw.secLevel.toNat), (2, r.imgIf.toNat), (2, r.schema.toNat), (2, 0x0100)]

/-- The connection of a transport. -/
def State.conn (s : State) (t : Spdm) : SpdmConn := s.sec.conns.get t.key

/-- Replaces a connection. -/
def State.setConn (s : State) (t : Spdm) (c : SpdmConn) : State :=
  { s with sec := { s.sec with conns := s.sec.conns.set t.key c } }

/-- Sends a response on a transport. -/
def State.respond (s : State) (t : Spdm) (r : SpdmResp) : State :=
  { s with sec := { s.sec with responses := (t.key, r) :: s.sec.responses } }

/-- Answers ERROR and counts it (R523). -/
def State.spdmError (s : State) (t : Spdm) (code : Nat) : State :=
  { s with sec := { s.sec with responses := (t.key, .error code) :: s.sec.responses, errors := satAdd 16 s.sec.errors 1 } }

/-- Ends a session by failure: it is counted, and the request is answered DecryptError (R523; SPDM 1.3, log entry 10). -/
def State.spdmFail (s : State) (t : Spdm) (id : Nat) : State :=
  let c := s.conn t
  let s := s.setConn t { c with sessions := c.sessions.filter fun x => decide (x.id ≠ id) }
  ({ s with sec := { s.sec with sessionFails := satAdd 16 s.sec.sessionFails 1 } }).spdmError t 0x06

/-- Answers a request: the security firmware runs, and MCTP is carried in RUN alone (R552); in the error state the answer is ERROR Unspecified (R517); a request
that is not well-formed is answered InvalidRequest, and one that comes before what it needs UnexpectedRequest (SPDM 1.3,
log entry 10). -/
def State.spdm (s : State) (t : Spdm) (q : SpdmReq) (ready : Bool) (f : State → State) : State :=
  if s.fw.secRun.isNone || (decide (t = .mctp) && !(decide (s.pins.phase = .run) && (s.pwr.auxA || s.pwr.auxB))) then s
  else if s.sec.error then s.spdmError t 0x05
  else if !ready then s.spdmError t 0x04
  else if !q.ok then s.spdmError t 0x01
  else f s

/-- GET_VERSION (R519): the negotiation of the connection starts. -/
def execGetVersion (t : Spdm) (q : SpdmReq) (s : State) : Host.Outcome State Fault Refusal :=
  .next (s.spdm t q true fun s =>
    let c := s.conn t
    (s.setConn t { version := true, sessions := c.sessions }).respond t (.reply 0x84))

/-- GET_CAPABILITIES (R519). -/
def execGetCapabilities (t : Spdm) (q : SpdmReq) (s : State) : Host.Outcome State Fault Refusal :=
  .next (s.spdm t q (s.conn t).version fun s =>
    (s.setConn t { s.conn t with capabilities := true }).respond t (.reply 0xE1))

/-- NEGOTIATE_ALGORITHMS (R519): `q.ok` says that the algorithms of R519 are among those offered. -/
def execNegotiateAlgorithms (t : Spdm) (q : SpdmReq) (s : State) : Host.Outcome State Fault Refusal :=
  .next (s.spdm t q (s.conn t).capabilities fun s =>
    (s.setConn t { s.conn t with algorithms := true }).respond t (.reply 0xE3))

/-- A request about certificate slot 0; another slot is an InvalidRequest (R519). -/
def State.slot0 (s : State) (t : Spdm) (q : SpdmReq) (r : State → State) : State :=
  if q.slot = 0 then r s else s.spdmError t 0x01

/-- The public L1 alias key, under which what the device signs verifies (R503, R519). -/
def State.l1Public (s : State) : List Byte := Config.publicKey s.sec.keys.l1Key

/-- The certificate chain of slot 0: Novuo root, DeviceID, L1 alias (R504, R519). -/
def State.certChain (s : State) : List (List Byte) := [Config.rootCert, s.bootRec.cert, s.sec.keys.l1Cert]

/-- GET_DIGESTS (R519). -/
def execGetDigests (t : Spdm) (q : SpdmReq) (s : State) : Host.Outcome State Fault Refusal :=
  .next (s.spdm t q (s.conn t).algorithms fun s => s.slot0 t q fun s => s.respond t (.digests (s.certChain.map Config.sha384)))

/-- GET_CERTIFICATE (R519). -/
def execGetCertificate (t : Spdm) (q : SpdmReq) (s : State) : Host.Outcome State Fault Refusal :=
  .next (s.spdm t q (s.conn t).algorithms fun s => s.slot0 t q fun s => s.respond t (.certificates s.certChain))

/-- CHALLENGE (R519): signed by the L1 alias key. -/
def execChallenge (t : Spdm) (q : SpdmReq) (s : State) : Host.Outcome State Fault Refusal :=
  .next (s.spdm t q (s.conn t).algorithms fun s => s.slot0 t q fun s => s.respond t (.signed 0x83 s.l1Public))

/-- Measurement blocks that a response carries: those requested, and block 4 always (R520, R521). -/
def measured (q : SpdmReq) : List Nat :=
  [1, 2, 3, 4, 5, 6, 7, 8].filter fun n => q.indices.contains 0xFF || q.indices.contains n || decide (n = 4)

/-- GET_MEASUREMENTS (R519-R521): signed; every block is read at one instant. -/
def execGetMeasurements (t : Spdm) (q : SpdmReq) (s : State) : Host.Outcome State Fault Refusal :=
  .next (s.spdm t q (s.conn t).algorithms fun s =>
    s.respond t (.measurements ((measured q).map fun n => (n, s.measurement n)) s.l1Public))

/-- KEY_EXCHANGE (R519): opens a session, of which a transport holds its limit at most. -/
def execKeyExchange (t : Spdm) (q : SpdmReq) (s : State) : Host.Outcome State Fault Refusal :=
  .next (s.spdm t q (s.conn t).algorithms fun s => s.slot0 t q fun s =>
    let c := s.conn t
    if t.limit ≤ c.sessions.length then s.spdmError t 0x0A
    else
      let x : SpdmSession := { id := s.sec.nextSession }
      let s := s.setConn t { c with sessions := c.sessions ++ [x] }
      ({ s with sec := { s.sec with nextSession := s.sec.nextSession + 1 } }).respond t (.signed 0xE4 s.l1Public))

/-- The transport holds the request's session, at the given stage. -/
def State.hasSession (s : State) (t : Spdm) (q : SpdmReq) (ready : Bool) : Bool :=
  (s.conn t).sessions.any fun x => decide (x.id = q.session) && x.ready == ready

/-- A request within a session that must verify: a failure ends the session (R523). -/
def State.inSession (s : State) (t : Spdm) (q : SpdmReq) (f : SpdmConn → SpdmConn) (r : SpdmResp) : State :=
  if q.verifies then (s.setConn t (f (s.conn t))).respond t r else s.spdmFail t q.session

/-- Changes one session of a connection. -/
def SpdmConn.modSession (c : SpdmConn) (id : Nat) (f : SpdmSession → SpdmSession) : SpdmConn :=
  { c with sessions := c.sessions.map fun x => if x.id = id then f x else x }

/-- FINISH (R519): the session is established. -/
def execFinish (t : Spdm) (q : SpdmReq) (s : State) : Host.Outcome State Fault Refusal :=
  .next (s.spdm t q (s.hasSession t q false) fun s =>
    s.inSession t q (fun c => c.modSession q.session fun x => { x with ready := true }) (.reply 0xE5))

/-- HEARTBEAT (R519). -/
def execHeartbeat (t : Spdm) (q : SpdmReq) (s : State) : Host.Outcome State Fault Refusal :=
  .next (s.spdm t q (s.hasSession t q true) fun s => s.inSession t q id (.reply 0xE8))

/-- KEY_UPDATE (R519). -/
def execKeyUpdate (t : Spdm) (q : SpdmReq) (s : State) : Host.Outcome State Fault Refusal :=
  .next (s.spdm t q (s.hasSession t q true) fun s =>
    s.inSession t q (fun c => c.modSession q.session fun x => { x with updates := x.updates + 1 }) (.reply 0xE9))

/-- END_SESSION (R519). -/
def execEndSession (t : Spdm) (q : SpdmReq) (s : State) : Host.Outcome State Fault Refusal :=
  .next (s.spdm t q (s.hasSession t q true) fun s =>
    s.inSession t q (fun c => { c with sessions := c.sessions.filter fun x => decide (x.id ≠ q.session) }) (.reply 0xEC))

/-- VENDOR_DEFINED_REQUEST (R519, R479): IDE_KM over a secured session on DOE; elsewhere the request is not supported.
K_SET_GO makes the port's IDE stream secure. -/
def execVendorDefinedRequest (t : Spdm) (q : SpdmReq) (s : State) : Host.Outcome State Fault Refusal :=
  .next (s.spdm t q true fun s =>
    match t with
    | .mctp => s.spdmError t 0x07
    | .doe p =>
      if !s.hasSession t q true then s.spdmError t 0x04
      else if !q.verifies then s.spdmFail t q.session
      else
        let s := if q.keySetGo then
            { s with hostif := { s.hostif with ports := s.hostif.ports.mod p.val fun x => { x with ideSecure := true } } }
          else s
        s.respond t (.reply 0xFE))

end Sys2Proof.Machine
end

