-- ==== Sys2Proof/Machine/Reset.lean ====
section
/-! DEFINITION. Resets and start-up (R528-R530): what a cold and a warm reset keep, the boot that follows, and the
training of the HBM stacks. -/

namespace Sys2Proof.Machine

/-- Registers, with the bits, that a warm reset keeps: counters that count since cold reset, and RWS fields (R409,
R528). -/
def keptRegs : List (Nat × Nat) := [
  (Reg.DEV_DEVICE_ID, 0xFFFFFFFF), (Reg.ELAND_REPLAYS, 0xFFFFFFFF), (Reg.ELAND_POISON_TILES, 0xFFFFFFFF),
  (Reg.SPRING_CHECKED, 0xFFFFFFFF), (Reg.SPRING_POISON_UNITS, 0xFFFFFFFF), (Reg.SPRING_LATE, 0xFFFFFFFF),
  (Reg.TIER_CE_TOTAL, 0xFFFFFFFF), (Reg.TIER_UE_TOTAL, 0xFFFFFFFF), (Reg.TIER_REPAIRS, 0xFFFFFFFF),
  (Reg.TIER_POOL_AUDIT, 0xFFFF0000), (Reg.HANDOFF_COMMITS, 0xFFFFFFFF), (Reg.STRAIT_TIMEOUTS, 0xFFFFFFFF),
  (Reg.STRAIT_LATE, 0xFFFFFFFF), (Reg.STRAIT_POISON_LOADS, 0xFFFFFFFF), (Reg.NET_RETX, 0xFFFFFFFF),
  (Reg.NET_DUP, 0xFFFFFFFF), (Reg.CHAM_BATCHES, 0xFFFFFFFF), (Reg.FAULT_LATE_DECISIONS, 0xFFFFFFFF),
  (Reg.HEALTH_LOG_LOST, 0xFFFFFFFF), (Reg.STRUCT_LOADS, 0xFFFFFFFF), (Reg.OBS_TIME_STATUS, 0xFFFF0000)]

/-- The registers after a warm reset. -/
def State.warmRegs (s : State) : Tab U32 :=
  keptRegs.foldl (fun t (a, m) =>
    let k : U32 := BitVec.ofNat 32 m
    Tab.place (resetOf a) a ((s.rd a &&& k) ||| (resetOf a &&& ~~~k)) t) []

/-- A slot of the flash after a reset: a session leaves it INVALID (R492). -/
def FwSlot.atReset (x : FwSlot) : FwSlot := if x.state = .staging then { state := .invalid } else x

/-- The firmware block after a reset: the flash, the boot record and the fuses. -/
def State.resetFw (s : State) (cold : Bool) : FwSt :=
  { slots := s.fw.slots.mapAll fun _ x => x.atReset, boot0 := s.fw.boot0, boot1 := s.fw.boot1, svn := s.fw.svn
    boardBoot := s.fw.boardBoot, boardSec := s.fw.boardSec
    completed := if cold then 0 else s.fw.completed, abandoned := if cold then 0 else s.fw.abandoned }

/-- The security block after a reset: fuses, and the structure keys whose public keys the boot record holds (R508). -/
def State.resetSec (s : State) (cold : Bool) : SecSt :=
  { s.sec with
    keys := { uds := s.sec.keys.uds, imageRoot := s.sec.keys.imageRoot }
    skeys := s.sec.skeys.mapAll fun k x => { x with present := s.bootRec.keys.getLsbD k && Config.sha384 (s.bootRec.pubs.get k) == x.hash }
    error := false, passed := 0, failures := if cold then 0 else s.sec.failures, failedSince := false
    keyReady := 0, keyUnusable := 0, keyImported := 0, enrollStatus := 0, conns := [], responses := [], errors := 0
    sessionFails := 0 }

/-- The log writer after power returned: a suspended erase begins again (R445). -/
def LifeLog.powered (l : LifeLog) : LifeLog := { l with erasing := l.suspended.orElse fun _ => l.erasing, suspended := none }

/-- What the device keeps at a cold reset; at power-on the islets that AUX feeds restart too (R528). -/
def State.coldBase (s : State) (powerOn : Bool) (cause : Nat) : State :=
  let pwr : PwrSt := {
    supply := s.pwr.supply, vinAGood := s.pwr.vinAGood, vinBGood := s.pwr.vinBGood, vinA := s.pwr.vinA, vinB := s.pwr.vinB
    auxA := s.pwr.auxA, auxB := s.pwr.auxB, capLevel := if powerOn then 0 else s.pwr.capLevel
    capCut := if powerOn then [] else s.pwr.capCut, thermCut := if powerOn then [] else s.pwr.thermCut
    throttling := if powerOn then 0 else s.pwr.throttling, lastReset := cause }
  { pending := s.pending, fresh := s.fresh, order := s.order, fw := s.resetFw true, sec := s.resetSec true
    health := { dies := s.health.dies, log := { s.health.log.powered with boots := s.health.log.boots + 1 } }
    eland := { fences := s.eland.fences }
    spring := { fences := s.spring.fences }
    tier := { retired := s.tier.retired }
    pwr := pwr
    pins := { resetN := true, alertLow := false, i3cAddr := if powerOn then none else s.pins.i3cAddr
              answers := s.pins.answers, slot := s.pins.slot, sb6 := s.pins.sb6, sb7 := s.pins.sb7 } }

/-- What the device keeps at a warm reset (R409, R528). -/
def State.warmBase (s : State) (cause : Nat) : State :=
  { pending := s.pending, fresh := s.fresh, order := s.order, fw := s.resetFw false, sec := s.resetSec false
    regs := s.warmRegs, mem := s.mem
    fault := { seq := s.fault.seq, causes := s.fault.causes }
    obs := { tide := s.obs.tide, state := s.obs.state, lockRun := s.obs.lockRun, lastPulse := s.obs.lastPulse
             tideNext := s.obs.tideNext, slew := s.obs.slew, ptp := s.obs.ptp, ptpLocked := s.obs.ptpLocked
             ptpClock := s.obs.ptpClock, ticks := s.obs.ticks }
    ready := if s.isReady 0x01A then [(0x01A, true)] else []
    tenant := { closed := s.tenant.closed, current := s.tenant.current, interval := s.tenant.interval
                meterAt := s.tenant.meterAt }
    tier := { poison := s.tier.poison, trained := s.tier.trained
              channels := s.tier.channels.mapAll fun _ c => { c with partition := 0 }
              badUnits := s.tier.badUnits, retired := s.tier.retired, softRows := s.tier.softRows }
    eland := { fenced := s.eland.fenced, fences := s.eland.fences }
    spring := { fenced := s.spring.fenced, permanent := s.spring.permanent, strikes := s.spring.strikes, fences := s.spring.fences }
    ibex := { failedMovers := s.ibex.failedMovers }
    cham := { failedUnits := s.cham.failedUnits }
    strait := { ports := s.strait.ports.mapAll fun _ p => { replays := p.replays, fecUncorr := p.fecUncorr } }
    net := { ports := s.net.ports.mapAll (fun _ p => { fecUncorr := p.fecUncorr, fcsErr := p.fcsErr })
             policers := s.net.policers.filterMap fun (t, p) => if p.drops = 0 then none else some (t, { drops := p.drops }) }
    health := { s.health with rowSnap := {}, logSnap := none, log := s.health.log }
    pwr := { s.pwr with structLimit := [], lastReset := cause }
    pins := { s.pins with phase := .boot, sbrun := false, alertLow := false } }

/-! ### What a cold reset tests and records -/

/-- Sub-arrays with three fences in the life log (R121). -/
def State.permanentSa (s : State) : BitVec 16 :=
  (s.eland.fences.keysWhere fun _ n => decide (3 ≤ n)).foldl (fun b u => b ||| BitVec.ofNat 16 (2 ^ u)) 0

/-- Lanes with three fences in the life log (R150). -/
def State.permanentLanes (s : State) : BitVec 640 :=
  (s.spring.fences.keysWhere fun _ n => decide (3 ≤ n)).foldl (fun b l => b ||| BitVec.ofNat 640 (2 ^ l)) 0

/-- The engine self-tests of a cold reset (R121, R150, R205, R338). -/
def State.selfTests (s : State) (e : BootEnv) : State :=
  { s with
    eland := { s.eland with fenced := e.failedSa ||| s.permanentSa }
    spring := { s.spring with fenced := e.failedLanes ||| s.permanentLanes, permanent := s.permanentLanes }
    ibex := { s.ibex with failedMovers := e.failedMovers }
    cham := { s.cham with failedUnits := e.failedUnits } }

/-- Rows that a life-log record names: channel, bank and row (R437, R444). -/
def LifeRec.rowOf (r : LifeRec) (bankAt : Nat) : Nat × Nat × Nat := (leNat (r.payload.take 2) % 1024, leNat ((r.payload.drop bankAt).take 1), leNat ((r.payload.drop 4).take 4))

/-- The readable records of a type in the life log, in the order of their places. -/
def State.logRecords (s : State) (type : Nat) : List LifeRec := (s.health.log.flash.filterMap Prod.snd).filter fun r => r.type == type && r.checkOk

/-- ROW records with repair pending that have no later REPAIR record for the same row (R438). -/
def State.pendingRows (s : State) : List (Nat × Nat × Nat) :=
  let repairs := s.logRecords 5
  (((s.logRecords 6).filter fun r => (r.payload.getD 3 0).getLsbD 3 && !repairs.any fun x => decide (r.seq < x.seq) && x.rowOf 2 == r.rowOf 2).map
    fun r => r.rowOf 2).eraseDups

/-- The hard repairs of HBM training (R202, R438, R444): of the rows read back from the life log with repair pending, and the
soft-repaired rows, each for which a spare is left is repaired for good, with a REPAIR record; the rows read back are in the row
history. `soft` are the soft-repaired rows of the former boot. -/
def State.hardRepairs (s : State) (soft : List (Nat × Nat × Nat)) (e : BootEnv) : State :=
  let back := s.pendingRows
  let s := back.foldl (fun s r => s.markRow r.1 r.2.1 r.2.2 fun x =>
    { x with hot := true, hardPending := (e.spares.find? fun y => y.1 == r).isNone }) s
  let rs := (back ++ soft).eraseDups.filterMap fun r => e.spares.find? fun y => y.1 == r
  let s := s.setField Reg.TIER_REPAIRS 16 16 rs.length
  rs.foldl (fun s ((l, bank, row), spares) =>
    s.lifeRecord 5 (BitVec.ofNat 8 (isletDie (hbmIslet l))) true (packBytes [(2, l), (1, bank), (1, 0), (4, row), (1, spares), (23, 0)])) s

/-- First islet and number of islets of a die (R524). -/
def dieIslets (d : Nat) : Nat × Nat := if d = 0 then (0, 32) else (32 + 20 * (d - 1), 20)

/-- The ageing each islet measures (R441): HEALTH_ISLET_AGE, AGE_WARN and one AGE record for each die. -/
def State.measureAges (s : State) (e : BootEnv) : State :=
  let ageOf (i : Nat) : Int := ((e.ages.find? fun x => decide (x.1 = i)).map Prod.snd).getD 0
  let s := (List.range 112).foldl (fun s i =>
    let birth := s.sec.birth.get i
    let s := s.setIslet i { s.health.islets.get i with age := ageOf i, birth := birth }
    if (s.rdN Reg.HEALTH_AGE_WARN : Int) ≤ ageOf i then
      s.raise (FaultInfo.onIslet
        { severity := .corrected, block := 0x01C, cause := 0x0112, unit := BitVec.ofNat 16 i, detail0 := BitVec.ofInt 64 (ageOf i), detail1 := BitVec.ofNat 64 birth } i)
    else s) s
  (List.range 5).foldl (fun s d =>
    let (a, n) := dieIslets d
    s.lifeRecord 9 (BitVec.ofNat 8 d) true ((List.range n).map fun k => BitVec.ofInt 8 (ageOf (a + k)))) s

/-- The BIRTH records of the first power-on (R444). -/
def State.birthRecords (s : State) : State :=
  (List.range 5).foldl (fun s d =>
    s.lifeRecord 1 (BitVec.ofNat 8 d) true
      (packBytes [(8, (s.sec.dieId.get d).toNat), (4, s.sec.testDate.get d), (4, (BitVec.ofInt 32 (s.sec.coef.get d)).toNat), (16, 0)])) s

/-- The BOOT record of a cold reset (R444). The spec gives no layout for the firmware versions and the self-test results:
those 16 bytes are free (log entry 11). -/
def State.bootRecord (s : State) : State :=
  let body := packBytes [(4, s.order.val)] ++ freeBytes s.fresh 16 ++ List.replicate 12 0
  (s.drawN 16).lifeRecord 2 0 false body

/-! ### Boot and RUN -/

/-- The control image declares RUN, SBRUN rises and HERD_STEP_CTRL RUN is set (R485 step 6, R530, R547). -/
def State.declareRun (s : State) : State :=
  ({ s with run := true, pins := { s.pins with phase := .run, sbrun := true } }).setFlag Reg.HERD_STEP_CTRL 0 true

/-- Stacks that hold a region (R530). -/
def State.regionStacks (s : State) : BitVec 20 :=
  s.regionList.foldl (fun b r =>
    if r.space = 0 then (chList r.channels).foldl (fun b l => b ||| BitVec.ofNat 20 (2 ^ (l / 32))) b else b) 0

/-- READY of TIER and the blocks that follow it, once every stack that holds a region is trained; then RUN (R530). -/
def State.tierReady (s : State) : State :=
  let need := s.regionStacks
  if s.struct.loaded.isSome && need &&& s.tier.trained == need && !s.isReady 0x008 then
    ([0x008, 0x002, 0x004, 0x006, 0x00A, 0x00C, 0x014, 0x016].foldl (fun s b => s.setReady b true) s).declareRun
  else s

/-- The boot chain and the loading of the bitstream (R457, R485, R529): each block sets READY as it becomes usable. A
failed self-test leaves MINIMAL service (R517). -/
def State.boot (s : State) (e : BootEnv) : State :=
  let s := s.runTests e.tests 0 true
  let s := if s.sec.error then ({ s with fw := { s.fw with run := none, bootRun := none, secRun := none } }).enterService .minimal 0 1 stNOT_READY
    else s.bootChain
  let s := [0x020, 0x022, 0x01C].foldl (fun s b => s.setReady b true) s
  match s.fw.service with
  | .minimal => s
  | .recovery => [0x000, 0x01E].foldl (fun s b => s.setReady b true) s
  | .normal =>
    let s := [0x000, 0x01E].foldl (fun s b => s.setReady b true) s
    let s := s.bootLoad s.bootRec.structBoot e.inlineFail
    if s.struct.loaded.isSome then
      ([0x00E, 0x010, 0x012, 0x018, 0x024].foldl (fun s b => s.setReady b true) s).tierReady
    else s

/-- With every sub-array fenced, by the self-test or permanently, the device is FATAL (R120, R121). -/
def State.elandDead (s : State) : State :=
  if s.eland.fenced == 0xFFFF then s.fatal { severity := .fatal, block := 0x004, cause := 0x0012, status := stFENCED } else s

/-- A cold reset (R528): content of the HBM is lost, and engines are tested. -/
def State.coldReset (s : State) (powerOn : Bool) (cause : Nat) (e : BootEnv) : State :=
  let soft := s.tier.softRows
  let first := decide (s.health.log.boots = 0)
  let s := (s.coldBase powerOn cause).selfTests e
  let s := if first && powerOn then s.birthRecords else s
  let s := (s.hardRepairs soft e).bootRecord
  ((s.measureAges e).boot e).elandDead

/-- A warm reset (R528). -/
def State.warmReset (s : State) (cause : Nat) (e : BootEnv) : State := (s.warmBase cause).boot e

/-- Samples the straps (R528, R547). -/
def State.strapped (s : State) (straps : Byte) : State :=
  { s with pins := { s.pins with slot := straps.truncate 6, sb6 := straps.getLsbD 6, sb7 := straps.getLsbD 7 } }

/-- A main supply feeds the device. -/
def State.supplied (s : State) : Bool := decide (s.pwr.supply = .onA) || decide (s.pwr.supply = .onB)

/-- POWER_ON (R528-R530): power comes with the given main supplies good, and RESET_N high. Without a good main supply the
device stays OFF. -/
def execPowerOn (aGood bGood : Bool) (straps : Byte) (env : BootEnv) (s : State) : Host.Outcome State Fault Refusal :=
  let sup : Supply := if aGood then .onA else if bGood then .onB else .off
  let s := { s with pwr := { s.pwr with supply := sup, vinAGood := aGood, vinBGood := bGood, auxA := true, auxB := true } }
  let s := s.strapped straps
  .next (if sup = .off then { s with pins := { s.pins with phase := .off, sbrun := false } } else s.coldReset true 0 env)

/-- RESET_N_FALL (R547, R549): SBRUN falls, the SB pins are released and the device is held in reset. -/
def execResetNFall (s : State) : Host.Outcome State Fault Refusal :=
  .next { s with pins := { s.pins with resetN := false, sbrun := false, phase := .aux } }

/-- RESET_N_RISE (R528, R547): RESET_N was low for `lowNs`: 10 ms or more is a cold reset, 1 µs or more a warm one. The
straps are sampled. In OFF and HOLD_UP the pins take their OFF meanings. -/
def execResetNRise (lowNs : Nat) (straps : Byte) (env : BootEnv) (s : State) : Host.Outcome State Fault Refusal :=
  .next (if s.pins.resetN then s
    else
      let s := (s.strapped straps)
      let s := { s with pins := { s.pins with resetN := true } }
      if !s.supplied then { s with pins := { s.pins with phase := .off } }
      else if 10000000 ≤ lowNs then s.coldReset false 1 env
      else if 1000 ≤ lowNs then s.warmReset 2 env
      else { s with pins := { s.pins with phase := if s.run then .run else .boot, sbrun := s.run } })

/-- A write of PWR_RESET carries its key; otherwise it is ignored with CFG_ERR (R528, R537). -/
def State.pwrReset (s : State) (key : U16) (f : State → State) : State :=
  if !s.supplied then s else if key = 0x7E5E then f s else s.setFlag Reg.PWR_STATUS 7 true

/-- PWR_RESET_COLD (R528). -/
def execPwrResetCold (key : U16) (env : BootEnv) (s : State) : Host.Outcome State Fault Refusal :=
  .next (s.pwrReset key fun s => s.coldReset false 3 env)

/-- PWR_RESET_WARM (R528). -/
def execPwrResetWarm (key : U16) (env : BootEnv) (s : State) : Host.Outcome State Fault Refusal :=
  .next (s.pwrReset key fun s => s.warmReset 4 env)

/-- STACK_TRAINING_DONE (R530): a stack is trained, and TIER becomes READY with the last one that holds a region; or it
fails in a training phase, STACK_TRAIN_FAIL is written and TIER stays not READY. -/
def execStackTrainingDone (stack : Fin 20) (ok : Bool) (phase : Nat) (s : State) : Host.Outcome State Fault Refusal :=
  .next (if s.tier.trained.getLsbD stack.val then s
    else if ok then
      ({ s with tier := { s.tier with trained := s.tier.trained ||| BitVec.ofNat 20 (2 ^ stack.val) } }).tierReady
    else s.raise (FaultInfo.onIslet
      { severity := .contained, block := 0x008, cause := 0x0025, unit := BitVec.ofNat 16 stack.val, detail0 := BitVec.ofNat 64 phase } (hbmIslet (32 * stack.val))))

end Sys2Proof.Machine
end

