-- ==== Sys2Proof/Machine/Power.lean ====
section
/-! DEFINITION. Supplies, power capping, thermal limits, the input meter and I3C (chapters 21 and 22). -/

namespace Sys2Proof.Machine

/-! ### Supplies (R531, R532) -/

/-- Both input voltages as a fault detail pair. -/
def State.supplyFault (s : State) (cause : U16) (event : Nat) : State :=
  s.raise { severity := .corrected, block := 0x024, cause := cause, unit := BitVec.ofNat 16 event, detail0 := BitVec.ofNat 64 s.pwr.vinA, detail1 := BitVec.ofNat 64 s.pwr.vinB }

/-- SUPPLY_DEGRADED once for a stay on VIN_B with PREFER_B clear (R531). -/
def State.degradedOnB (s : State) : State :=
  if s.pwr.supply = .onB ∧ s.flag Reg.PWR_CTRL 0 = false ∧ s.pwr.degradedSaid = false then
    ({ s with pwr := { s.pwr with degradedSaid := true } }).supplyFault 0x0151 5
  else s

/-- Moves the load to a supply, with the event's SUPPLY record of the voltage that brought it about; `away` is a
switch-over away from a failed supply, with SUPPLY_SWITCH (R531). -/
def State.moveLoad (s : State) (dest : Supply) (event volts : Nat) (away : Bool) : State :=
  let p := s.pwr
  let p := { p with
    supply := dest, degradedSaid := false
    switchOvers := if event = 2 then p.switchOvers else satAdd 16 p.switchOvers 1
    returns := if event = 2 then satAdd 16 p.returns 1 else p.returns }
  let s := ({ s with pwr := p }).supplyRecord event volts
  let s := if away then s.supplyFault 0x0150 event else s
  s.degradedOnB

/-- Both main supplies are lost: hold-up and the orderly stop of R391, with event 4 (R531, R391, R445). -/
def State.supplyLost (s : State) (volts : Nat) : State :=
  let s := ({ s with pwr := { s.pwr with supply := .holdUp } }).lossRecord volts
  let s := s.fatal { severity := .fatal, block := 0x024, cause := 0x0050 } true
  { s with pins := { s.pins with phase := .off } }

/-- A main supply's voltage, and whether it is good. -/
def PwrSt.vin (p : PwrSt) (b : Bool) (volts : Nat) (good : Bool) : PwrSt :=
  if b then { p with vinB := volts, vinBGood := good } else { p with vinA := volts, vinAGood := good }

/-- SUPPLY_NOT_GOOD (R531): VIN_A (`b` false) or VIN_B has been outside its range for 1 µs, at `volts` × 0.1 V. -/
def execSupplyNotGood (b : Bool) (volts : Nat) (s : State) : Host.Outcome State Fault Refusal :=
  let s := { s with pwr := s.pwr.vin b volts false }
  .next (match s.pwr.supply, b with
    | .onA, false => if s.pwr.vinBGood then s.moveLoad .onB 1 volts true else s.supplyLost volts
    | .onA, true => (s.supplyRecord 5 volts).supplyFault 0x0151 5
    | .onB, true => if s.pwr.vinAGood then s.moveLoad .onA 3 volts true else s.supplyLost volts
    | _, _ => s)

/-- SHUTDOWN_COMPLETE (R531, R547): hold-up ends and the outputs are off. -/
def execShutdownComplete (s : State) : Host.Outcome State Fault Refusal :=
  .next (if s.pwr.supply = .holdUp then
      { s with pwr := { s.pwr with supply := .off }, pins := { s.pins with sbrun := false, phase := if s.pins.resetN then .off else s.pins.phase } }
    else s)

/-- The record's event code of a move to VIN_B that PREFER_B orders, which the spec does not give (log entry 12). -/
def State.preferB (s : State) : State :=
  if s.flag Reg.PWR_CTRL 0 = true ∧ s.pwr.supply = .onA ∧ s.pwr.vinBGood then
    let event := s.freeNow.toNat % 256
    let p := { s.pwr with supply := .onB, switchOvers := satAdd 16 s.pwr.switchOvers 1 }
    ({ s.drawn with pwr := p }).supplyRecord event s.pwr.vinB
  else s

/-- SUPPLY_RETURN (R531): a main supply has been good for PWR_RETURN_TIME. The load returns from VIN_B to VIN_A, unless
PREFER_B is set; with it, the load moves to a VIN_B that is good again. -/
def execSupplyReturn (b : Bool) (volts : Nat) (s : State) : Host.Outcome State Fault Refusal :=
  let s := { s with pwr := s.pwr.vin b volts true }
  .next (if s.pwr.supply = .onB ∧ b = false ∧ s.flag Reg.PWR_CTRL 0 = false then s.moveLoad .onA 2 volts false
    else s.preferB)

/-- SUPPLY_GOOD_IN_OFF (R531): a main supply good for 100 ms starts a cold reset. While RESET_N is low, the device stays held in reset
after it. -/
def execSupplyGoodInOff (b : Bool) (volts : Nat) (env : BootEnv) (s : State) : Host.Outcome State Fault Refusal :=
  .next (if s.pwr.supply = .off then
      let p := s.pwr.vin b volts true
      let s := { s with pwr := { p with supply := if b then .onB else .onA } }
      let t := s.coldReset false 0 env
      if s.pins.resetN then t else { t with pins := { t.pins with resetN := false, sbrun := false, phase := .aux } }
    else s)

/-- AUX_SUPPLY_LOSS (R532): a SUPPLY record with event 6. -/
def execAuxSupplyLoss (b : Bool) (volts : Nat) (s : State) : Host.Outcome State Fault Refusal :=
  let s := s.supplyRecord 6 volts
  .next { s with pwr := if b then { s.pwr with auxB := false } else { s.pwr with auxA := false } }

/-- AUX_SUPPLY_RETURN (R532). -/
def execAuxSupplyReturn (b : Bool) (s : State) : Host.Outcome State Fault Refusal :=
  .next { s with pwr := if b then { s.pwr with auxB := true } else { s.pwr with auxA := true } }

/-- PREFER_B (R531, R537): the bit is written. Set, the load moves to VIN_B while it is good. -/
def execPreferB (on : Bool) (s : State) : Host.Outcome State Fault Refusal :=
  .next ((s.setFlag Reg.PWR_CTRL 0 on).preferB).degradedOnB

/-- PWR_CLEAR_COUNTS (R537): PWR_EVENTS reads 0. -/
def execPwrClearCounts (s : State) : Host.Outcome State Fault Refusal :=
  .next { s with pwr := { s.pwr with switchOvers := 0, returns := 0 } }

/-! ### The meter and the cap (R533-R535) -/

/-- ENERGY_METER_SAMPLE (R533): `watts` taken from the main supply in use over 10 µs. -/
def execEnergyMeterSample (watts : Fin 65536) (s : State) : Host.Outcome State Fault Refusal :=
  .next (if s.supplied then { s with pwr := { s.pwr with
      energy := (s.pwr.energy + 10 * watts.val) % 2 ^ 64, samples := (watts.val :: s.pwr.samples).take 1000 } }
    else s)

/-- CAP_LEVEL_CHANGE (R534, R549): a level on SB[7:6], stable for 10 µs, counts while SBRUN is high. -/
def execCapLevelChange (level : Fin 4) (s : State) : Host.Outcome State Fault Refusal :=
  .next (if s.pins.sbrun then { s with pwr := { s.pwr with capLevel := level } } else s)

/-- PWR_CAP_WRITE (R534, R537): takes effect at once; a value outside 1,200 W to the code maximum is ignored with
CFG_ERR. -/
def execPwrCapWrite (v : U32) (s : State) : Host.Outcome State Fault Refusal :=
  .next (if 1200 ≤ v.toNat ∧ v.toNat ≤ s.codeMax then s.wr Reg.PWR_CAP v else s.setFlag Reg.PWR_STATUS 7 true)

/-- The classes that a cap limits, in the order in which they are lowered (R535). -/
def cappedClasses : List Nat := [0, 2, 1, 3]

/-- The least of the other limits of a class (R525): the thermal limit that counts is that of the coolest quadrant die. -/
def State.otherLimit (s : State) (c : Nat) : Nat :=
  min (s.structMax c) ([1, 2, 3, 4].foldl (fun m d => max m (s.thermLimit d c)) 0)

/-- The cap limit as far as it bears: never above the other limits. -/
def State.capNow (s : State) (c : Nat) : Nat := min (s.capLimit c) (max 500 (s.otherLimit c))

/-- Sets the cap limit of a class. -/
def State.setCap (s : State) (c mhz : Nat) : State :=
  { s with pwr := { s.pwr with capCut := s.pwr.capCut.set c (s.classMax c - mhz) } }

/-- Every capped class is at 500 MHz or below. -/
def State.capFloor (s : State) : Bool := cappedClasses.all fun c => decide (s.capNow c ≤ 500)

/-- The cap's work of one millisecond (R535): the first class above 500 MHz falls by up to 200 MHz while the mean is above
the cap; in the reverse order, the first class below its other limits rises by 25 MHz while it is below 95% of the cap. -/
def State.capTick (s : State) : State :=
  let mean := s.meanInput
  let cap := s.capInForce.1
  if cap < mean then
    match cappedClasses.find? fun c => decide (500 < s.capNow c) with
    | some c => { s.setCap c (max 500 (s.capNow c - 200)) with pwr := { (s.setCap c (max 500 (s.capNow c - 200))).pwr with unmetMs := 0 } }
    | none =>
      let n := s.pwr.unmetMs + 1
      let s := { s with pwr := { s.pwr with unmetMs := n } }
      if 100 ≤ n ∧ s.pwr.unmetSaid = false then
        (({ s with pwr := { s.pwr with unmetSaid := true } }).setFlag Reg.PWR_STATUS 6 true).raise
          { severity := .corrected, block := 0x024, cause := 0x0154, detail0 := BitVec.ofNat 64 mean, detail1 := BitVec.ofNat 64 cap }
      else s
  else
    let s := { s with pwr := { s.pwr with unmetMs := 0, unmetSaid := false } }
    if 100 * mean < 95 * cap then
      match cappedClasses.reverse.find? fun c => decide (s.capNow c < s.otherLimit c) with
      | some c => s.setCap c (min (s.otherLimit c) (s.capNow c + 25))
      | none => s
    else s

/-! ### Thermal limits (R536) -/

/-- Islets of a die. -/
def isletsOf (d : Nat) : List Nat := (List.range (dieIslets d).2).map fun k => (dieIslets d).1 + k

/-- Lowers (or raises) the thermal limit of a class on a die. -/
def State.moveTherm (s : State) (d c : Nat) (down : Bool) : State :=
  let cut := s.pwr.thermCut.get (8 * d + c)
  let n := if down then min (s.classMax c - 500) (cut + 100) else cut - 25
  { s with pwr := { s.pwr with thermCut := s.pwr.thermCut.set (8 * d + c) n } }

/-- The thermal work of one millisecond on a die (R536): class 0 and class 2 fall by 100 MHz from when an islet reaches
PWR_TJ_THROTTLE until every islet is 2 °C below it, and rise by 25 MHz afterwards; the first throttle in a minute is
written. Classes at the ceiling of 105 °C rise with them (log entry 13). -/
def State.thermTick (s : State) (d : Nat) : State :=
  let th : Int := 8 * (s.rdN Reg.PWR_TJ_THROTTLE : Int)
  let hot := (isletsOf d).find? fun i => (s.health.islets.get i).sampled && decide (th ≤ (s.health.islets.get i).temp)
  let warm := (isletsOf d).any fun i => (s.health.islets.get i).sampled && decide (th - 16 < (s.health.islets.get i).temp)
  let bit : BitVec 5 := BitVec.ofNat 5 (2 ^ d)
  let was := s.pwr.throttling.getLsbD d
  let falls := hot.isSome || (was && warm)
  let s := { s with pwr := { s.pwr with
      throttling := if falls then s.pwr.throttling ||| bit else s.pwr.throttling &&& ~~~bit } }
  let minute := s.now / 60000000000 + 1
  let s := match hot with
    | some i =>
      if !was && decide (s.pwr.throttleMin.get d ≠ minute) then
        let p := { s.pwr with throttleMin := s.pwr.throttleMin.set d minute }
        ({ s with pwr := p }).raise (FaultInfo.onIslet
          { severity := .corrected, block := 0x024, cause := 0x0152, unit := BitVec.ofNat 16 i, detail0 := BitVec.ofInt 64 (s.health.islets.get i).temp, detail1 := BitVec.ofInt 64 th } i)
      else s
    | none => s
  if falls then (s.moveTherm d 0 true).moveTherm d 2 true
  else (List.range 8).foldl (fun s c => s.moveTherm d c false) s

/-- CAP_CONTROL_TICK (R535, R536): the power-management islet's work of one millisecond. -/
def execCapControlTick (s : State) : Host.Outcome State Fault Refusal :=
  .next ((List.range 5).foldl State.thermTick s.capTick)

/-! ### I3C (R552) -/

/-- I3C answers: an AUX supply is there and SB[1:0] carry I3C, in AUX service or in RUN (R532, R547). -/
def State.i3cUp (s : State) : Bool :=
  (s.pwr.auxA || s.pwr.auxB) && (decide (s.pins.phase = .aux) || decide (s.pins.phase = .run))

/-- Answers a private transfer. -/
def State.i3cAnswer (s : State) (st : Byte) (data : List Byte) : State :=
  { s with pins := { s.pins with answers := { status := st, data := data } :: s.pins.answers } }

/-- Runs a command of R552: a target without an address, or one that does not answer, stays silent; a command outside
its phases is answered NOT_READY, and one of a wrong length MALFORMED. -/
def State.i3c (s : State) (inAux : Bool) (lengthOk : Bool) (f : State → State) : State :=
  if !s.i3cUp || s.pins.i3cAddr.isNone then s
  else if !inAux && decide (s.pins.phase = .aux) then s.i3cAnswer stNOT_READY []
  else if !lengthOk then s.i3cAnswer stMALFORMED []
  else f s

/-- The 48-bit provisioned ID: the slot in [5:0]; the spec gives no other bit (R552, log entry 14). -/
def State.provisionedId (s : State) : BitVec 48 :=
  (Config.freeValue 0).truncate 48 &&& ~~~0x3F#48 ||| s.pins.slot.zeroExtend 48

/-- ENTDAA (R552): the device sends its provisioned ID and takes a dynamic address. -/
def execEntdaa (addr : BitVec 7) (s : State) : Host.Outcome State Fault Refusal :=
  .next (if s.i3cUp then
      ({ s with pins := { s.pins with i3cAddr := some addr } }).i3cAnswer stOK (leBytes 6 s.provisionedId.toNat)
    else s)

/-- READ_STATUS (R552): 16 bytes. -/
def execReadStatus (data : List Byte) (s : State) : Host.Outcome State Fault Refusal :=
  .next (s.i3c true data.isEmpty fun s => s.i3cAnswer stOK (packBytes [
    (1, s.supplyCode), (1, s.fw.service.code), (1, s.obs.state.code), (1, s.pwr.capLevel.val), (2, s.capInForce.1),
    (2, s.meanInput), (1, min 255 (s.unreadCount 0)), (1, min 255 (s.unreadCount 1)), (1, min 255 (s.unreadCount 2)),
    (1, min 255 (s.unreadCount 3)), (4, 0)]))

/-- SET_CAP (R552): 0 is none, and 1-1,199 is taken as 1,200. -/
def execSetCap (data : List Byte) (s : State) : Host.Outcome State Fault Refusal :=
  .next (s.i3c false (decide (data.length = 2)) fun s =>
    let v := leNat data
    ({ s with pwr := { s.pwr with capI3c := if v = 0 then 0 else max 1200 v } }).i3cAnswer stOK [])

/-- SET_TIDE_NEXT (R552, R413). -/
def execSetTideNext (data : List Byte) (s : State) : Host.Outcome State Fault Refusal :=
  .next (s.i3c false (decide (data.length = 8)) fun s => (s.armTide (leNat data)).i3cAnswer stOK [])

/-- Bytes of a log position: an erased position reads as ones (R447). -/
def logBytes (r : Option LifeRec) : List Byte :=
  match r with
  | some r => r.bytes
  | none => List.replicate 64 0xFF

/-- LOG_READ (R447, R552): the record at a position. -/
def execLogRead (data : List Byte) (s : State) : Host.Outcome State Fault Refusal :=
  .next (s.i3c true (decide (data.length = 3)) fun s => s.i3cAnswer stOK (logBytes (s.logAt (leNat data % 131072))))

/-- LOG_NEXT (R552): SEQ of the next record, and its position. -/
def execLogNext (data : List Byte) (s : State) : Host.Outcome State Fault Refusal :=
  .next (s.i3c true data.isEmpty fun s =>
    s.i3cAnswer stOK (packBytes [(4, s.health.log.nextSeq), (4, (s.health.log.rollPlace false).1)]))

end Sys2Proof.Machine
end

