-- ==== Sys2Proof/Machine/StepBuild.lean ====
section
/-! DEFINITION. The step builder (R73-R85, R173, R253), host-written lists (R88, R89) and the start of a step. -/

namespace Sys2Proof.Machine

/-! ### Eligibility (R80, R84, R239, R242) -/

/-- A tenant's token balance allows work (R80, R372). -/
def State.tokOk (s : State) (t : Nat) : Bool := !s.flag Reg.TENANT_CTRL 0 || decide (0 < (s.tenantOf t).tok)

/-- An entry may receive generation work, its budget apart (R84, R242, R404). -/
def State.genOk (s : State) (n : Nat) : Bool :=
  let e := s.entry n
  s.role.generates && (decide (e.state = .decoding) || decide (e.state = .speculating) || decide (e.state = .offloaded))
    && !e.rangePending && !s.recoveryHolds n

/-- The prompt is the device's own to finish: it is its own receiver (R17). -/
def State.selfReceiver (s : State) (n : Nat) : Bool := (s.entry n).peerDev == some s.devId

/-- Positions from PREFILLED on that the first-layer grants cover (R84, R239); none needed when the device is its own
receiver. -/
def State.chunkCredit (s : State) (n : Nat) : Nat :=
  let e := s.entry n
  if s.selfReceiver n then e.promptLen - e.prefilled
  else match s.holding n with
  | none => 0
  | some id =>
    let stop := (s.transfer id).grants.foldl (fun c g =>
      if g.req.layer = 0 ∧ g.req.firstTp ≤ c ∧ c < g.req.firstTp + g.req.tps then g.req.firstTp + g.req.tps else c) (e.prefilled / 64)
    64 * stop - e.prefilled

/-- An entry may receive a prompt chunk, its budget apart (R84, R239, R404, R565). -/
def State.promptOk (s : State) (n : Nat) : Bool :=
  let e := s.entry n
  s.role.prefills && (decide (e.state = .admitted) || decide (e.state = .prefilling)) && decide (e.prefilled < e.promptLen)
    && decide (e.promptLen ≤ e.promptTokens.length) && !s.recoveryHolds n && decide (0 < s.chunkCredit n)

/-- An entry is urgent (R82). -/
def State.urgent (s : State) (n : Nat) : Bool :=
  let w := s.rdN Reg.HERD_URGENT_WINDOW
  let e := s.entry n
  decide (w ≠ 0) && decide (e.deadline ≠ 0) && decide (e.deadline < s.now + 1000 * w)

/-- Order of generation (R84): urgent by DEADLINE, then PRIORITY, STEP_SERIAL and slot. -/
def State.genKey (s : State) (n : Nat) : List Nat :=
  let e := s.entry n
  [if s.urgent n then 0 else 1, if s.urgent n then e.deadline else 0, 15 - e.priority.toNat, e.stepSerial, n]

/-- Order of the prompt pass (R84), when some candidate is urgent and when none is. -/
def State.promptKey (s : State) (anyUrgent : Bool) (n : Nat) : List Nat :=
  let e := s.entry n
  if anyUrgent then [if s.urgent n then 0 else 1, e.deadline, 15 - e.priority.toNat, e.admitTide, n]
  else [(s.tenantOf e.tenant.toNat).vtime, e.tenant.toNat, 15 - e.priority.toNat, e.admitTide, n]

/-- The slot with the least key. -/
def leastBy (key : Nat → List Nat) : List Nat → Option Nat
  | [] => none
  | n :: ns => some (ns.foldl (fun b m => if lexLe (key b) (key m) then b else m) n)

/-! ### Pages (R65, R79, R134) -/

/-- What the pages of a step's entry are allocated for. -/
def State.stepFor (s : State) (n : Nat) : AllocFor :=
  let e := s.entry n
  { slot := n, requestId := e.requestId, part := e.partition, root := e.pageRoot.getD 0, rotated := e.rotated }

/-- Page numbers the assisting host supplied cover the cells: each below TOTAL, FREE and of the partition's pool, each named
once, and those of one tile position in one pseudo-channel (R65, R134, R190). -/
def State.suppliedOk (s : State) (part ppt cells : Nat) (ps : List Nat) : Bool :=
  let (base, n) := s.poolOf part
  decide (ps.length = ppt * cells) && distinct ps
    && ps.all (fun p => decide (p < s.tier.total) && decide ((s.page p).state = .free) && decide (base ≤ p) && decide (p < base + n))
    && (List.range cells).all fun i =>
      let group := (ps.drop (ppt * i)).take ppt
      group.all fun p => decide (s.laneOfPage p = s.laneOfPage (group.getD 0 0))

/-- Gives supplied pages to cells, PPT at a time. -/
def State.giveSupplied (a : AllocFor) (ppt : Nat) : List (Nat × Nat) → List Nat → State → State
  | [], _, s => s
  | (l, tp) :: cs, ps, s => State.giveSupplied a ppt cs (ps.drop ppt) (s.givePages a l tp (ps.take ppt))

/-- Posts the allocation request of an entry's work to the assisting host, once (R64, R65). -/
def State.askPages (s : State) (n first cells ppt : Nat) : State :=
  if s.tier.held ∨ s.asked 1 0 n = true then s
  else s.askHost 1 { herdSlot := n, item := first / 64, rows := cells * ppt, layer := cells, requestId := (s.entry n).requestId
                     question := packBytes [(4, n), (4, first / 64), (4, cells), (4, ppt)] }

/-- Reserves the pages that rows at positions `first` to `last` open (R79): from the pool, or those that the host has
supplied. -/
def State.reserve (s : State) (n first last : Nat) : Option State :=
  let cells := s.newCells n first last
  if cells.isEmpty then some s
  else if s.fnMode 1 = .hostAssist then
    let ppt := (s.root ((s.entry n).pageRoot.getD 0)).ppt
    let ps := s.herd.supplied.get n
    if s.tier.held = false ∧ s.suppliedOk (s.entry n).partition.val ppt cells.length ps = true
        ∧ (cells.all fun c => s.listable ((s.entry n).pageRoot.getD 0) c.1 ppt) = true then
      let s := { s with herd := { s.herd with supplied := s.herd.supplied.set n [] } }
      some (State.giveSupplied (s.stepFor n) ppt cells ps s)
    else none
  else State.allocAll (s.stepFor n) cells s

/-- FREE pages of a partition's pool. -/
def State.poolFree (s : State) (part : Nat) : Nat :=
  let b := s.poolOf part
  b.2 - s.tier.pages.countWhere fun p d => decide (b.1 ≤ p) && decide (p < b.1 + b.2) && decide (d.state ≠ .free)

/-- The free pages cannot cover rows at positions `first` to `last` of an entry (R79), whoever allocates them. -/
def State.pagesShort (s : State) (n first last : Nat) : Bool :=
  decide (s.poolFree (s.entry n).partition.val < (s.newCells n first last).length * (s.root ((s.entry n).pageRoot.getD 0)).ppt)

/-- An entry left out for want of pages is one that R85 case 2 may preempt: in HW mode the allocator found none, and in
HOST_ASSIST mode, where the host has not supplied them yet, only where the free pages cannot cover it (R79). -/
def State.starved (s : State) (n first last : Nat) : Bool :=
  decide (s.fnMode 1 ≠ .hostAssist) || s.pagesShort n first last

/-- What follows when an entry's pages cannot be had: a host is asked for them, where the pool has them (R65, R79). -/
def State.lacksPages (s : State) (n first last : Nat) : State :=
  if s.fnMode 1 = .hostAssist ∧ s.pagesShort n first last = false then
    s.askPages n first (s.newCells n first last).length (s.root ((s.entry n).pageRoot.getD 0)).ppt
  else s

/-- Pages of the positions `first` to `last` that were not there before. -/
def State.addedPages (s old : State) (n first last : Nat) : List Nat :=
  (old.newCells n first last).flatMap fun c => s.pagesAt n c.1 c.2 1

/-! ### The builder's passes (R83, R84) -/

/-- What the builder has done so far: capacity left, tokens charged to each peer, the entries of the list, the slots left
out for pages, and the generation entries left out. -/
structure Build where
  left : Nat := 0
  used : Tab Nat := []
  out : List WorkEntry := []
  noPages : List Nat := []
  genOut : Nat := 0
  deriving DecidableEq, Repr, Inhabited

/-- peer_left of R84: what R83 leaves for an entry's peers. -/
def State.peerLeft (s : State) (b : Build) (n : Nat) : Nat :=
  (s.dependsOn (s.entry n)).foldl (fun m d =>
    min m (s.rdN Reg.HERD_STEP_CAP * s.weight d.toNat / 255 - b.used.get d.toNat)) (2 ^ 32)

/-- Adds tokens to a tenant's virtual time (R81); 64 bits. -/
def State.addV (s : State) (t n : Nat) : State :=
  let e := s.tenantOf t
  s.setTenant t { e with vtime := (e.vtime + n * (65536 / max 1 e.share.toNat)) % 2 ^ 64 }

/-- Charges tokens to the peers that an entry depends on (R83). -/
def State.chargePeers (s : State) (b : Build) (n c : Nat) : Build :=
  { b with left := b.left - c, used := (s.dependsOn (s.entry n)).foldl (fun u d => u.mod d.toNat (· + c)) b.used }

/-- A work-list entry of a slot. -/
def State.workFor (s : State) (n : Nat) (kind : WorkKind) (pos count : Nat) : WorkEntry :=
  let e := s.entry n
  { kind := kind, eland := kind == .chunk, lower := !e.lowerPeers.isEmpty, rotated := e.rotated, model := e.model, slot := n
    sample := decide (kind ≠ .chunk) || decide (e.promptLen ≤ pos + count), pos := pos, count := count, pageRoot := e.pageRoot
    tenant := e.tenant, adapter := e.adapter, requestId := e.requestId }

/-- One entry of the base pass (R84). -/
def State.basePass (x : State × Build) (n : Nat) : State × Build :=
  let (s, b) := x
  let e := s.entry n
  if e.limit ≤ e.length then (s.failEntry n stLEN_LIMIT e.length, b)
  else if b.left < 1 ∨ s.peerLeft b n < 1 then (s, { b with genOut := b.genOut + 1 })
  else match s.reserve n e.length e.length with
  | none =>
    (s.lacksPages n e.length e.length,
     { b with genOut := b.genOut + 1, noPages := if s.starved n e.length e.length then b.noPages ++ [n] else b.noPages })
  | some s' =>
    let w := { s'.workFor n .decode e.length 1 with pages := s'.addedPages s n e.length e.length }
    (s'.addV e.tenant.toNat 1, { s'.chargePeers b n 1 with out := b.out ++ [w] })

/-- Each node after the first has an earlier parent and lies one below it (R173). -/
def treeLinks (nodes : List TreeNode) : Bool :=
  (List.range (nodes.length - 1)).all fun k =>
    let x := nodes.getD (k + 1) {}
    decide (x.parent < k + 1) && decide (x.depth = (nodes.getD x.parent {}).depth + 1)

/-- The tree of an entry is valid (R173). -/
def State.treeValid (s : State) (n : Nat) (t : Tree) : Bool :=
  let e := s.entry n
  let root := t.nodes.getD 0 {}
  t.formed && decide (t.state = .ready) && decide (t.slot = n) && t.requestId == e.requestId && decide (t.baseLen = e.length)
    && decide (root.parent = 0xFF) && decide (root.depth = 0) && decide (e.recent.head? = some root.token)
    && treeLinks t.nodes && decide (t.levels = (t.nodes.map TreeNode.depth).foldl max 0 + 1) && decide (t.levels ≤ 16)

/-- The QUERY and PARTIAL of a tree with lower ranges each fit in 1 MiB (R253). -/
def Plan.treeFits (p : Plan) (rows : Nat) : Bool :=
  let dq := if p.valueWidth = 0 then p.width else 2 * p.width
  let dv := if p.valueWidth = 0 then p.width else p.valueWidth
  decide (rows ≤ 64) && decide (rows * p.queryHeads ≤ 16384) && decide (96 + 4 * rows + 2 * (rows * p.queryHeads * dq) ≤ 1048576)
    && decide (64 + rows * p.queryHeads * (8 + 2 * dv) ≤ 1048576)

/-- An invalid tree is detached (R70, R173). -/
def State.detachTree (s : State) (n : Nat) (h : U32) : State :=
  let e := s.entry n
  let s := s.raise { severity := .contained, block := 0x002, cause := 0x0004, status := stMALFORMED, requestId := e.requestId
                     detail0 := h.zeroExtend 64, tenant := some e.tenant, unit := BitVec.ofNat 16 n }
  let e := s.entry n
  s.setEntry n { e with
    specTree := none, state := if e.state = .speculating then .decoding else e.state
    stateTide := if e.state = .speculating then s.now else e.stateTide }

/-- One entry of the tree pass (R84, R173, R253, R258). -/
def State.treePass (x : State × Build) (n : Nat) : State × Build :=
  let (s, b) := x
  let e := s.entry n
  match e.specTree, b.out.any (fun w => decide (w.slot = n)) && e.heldTokens.isEmpty with
  | some h, true =>
    let t := s.tree h.toNat
    let k := t.nodes.length
    if !s.treeValid n t then (s.detachTree n h, b)
    else if !e.lowerPeers.isEmpty && !(s.plan e.model).treeFits k then x
    else if k - 1 ≤ b.left ∧ k - 1 ≤ s.peerLeft b n ∧ e.length + k ≤ e.limit then
      match s.reserve n e.length (e.length + k - 1) with
      | none => (s.lacksPages n e.length (e.length + k - 1), b)
      | some s' =>
        let more := s'.addedPages s n e.length (e.length + k - 1)
        let out := b.out.map fun w => if w.slot = n then { w with kind := .tree, count := k, tree := some h, pages := w.pages ++ more } else w
        (s'.addV e.tenant.toNat (k - 1), { s'.chargePeers b n (k - 1) with out := out })
    else x
  | _, _ => x

/-- The rows of a chunk (R84); none when it would be shorter than HERD_CHUNK_MIN and not end the prompt. -/
def State.chunkRows (s : State) (b : Build) (n : Nat) : Option Nat :=
  let e := s.entry n
  let rem := e.promptLen - e.prefilled
  let c := min rem (min b.left (min (s.rdN Reg.HERD_CHUNK_MAX) (min (s.peerLeft b n) (s.chunkCredit n))))
  let c := if c < rem then c / 64 * 64 else c
  if c = 0 ∨ (c < rem ∧ c < s.rdN Reg.HERD_CHUNK_MIN) then none else some c

/-- The prompt pass (R84): `fuel` is the number of candidates. While the auditor holds allocations, a chunk whose pages
cannot be reserved is counted in HERD_DEFERRED [15:0] beside the generation entries, for R64 counts every entry left out
(DEDUCED, log entry 74). -/
def State.promptPass : Nat → List Nat → State × Build → State × Build
  | 0, _, x => x
  | fuel + 1, cs, (s, b) =>
    match leastBy (s.promptKey (cs.any s.urgent)) cs with
    | none => (s, b)
    | some n =>
      let cs := cs.erase n
      match s.chunkRows b n with
      | none => State.promptPass fuel cs (s, b)
      | some c =>
        let e := s.entry n
        match s.reserve n e.prefilled (e.prefilled + c - 1) with
        | none => State.promptPass fuel cs (s.lacksPages n e.prefilled (e.prefilled + c - 1),
            { b with
              genOut := if s.tier.held then b.genOut + 1 else b.genOut
              noPages := if s.starved n e.prefilled (e.prefilled + c - 1) then b.noPages ++ [n] else b.noPages })
        | some s' =>
          let w := { s'.workFor n .chunk e.prefilled c with pages := s'.addedPages s n e.prefilled (e.prefilled + c - 1) }
          State.promptPass fuel cs (s'.addV e.tenant.toNat c, { s'.chargePeers b n c with out := b.out ++ [w] })

/-- An entry whose plan operations cannot bind fails (R70, R87): PLAN_BIND is its record. -/
def State.bindFail (s : State) (n : Nat) : State :=
  let e := s.entry n
  (s.raise { severity := .contained, block := 0x002, cause := 0x0002, status := stMALFORMED, requestId := e.requestId
             detail0 := e.model.zeroExtend 64, detail1 := e.adapter.zeroExtend 64, tenant := some e.tenant, unit := BitVec.ofNat 16 n }).failQuiet n stMALFORMED

/-- Leaves out the entries of tenants without budget: each is counted for its tenant (R80, R376). -/
def State.deferBudget (s : State) (ns : List Nat) : State :=
  ns.foldl (fun s n => s.tally (s.entry n).tenant.toNat fun u => { u with deferred := u.deferred + 1 }) s

/-- Tenants that become eligible have V raised to the least V of those that already were (R81). -/
def State.raiseV (s : State) (ns : List Nat) : State :=
  let now_ := (ns.map fun n => (s.entry n).tenant.toNat).eraseDups
  let old := now_.filter fun t => s.herd.eligible.contains t
  let s' := match old with
    | [] => s
    | t :: ts =>
      let least := ts.foldl (fun m u => min m (s.tenantOf u).vtime) (s.tenantOf t).vtime
      (now_.filter fun t => !s.herd.eligible.contains t).foldl (fun s t =>
        let e := s.tenantOf t
        s.setTenant t { e with vtime := max e.vtime least }) s
  { s' with herd := { s'.herd with eligible := now_ } }

/-- No offload can free pages in time (R85 case 2): none is under way, and none would be selected. -/
def State.noOffload (s : State) : Bool := decide (s.offloadGain = 0) && !(s.wantsOffload && !s.offloadCands.isEmpty)

/-- Preempts the entries left out for pages, lowest priority first (R85 case 2); not while the auditor holds allocations. -/
def State.preemptLacking (s : State) (ns : List Nat) : State :=
  if s.tier.held ∨ s.noOffload = false then s
  else
    let hit := (sortByKey (fun n => [(s.entry n).priority.toNat, n]) ns).filter fun n => (s.entry n).state.preemptible
    if hit.isEmpty then s else (hit.foldl (fun s n => s.preemptEntry true n) s).setFlag Reg.HERD_STEP_STATUS 4 true

/-- Sets the routing flags of generation entries (R78, R135, R136). -/
def State.routeWork (s : State) (ws : List WorkEntry) : List WorkEntry :=
  ws.map fun w => if w.kind = .chunk then w else { w with eland := (s.routed w.slot w.count).isSome }

/-- SPRING_ROUTED of a step (R152): its generation entries routed by intensity (R135), and under R136. An entry that a
host-written list routes with neither cause is in neither count (DESIGN CHOICE, log entry 76). -/
def State.countRouted (s : State) (ws : List WorkEntry) : State :=
  let why := (ws.filter fun w => decide (w.kind ≠ .chunk) && !w.dropped && w.eland).map fun w => s.routed w.slot w.count
  s.wr Reg.SPRING_ROUTED (BitVec.ofNat 32 (min 65535 (why.count (some true)) + 65536 * min 65535 (why.count (some false))))

/-- Token offsets: rows are placed end to end (R78). -/
def placeRows : Nat → List WorkEntry → List WorkEntry
  | _, [] => []
  | off, w :: ws => { w with tokenOffset := off } :: placeRows (off + w.count) ws

/-- Builds a list from the table as it stands (R80-R85); the number is HERD_DEFERRED of the step. -/
def State.buildList (s : State) : State × List WorkEntry × Nat :=
  let all := s.herd.entries.map Prod.fst
  let gen := all.filter s.genOk
  let prompt := all.filter s.promptOk
  let paid (n : Nat) : Bool := s.tokOk (s.entry n).tenant.toNat
  let unpaid := (gen ++ prompt).filter fun n => !paid n
  let bound (n : Nat) : Bool := (s.plan (s.entry n).model).loaded
  let lost := (gen ++ prompt).filter fun n => paid n && !bound n
  let gen := sortByKey s.genKey (gen.filter fun n => paid n && bound n)
  let prompt := prompt.filter fun n => paid n && bound n
  let s := (lost.foldl State.bindFail (s.deferBudget unpaid)).raiseV (gen ++ prompt)
  let x := gen.foldl State.basePass (s, { left := s.rdN Reg.HERD_STEP_CAP })
  let x := gen.foldl State.treePass x
  let (s, b) := State.promptPass prompt.length prompt x
  let s := s.preemptLacking b.noPages
  (s, placeRows 0 (s.routeWork b.out), min 65535 b.genOut + 65536 * min 65535 unpaid.length)

/-! ### The work list in memory (R77) -/

/-- Code of a work-list kind. -/
def WorkKind.code : WorkKind → Nat
  | .decode => 1 | .tree => 2 | .chunk => 3

/-- Code of a function mode (R77, R91). -/
def FnMode.code : FnMode → Nat
  | .hw => 0 | .firmware => 1 | .hostAssist => 2

/-- A number from flags, the first of them bit 0. -/
def flagBits : List Bool → Nat
  | [] => 0
  | b :: bs => (if b then 1 else 0) + 2 * flagBits bs

/-- The 32 bytes of a work-list entry (R77). -/
def WorkEntry.bytes (w : WorkEntry) : List Byte :=
  packBytes [(1, 1), (1, w.kind.code), (1, flagBits [w.eland, w.lower, w.sample, w.rotated]), (1, w.model.toNat), (4, w.slot), (4, w.pos), (4, w.count)
    , (4, w.tokenOffset), (4, w.pageRoot.getD 0xFFFFFFFF), (2, w.tenant.toNat), (2, w.adapter.toNat), (4, (w.tree.getD 0xFFFFFFFF).toNat)]

/-- Generation entries at the head of a list. -/
def genHead (ws : List WorkEntry) : Nat := (ws.takeWhile fun w => decide (w.kind ≠ .chunk)).length

/-- Address of the buffer that the next list goes to (R77). -/
def State.listAt (s : State) : Option Nat :=
  (s.regionOfKind 8).map fun r => r.start + 0x200040 * s.herd.buffer.val

/-- Writes a list to the buffer (R77). -/
def State.writeList (s : State) (src : FnMode) (number : Nat) (ws : List WorkEntry) : State :=
  match s.listAt with
  | none => s
  | some a =>
    s.write a (packBytes [(1, 1), (1, src.code), (2, 0), (4, ws.length), (8, number), (4, (ws.map WorkEntry.count).sum), (4, genHead ws), (8, s.now), (32, 0)]
      ++ ws.flatMap WorkEntry.bytes)

/-! ### The start of a step (R70, R73, R87) -/

/-- TOKENS: the token rows of entries. -/
def workCount (ws : List WorkEntry) : Nat := (ws.map WorkEntry.count).sum

/-- What a step's start changes in an entry's tenant and in the entry (R68, R70, R71, R239, R371). -/
def State.startEntry (number : Nat) (chargeV : Bool) (s : State) (w : WorkEntry) : State :=
  let t := w.tenant.toNat
  let s := s.setTenant t { s.tenantOf t with tok := satInt 32 ((s.tenantOf t).tok - w.count) }
  let s := if chargeV then s.addV t w.count else s
  let e := s.entry w.slot
  let s := s.setEntry w.slot { e with stepSerial := number % 2 ^ 32, busyStep := number }
  let s := if e.state = .admitted then s.toState w.slot .prefilling else s
  match w.kind, s.holding w.slot with
  | .chunk, some id =>
    let t := s.transfer id
    (s.setTransfer id { t with emitted := max t.emitted (w.pos + w.count) }).askCredit id
  | _, _ => s

/-- A step begins with a list (R73, R87). -/
def State.startStep (s : State) (src : FnMode) (ws : List WorkEntry) (submit : Option (Nat × Nat)) : State :=
  let number := s.herd.stepNum + 1
  let work := ws.filter fun w => !w.dropped
  let s := s.countRouted ws
  let broke := if src = .hostAssist then 0 else workCount (work.filter fun w => !s.tokOk w.tenant.toNat)
  let s := if src = .hostAssist then s else s.writeList src number ws
  let s := work.foldl (State.startEntry number (decide (src = .hostAssist))) s
  let st : Step := {
    number := number, source := src, entries := ws, buildTide := s.now
    submit := submit, droppedCount := ws.length - work.length, tokens := workCount work, charged := workCount work
    overdrawn := broke }
  { s with herd := { s.herd with
      step := some st, buffer := 1 - s.herd.buffer, single := false, waitHost := false, supplied := [] } }

/-! ### Host-written lists (R88, R89) -/

/-- A work-list entry as a host wrote it, with its kind's code. -/
def State.readWork (s : State) (a : Nat) : Nat × WorkEntry :=
  (s.loadLE (a + 1) 1,
   { kind := match s.loadLE (a + 1) 1 with
       | 2 => .tree | 3 => .chunk | _ => .decode
     eland := (s.byte (a + 2)).getLsbD 0, slot := s.loadLE (a + 4) 4, pos := s.loadLE (a + 8) 4, count := s.loadLE (a + 12) 4
     tokenOffset := s.loadLE (a + 16) 4, tree := if s.loadLE (a + 0x1C) 4 = 0xFFFFFFFF then none else some (BitVec.ofNat 32 (s.loadLE (a + 0x1C) 4)) })

/-- The slot's state gives work of the kind, and POS is where that work begins (R88). -/
def State.workFits (s : State) (w : WorkEntry) : Bool :=
  let e := s.entry w.slot
  match w.kind with
  | .chunk => s.role.prefills && (decide (e.state = .admitted) || decide (e.state = .prefilling)) && decide (w.pos = e.prefilled)
  | _ => s.role.generates && (decide (e.state = .decoding) || decide (e.state = .speculating) || decide (e.state = .offloaded))
      && decide (w.pos = e.length)

/-- COUNT keeps the rules of the kind (R41, R88). -/
def State.countFits (s : State) (w : WorkEntry) : Bool :=
  let e := s.entry w.slot
  match w.kind with
  | .decode => decide (w.count = 1)
  | .chunk => decide (1 ≤ w.count) && decide (w.count ≤ e.promptLen - e.prefilled)
      && (s.selfReceiver w.slot || decide (w.pos + w.count = e.promptLen) || decide ((w.pos + w.count) % 64 = 0))
  | .tree =>
    match w.tree with
    | none => false
    | some h => decide (e.specTree = some h) && s.treeValid w.slot (s.tree h.toNat) && decide (w.count = (s.tree h.toNat).nodes.length)
        && decide (w.pos + w.count ≤ e.limit)

/-- Checks one entry of a host-written list (R88): `code` is its kind's code, `off` the offset that R78 gives it. -/
def State.hostEntry (s : State) (code : Nat) (w : WorkEntry) (off : Nat) (seen : List Nat) : State × WorkEntry :=
  let drop : WorkEntry := { w with dropped := true }
  let e := s.entry w.slot
  if code = 0 ∨ 3 < code ∨ seen.contains w.slot ∨ s.herdSize ≤ w.slot ∨ !s.workFits w ∨ e.rangePending ∨ s.recoveryHolds w.slot ∨ w.tokenOffset ≠ off then (s, drop)
  else if w.kind ≠ .tree ∧ e.limit < w.pos + w.count then (s.failEntry w.slot stLEN_LIMIT w.pos, drop)
  else if !s.countFits w then (s, drop)
  else if !(s.plan e.model).loaded then (s.bindFail w.slot, drop)
  else match s.reserve w.slot w.pos (w.pos + w.count - 1) with
  | none => (s.lacksPages w.slot w.pos (w.pos + w.count - 1), drop)
  | some s' =>
    let r := s.routed w.slot w.count
    (s', { s'.workFor w.slot w.kind w.pos w.count with
      eland := w.eland || decide (w.kind = .chunk) || decide (r = some false), tokenOffset := w.tokenOffset, tree := if w.kind = .tree then w.tree else none
      pages := s'.addedPages s w.slot w.pos (w.pos + w.count - 1) })

/-- Checks every entry in list order. -/
def State.hostEntries (s : State) (a : Nat) : Nat → Nat → List Nat → State × List WorkEntry
  | 0, _, _ => (s, [])
  | k + 1, off, seen =>
    let (code, w) := s.readWork a
    let (s, w) := s.hostEntry code w off seen
    let (s, ws) := s.hostEntries (a + 32) k (off + w.count) (w.slot :: seen)
    (s, w :: ws)

/-- Sum of COUNT over the entries of a list as written. -/
def State.listTokens (s : State) (a : Nat) : Nat → Nat
  | 0 => 0
  | k + 1 => s.loadLE (a + 12) 4 + s.listTokens (a + 32) k

/-- The whole list is refused (R88); so is one whose STEP_SUBMIT names another step than the next, as the header's STEP is
(DESIGN CHOICE, log entry 77). -/
def State.listRefused (s : State) (a step count : Nat) : Bool :=
  let n := s.loadLE (a + 4) 4
  decide (s.loadLE a 1 ≠ 1) || decide (s.loadLE (a + 8) 8 ≠ s.herd.stepNum + 1) || decide (step ≠ s.herd.stepNum + 1) || decide (65536 < n)
    || decide (n ≠ count) || decide (s.loadLE (a + 0x10) 4 ≠ s.listTokens (a + 64) n) || decide (s.rdN Reg.HERD_STEP_CAP < s.listTokens (a + 64) n)

/-- A list that STEP_SUBMIT has offered is checked and run (R88). Where no map gives the lists a region it is MALFORMED, and an
empty list completes OK with no step (DESIGN CHOICE, log entry 77). A host-written list leaves no entry out, so HERD_DEFERRED
of its step is 0. -/
def State.hostStep (s : State) (x : Nat × Nat × Nat × Nat) : State :=
  let ref : CmdRef := (x.1, x.2.1)
  match s.listAt with
  | none => s.complete ref stMALFORMED
  | some a =>
    if s.listRefused a x.2.2.1 x.2.2.2 then s.complete ref stMALFORMED
    else
      let (s, ws) := s.hostEntries (a + 64) x.2.2.2 0 []
      let n := ws.countP fun w => w.dropped
      if ws.all fun w => w.dropped then s.complete ref (if n = 0 then stOK else stPARTIAL) (BitVec.ofNat 64 n)
      else (s.wr Reg.HERD_DEFERRED 0).startStep .hostAssist ws (some ref)

/-- Some entry could receive work (R73, R89). -/
def State.hasWork (s : State) : Bool := (s.herd.entries.map Prod.fst).any fun n => s.genOk n || s.promptOk n

/-! ### STEP_BOUNDARY -/

/-- The sampling state of an entry that its anchor supplies (R20, R113, R258): from this device's own record when it is the
anchor. -/
def State.supply (s : State) (given : List SampleSupply) (n : Nat) : State :=
  let e := s.entry n
  let own := if e.anchorDev = s.devId then s.findRequest e.requestId else none
  match own, given.find? fun x => decide (x.slot = n) with
  | some i, _ =>
    let r := s.recordAt i
    s.setEntry n { e with
      recent := ((r.tokens.take (e.length + 1)).reverse).take 256, heldTokens := r.tokens.drop (e.length + 1)
      sampling := { e.sampling with sampled := r.sampling.sampled } }
  | none, some x =>
    s.setEntry n { e with recent := x.recent.take 256, heldTokens := x.held, sampling := { e.sampling with sampled := x.sampled } }
  | none, none => s

/-- Entries for which sampling state arrives. -/
def State.supplyAll (s : State) (given : List SampleSupply) : State :=
  (s.slotsIn fun e => decide (e.state = .decoding) || decide (e.state = .speculating) || decide (e.state = .offloaded)).foldl
    (fun s n => s.supply given n) s

/-- The device may build: RUN is set, and PAUSE is clear or one step is allowed (R91). -/
def State.mayBuild (s : State) : Bool :=
  s.flag Reg.HERD_STEP_CTRL 0 && (!s.flag Reg.HERD_STEP_CTRL 1 || s.herd.single)

/-- Records the time a build took (R74, R91). -/
def State.buildTook (s : State) (ns : Nat) : State :=
  let s := s.wr Reg.HERD_BUILD_TIME (BitVec.ofNat 32 (min ns (2 ^ 32 - 1)))
  let s := if s.rdN Reg.HERD_BUILD_MAX < ns then s.wr Reg.HERD_BUILD_MAX (BitVec.ofNat 32 (min ns (2 ^ 32 - 1))) else s
  if s.fnMode 0 = .hw ∧ 2000 < ns then s.setFlag Reg.HERD_STEP_STATUS 3 true else s

/-- A build in HW or FIRMWARE mode, and the step that follows when an entry received work (R73, R84). -/
def State.build (s : State) (ns : Nat) : State :=
  let s := s.buildTook ns
  let (s, ws, deferred) := s.buildList
  if ws.isEmpty then s else (s.wr Reg.HERD_DEFERRED (BitVec.ofNat 32 deferred)).startStep (s.fnMode 0) ws none

/-- In HOST_ASSIST mode the list offered first is taken; without one, and with work, a list is awaited (R89). -/
def State.assistedBuild (s : State) : State :=
  match s.herd.submits with
  | x :: xs => ({ s with herd := { s.herd with submits := xs } }).hostStep x
  | [] => if s.hasWork then { s with herd := { s.herd with waitHost := true } } else s

/-- STEP_BOUNDARY (R73-R89): a step boundary with a build. `buildNs` is the time the build takes, and `given` the sampling
state that the anchors supply for the step (R20). -/
def execStepBoundary (buildNs : Nat) (given : List SampleSupply) (s : State) : Host.Outcome State Fault Refusal :=
  .next (if !s.atBoundary then s
    else
      let s := s.boundary.supplyAll given
      if !s.mayBuild then s
      else if s.fnMode 0 = .hostAssist then s.assistedBuild
      else s.build buildNs)

/-! ### Registers of the HERD block (R91) -/

/-- STEP_RUN: RUN of HERD_STEP_CTRL. -/
def execStepRun (on : Bool) (s : State) : Host.Outcome State Fault Refusal := .next (s.setFlag Reg.HERD_STEP_CTRL 0 on)

/-- STEP_PAUSE: PAUSE of HERD_STEP_CTRL. -/
def execStepPause (on : Bool) (s : State) : Host.Outcome State Fault Refusal := .next (s.setFlag Reg.HERD_STEP_CTRL 1 on)

/-- STEP_SINGLE: while PAUSE is 1, exactly one step is built and run. -/
def execStepSingle (s : State) : Host.Outcome State Fault Refusal :=
  .next (if s.flag Reg.HERD_STEP_CTRL 1 then { s with herd := { s.herd with single := true } } else s)

/-- CLEAR_MAX: HERD_BUILD_MAX is 0. -/
def execClearMax (s : State) : Host.Outcome State Fault Refusal := .next (s.wr Reg.HERD_BUILD_MAX 0)

/-- HERD_ENTRY_SEL_WRITE (R68, R91): a snapshot of the slot's entry is taken; a slot beyond the table is out of range, and the
write is ignored with CFG_ERR. -/
def execHerdEntrySelWrite (slot : Fin 65536) (s : State) : Host.Outcome State Fault Refusal :=
  .next (if s.herdSize ≤ slot.val then s.setFlag Reg.HERD_STEP_STATUS 5 true
    else
      let s := s.wr Reg.HERD_ENTRY_SEL (BitVec.ofNat 32 slot.val)
      { s with herd := { s.herd with snap := some (s.entry slot.val) } })

/-- HERD_PEER_WEIGHT_WRITE (R83, R91): at EXPERT level sets and pins the weight of the selected peer, adding it to the table;
in a full table the write is ignored with CFG_ERR, and so it is at BASIC level, where R83 lets software set no weight (that
CFG_ERR reports it is a DESIGN CHOICE, log entry 75). -/
def execHerdPeerWeightWrite (v : U32) (s : State) : Host.Outcome State Fault Refusal :=
  .next (let d := s.field Reg.HERD_PEER_SEL 0 16
    let p := s.peer d
    if s.flag Reg.HERD_PROFILE 4 = false ∨ (!p.present ∧ 512 ≤ s.peerCount) then s.setFlag Reg.HERD_STEP_STATUS 5 true
    else s.setPeer d { p with present := true, reduce := 255 - v.toNat % 256, pinned := v.getLsbD 9 })

end Sys2Proof.Machine
end

