-- ==== Sys2Proof/Machine/StepRun.lean ====
section
/-! DEFINITION. The run of a step: the sequencer binds plan operations to the work list (R87, R112, R138, R144, R161, R162), and
the step closes (R75, R76, R88, R174-R178). -/

namespace Sys2Proof.Machine

/-! ### Binding (R87) -/

/-- Replaces the step that runs. -/
def State.modStep (s : State) (f : Step → Step) : State := { s with herd := { s.herd with step := s.herd.step.map f } }

/-- Work-list entries of a model that do work. -/
def State.boundTo (s : State) (m : BitVec 6) : List WorkEntry :=
  match s.herd.step with
  | none => []
  | some st => st.entries.filter fun w => !w.dropped && decide (w.model = m)

/-- An entry's place on the list stays, and it does no more work (R87). -/
def State.dropWork (s : State) (n : Nat) : State :=
  s.modStep fun st => { st with entries := st.entries.map fun w => if w.slot = n then { w with dropped := true } else w }

/-- An operation of a model's sequence as the sequencer takes it: the model, its place in the sequence, and what the plan
gives. -/
structure Taken where
  model : BitVec 6
  place : Nat
  op : SeqOp
  deriving DecidableEq, Repr

/-- The name of a taken operation in the step's record. -/
def Taken.key (t : Taken) : Nat × Nat := (t.model.toNat, t.place)

/-- Entries whose adapter is not resident fail (R87). -/
def State.bindAdapters (s : State) (t : Taken) : State :=
  if t.op.adapters then
    ((s.boundTo t.model).filter fun w => !(s.plan t.model).adapters.contains w.adapter.toNat).foldl
      (fun s w => (s.dropWork w.slot).bindFail w.slot) s
  else s

/-- A part of a taken operation is under way: the operation has completed once none of its parts is. -/
def State.opOpen (s : State) (k : Nat × Nat) : State := s.modStep fun st => { st with open_ := st.open_ ++ [k] }

/-- Rows of the step's token matrix. -/
def Step.tokenRows (st : Step) : Nat := (st.entries.map fun w => w.tokenOffset + w.count).foldl max 0

/-- Token rows of the step that runs. -/
def State.tokenRows (s : State) : Nat := (s.herd.step.map Step.tokenRows).getD 0

/-- Format of a layer's projected keys and values: that of its KV_PACK (R106, R161). -/
def Plan.newFmt (p : Plan) (layer : Nat) : Nat :=
  ((p.ops.find? fun o => decide (o.kind = .pack) && decide (o.layer = layer)).map fun o => o.desc.fa).getD 0

/-- The sequencer queues an Eland operation of the step over some token rows: `gather` says that operand A is the step's token
matrix, `scatter` that the output is (log entry 85). -/
def State.queueOp (s : State) (t : Taken) (d : ElandDesc) (rows : List RowSpan) (gather scatter : Bool) : State :=
  (s.opOpen t.key).elandAdd { desc := d, rows := rows, tokens := s.tokenRows, gather := gather, scatter := scatter
                              newFmt := (s.plan t.model).newFmt t.op.layer, layer := t.op.layer, seq := some t.key }

/-- Token rows of an entry. -/
def WorkEntry.span (w : WorkEntry) : RowSpan := { slot := w.slot, first := w.tokenOffset, count := w.count }

/-- Token rows of entries, in list order. -/
def workRows (ws : List WorkEntry) : List RowSpan := ws.map WorkEntry.span

/-- A matrix operation over every token row (R87): GROUPED_GEMM, whose rows are those of its group table, keeps its M. -/
def State.issueMatrix (s : State) (t : Taken) (ws : List WorkEntry) : State :=
  if t.op.desc.kind = 2 then s.queueOp t t.op.desc (workRows ws) false false
  else s.queueOp t { t.op.desc with m := BitVec.ofNat 32 (workCount ws) } (workRows ws) true true

/-- Sample rows of an entry among its token rows (R112): the one of a DECODE, the last of a CHUNK, every node of a TREE. -/
def WorkEntry.sampleSpan (w : WorkEntry) : RowSpan :=
  match w.kind with
  | .tree => w.span
  | _ => { slot := w.slot, first := w.tokenOffset + (w.count - 1), count := 1 }

/-- Sample rows of the step's entries of a model, in list order (R112). -/
def sampleSpans (ws : List WorkEntry) : List RowSpan := (ws.filter fun w => w.sample).map WorkEntry.sampleSpan

/-- The output projection is bound to the sample rows only: its row k is that of sample row k (R112). -/
def State.issueProject (s : State) (t : Taken) (ws : List WorkEntry) : State :=
  let rows := sampleSpans ws
  if rows.isEmpty then s
  else s.queueOp t { t.op.desc with m := BitVec.ofNat 32 (rows.map RowSpan.count).sum } rows true false

/-- KV_PACK over every token row, bound to the list (R106). -/
def State.issuePack (s : State) (t : Taken) (ws : List WorkEntry) : State :=
  s.queueOp t { t.op.desc with m := BitVec.ofNat 32 (workCount ws), flags := t.op.desc.flags ||| 4 } (workRows ws) true false

/-- The 32 bytes of a sampling parameter entry (R112). -/
def State.sampleParams (s : State) (n : Nat) : List Byte :=
  let p := (s.entry n).sampling
  packBytes [(4, p.temperature.toNat), (4, p.topP.toNat), (4, p.repPenalty.toNat), (2, p.topK.toNat), (2, p.flags.toNat), (8, p.seed.toNat)
    , (4, p.sampled), (4, n)]

/-- SAMPLE over the sample rows, with its parameter table; MODE 1 while trees are among them (R112, R175). -/
def State.issueSample (s : State) (t : Taken) (ws : List WorkEntry) : State :=
  let rows := sampleSlots ws
  if rows.isEmpty then s
  else
    let s := s.write t.op.desc.auxAddr.toNat (rows.flatMap fun x => s.sampleParams x.slot)
    s.queueOp t { t.op.desc with m := BitVec.ofNat 32 rows.length, mode := if ws.any fun w => decide (w.kind = .tree) then 1 else 0 }
      (sampleSpans ws) false false

/-- The plan's own draft operation attaches a tree to each entry that may speculate and has none (R70, R172): the record that
the draft wrote for the k-th entry of the list has the handle `out` + k. -/
def State.issueDraft (s : State) (t : Taken) (ws : List WorkEntry) : State :=
  (ws.zipIdx.filter fun x => decide (x.1.kind ≠ .chunk) && (s.entry x.1.slot).specAllowed && (s.entry x.1.slot).specTree.isNone
      && (decide ((s.entry x.1.slot).state = .decoding) || decide ((s.entry x.1.slot).state = .offloaded))).foldl
    (fun s x => s.attachTree x.1.slot (BitVec.ofNat 32 (t.op.out + x.2))) s

/-! ### Attention (R135, R138, R144, R161, R162) -/

/-- The 32 bytes of each entry's ragged length table entry (R161, R162): the bitmap of a BLOCK_SPARSE entry lies at the place
that the plan gives its slot. -/
def State.raggedEntries (s : State) (mask prefixLen : Nat) (sparseOff : Nat → Nat) : Nat → List WorkEntry → List Byte
  | _, [] => []
  | row, w :: ws =>
    packBytes [(4, row), (4, w.count), (4, w.pos), (4, (s.entry w.slot).rangeStart), (4, if mask = 3 then prefixLen else 0), (4, w.pageRoot.getD 0)
      , (4, if mask = 4 then sparseOff w.slot else 0xFFFFFFFF), (4, (w.tree.getD 0xFFFFFFFF).toNat)] ++ s.raggedEntries mask prefixLen sparseOff (row + w.count) ws

/-- Writes the ragged length table of the entries bound to an operation (R161). -/
def State.writeRagged (s : State) (t : Taken) (d : ElandDesc) (ws : List WorkEntry) : State :=
  let p := s.plan t.model
  let op := t.op
  let trees := if d.kind = 4 then (match s.regionOfKind 0x0C with | some r => r.start | none => 0) else 0
  s.write d.auxAddr.toNat (packBytes [(1, 1), (1, if p.rotated.contains op.layer then 2 else 0), (1, op.layer), (1, 0), (4, ws.length), (8, op.newKv.toNat)
      , (8, op.rope.toNat), (8, op.sparse.toNat), (8, trees), (8, op.kvScale.toNat), (2, p.valueWidth), (14, 0)]
    ++ s.raggedEntries p.mask p.prefixLen (fun n => op.sparseOff.get n) 0 ws)

/-- Attention of the entries that the Eland array computes (R78, R161). -/
def State.issueEland (s : State) (t : Taken) (d : ElandDesc) (ws : List WorkEntry) : State :=
  if ws.isEmpty then s
  else (s.writeRagged t d ws).queueOp t { d with m := BitVec.ofNat 32 (workCount ws), flags := d.flags ||| 4 } (workRows ws) true true

/-- A layer's attention of an entry as the plan gives it (R139, R154-R158). -/
def State.planShape (s : State) (t : Taken) (w : WorkEntry) : AttnShape :=
  let p := s.plan t.model
  let op := t.op
  { heads := p.heads, queryHeads := p.queryHeads, width := p.width, latent := decide (p.valueWidth ≠ 0), valueWidth := p.valueWidth, mask := p.mask
    window := p.window, sinks := p.sinks, prefixLen := p.prefixLen, kvStart := (s.entry w.slot).rangeStart
    sparseAt := if p.mask = 4 then some (op.sparse.toNat + 8 * op.sparseOff.get w.slot) else none
    scale := p.scale, rotated := p.rotated.contains op.layer, rope := op.rope.toNat, kvScale := op.kvScale.toNat, newKv := op.newKv.toNat
    newFmt := p.newFmt op.layer }

/-- The query rows of an entry, prepared by steps 1 and 2 of R139: by query row × G + query head (R155). -/
def State.planQueries (s : State) (t : Taken) (c : AttnShape) (w : WorkEntry) (positions : List Nat) : List (List (BitVec 16)) :=
  let d := t.op.desc
  (List.range (positions.length * c.queryHeads)).map fun x =>
    let i := (w.tokenOffset * c.queryHeads + x) * c.dq
    s.prepare c s.fresh (1024 * x) (positions.getD (x / max 1 c.queryHeads) 0) (s.rowValues d.fa d.aAddr.toNat (s.tokenRows * c.queryHeads * c.dq) i c.dq)

/-- The home reducer's own partial rows: the positions that the step writes, from its projected keys and values, under the tree
mask for a TREE (R141). -/
def State.stepPart (s : State) (c : AttnShape) (w : WorkEntry) (positions : List Nat) (queries : List (List (BitVec 16))) : List (Nat × PRow) :=
  let nodes := match w.kind, w.tree with
    | .tree, some h => some (s.tree h.toNat).nodes
    | _, _ => none
  (List.range queries.length).map fun x =>
    let new := s.newItems c nodes s.fresh (2 ^ 41 * (x + 1)) w.tokenOffset positions (x / max 1 c.queryHeads) (x % max 1 c.queryHeads) (ofBf16 (queries.getD x []))
    (x, softRow .reducer s.fresh (2 ^ 42 * (x + 1)) c.dv new.1 new.2)

/-- What the reducers of an entry and layer await (R138, R141, R143, R144): lane units by quadrant, or the Eland array's part, and
the partials of the lower ranges, whose holders are queried. -/
def State.startReduction (s : State) (t : Taken) (number : Nat) (w : WorkEntry) : State :=
  let e := s.entry w.slot
  let c := s.planShape t w
  let positions := s.queryPositions w
  let queries := s.planQueries t c w positions
  let x := (s.opOpen t.key).addReduction
    { active := true, slot := w.slot, layer := t.op.layer, shape := c, positions := positions, queries := queries, eland := w.eland
      peers := e.lowerPeers, parts := if w.eland then [] else s.stepPart c w positions queries, first := w.tokenOffset, desc := t.op.desc
      seq := t.key, range := (e.rangeStart, w.pos) }
  let k := x.2
  let s := if w.eland then x.1.drawn else (x.1.drawn.startUnits k false).readyAt k
  e.lowerPeers.foldl (fun s d => s.sendQuery number w k d) s

/-- Bytes of a tile position of a plan's layers. -/
def Plan.tpBytes (p : Plan) : Nat := tilesAt p.heads (slicesOf p.width) * tileSize p.format.toNat

/-- Where the tiles of `n` tile positions may be staged: in the area's share of the layer, after those already staged there. The
shares, one for each layer that may be staged at once, are the model's (log entry 89). -/
def State.stageRoom (s : State) (st : Step) (p : Plan) (quad layer depth n : Nat) : Option Nat :=
  let area := p.staging.get quad
  let share := area.2 / (depth + 1) / 256 * 256
  let used := ((st.staged.filter fun x => decide (x.layer = layer) && decide (x.quad = quad)).map fun x => x.count * p.tpBytes).sum
  if used + n * p.tpBytes ≤ share then some (area.1 + share * (layer % (depth + 1)) + used) else none

/-- The PREFETCH of an Eland-routed entry (R228): the full tile positions of layer LAYER + DEPTH that it holds, into the staging area
of the quadrant whose stacks hold most of them (R94). One that finds no room is not issued. -/
def State.prefetchEntry (s : State) (t : Taken) (w : WorkEntry) : State :=
  match s.herd.step with
  | none => s
  | some st =>
    let p := s.plan t.model
    let root := w.pageRoot.getD 0
    let depth := s.rdN Reg.IBEX_PREFETCH_DEPTH
    let layer := t.op.layer + depth
    let first := (s.entry w.slot).rangeStart / 64
    let n := min (w.pos / 64 - first) (4096 / max 1 (s.root root).ppt)
    let quad := mostOf ((List.range n).flatMap fun i => (s.tpPages root layer (first + i)).map fun g => s.quadOf (s.pageAddr g))
    match s.stageRoom st p quad layer depth n, decide (0 < n) with
    | some a, true =>
      let tag := BitVec.ofNat 32 (st.number % 65536 * 65536 + st.staged.length)
      let x : Staged := { root := root, layer := layer, quad := quad, at_ := a, first := first, count := n, tag := tag }
      (s.modStep fun st => { st with staged := st.staged ++ [x] }).enqueue 1
        { op := 10, partition := BitVec.ofNat 8 p.partition.val, srcFmt := p.format.zeroExtend 8, dstFmt := p.format.zeroExtend 8, layer := BitVec.ofNat 8 t.op.layer
          depth := BitVec.ofNat 8 depth, count := BitVec.ofNat 32 (n * (s.root root).ppt), src := BitVec.ofNat 64 root, dst := BitVec.ofNat 64 a
          firstTp := BitVec.ofNat 32 first, tag := tag }
    | _, _ => s

/-- Attention of a layer: chunks and Eland-routed entries on the Eland array, those with trees under ATTN_TREE, the others on
the lanes (R78, R135, R136, R144). The DECODE and TREE entries of the array have tiles prefetched (R228). -/
def State.issueAttention (s : State) (t : Taken) (number : Nat) (ws : List WorkEntry) : State :=
  let plain := ws.filter fun w => w.eland && decide (w.kind ≠ .tree)
  let trees := ws.filter fun w => w.eland && decide (w.kind = .tree)
  let merged := ws.filter fun w => decide (w.kind ≠ .chunk) && (!w.eland || w.lower)
  let s := merged.foldl (fun s w => s.startReduction t number w) s
  let s := (s.issueEland t t.op.desc plain).issueEland t t.op.treeDesc trees
  (ws.filter fun w => w.eland && decide (w.kind ≠ .chunk)).foldl (fun s w => s.prefetchEntry t w) s

/-- The next operation of a model's sequence may be queued (R87): those that it needs have completed, and the reductions of a
KV_PACK's layer have ended (R141). -/
def State.mayTake (s : State) (st : Step) (t : Taken) : Bool :=
  (t.op.needs.all fun i => decide (i < t.place) && !st.open_.contains (t.model.toNat, i))
    && (decide (t.op.kind ≠ .pack) || !s.spring.reductions.any fun x =>
        x.2.active && x.2.asker.isNone && decide (x.2.layer = t.op.layer) && decide (x.2.seq.1 = t.model.toNat))

/-- The sequencer takes an operation: it binds it to the list's entries and queues it (R87). -/
def State.issueOp (s : State) (number : Nat) (t : Taken) : State :=
  let s := (s.modStep fun st => { st with taken := st.taken.set t.model.toNat (t.place + 1) }).bindAdapters t
  let ws := s.boundTo t.model
  if ws.isEmpty then s
  else match t.op.kind with
  | .matrix => s.issueMatrix t ws
  | .project => s.issueProject t ws
  | .pack => s.issuePack t ws
  | .attention => s.issueAttention t number ws
  | .sample => s.issueSample t ws
  | .draft => s.issueDraft t ws

/-- SEQUENCER_ISSUE_OP (R87): the sequencer takes the next operation of a model's sequence, once the plan's dependencies let it. -/
def execSequencerIssueOp (model : Fin 64) (s : State) : Host.Outcome State Fault Refusal :=
  .next (match s.herd.step, s.alive with
    | some st, true =>
      let place := st.taken.get model.val
      let m := BitVec.ofNat 6 model.val
      match (s.plan m).ops[place]? with
      | some op =>
        let t : Taken := { model := m, place := place, op := op }
        if s.mayTake st t then s.issueOp st.number t else s
      | none => s
    | _, _ => s)

/-! ### Acceptance of trees (R175-R178) -/

/-- The token drawn at a node. -/
def drawAt (rows : List SampleRow) (node : Nat) : U32 :=
  match rows.find? fun r => decide (r.node = node) with
  | some r => r.token
  | none => 0

/-- The lowest-numbered child of a node that carries a token (R175). -/
def childWith (nodes : List TreeNode) (cur : Nat) (token : U32) : Option Nat :=
  (List.range nodes.length).find? fun n => match nodes[n]? with
    | some x => decide (n ≠ 0) && decide (x.parent = cur) && x.token == token
    | none => false

/-- Follows the draws from a node (R175); `fuel` is how many nodes the path may still take. -/
def followDraws (nodes : List TreeNode) (draw : Nat → U32) : Nat → Nat → List Nat
  | 0, _ => []
  | fuel + 1, cur =>
    match childWith nodes cur (draw cur) with
    | none => []
    | some c => c :: followDraws nodes draw fuel c

/-- The accepted path (R175): `most` is min(LEVELS, A). -/
def acceptPath (t : Tree) (draw : Nat → U32) (most : Nat) : List Nat := 0 :: followDraws t.nodes draw (most - 1) 0

/-- A path that R176 admits. -/
def pathOk (t : Tree) (most : Nat) (path : List Nat) : Bool :=
  decide (1 ≤ path.length ∧ path.length ≤ most) && decide (path.head? = some 0)
    && (path.zip (path.drop 1)).all fun x => match t.nodes[x.2]? with
      | some n => decide (n.parent = x.1) && decide (x.2 ≠ 0)
      | none => false

/-- Moves the packed row of a tile to another place, with its poison (R177). -/
def State.moveRow (s : State) (f src dst row row' : Nat) : State :=
  ((rowParts f row).zip (rowParts f row')).foldl (fun s x =>
    s.writeP (dst + x.2.1) (s.bytes (src + x.1.1) x.1.2) (s.poisoned (src + x.1.1) x.1.2)) s

/-- COMPACT moves the rows of one position to another, in every tile of some layers (R177). -/
def State.movePosition (s : State) (root : Nat) (layers : List Nat) (src dst : Nat) : State :=
  let f := (s.root root).format.toNat
  if src = dst then s
  else layers.foldl (fun s l =>
    ((s.tpPages root l (src / 64)).zip (s.tpPages root l (dst / 64))).foldl (fun s x =>
      (List.range (s.page x.1).tileCount).foldl (fun s i => s.moveRow f (s.tileAddr x.1 i) (s.tileAddr x.2 i) (src % 64) (dst % 64)) s) s) s

/-- COMPACT zeroes the rows of a position (R177). -/
def State.zeroPosition (s : State) (root : Nat) (layers : List Nat) (pos : Nat) : State :=
  let f := (s.root root).format.toNat
  layers.foldl (fun s l =>
    (s.tpPages root l (pos / 64)).foldl (fun s p =>
      (List.range (s.page p).tileCount).foldl (fun s i => (rowParts f (pos % 64)).foldl (fun s x => s.write (s.tileAddr p i + x.1) (List.replicate x.2 0)) s) s) s) s

/-- COMPACT seals the tile positions that it leaves full, and unseals the others that it has touched (R47, R177). -/
def State.sealTps (s : State) (root : Nat) (layers : List Nat) (first last length : Nat) : State :=
  (List.range (last / 64 + 1 - first / 64)).foldl (fun s k =>
    let tp := first / 64 + k
    layers.foldl (fun s l =>
      (s.tpPages root l tp).foldl (fun s p => (List.range (s.page p).tileCount).foldl (fun s i =>
        if 64 * (tp + 1) ≤ length then s.sealSlot p i else s.unseal p i) s) s) s) s

/-- COMPACT of an accepted path in some layers (R177): `path` are node indices, `nodes` how many rows the tree took from
`base` on. -/
def State.compactRows (s : State) (root : Nat) (layers : List Nat) (base nodes : Nat) (path : List Nat) : State :=
  let s := (path.zipIdx.drop 1).foldl (fun s x => s.movePosition root layers (base + x.1) (base + x.2)) s
  let s := (List.range (nodes - path.length)).foldl (fun s k => s.zeroPosition root layers (base + path.length + k)) s
  s.sealTps root layers base (base + nodes - 1) (base + path.length)

/-- COMPACT at a step's close: every layer of the sequence, after which the pages beyond the accepted path are free (R75,
R177). -/
def State.compactPath (s : State) (n base nodes : Nat) (path : List Nat) : State :=
  let root := (s.entry n).pageRoot.getD 0
  let s := s.compactRows root (List.range (s.root root).layers) base nodes path
  let s := s.setRoot root { s.root root with filled := base + path.length }
  s.letGo (((s.root root).lists.flatMap fun x => x.2).filter fun p => decide (base + path.length ≤ 64 * (s.page p).tilePos))

/-- Writes the acceptance to a tree record (R172, R175). -/
def State.writeDecided (s : State) (h : Nat) (path : List Nat) (bonus : U32) : State :=
  match s.treeAddr h with
  | none => s
  | some a =>
    let s := (s.write (a + 3) [2]).write (a + 0x20) [BitVec.ofNat 8 path.length]
    let s := s.write (a + 0x24) (leBytes 4 bonus.toNat)
    s.write (a + 0x28) ((path.map fun n => BitVec.ofNat 8 n) ++ List.replicate (16 - path.length) 0)

/-- Writes DRAW[] (R172, R175). -/
def State.writeDraws (s : State) (h : Nat) (rows : List SampleRow) : State :=
  match s.treeAddr h with
  | none => s
  | some a => rows.foldl (fun s r => s.write (a + 0x240 + 4 * r.node) (leBytes 4 r.token.toNat)) s

/-- A = LIMIT − LENGTH − 1, and with LEVELS the most nodes that a path may have (R175). -/
def State.pathMost (s : State) (n : Nat) (t : Tree) : Nat :=
  let e := s.entry n
  min t.levels (e.limit - e.length - 1)

/-! ### The close (R75, R76) -/

/-- The entry is the one that the list was built for, in a state in which its work counts. -/
def State.workLives (s : State) (w : WorkEntry) : Bool :=
  let e := s.entry w.slot
  e.requestId == w.requestId && match w.kind, e.state with
    | .chunk, .prefilling | .chunk, .preempted => true
    | .chunk, _ => false
    | _, .decoding | _, .speculating | _, .offloaded | _, .preempted => true
    | _, _ => false

/-- Sample rows of an entry. -/
def Step.rowsOf (st : Step) (n : Nat) : List SampleRow := st.samples.filter fun r => decide (r.slot = n)

/-- An entry has poisoned inputs, or a sample row without a token (R76, R113). -/
def Step.failedWork (st : Step) (w : WorkEntry) : Bool :=
  w.poisoned || (w.sample && ((st.rowsOf w.slot).isEmpty || (st.rowsOf w.slot).any fun r => r.status != stOK))

/-- An entry with poisoned inputs (R76): no token, no advance; its reserved pages are released, and after
HERD_POISON_RETRY such steps it fails (R41, R70). -/
def State.closePoisoned (s : State) (w : WorkEntry) : State :=
  let s := s.tally w.tenant.toNat fun u => { u with poisonRows := u.poisonRows + w.count }
  let s := s.letGo w.pages
  let e := s.entry w.slot
  let run := min 65535 (e.poisonRun + 1)
  let s := s.setEntry w.slot { e with poisonRun := run }
  if s.rdN Reg.HERD_POISON_RETRY ≤ run then s.failEntry w.slot stPOISON e.length else s

/-- A token goes to the request's anchor (R21, R75): generated token `k`. -/
def State.emitToken (s : State) (n k : Nat) (token : U32) : State :=
  let e := s.entry n
  let s := s.obsCount 3 1
  if e.anchorDev = s.devId then
    match s.findRequest e.requestId with
    | some i => s.tokenIn i k token
    | none => s
  else { s with herd := { s.herd with tokensOut := { anchor := e.anchorDev, requestId := e.requestId, index := k, token := token } :: s.herd.tokensOut } }

/-- Tokens from generated index `k` on. -/
def State.emitTokens (s : State) (n : Nat) : Nat → List U32 → State
  | _, [] => s
  | k, t :: ts => (s.emitToken n k t).emitTokens n (k + 1) ts

/-- A generation entry's length and sampling state advance by the tokens it took (R75, R113, R258): those that the anchor
held do not advance SAMPLED. -/
def State.advanceGen (s : State) (w : WorkEntry) (tokens : List U32) (held : Nat) : State :=
  let e := s.entry w.slot
  let s := s.tally w.tenant.toNat fun u => { u with genRows := u.genRows + w.count }
  let s := s.setEntry w.slot { e with
    length := e.length + tokens.length, poisonRun := 0, recent := (tokens.reverse ++ e.recent).take 256
    heldTokens := e.heldTokens.drop held, sampling := { e.sampling with sampled := e.sampling.sampled + (tokens.length - held) } }
  s.obsCount 1 w.count

/-- The prompt's last chunk has closed (R17, R70): the sequence is handed off, or goes on here. -/
def State.promptDone (s : State) (n : Nat) (first : U32) : State :=
  let e := s.entry n
  if e.state ≠ .prefilling ∨ e.prefilled < e.promptLen then s
  else if s.selfReceiver n then
    (s.setEntry n { e with promptLen := e.recordP, peerDev := none, handoffId := 0, recent := (first :: e.promptTokens.reverse).take 256 }).toState n .decoding
  else
    let s := s.toState n .handoffOut
    match s.holding n with
    | some id => s.checkSent id
    | none => s

/-- An entry of the list at the close, its inputs sound (R75): `draw` is the token of its sample row. -/
def State.closeWork (s : State) (st : Step) (w : WorkEntry) : State :=
  let e := s.entry w.slot
  let rows := st.rowsOf w.slot
  let token := drawAt rows 0
  let k := w.pos + w.count + 1 - e.recordP
  match w.kind with
  | .decode => (s.advanceGen w [token] (min 1 e.heldTokens.length)).emitToken w.slot k token
  | .chunk =>
    let s := s.tally w.tenant.toNat fun u => { u with promptRows := u.promptRows + w.count }
    let e := s.entry w.slot
    let s := s.setEntry w.slot { e with
      length := e.length + w.count, prefilled := e.prefilled + w.count, poisonRun := 0
      sampling := { e.sampling with sampled := e.sampling.sampled + (if w.sample then 1 else 0) } }
    let s := s.obsCount 2 w.count
    if w.sample then (s.emitToken w.slot k token).promptDone w.slot token else s
  | .tree =>
    let h := (w.tree.getD 0).toNat
    let t := s.tree h
    let draw := drawAt rows
    let (path, bonus) := match st.paths.find? fun x => decide (x.1 = w.slot) with
      | some x => x.2
      | none => let p := acceptPath t draw (s.pathMost w.slot t)
                (p, draw (p.getLastD 0))
    let tokens := (path.drop 1).map (fun i => (t.nodes.getD i {}).token) ++ [bonus]
    let s := ((s.writeDraws h rows).writeDecided h path bonus).compactPath w.slot e.length w.count path
    let s := s.advanceGen w tokens 0
    let e := s.entry w.slot
    let s := s.setEntry w.slot { e with specTree := none }
    let s := if e.state = .speculating then s.toState w.slot .decoding else s
    s.emitTokens w.slot (w.pos + 2 - e.recordP) tokens

/-- An entry of the list at the close. -/
def State.closeEntry (s : State) (st : Step) (w : WorkEntry) : State :=
  if w.dropped || !s.workLives w then s else if st.failedWork w then s.closePoisoned w else s.closeWork st w

/-- Trees of a step whose acceptance the assisting host decides (R176). -/
def State.hostTrees (s : State) (st : Step) : List WorkEntry :=
  if s.fnMode 4 = .hostAssist then
    st.entries.filter fun w => !w.dropped && decide (w.kind = .tree) && s.workLives w && !st.failedWork w
  else []

/-- The draws are written, and the host is asked for a tree's path (R176). -/
def State.askPath (s : State) (st : Step) (w : WorkEntry) : State :=
  let h := (w.tree.getD 0).toNat
  let s := s.writeDraws h (st.rowsOf w.slot)
  s.askHost 4 { herdSlot := w.slot, item := h, requestId := w.requestId
                question := match s.treeAddr h with
                  | some a => s.bytes a 1024
                  | none => [] }

/-- Every transfer of the step has committed at its completion slot: its peer partials, and its PREFETCH descriptors (R87). -/
def State.stepTransfers (s : State) (st : Step) : Bool :=
  let mine (d : IbexDesc) : Bool := st.staged.any fun x => decide (x.tag = d.tag)
  !(s.ibex.slots.anyWhere fun _ x => decide (x.state = .waiting) &&
      ((decide (x.awaits = .peerPartial) && decide (x.step = st.number)) || (decide (x.awaits = .descriptor) && decide (x.queue = 1) && mine x.desc)))
    && !((s.queue 1).waiting ++ (s.queue 1).held).any mine

/-- Every operation of every model's sequence, every sample and every transfer of the step has completed (R87). -/
def State.stepRan (s : State) (st : Step) : Bool :=
  ((st.entries.filter fun w => !w.dropped).all fun w => decide ((s.plan w.model).ops.length ≤ st.taken.get w.model.toNat))
    && st.open_.isEmpty && !(s.spring.reductions.any fun x => x.2.active && x.2.asker.isNone) && (st.samples.all fun r => r.known)
    && s.stepTransfers st

/-- The token-budget invariant at a step's close (R395, R396): the charges equal the list's TOKENS, and in HW and FIRMWARE
building none went to a tenant that had no balance at the build. The charges stand. -/
def State.auditCharges (s : State) (st : Step) : State :=
  if st.charged = st.tokens ∧ st.overdrawn = 0 then s else s.imbalance 4 .deferred st.charged (st.tokens - st.overdrawn)

/-- The step closes (R75): accounting, the trace record, and the host's command. -/
def State.finishStep (s : State) (st : Step) : State :=
  let s := s.auditCharges st
  let time := s.now - st.buildTide
  let s := ((s.obsCount 0 1).obsCount 6 time).closeInterval
  let s := s.offer 1 [(4, st.number), (4, min time (2 ^ 32 - 1)), (4, min st.maxWait (2 ^ 32 - 1)), (2, st.lastPeer.toNat), (1, st.lastLayer), (1, 0)]
  let s := s.wr Reg.HERD_LAST_ENTRIES (BitVec.ofNat 32 st.entries.length)
  let s := s.wr Reg.HERD_LAST_TOKENS (BitVec.ofNat 32 (workCount st.entries))
  let s := { s with herd := { s.herd with step := none, stepNum := st.number } }
  s.completeOpt st.submit (if st.droppedCount = 0 then stOK else stPARTIAL) (BitVec.ofNat 64 st.droppedCount)

/-- STEP_CLOSE (R75, R87): every operation of the step has completed. With host acceptance, the paths are asked for first, and
the step closes once they are all there (R176). -/
def execStepClose (s : State) : Host.Outcome State Fault Refusal :=
  .next (match s.herd.step, s.alive with
    | some st, true =>
      if !s.stepRan st then s
      else
        let ts := s.hostTrees st
        if !ts.isEmpty && !st.pathsAsked then ts.foldl (fun s w => s.askPath st w) (s.modStep fun st => { st with pathsAsked := true })
        else if !(ts.all fun w => st.paths.any fun x => decide (x.1 = w.slot)) then s
        else (st.entries.foldl (fun s w => s.closeEntry st w) s).finishStep st
    | _, _ => s)

end Sys2Proof.Machine
end

