-- ==== Sys2Proof/Machine/Messages.lean ====
section
/-! DEFINITION. The arrival of protocol messages (R16, R144, R234-R237, R263-R265, R558): the checks of every message, the rules
of the pool map's epoch, and what each kind does. -/

namespace Sys2Proof.Machine

/-! ### Refusals (R234, R264, R265) -/

/-- A message is refused with a status: a QUERY by its PARTIAL, any other by REPLY where it names a slot; a REPLY or PARTIAL is
only dropped. -/
def State.refuseMsg (s : State) (m : Msg) (st : Byte) : State :=
  if m.kind = mREPLY ∨ m.kind = mPARTIAL then s
  else match m.query with
  | some q => s.sendPartial m.src m.slot m.requestId st 
      { step := q.step, layer := q.layer, width := if q.valueWidth = 0 then q.k else q.valueWidth, rows := q.rows * q.g, fp32 := m.flags.getLsbD 0 }
  | none => s.reply m st

/-- A malformed message (R234): a REPLY and a PARTIAL name the receiver's own slot, so they are dropped and counted. -/
def State.malformedAny (s : State) (m : Msg) : State :=
  if m.kind = mREPLY ∨ m.kind = mPARTIAL then s.setFlag Reg.HANDOFF_STATUS 3 true else s.malformedMsg m

/-- The format level, the destination and the layout of a message are right (R234, R235). -/
def State.msgOk (s : State) (m : Msg) : Bool := readable m.level.toNat && m.formed && m.dst == s.devId

/-- Kinds of message for a state that the device must hold (R264); the others name new work, the anchor's record, a slot, or a
transfer's outcome. -/
def needsState (m : Msg) : Bool :=
  [mQUERY, mCREDIT_REQ, mGRANT, mREFS, mSENT, mEND, mREPLICA_REQ, mPROMPT_TOKENS].contains m.kind
    || (decide (m.kind = mOPEN) && decide (TransferKind.ofCode (fieldOf m.arg0 7 0) = some .restore))

/-- The device that a request's state was transferred to, while the transfer's outcome is kept (R243, R264). -/
def State.movedTo (s : State) (req : U64) : Option U16 :=
  (s.handoff.outcomes.find? fun x => x.2.kept && x.2.committed && x.2.requestId == req && decide (s.now < x.2.tide + s.grace)).map fun x => x.2.peer

/-! ### Kinds (R236) -/

/-- A REPLY that refuses a QUERY stands for its PARTIAL with poisoned rows (R144). -/
def State.onAnyReply (s : State) (m : Msg) : State :=
  match s.waitingAt m.slot with
  | some n =>
    let x := s.slot n
    if x.awaits = .peerPartial ∧ x.peer = m.src ∧ m.status ≠ stOK then (s.endSlot n).peerArrived x [] true false else s.onReply m
  | none => s.onReply m

/-- What a message does, by its kind (R236). KEEPALIVE only shows that the holder is there (R245). -/
def State.handle (s : State) (m : Msg) : State :=
  if m.kind = mQUERY then s.onQuery m
  else if m.kind = mPARTIAL then s.onPartial m
  else if m.kind = mADMIT then s.onAdmit m
  else if m.kind = mPROMPT_TOKENS then s.onPromptTokens m
  else if m.kind = mOPEN then s.onOpen m
  else if m.kind = mCREDIT_REQ then s.onCreditReq m
  else if m.kind = mGRANT then s.onGrant m
  else if m.kind = mREFS then s.onRefs m
  else if m.kind = mSENT then s.onSent m
  else if m.kind = mCOMMIT then s.onCommit m
  else if m.kind = mREPLY then s.onAnyReply m
  else if m.kind = mABORT then s.onAbort m
  else if m.kind = mREGISTER then s.anchorRegister m
  else if m.kind = mREDIRECT then s.anchorRedirect m
  else if m.kind = mEND then s.onEnd m
  else if m.kind = mRELEASED then s.anchorReleased m
  else if m.kind = mRESTORE_REQ then s.onRestoreReq m
  else if m.kind = mREPLICA_REQ then s.onReplicaReq m
  else if m.kind = mCOVERED then s.anchorCovered m
  else s

/-- A message of an older epoch (R264): accepted within the grace window, or forwarded where the state has gone; refused
otherwise. -/
def State.handleOld (s : State) (m : Msg) : State :=
  let stale (s : State) := (s.bump Reg.HANDOFF_STALE 0 16 1).refuseMsg m stSTALE_MAP
  if s.handoff.mapTide + s.grace ≤ s.now then stale s
  else if needsState m && (s.herdOf m.requestId).isNone then
    match s.movedTo m.requestId with
    | some d => ({ s with handoff := { s.handoff with outbox := { m with dst := d } :: s.handoff.outbox } }).bump Reg.HANDOFF_STALE 16 16 1
    | none => stale s
  else s.handle m

/-- A message is taken (R234, R263-R265): one of a newer epoch is held until the device installs that map. -/
def State.takeMsg (s : State) (m : Msg) : State :=
  if !s.msgOk m then s.malformedAny m
  else
    let age := epochDiff m.mapEpoch s.handoff.epoch
    if 0 < age then { s with handoff := { s.handoff with heldMsgs := s.handoff.heldMsgs ++ [m] } }
    else
      let s := s.msgTrace 1 m
      if age < 0 then s.handleOld m else s.handle m

/-- A message of a kind arrives. A device without an ID takes none (R558). -/
def State.arrive (s : State) (kind : Nat) (m : Msg) : State :=
  if s.unassigned || !s.alive then s else s.takeMsg { m with kind := kind }

/-- The messages held for an epoch that is no longer newer are taken, in order (R265). -/
def State.takeHeld (s : State) : State :=
  let ms := s.handoff.heldMsgs
  ms.foldl State.takeMsg { s with handoff := { s.handoff with heldMsgs := [] } }

/-- QUERY (R252). -/
def execQuery (m : Msg) (s : State) : Host.Outcome State Fault Refusal := .next (s.arrive mQUERY m)

/-- PARTIAL (R171). -/
def execPartialMsg (m : Msg) (s : State) : Host.Outcome State Fault Refusal := .next (s.arrive mPARTIAL m)

/-- ADMIT (R565). -/
def execAdmitMessage (m : Msg) (s : State) : Host.Outcome State Fault Refusal := .next (s.arrive mADMIT m)

/-- PROMPT_TOKENS (R565). -/
def execPromptTokens (m : Msg) (s : State) : Host.Outcome State Fault Refusal := .next (s.arrive mPROMPT_TOKENS m)

/-- OPEN (R237). -/
def execOpenMsg (m : Msg) (s : State) : Host.Outcome State Fault Refusal := .next (s.arrive mOPEN m)

/-- CREDIT_REQ (R238). -/
def execCreditReq (m : Msg) (s : State) : Host.Outcome State Fault Refusal := .next (s.arrive mCREDIT_REQ m)

/-- GRANT (R238). -/
def execGrant (m : Msg) (s : State) : Host.Outcome State Fault Refusal := .next (s.arrive mGRANT m)

/-- REFS (R241). -/
def execRefs (m : Msg) (s : State) : Host.Outcome State Fault Refusal := .next (s.arrive mREFS m)

/-- SENT (R242). -/
def execSent (m : Msg) (s : State) : Host.Outcome State Fault Refusal := .next (s.arrive mSENT m)

/-- COMMIT (R243, R246). -/
def execCommit (m : Msg) (s : State) : Host.Outcome State Fault Refusal := .next (s.arrive mCOMMIT m)

/-- REPLY (R214, R236). -/
def execReply (m : Msg) (s : State) : Host.Outcome State Fault Refusal := .next (s.arrive mREPLY m)

/-- ABORT (R244-R246). -/
def execAbort (m : Msg) (s : State) : Host.Outcome State Fault Refusal := .next (s.arrive mABORT m)

/-- KEEPALIVE (R241): nothing changes but what R264 and R265 do with any message. -/
def execKeepalive (m : Msg) (s : State) : Host.Outcome State Fault Refusal := .next (s.arrive mKEEPALIVE m)

/-- REGISTER (R233). -/
def execRegister (m : Msg) (s : State) : Host.Outcome State Fault Refusal := .next (s.arrive mREGISTER m)

/-- REDIRECT (R246). -/
def execRedirect (m : Msg) (s : State) : Host.Outcome State Fault Refusal := .next (s.arrive mREDIRECT m)

/-- END (R27, R70). -/
def execEndMsg (m : Msg) (s : State) : Host.Outcome State Fault Refusal := .next (s.arrive mEND m)

/-- RELEASED (R41, R250). -/
def execReleased (m : Msg) (s : State) : Host.Outcome State Fault Refusal := .next (s.arrive mRELEASED m)

/-- RESTORE_REQ (R261). -/
def execRestoreReq (m : Msg) (s : State) : Host.Outcome State Fault Refusal := .next (s.arrive mRESTORE_REQ m)

/-- REPLICA_REQ (R255). -/
def execReplicaReq (m : Msg) (s : State) : Host.Outcome State Fault Refusal := .next (s.arrive mREPLICA_REQ m)

/-- COVERED (R255). -/
def execCovered (m : Msg) (s : State) : Host.Outcome State Fault Refusal := .next (s.arrive mCOVERED m)

end Sys2Proof.Machine
end

