-- ==== Sys2Proof/Machine/Fabric.lean ====
section
/-! DEFINITION. What the device sends to its peers: slots on Strait links (R270-R276, R288), messages on multipath connections
(R308, R310, R322-R328), and the units of remote mover operations, which take one way or the other (R223, R284). -/

namespace Sys2Proof.Machine

/-! ### Strait links -/

/-- A Strait port. -/
def State.sport (s : State) (n : Nat) : StraitPort := s.strait.ports.get n

/-- Replaces a Strait port. -/
def State.setSport (s : State) (n : Nat) (p : StraitPort) : State :=
  { s with strait := { s.strait with ports := s.strait.ports.set n p } }

/-- Virtual channels in the order of R273. -/
abbrev chReq : Nat := 0
/-- Response channel. -/
abbrev chRsp : Nat := 1
/-- Store channel. -/
abbrev chSto : Nat := 2
/-- Control channel. -/
abbrev chCtl : Nat := 3

/-- The port may send a transaction of `slots` slots on a channel: credits for all of them (R274), with one control credit
kept for LAST_GASP (R296), and room for their flits in the retry buffer (R276). -/
def StraitPort.canSend (p : StraitPort) (ch slots : Nat) (gasp : Bool) : Bool :=
  decide (slots + (if ch = chCtl ∧ gasp = false then 1 else 0) ≤ p.credits.get ch) && decide (p.buffer.length + (slots + 14) / 15 ≤ 1024)

/-- A transaction goes out in DATA flits of 15 slots. -/
def StraitPort.sendNow (p : StraitPort) (ch slots : Nat) : StraitPort :=
  let k := (slots + 14) / 15
  { p with
    sendSeq := (p.sendSeq + k) % 4096, buffer := p.buffer ++ (List.range k).map fun i => (ch, min 15 (slots - 15 * i))
    credits := p.credits.mod ch (· - slots), sentSlots := p.sentSlots.mod ch fun n => (n + slots) % 2 ^ 32 }

/-- A transaction goes out, or waits behind the others (R274). -/
def StraitPort.send (p : StraitPort) (ch slots : Nat) : StraitPort :=
  if p.backlog.isEmpty && p.state == .up && p.canSend ch slots false then p.sendNow ch slots else { p with backlog := p.backlog ++ [(ch, slots)] }

/-- Sends what waits and may go, in order within each channel; `blocked` names the channels held up (R273, R274). -/
def StraitPort.drain (blocked : List Nat) (p : StraitPort) : List (Nat × Nat) → StraitPort
  | [] => p
  | (ch, n) :: rest =>
    if !blocked.contains ch && p.canSend ch n false then StraitPort.drain blocked (p.sendNow ch n) rest
    else StraitPort.drain (ch :: blocked) { p with backlog := p.backlog ++ [(ch, n)] } rest

/-- Sends what waits on a port that is up. -/
def StraitPort.pump (p : StraitPort) : StraitPort :=
  if p.state = .up then StraitPort.drain [] { p with backlog := [] } p.backlog else p

/-- The device is in this device's domain: bits [15:9] of its ID (R223). -/
def State.sameDomain (s : State) (d : U16) : Bool := d.toNat / 512 == s.devId.toNat / 512

/-- Live mask for a peer (R270), as a list of planes in ascending order; a port that retrains counts as up. -/
def State.livePlanes (s : State) (d : U16) : List Nat :=
  (List.range 16).filter fun n =>
    let p := s.sport n
    p.allocated && (decide (p.state = .up) || decide (p.state = .retraining)) && (s.peerMap d).planes.getLsbD n

/-- A peer of the domain. -/
def State.speer (s : State) (d : U16) : StraitPeer := s.strait.peers.get d.toNat

/-- Replaces what is kept of a peer. -/
def State.setSpeer (s : State) (d : U16) (x : StraitPeer) : State :=
  { s with strait := { s.strait with peers := s.strait.peers.set d.toNat x } }

/-- The peer is marked unreachable, or its live mask is zero (R270, R295). -/
def State.unreachable (s : State) (d : U16) : Bool := (s.speer d).unreachable || (s.livePlanes d).isEmpty

/-- Records something sent on the Strait ports. -/
def State.straitOut (s : State) (o : StraitOut) : State := { s with strait := { s.strait with out := o :: s.strait.out } }

/-- Sends a transaction on a plane. -/
def State.onPlane (s : State) (n ch slots : Nat) (o : StraitOut) : State := (s.setSport n ((s.sport n).send ch slots)).straitOut o

/-- Plane of a memory request to peer `d` (R288). -/
def State.planeOf (s : State) (d : U16) (addr : U64) : Nat :=
  let ps := s.livePlanes d
  ps.getD ((d.toNat % 512 + addr.toNat % 2 ^ 44 / 4096 + 7 * (addr.toNat / 2 ^ 44 % 16)) % ps.length) 0

/-- Next plane in turn for what carries no order (R288). -/
def State.nextPlane (s : State) (d : U16) : Nat × State :=
  let ps := s.livePlanes d
  (ps.getD (s.strait.rr % ps.length) 0, { s with strait := { s.strait with rr := s.strait.rr + 1 } })

/-- Slots of a mover unit (R284). -/
def MoverUnit.slots (u : MoverUnit) : Nat := 3 + (u.data.length + 15) / 16

/-- Channel of a mover unit (R273). -/
def MoverUnit.channel (u : MoverUnit) : Nat :=
  if u.opcode = 0x41 then chReq else if u.opcode = 0x40 ∨ u.opcode = 0x42 then chSto else chRsp

/-! ### Multipath connections: the sender -/

/-- A connection. -/
def State.netConn (s : State) (n : Nat) : Conn := s.net.conns.get n

/-- Replaces a connection. -/
def State.setNetConn (s : State) (n : Nat) (c : Conn) : State := { s with net := { s.net with conns := s.net.conns.set n c } }

/-- A connection returns to FREE (R309); packets held on it are discarded. -/
def State.freeConn (s : State) (n : Nat) : State :=
  let held := ((s.netConn n).heldPkts.map fun p => p.payload.length).sum
  { s with net := { s.net with holdBytes := s.net.holdBytes - held, conns := s.net.conns.set n {} } }

/-- Records something sent on the Ethernet ports. -/
def State.netOut (s : State) (o : NetOut) : State := { s with net := { s.net with out := o :: s.net.out } }

/-- The READY connection of a class that the device's own agents use to a peer (R308). -/
def State.ownConn (s : State) (d : U16) (message : Bool) : Option Nat :=
  (s.net.conns.find? fun (_, c) => decide (c.state = .ready) && c.attr.ownAgents && c.attr.peer == d && c.attr.message == message).map Prod.fst

/-- Paths of a connection that are not avoided now (R322). -/
def State.livePaths (s : State) (c : Conn) : List Nat :=
  (List.range c.attr.paths).filter fun p => !(c.avoided.any fun a => decide (a.1 = p) && decide (s.now < a.2))

/-- The path of a packet, another than its last when it goes again (R322): which of them the spec leaves to the sender, and it
is the one at position MSN + index + retransmissions (log entry 15). -/
def State.pathFor (s : State) (c : Conn) (p : SentPacket) (again : Bool) : Nat :=
  let live := s.livePaths c
  let live := if again then live.filter fun x => decide (x ≠ p.path) else live
  let any := if again then (List.range c.attr.paths).filter fun x => decide (x ≠ p.path) else List.range c.attr.paths
  let from_ := if live.isEmpty then any else live
  from_.getD ((p.msn + p.index + p.retx) % from_.length) p.path

/-- Credits that a STATE sender holds (R324-R326). -/
def Conn.held (c : Conn) : Nat := (c.granted + 2 ^ 33 - c.used - c.returned) % 2 ^ 32

/-- Bytes of a MESSAGE connection not acknowledged (R328). -/
def Conn.flying (c : Conn) : Nat := (c.unacked.map SentPacket.size).sum

/-- Window of a MESSAGE connection (R328-R330). -/
def State.windowOf (s : State) (c : Conn) : Nat := if c.attr.multipath then c.window else s.rdN Reg.SHAPE_WIN_MAX

/-- The next packet of a connection may be sent (R324, R328). -/
def State.maySend (s : State) (c : Conn) (p : SentPacket) : Bool :=
  (decide (c.state = .ready) || decide (c.state = .closing))
    && (if c.attr.message then p.resp || decide (c.flying + p.size ≤ s.windowOf c) else decide (0 < c.held))

/-- A packet goes out on a path; a retransmission reuses its credit (R322, R324). -/
def State.emit (s : State) (n : Nat) (p : SentPacket) (again : Bool) : State :=
  let c := s.netConn n
  let p := { p with path := s.pathFor c p again, sendTime := BitVec.ofNat 32 s.now, retx := if again then p.retx + 1 else 0, passed := 0 }
  let c := { c with
    unacked := if p.resp then c.unacked else (c.unacked.filter fun q => !(decide (q.msn = p.msn) && decide (q.index = p.index))) ++ [p]
    used := if again || c.attr.message then c.used else (c.used + 1) % 2 ^ 32 }
  let s := (s.setNetConn n c).netOut (.packet n p.msn p.index p.path again)
  if again then s.count Reg.NET_RETX 1 else s

/-- Sends the packets that wait while credits or the window allow; `fuel` bounds them. -/
def State.pumpConn : Nat → Nat → State → State
  | 0, _, s => s
  | fuel + 1, n, s =>
    match (s.netConn n).toSend with
    | [] => s
    | p :: ps =>
      if s.maySend (s.netConn n) p then
        State.pumpConn fuel n ((s.setNetConn n { s.netConn n with toSend := ps }).emit n p false)
      else s

/-- Sends what a connection may, and tells a STATE receiver of the packets that still wait (R325). -/
def State.sendWaiting (s : State) (n : Nat) : State :=
  let s := State.pumpConn (s.netConn n).toSend.length n s
  let c := s.netConn n
  let want := c.toSend.length
  if c.attr.message || decide (want = c.demand) then s
  else (s.setNetConn n { c with demand := want }).netOut (.credit n 1 c.granted c.used c.returned want)

/-- Sizes of the packets of a message of `total` bytes (R310). -/
def packetSizes (mtu total : Nat) : List Nat := (List.range ((total + mtu - 1) / mtu)).map fun i => min mtu (total - i * mtu)

/-- Bytes that a message's own packets carry: a read request carries none (R310). -/
def NetItem.carried (x : NetItem) (total : Nat) : Nat :=
  match x with
  | .read _ => 0
  | _ => total

/-- Hands a message of `total` bytes to a connection (R310). -/
def State.netSend (s : State) (n : Nat) (item : NetItem) (total : Nat) (out : Nat → NetOut) : State :=
  let c := s.netConn n
  let sizes := if item.carried total = 0 then [0] else packetSizes c.attr.mtu total
  let msn := c.nextMsn
  let c := { c with
    nextMsn := (msn + 1) % 2 ^ 32, out := c.out.set msn { item := item, left := sizes.length, total := total }
    toSend := c.toSend ++ (List.range sizes.length).map fun i => ({ msn := msn, index := i, size := sizes.getD i 0 } : SentPacket) }
  let s := if c.attr.message then s.tally c.attr.tenant.toNat fun u => { u with netTx := u.netTx + item.carried total } else s
  ((s.setNetConn n c).netOut (out msn)).sendWaiting n

/-- Sends the response to message `msn` of the peer, of `size` bytes: its packets take credits, and a repeated request is
answered again (R318, R324). -/
def State.netRespond (s : State) (n msn size : Nat) (out : NetOut) : State :=
  let c := s.netConn n
  let sizes := if size = 0 then [0] else packetSizes c.attr.mtu size
  let ps := (List.range sizes.length).map fun i => ({ msn := msn, index := i, size := sizes.getD i 0, resp := true } : SentPacket)
  let s := if c.attr.message then s.tally c.attr.tenant.toNat fun u => { u with netTx := u.netTx + size } else s
  ((s.setNetConn n { c with toSend := c.toSend ++ ps }).netOut out).sendWaiting n

/-! ### Units of remote operations (R223, R284) -/

/-- Status with which a remote operation to a peer fails before any unit is sent (R223, R295, R308). -/
def State.remoteFault (s : State) (d : U16) (message : Bool) : Option Byte :=
  if d = s.devId then none
  else if s.sameDomain d then (if s.unreachable d then some stTARGET_DEAD else none)
  else if (s.ownConn d message).isSome then none else some stNOT_READY

/-- A Strait address in a device's message window (R234). -/
def inMessageWindow (addr : U64) : Bool :=
  let off := addr.toNat % 2 ^ 44
  decide (addr.toNat / 2 ^ 44 % 16 = 2) && decide (0xD00000 ≤ off) && decide (off < 0xE00000)

/-- Sends unit `k` of a descriptor to a peer: over the Strait fabric in its own domain, else on a connection of the class (R223).
On a STATE connection a unit carries its header of 48 bytes; bytes go as a protocol message or as a write (R310). -/
def State.sendUnit (s : State) (d : U16) (message : Bool) (tenant : Nat) (u : MoverUnit) (k : Nat) : State :=
  let u := { u with src := s.devId }
  if d = s.devId then s.straitOut (.unit u)
  else if s.sameDomain d then
    let (n, s) := s.nextPlane d
    s.onPlane n u.channel u.slots (.unit u)
  else match s.ownConn d message with
    | none => s
    | some n =>
      if message then
        s.netSend n (.put u.slot k) u.data.length fun msn =>
          .message n msn (if inMessageWindow u.target then 0xC1 else 0xC0) (u.key.zeroExtend 32) (u.target.toNat % 2 ^ 44) u.data u.poison
      else
        let s := s.tally tenant fun x => { x with netTx := x.netTx + 48 + u.data.length }
        s.netSend n (if u.opcode = 0x41 then .get u.slot k else .put u.slot k) (48 + u.data.length) fun msn => .unit n msn u

end Sys2Proof.Machine
end

