-- ==== Sys2Proof/Machine/IbexOps.lean ====
section
/-! DEFINITION. The Ibex movers: how a descriptor is checked (R208-R213), assigned to a mover (R205) and completed (R214, R217,
R219). -/

namespace Sys2Proof.Machine

/-! ### What an access may reach -/

/-- The region holds a structure of a registered index, so only the search engine writes it (R340). -/
def State.indexRegion (s : State) (r : Region) : Bool :=
  s.cham.indexes.anyWhere fun _ x =>
    let h := x.header
    x.registered && (([h.addr, h.coarse, h.directory, h.items, h.segments, h.dellog, h.tables].any fun a => r.holds a 1)
      || (decide (h.codebook ≠ 0) && r.holds h.codebook 1) || (decide (h.combine ≠ 0) && r.holds h.combine 1))

/-- Status with which an access by a host function is refused (R183, R191, R340, R366, R465): the function may not reach the
region, or may not write it. PF0 reaches every region; PF1 and a VF none of a device kind and none outside the partition. -/
def State.fnAccess (s : State) (fn : Nat) (a n part : Nat) (write : Bool) : Option Byte :=
  match s.regionAt a n with
  | none => if addrFormed a then some stPRIVILEGE else some stMALFORMED
  | some r =>
    if decide (fn ≠ 0) && (decide (r.partition.val ≠ part) || deviceKind r.kind.toNat) then some stPRIVILEGE
    else if write && (s.indexRegion r || (decide (fn ≠ 0) && r.readOnly)) then some stPRIVILEGE
    else s.accessStatus a n part true write

/-- An address operand of a descriptor (R209): the region is of its partition, or, for the device's own agents and PF0, of a
device kind. -/
def State.descAccess (s : State) (d : IbexDesc) (a n : Nat) (write : Bool) : Option Byte :=
  let part := d.partition.toNat
  match d.fn with
  | some f => if f = 0 then (match s.fnAccess 0 a n part write, s.regionAt a n with
      | none, some r => if decide (r.partition.val = part) || deviceKind r.kind.toNat then none else some stPRIVILEGE
      | st, _ => st) else s.fnAccess f a n part write
  | none => match s.accessStatus a n part true write, s.regionAt a n with
    | none, some r => if (decide (r.partition.val = part) || deviceKind r.kind.toNat) && !(write && s.indexRegion r) then none else some stPRIVILEGE
    | st, _ => st

/-! ### Checks (R208-R213) -/

/-- A descriptor's flag: 0 FENCE, 1 NOTIFY, 2 VERIFY, 3 AWAIT, 4 BYTES, 5 WIDE, 6 REFS (R208). -/
def IbexDesc.flag (d : IbexDesc) (i : Nat) : Bool := d.flags.getLsbD i

/-- COUNT of a descriptor. -/
def IbexDesc.n (d : IbexDesc) : Nat := d.count.toNat

/-- Flags that an operation uses (R210). -/
def flagsUsed : Nat → Byte
  | 1 | 4 | 6 => 0x03 | 2 | 3 | 7 => 0x07 | 5 => 0x23 | 8 => 0x1F | 9 => 0x47 | 10 => 0x42 | _ => 0

/-- COUNT is in the operation's range (R210). -/
def IbexDesc.countOk (d : IbexDesc) : Bool :=
  match d.op.toNat with
  | 1 => decide (64 ≤ d.n) && decide (d.n ≤ 67108864) && decide (d.n % 64 = 0)
  | 6 => decide (1 ≤ d.n) && decide (d.n ≤ 240)
  | 8 => if d.flag 4 then decide (64 ≤ d.n) && decide (d.n ≤ 1048576) else decide (1 ≤ d.n) && decide (d.n ≤ 4096)
  | _ => decide (1 ≤ d.n) && decide (d.n ≤ 4096)

/-- AUX as the operation uses it (R210). -/
def IbexDesc.auxOk (d : IbexDesc) : Bool :=
  match d.op.toNat with
  | 4 => (d.aux == 0) != (isFp8 d.srcFmt.toNat || isFp8 d.dstFmt.toNat)
  | 5 => (d.aux == 0) != isFp8 d.srcFmt.toNat
  | 6 => true
  | _ => d.aux == 0

/-- The descriptor as a reader of level 1 takes it: of a higher level, only the fields that level 1 defines (R10). -/
def IbexDesc.known (d : IbexDesc) : IbexDesc :=
  if d.level.toNat ≤ 1 then d
  else { d with flags := d.flags &&& 0x7F, partition := d.partition &&& 7, srcFmt := d.srcFmt &&& 15, dstFmt := d.dstFmt &&& 15 }

/-- The descriptor's own fields are valid (R10, R208-R210). -/
def IbexDesc.formed (d : IbexDesc) : Bool :=
  readable d.level.toNat && decide (1 ≤ d.op.toNat) && decide (d.op.toNat ≤ 10) && d.flags &&& ~~~(flagsUsed d.op.toNat) == 0
    && !(d.flag 4 && d.flag 2) && (d.op != 9 || d.flag 6)
    && decide (d.partition.toNat < 8) && decide (d.srcFmt.toNat ≤ 5) && decide (d.dstFmt.toNat ≤ 5) && decide (d.layer.toNat ≤ 239)
    && (if d.op = 10 then decide (1 ≤ d.depth.toNat) && decide (d.depth.toNat ≤ 4) else d.depth == 0)
    && d.countOk && d.auxOk && (decide (d.op ≠ 6) && decide (d.op ≠ 7) || d.dst == 0)

/-- Layer whose pages the descriptor names: a PREFETCH looks DEPTH layers ahead (R228). -/
def IbexDesc.theLayer (d : IbexDesc) : Nat := d.layer.toNat + d.depth.toNat

/-- The Herd slot whose sequence a root block heads. -/
def State.rootOwner (s : State) (root : Nat) : Option Nat :=
  (s.herd.entries.find? fun (_, e) => decide (e.pageRoot = some root)).map Prod.fst

/-- The pages of COUNT at a root, a layer and FIRST_TP (R211). -/
def State.pagesNamed (s : State) (root layer firstTp n : Nat) : Option (List Nat) :=
  let r := s.root root
  if !r.inUse ∨ n % r.ppt ≠ 0 ∨ firstTp < r.firstTp then none else s.listFrom r layer firstTp n

/-- The pages of a root operand, or the status and the page at fault (R209, R211). `source` pages must be sealed. -/
def State.rootOperand (s : State) (d : IbexDesc) (op : U64) (layer n : Nat) (fmt : Byte) (source : Bool) : Except (Byte × Nat) (List Nat) :=
  let root := op.toNat % 2 ^ 32
  match s.pagesNamed root layer d.firstTp.toNat n with
  | none => .error (stMALFORMED, root)
  | some ps =>
    let owner := s.rootOwner root
    match ps.find? fun p => decide ((s.page p).partition.val ≠ d.partition.toNat) with
    | some p => .error (stPRIVILEGE, p)
    | none =>
      if ps.all fun p =>
          let g := s.page p
          (decide (g.state = .allocated) || decide (g.state = .inFlight)) && decide (g.owner = owner) && g.format == fmt.truncate 4
            && (!source || s.pageSealed p) then .ok ps
      else .error (stMALFORMED, root)

/-- An address operand, or the status and the address at fault. -/
def State.addrOperand (s : State) (d : IbexDesc) (a : U64) (n : Nat) (write : Bool) : Except (Byte × Nat) Unit :=
  match s.descAccess d a.toNat n write with
  | none => .ok ()
  | some st => .error (st, a.toNat)

/-- Bytes of the tiles of pages, packed end to end (R164). -/
def State.denseBytes (s : State) (ps : List Nat) : Nat := (ps.map fun p => (s.page p).tileCount * tileSize (s.page p).format.toNat).sum

/-- The transfer that a protocol descriptor serves, by its TAG. -/
def State.descTransfer (s : State) (d : IbexDesc) (q : Nat) : Option Transfer :=
  let t := s.transfer d.tag.toNat
  if decide (q < 128) && decide (t.phase ≠ .closed) && t.requestId == d.requestId then some t else none

/-- Where a descriptor names its remote reference list (R210). -/
def IbexDesc.refsAt (d : IbexDesc) : U64 := if d.op = 8 then d.dst else d.src

/-- The references that a descriptor takes from its transfer's grant, where the device's own agents queued it (log entry 17). -/
def State.grantRefs (s : State) (d : IbexDesc) (q : Nat) : Option (List U64) :=
  (s.descTransfer d q).bind fun t =>
    let tp := d.firstTp.toNat
    match t.grants.find? fun g => decide (g.req.layer = d.layer.toNat) && decide (g.req.firstTp ≤ tp) && decide (tp < g.req.firstTp + g.req.tps)
        && (d.op != 8 || g.creditId == d.creditId) with
    | some g => some ((g.refs.drop ((tp - g.req.firstTp) * t.ppt)).take d.n)
    | none => if d.refsAt = 0 then some [] else none

/-- The remote reference list of a descriptor (R212): in memory, or of its transfer's grant. -/
def State.refList (s : State) (d : IbexDesc) (q : Nat) : List U64 :=
  (s.grantRefs d q).getD ((List.range d.n).map fun i => BitVec.ofNat 64 (s.loadLE (d.refsAt.toNat + 8 * i) 8))

/-- The address of a reference list in memory, checked (R209). -/
def State.refsOperand (s : State) (d : IbexDesc) (q : Nat) : Except (Byte × Nat) Unit :=
  if (s.grantRefs d q).isSome then .ok () else s.addrOperand d d.refsAt (8 * d.n) false

/-- The KV scale table of a PACK or UNPACK, checked (R46, R209): FP32 for each layer, KV head, and key or value. -/
def State.scalesOperand (s : State) (d : IbexDesc) (r : RootBlock) : Except (Byte × Nat) Unit :=
  if d.aux = 0 then .ok () else s.addrOperand d d.aux (8 * r.layers * r.heads) false

/-- The rules of a reference list against the local pages it pairs with (R60, R212); a replica's refresh may write through a
reference with REPLICA set. -/
def State.refsStatus (s : State) (d : IbexDesc) (q : Nat) (refs : List U64) (ps : List Nat) : Option Byte :=
  let rs := refs.map PageRef.ofWord
  let refresh := match s.descTransfer d q with
    | some t => decide (t.kind = .replica)
    | none => false
  if rs.length ≠ d.n ∨ !(rs.all PageRef.ok) ∨ rs.any (fun r => r.device != (rs.getD 0 default).device)
      ∨ (List.range ps.length).any (fun i =>
          let r := rs.getD i default
          let g := s.page (ps.getD i 0)
          decide (r.format ≠ g.format.toNat) || decide (r.tiles ≠ g.tileCount)) then some stMALFORMED
  else if d.op = 8 ∧ refresh = false ∧ rs.any PageRef.replica then some stFENCED
  else none

/-! ### Movers (R205) -/

/-- Quadrant that holds a device-local address. -/
def State.quadrantOf (s : State) (a : Nat) : Nat := if addrSpace a = 1 then addrOff a / 0x20000000 % 4 else s.memLane a / 32 / 5

/-- The first page that COMPACT reads: that of the first row of the path that it moves, in its first layer (R205, R226). -/
def State.compactFirst (s : State) (d : IbexDesc) : Nat :=
  let a := d.src.toNat
  let row := s.loadLE (a + 0x10) 4 + s.loadLE (a + 0x28 + (if 1 < s.loadLE (a + 0x20) 1 then 1 else 0)) 1
  (s.tpPages (d.aux.toNat % 2 ^ 32) d.layer.toNat (row / 64)).getD 0 0

/-- Movers that a descriptor may go to: the hub's for a remote operation, else those of the quadrant of the first byte or page
it writes, or that CHECK and COMPACT read. -/
def State.moversFor (s : State) (d : IbexDesc) : List Nat :=
  let hub := (List.range 16).map (64 + ·)
  let page := fun (root : U64) (layer : Nat) =>
    s.pageAddr (((s.pagesNamed (root.toNat % 2 ^ 32) layer d.firstTp.toNat (s.root (root.toNat % 2 ^ 32)).ppt).getD []).getD 0 0)
  let quad := fun a => (List.range 16).map (16 * s.quadrantOf a + ·)
  match d.op.toNat with
  | 8 | 9 => hub
  | 10 => if d.flag 6 then hub else quad d.dst.toNat
  | 1 | 2 | 5 => quad d.dst.toNat
  | 3 | 4 => quad (page d.dst d.layer.toNat)
  | 6 => quad (s.pageAddr (s.compactFirst d))
  | _ => quad (page d.src d.layer.toNat)

/-- Assigns a descriptor to the mover with the fewest active descriptors, the lower number first; where every mover of the
quadrant failed its self-test, the others of the device take its share. -/
def State.moverFor (s : State) (d : IbexDesc) : Option Nat :=
  let ok := fun m => !s.ibex.failedMovers.contains m && decide (s.ibex.movers.get m < 4096)
  let ms := (s.moversFor d).filter ok
  let all := (List.range 80).filter ok
  let from_ := if (s.moversFor d).all s.ibex.failedMovers.contains then all else ms
  from_.foldl (fun b m => match b with
    | none => some m
    | some k => if s.ibex.movers.get m < s.ibex.movers.get k then some m else some k) none

/-! ### Completion (R214, R217, R219) -/

/-- Account of a descriptor's units (R374): the submitting function's, or the tenant of the request it serves. -/
def State.descAccount (s : State) (x : Slot) : Nat :=
  if 192 ≤ x.queue then x.desc.account
  else match s.herdOf x.desc.requestId with
    | some n => (s.entry n).tenant.toNat
    | none => 1024

/-- DESC_PRIVILEGE (R209, R382). -/
def State.descPrivilege (s : State) (x : Slot) (a : Nat) : State :=
  s.raise { severity := .contained, block := 0x00A, cause := 0x0013, status := stPRIVILEGE, unit := BitVec.ofNat 16 x.queue, requestId := x.desc.requestId
            detail0 := BitVec.ofNat 64 a, detail1 := x.desc.tag.zeroExtend 64
            tenant := if s.descAccount x < 1024 then some (BitVec.ofNat 10 (s.descAccount x)) else none }

/-- The completion of a slot's descriptor. -/
def Slot.completion (x : Slot) (n : Nat) (st : Byte) : IbexCompletion :=
  { queue := x.queue, tag := x.desc.tag, status := st, op := x.desc.op, slot := n, done := x.done, retries := min 255 x.retries
    poisoned := min 255 x.poisoned, saturated := min 255 x.saturated, nans := min 255 x.nans, firmware := x.desc.flag 1 }

/-- A PREFETCH of the step sequencer has committed: its tiles are staged when it is DONE without a failure (R229). -/
def State.stageDone (s : State) (tag : U32) (st : Byte) : State :=
  { s with herd := { s.herd with step := s.herd.step.map fun x =>
      { x with staged := x.staged.map fun y => if y.tag = tag then { y with done := st == stOK } else y } } }

/-- The source of a completed descriptor acts on it (R217): a transfer goes on, and a MOVE command completes. -/
def State.toSource (s : State) (x : Slot) (st : Byte) : State :=
  match x.desc.cmd with
  | some c => s.complete c st (BitVec.ofNat 64 (x.done + 2 ^ 32 * min 255 x.retries + 2 ^ 40 * min 255 x.poisoned))
      (BitVec.ofNat 64 (min 255 x.saturated + 2 ^ 8 * min 255 x.nans))
  | none =>
    if x.queue = 1 then s.stageDone x.desc.tag st
    else if (x.queue = 0 ∨ x.queue = 64) ∧ (s.transfer x.desc.tag.toNat).requestId = x.desc.requestId then s.moveDone x.desc.tag.toNat x.done st else s

/-- A WAITING slot of a descriptor commits with a status: its completion is written and delivered, and the slot is FREE again
(R214, R217, R219). -/
def State.completeDesc (s : State) (n : Nat) (st : Byte) : State :=
  let x := s.slot n
  let q := s.queue x.queue
  let s := s.setQueue x.queue (if st.toNat < 0x10 then q else { q with statuses := q.statuses.set x.order st })
  let s := s.count64 Reg.IBEX_DESC_LO 1
  let s := if st = stCHECK_FAIL then s.bump Reg.IBEX_CHECK_FAILS 16 16 1 else s
  let s := if st = stMALFORMED ∨ st = stPRIVILEGE then s.setFlag Reg.IBEX_STATUS 4 true else s
  let s := s.offer 4 [(4, x.desc.tag.toNat), (1, x.desc.op.toNat), (1, st.toNat), (2, n), (4, x.done), (4, s.now - x.since)]
  let s := { s with ibex := { s.ibex with
      completions := x.completion n st :: s.ibex.completions, movers := s.ibex.movers.mod x.mover (· - 1) } }
  (s.toSource x st).endSlot n

/-- The status that a descriptor whose units are all resolved completes with (R221-R223): that of its failure, else POISON when
units moved with poison. -/
def Slot.finalStatus (x : Slot) : Byte := if x.status ≠ 0 then x.status else if 0 < x.poisoned then stPOISON else stOK

/-- Completes a descriptor once its last unit is resolved and any reply it awaits has come (R214). -/
def State.settleDesc (s : State) (n : Nat) : State :=
  let x := s.slot n
  if x.state = .waiting ∧ x.awaits = .descriptor ∧ x.left = 0 ∧ (x.replyDue = false ∨ 0x10 ≤ x.finalStatus.toNat) then s.completeDesc n x.finalStatus else s

/-- Counts what a descriptor has moved: bytes in 64-byte units, its account, and poison (R230, R374). -/
def State.countMoved (s : State) (n bytes poisoned : Nat) : State :=
  let x := s.slot n
  let s := s.setSlotAt n { x with poisoned := x.poisoned + poisoned }
  let s := s.count64 Reg.IBEX_BYTES_LO ((bytes + 63) / 64)
  let s := s.tally (s.descAccount x) fun u => { u with moved := u.moved + bytes }
  if poisoned = 0 then s else s.count Reg.IBEX_POISONED poisoned

/-- A descriptor fails before it moves anything. -/
def State.failDesc (s : State) (n : Nat) (st : Byte) : State := s.setSlotAt n { s.slot n with status := st, left := 0, replyDue := false }

end Sys2Proof.Machine
end

