-- ==== Sys2Proof/Machine/Ibex.lean ====
section
/-! DEFINITION. The Ibex operations (R210-R228), the arrival of remote units at the requester (R215, R219, R221-R223), and the
slots' timers and audit (R214, R216). -/

namespace Sys2Proof.Machine

/-! ### Taking a descriptor (R207, R219) -/

/-- What a started operation leaves: the state, units to await, units done, and its counts. -/
structure OpRun where
  state : State
  status : Byte := 0
  left : Nat := 0
  done : Nat := 0
  bytes : Nat := 0
  poisoned : Nat := 0
  saturated : Nat := 0
  nans : Nat := 0
  pages : List Nat := []
  peer : U16 := 0

/-- An operation that moved nothing. -/
def OpRun.fail (s : State) (st : Byte) : OpRun := { state := s, status := st }

/-- An operation whose operand is at fault: a refusal with PRIVILEGE writes its record (R209). -/
def State.opFault (s : State) (n : Nat) (e : Byte × Nat) : OpRun :=
  .fail (if e.1 = stPRIVILEGE then s.descPrivilege (s.slot n) e.2 else s) e.1

/-- Enters what an operation has done in its slot. -/
def State.started (n : Nat) (r : OpRun) : State :=
  let s := r.state
  let s := s.setSlotAt n { s.slot n with status := r.status, left := r.left, done := r.done, saturated := r.saturated, nans := r.nans, pages := r.pages, peer := r.peer }
  let s := if 0x10 ≤ r.status.toNat ∧ r.left = 0 then s.failDesc n r.status else s
  if r.bytes = 0 ∧ r.poisoned = 0 then s else s.countMoved n r.bytes r.poisoned

/-- The descriptor of a slot holds a reference on pages until the slot commits (R220). -/
def State.holdPages (s : State) (n : Nat) (ps : List Nat) : State := s.setSlotAt n { s.slot n with pages := ps }

/-- Some earlier descriptor of the queue has not committed (R219). -/
def State.queueBusy (s : State) (q : Nat) : Bool :=
  s.ibex.slots.anyWhere fun _ x => decide (x.state = .waiting) && decide (x.awaits = .descriptor) && decide (x.queue = q)

/-- Takes the head off a queue; a source that was held adds its next descriptor (R207). -/
def IbexQueue.pop (x : IbexQueue) : IbexQueue :=
  match x.held with
  | [] => { x with waiting := x.waiting.drop 1, accepted := x.accepted + 1 }
  | d :: ds => { x with waiting := x.waiting.drop 1 ++ [d], held := ds, accepted := x.accepted + 1 }

/-- Accepts the head of queue `q` when it is operation `op` (a reserved OP is taken by any row), a slot is FREE, a FENCE finds
every earlier descriptor committed, and HOLD is clear (R207, R219, R230); `run` starts it in its slot. -/
def State.accept (s : State) (q op : Nat) (run : Nat → State → OpRun) : State :=
  let x := s.queue q
  match x.waiting with
  | [] => s
  | d :: _ =>
    let d := d.known
    if !s.alive ∨ s.flag Reg.IBEX_CTRL 0 ∨ !s.ibex.slotWait.isEmpty ∨ (d.flag 0 ∧ s.queueBusy q)
        ∨ !(decide (d.op.toNat = op) || decide (d.op.toNat = 0) || decide (10 < d.op.toNat)) then s
    else match s.moverFor d, s.claim { awaits := .descriptor, desc := d, queue := q, order := x.accepted, since := s.now, requestId := d.requestId
                                       replyDue := d.flag 3 } with
      | some m, some (n, s) =>
        let s := s.setSlotAt n { s.slot n with mover := m }
        let s := { s with ibex := { s.ibex with movers := s.ibex.movers.mod m (· + 1) } }
        let failed := x.statuses.head?.map Prod.snd
        let s := s.setQueue q { x.pop with statuses := if d.flag 0 then [] else x.statuses }
        match d.flag 0, failed with
        | true, some st => s.failDesc n st
        | _, _ => if d.formed then State.started n (run n s) else s.failDesc n stMALFORMED
      | _, _ => s

/-! ### Local operations -/

/-- Tiles of pages in order: the page and the slot (R53). -/
def State.tilesOf (s : State) (ps : List Nat) : List (Nat × Nat) :=
  ps.flatMap fun p => (List.range (s.page p).tileCount).map fun i => (p, i)

/-- The status of a local operation over tiles (R221, R222, R227): a tag mismatch, then poison. -/
def tileStatus (bad : Nat) (poisoned : Nat) : Byte := if 0 < bad then stCHECK_FAIL else if 0 < poisoned then stPOISON else stOK

/-- Some byte of `n` from `a` lies in a KV_POOL region (R213). -/
def State.inPool (s : State) (a n : Nat) : Bool :=
  s.regionList.any fun r => decide (r.kind = 4) && decide (r.start < a + n) && decide (a < r.start + r.size)

/-- COPY (R210, R213, R222): units of 64 bytes land in any order, so a byte whose source byte the copy itself also writes takes
an open value (log entry 2). -/
def State.copyRun (n : Nat) (s : State) : OpRun :=
  let d := (s.slot n).desc
  let a := d.src.toNat
  let b := d.dst.toNat
  if s.inPool a d.n || s.inPool b d.n then .fail s stMALFORMED
  else match s.addrOperand d d.src d.n false, s.addrOperand d d.dst d.n true with
    | .error e, _ | _, .error e => s.opFault n e
    | .ok _, .ok _ =>
      let bs := s.seen a d.n
      let clash := decide (a < b + d.n) && decide (b < a + d.n) && decide (a ≠ b)
      let bs := if clash then (List.range d.n).map fun i =>
          if b ≤ a + i ∧ a + i < b + d.n then (Config.freeValue (s.fresh + i)).truncate 8 else bs.getD i 0 else bs
      let units := (List.range (d.n / 64)).map fun i => s.poisoned (a + 64 * i) 64
      let s := if clash then s.drawN d.n else s
      let s := units.zipIdx.foldl (fun s u => s.writeP (b + 64 * u.2) ((bs.drop (64 * u.2)).take 64) u.1) s
      { state := s, done := d.n / 64, bytes := d.n, poisoned := units.count true }

/-- COPY. -/
def execCopy (q : Fin 256) (s : State) : Host.Outcome State Fault Refusal := .next (s.accept q.val 1 State.copyRun)

/-- A tile reads clean and its tag does not match (R221). -/
def State.tileWrong (s : State) (t : Nat × Nat) : Bool := !s.tilePoisoned t.1 t.2 && s.tileTag t.1 t.2 != (s.page t.1).tag t.2

/-- Pages that move whole: a page with a tile whose tag does not match does not count in DONE (R217, R221). -/
def State.pagesRight (s : State) (verify : Bool) (ps : List Nat) : Nat := ps.countP fun p => !verify || !((s.tilesOf [p]).any s.tileWrong)

/-- GATHER of one tile to the dense buffer (R221, R222). -/
def State.gatherTile (verify : Bool) (dst : Nat) (x : State × Nat × Nat × Nat) (t : Nat × Nat) : State × Nat × Nat × Nat :=
  let (s, off, bad, poi) := x
  let size := tileSize (s.page t.1).format.toNat
  let p := s.tilePoisoned t.1 t.2
  if verify && s.tileWrong t then (s.tagMismatch t.1, off + size, bad + 1, poi)
  else (s.writeP (dst + off) (s.tileBytes t.1 t.2) p, off + size, bad, if p then poi + 1 else poi)

/-- GATHER (R210, R221). -/
def State.gatherRun (n : Nat) (s : State) : OpRun :=
  let d := (s.slot n).desc
  match s.rootOperand d d.src d.layer.toNat d.n d.srcFmt true with
  | .error e => s.opFault n e
  | .ok ps => match s.addrOperand d d.dst (s.denseBytes ps) true with
    | .error e => s.opFault n e
    | .ok _ =>
      let r := (s.tilesOf ps).foldl (State.gatherTile (d.flag 2) d.dst.toNat) (s.holdPages n ps, 0, 0, 0)
      { state := r.1, status := tileStatus r.2.2.1 r.2.2.2, done := s.pagesRight (d.flag 2) ps, bytes := r.2.1, poisoned := r.2.2.2, pages := ps }

/-- GATHER. -/
def execGather (q : Fin 256) (s : State) : Host.Outcome State Fault Refusal := .next (s.accept q.val 2 State.gatherRun)

/-- SCATTER of one tile from the dense buffer (R221, R222). -/
def State.scatterTile (verify : Bool) (src : Nat) (x : State × Nat × Nat) (t : Nat × Nat) : State × Nat × Nat :=
  let (s, off, poi) := x
  let size := tileSize (s.page t.1).format.toNat
  let p := s.poisoned (src + off) size
  let s := s.putTile t.1 t.2 (s.bytes (src + off) size) p
  (if verify then s.sealSlot t.1 t.2 else s, off + size, if p then poi + 1 else poi)

/-- SCATTER (R210, R221). -/
def State.scatterRun (n : Nat) (s : State) : OpRun :=
  let d := (s.slot n).desc
  match s.rootOperand d d.dst d.layer.toNat d.n d.dstFmt false with
  | .error e => s.opFault n e
  | .ok ps => match s.addrOperand d d.src (s.denseBytes ps) false with
    | .error e => s.opFault n e
    | .ok _ =>
      let r := (s.tilesOf ps).foldl (State.scatterTile (d.flag 2) d.src.toNat) (s, 0, 0)
      { state := r.1, status := tileStatus 0 r.2.2, done := d.n, bytes := r.2.1, poisoned := r.2.2, pages := ps }

/-- SCATTER. -/
def execScatter (q : Fin 256) (s : State) : Host.Outcome State Fault Refusal := .next (s.accept q.val 3 State.scatterRun)

/-- PACK of one tile: source and destination page and slot, and its number in the tile position (R224, R45, R46). -/
def State.packTileTo (d : IbexDesc) (r : RootBlock) (x : State × Nat × Nat × Nat) (t : (Nat × Nat) × (Nat × Nat) × Nat) : State × Nat × Nat × Nat :=
  let (s, sat, nan, poi) := x
  let scale := s.scaleOf d.aux.toNat d.layer.toNat r.heads r.slices t.2.2
  let p := s.tilePoisoned t.1.1 t.1.2
  let c := convertTile d.srcFmt.toNat d.dstFmt.toNat scale (s.tileBytes t.1.1 t.1.2)
  let s := s.putTile t.2.1.1 t.2.1.2 c.1 p
  let s := s.setPage t.2.1.1 { s.page t.2.1.1 with rotated := (s.page t.1.1).rotated }
  (s.sealSlot t.2.1.1 t.2.1.2, sat + c.2.1, nan + c.2.2, if p then poi + 1 else poi)

/-- PACK (R224). The two roots must agree in heads and slices. -/
def State.packRun (n : Nat) (s : State) : OpRun :=
  let d := (s.slot n).desc
  let r := s.root (d.src.toNat % 2 ^ 32)
  let r' := s.root (d.dst.toNat % 2 ^ 32)
  if r.heads ≠ r'.heads ∨ r.slices ≠ r'.slices then .fail s stMALFORMED
  else match s.rootOperand d d.src d.layer.toNat d.n d.srcFmt true with
    | .error e => s.opFault n e
    | .ok ps => match s.rootOperand d d.dst d.layer.toNat (d.n / r.ppt * r'.ppt) d.dstFmt false with
      | .error e => s.opFault n e
      | .ok qs => match s.scalesOperand d r with
      | .error e => s.opFault n e
      | .ok _ =>
        let per := tilesAt r.heads r.slices
        let ts := (s.tilesOf ps).zip ((s.tilesOf qs).zipIdx.map fun x => (x.1, x.2 % per))
        let out := ts.foldl (State.packTileTo d r) (s, 0, 0, 0)
        { state := out.1, status := tileStatus 0 out.2.2.2, done := d.n, bytes := ts.length * tileSize d.dstFmt.toNat, poisoned := out.2.2.2
          saturated := out.2.1, nans := out.2.2.1, pages := ps ++ qs }

/-- PACK. -/
def execPack (q : Fin 256) (s : State) : Host.Outcome State Fault Refusal := .next (s.accept q.val 4 State.packRun)

/-- UNPACK of one tile (R225): row r of the tile goes to the dense row of its position, at the channels of its head, slice and
kind. -/
def State.unpackTile (d : IbexDesc) (r : RootBlock) (x : State × Nat × Nat) (t : (Nat × Nat) × Nat) : State × Nat × Nat :=
  let (s, nan, poi) := x
  let per := tilesAt r.heads r.slices
  let w := if d.flag 5 then 4 else 2
  let fmt : FloatFmt := if d.flag 5 then fp32 else elemFmt 0
  let k := t.2 % per
  let scale := s.scaleOf d.aux.toNat d.layer.toNat r.heads r.slices k
  let p := s.tilePoisoned t.1.1 t.1.2
  let bs := s.tileBytes t.1.1 t.1.2
  let place := ((k % 2) * r.heads * r.slices + k / 2) * 128
  let out := (List.range 64).foldl (fun (x : State × Nat) row =>
    let vs := (List.range 128).map fun c => dequant d.srcFmt.toNat scale bs (128 * row + c)
    (x.1.writeP (d.dst.toNat + w * ((t.2 / per * 64 + row) * per * 128 + place)) (vs.flatMap fun v => leBytes w (fmt.wide v)) p,
      x.2 + vs.countP fun v => decide (v = .nan true ∨ v = .nan false))) (s, nan)
  (out.1, out.2, if p then poi + 1 else poi)

/-- UNPACK (R225). -/
def State.unpackRun (n : Nat) (s : State) : OpRun :=
  let d := (s.slot n).desc
  let r := s.root (d.src.toNat % 2 ^ 32)
  let size := d.n / r.ppt * 64 * tilesAt r.heads r.slices * 128 * (if d.flag 5 then 4 else 2)
  match s.rootOperand d d.src d.layer.toNat d.n d.srcFmt true with
  | .error e => s.opFault n e
  | .ok ps => match s.addrOperand d d.dst size true with
    | .error e => s.opFault n e
    | .ok _ => match s.scalesOperand d r with
    | .error e => s.opFault n e
    | .ok _ =>
      let out := (s.tilesOf ps).zipIdx.foldl (State.unpackTile d r) (s, 0, 0)
      { state := out.1, status := tileStatus 0 out.2.2, done := d.n, bytes := size, poisoned := out.2.2, nans := out.2.1, pages := ps }

/-- UNPACK. -/
def execUnpack (q : Fin 256) (s : State) : Host.Outcome State Fault Refusal := .next (s.accept q.val 5 State.unpackRun)

/-- COMPACT (R226, R177): the tree record at SRC must be DECIDED; the rows of its path move in the layers of the root AUX. -/
def State.compactRun (n : Nat) (s : State) : OpRun :=
  let d := (s.slot n).desc
  let a := d.src.toNat
  let root := d.aux.toNat % 2 ^ 32
  let r := s.root root
  let nodes := s.loadLE (a + 1) 1
  let base := s.loadLE (a + 0x10) 4
  let plen := s.loadLE (a + 0x20) 1
  match s.addrOperand d d.src 1024 false with
  | .error e => s.opFault n e
  | .ok _ =>
    if s.loadLE (a + 3) 1 ≠ 2 ∨ d.dst ≠ 0 ∨ !r.inUse ∨ r.layers < d.layer.toNat + d.n ∨ plen = 0 ∨ 16 < plen ∨ nodes < plen then .fail s stMALFORMED
    else
      let layers := (List.range d.n).map (d.layer.toNat + ·)
      let ps := layers.flatMap fun l => (r.lists.get l).filter fun p => decide (base / 64 ≤ (s.page p).tilePos) && decide ((s.page p).tilePos ≤ (base + nodes - 1) / 64)
      if ps.any fun p => decide ((s.page p).partition.val ≠ d.partition.toNat) then s.opFault n (stPRIVILEGE, a)
      else { state := s.compactRows root layers base nodes ((s.bytes (a + 0x28) plen).map BitVec.toNat), done := d.n
             bytes := (s.tilesOf ps).length * tileSize r.format.toNat, pages := ps }

/-- COMPACT. -/
def execCompact (q : Fin 256) (s : State) : Host.Outcome State Fault Refusal := .next (s.accept q.val 6 State.compactRun)

/-- CHECK of one tile (R227): sealed anew, or, with VERIFY, compared when it is sealed. -/
def State.checkTile (verify : Bool) (x : State × Nat × Nat) (t : Nat × Nat) : State × Nat × Nat :=
  let (s, bad, poi) := x
  if s.tilePoisoned t.1 t.2 then (s, bad, poi + 1)
  else if !verify then (s.sealSlot t.1 t.2, bad, poi)
  else if (s.page t.1).sealed.getLsbD t.2 && s.tileTag t.1 t.2 != (s.page t.1).tag t.2 then (s.tagMismatch t.1, bad + 1, poi)
  else (s, bad, poi)

/-- CHECK (R227): without VERIFY its pages need not be sealed, since it seals them. -/
def State.checkRun (n : Nat) (s : State) : OpRun :=
  let d := (s.slot n).desc
  match s.rootOperand d d.src d.layer.toNat d.n d.srcFmt false with
  | .error e => s.opFault n e
  | .ok ps =>
    let r := (s.tilesOf ps).foldl (State.checkTile (d.flag 2)) (s.holdPages n ps, 0, 0)
    { state := r.1, status := tileStatus r.2.1 r.2.2, done := d.n, bytes := s.denseBytes ps, poisoned := r.2.2, pages := ps }

/-- CHECK. -/
def execCheck (q : Fin 256) (s : State) : Host.Outcome State Fault Refusal := .next (s.accept q.val 7 State.checkRun)

/-! ### Remote operations (R221-R223, R284) -/

/-- The unit of a remote page operation for one tile. -/
def State.tileUnit (s : State) (n : Nat) (op : Byte) (ref : U64) (t : Nat × Nat) : MoverUnit :=
  let d := (s.slot n).desc
  { opcode := op, poison := op = 0x40 && s.tilePoisoned t.1 t.2, slot := s.slotRef n, target := ref, requestId := d.requestId, epoch := d.epoch
    creditId := if op = 0x40 then d.creditId else 0, check := if op = 0x40 then (s.page t.1).tag t.2 else 0, tileSlot := t.2
    data := if op = 0x40 then s.tileBytes t.1 t.2 else [] }

/-- Sends every unit of a remote page operation: its tiles with the references of their pages. -/
def State.sendTiles (s : State) (n : Nat) (op : Byte) (refs : List U64) (ps : List Nat) : State :=
  let peer := (PageRef.ofWord (refs.getD 0 0)).device
  ((List.range ps.length).flatMap fun i => (List.range (s.page (ps.getD i 0)).tileCount).map fun k => (refs.getD i 0, ps.getD i 0, k)).zipIdx.foldl
    (fun s x => s.sendUnit peer false (s.descAccount (s.slot n)) (s.tileUnit n op x.1.1 x.1.2) x.2) s

/-- A remote page operation starts (R212, R223). -/
def State.remotePages (n : Nat) (s : State) (op : Byte) (root : U64) (fmt : Byte) (source : Bool) : OpRun :=
  let d := (s.slot n).desc
  let q := (s.slot n).queue
  match s.rootOperand d root d.layer.toNat d.n fmt source with
  | .error e => s.opFault n e
  | .ok ps => match s.refsOperand d q with
  | .error e => s.opFault n e
  | .ok _ =>
    let refs := s.refList d q
    let peer := (PageRef.ofWord (refs.getD 0 0)).device
    match s.refsStatus d q refs ps, s.remoteFault peer false with
    | some st, _ => .fail s st
    | none, some st => { OpRun.fail s st with peer := peer }
    | none, none =>
      let ts := s.tilesOf ps
      let p := if op = 0x40 then (ts.filter fun t => s.tilePoisoned t.1 t.2).length else 0
      { state := s.sendTiles n op refs ps, left := ts.length, pages := ps, peer := peer, poisoned := p }

/-- Sizes of the units of a byte transfer: cut at 16 KiB boundaries of the destination (R284). -/
def byteUnits (dst n : Nat) : List (Nat × Nat) :=
  (List.range (n / 16384 + 2)).filterMap fun i =>
    let lo := if i = 0 then dst else (dst / 16384 + i) * 16384
    let hi := min (dst + n) ((dst / 16384 + i + 1) * 16384)
    if lo < hi then some (lo - dst, hi - lo) else none

/-- A byte transfer to a peer starts (R210, R223, R284). The key of a window outside the message window has no field in the
descriptor: it is open (log entry 2). -/
def State.remoteBytes (n : Nat) (s : State) : OpRun :=
  let d := (s.slot n).desc
  let peer : U16 := d.dst.extractLsb' 48 16
  match s.addrOperand d d.src d.n false, s.remoteFault peer true with
  | .error e, _ => s.opFault n e
  | .ok _, some st => { OpRun.fail s st with peer := peer }
  | .ok _, none =>
    let window := decide (d.dst.toNat / 2 ^ 44 % 16 = 2) && decide (0xD00000 ≤ d.dst.toNat % 2 ^ 44) && decide (d.dst.toNat % 2 ^ 44 < 0xE00000)
    let key : U16 := if window then 0 else s.freeNow.truncate 16
    let us := byteUnits (d.dst.toNat % 2 ^ 44) d.n
    let poi := ((List.range ((d.n + 63) / 64)).filter fun i => s.poisoned (d.src.toNat + 64 * i) (min 64 (d.n - 64 * i))).length
    let s := us.zipIdx.foldl (fun s x => s.sendUnit peer true (s.descAccount (s.slot n))
      { opcode := 0x42, poison := s.poisoned (d.src.toNat + x.1.1) x.1.2, slot := s.slotRef n, target := d.dst + BitVec.ofNat 64 x.1.1
        requestId := d.requestId, epoch := d.epoch, key := key, data := s.seen (d.src.toNat + x.1.1) x.1.2 } x.2) s
    { state := if window then s else s.drawn, left := us.length, peer := peer, poisoned := poi }

/-- REMOTE_PUT (R223). -/
def State.remotePutRun (n : Nat) (s : State) : OpRun :=
  let d := (s.slot n).desc
  if d.flag 4 then s.remoteBytes n else s.remotePages n 0x40 d.src d.srcFmt true

/-- REMOTE_PUT. -/
def execRemotePut (q : Fin 256) (s : State) : Host.Outcome State Fault Refusal := .next (s.accept q.val 8 State.remotePutRun)

/-- REMOTE_GET. -/
def execRemoteGet (q : Fin 256) (s : State) : Host.Outcome State Fault Refusal :=
  .next (s.accept q.val 9 fun n s => s.remotePages n 0x41 (s.slot n).desc.dst (s.slot n).desc.dstFmt false)

/-- PREFETCH (R228): one that looks past the last layer is done at once; a local one copies verified tiles to the dense buffer;
with REFS the tiles are fetched from a peer's pages. -/
def State.prefetchRun (n : Nat) (s : State) : OpRun :=
  let d := (s.slot n).desc
  let r := s.root (d.src.toNat % 2 ^ 32)
  if addrSpace d.dst.toNat ≠ 1 then .fail s stMALFORMED
  else if d.flag 6 then match s.refsOperand d (s.slot n).queue with
  | .error e => s.opFault n e
  | .ok _ =>
    let refs := s.refList d (s.slot n).queue
    let rs := refs.map PageRef.ofWord
    let peer := (rs.getD 0 default).device
    let size := (rs.map fun x => x.tiles * tileSize x.format).sum
    if !(rs.all PageRef.ok) ∨ rs.any (fun x => x.device != peer || decide (x.format ≠ d.srcFmt.toNat)) then .fail s stMALFORMED
    else match s.addrOperand d d.dst size true, s.remoteFault peer false with
      | .error e, _ => s.opFault n e
      | .ok _, some st => { OpRun.fail s st with peer := peer }
      | .ok _, none =>
        let us := refs.flatMap fun w => (List.range (PageRef.ofWord w).tiles).map fun k => (w, k)
        let s := us.zipIdx.foldl (fun s x => s.sendUnit peer false (s.descAccount (s.slot n))
          { opcode := 0x41, slot := s.slotRef n, target := x.1.1, requestId := d.requestId, epoch := d.epoch, tileSlot := x.1.2 } x.2) s
        { state := s, left := us.length, peer := peer }
  else if r.inUse ∧ r.layers ≤ d.theLayer then { state := s }
  else match s.rootOperand d d.src d.theLayer d.n d.srcFmt true with
    | .error e => s.opFault n e
    | .ok ps => match s.addrOperand d d.dst (s.denseBytes ps) true with
      | .error e => s.opFault n e
      | .ok _ =>
        let r := (s.tilesOf ps).foldl (State.gatherTile true d.dst.toNat) (s.holdPages n ps, 0, 0, 0)
        { state := r.1, status := tileStatus r.2.2.1 r.2.2.2, done := s.pagesRight true ps, bytes := r.2.1, poisoned := r.2.2.2, pages := ps }

/-- PREFETCH. -/
def execPrefetch (q : Fin 256) (s : State) : Host.Outcome State Fault Refusal := .next (s.accept q.val 10 State.prefetchRun)

/-! ### Units at the requester (R215, R219, R221, R223) -/

/-- The slot that a unit names is WAITING under its generation, awaits a descriptor, and has not had this unit. -/
def State.unitSlot (s : State) (ref : U32) (unit : Nat) : Option Nat :=
  match s.waitingAt ref with
  | none => none
  | some n =>
    let x := s.slot n
    if x.awaits = .descriptor ∧ 0 < x.left ∧ x.landed.get unit = false then some n else none

/-- Pages done: all pages of a page operation whose tiles have landed (R217). -/
def State.unitsIn (s : State) (x : Slot) : Nat :=
  if x.pages.isEmpty then x.done
  else
    let starts := x.pages.foldl (fun (acc : List (Nat × Nat) × Nat) p => (acc.1 ++ [(acc.2, (s.page p).tileCount)], acc.2 + (s.page p).tileCount)) ([], 0)
    (starts.1.filter fun y => (List.range y.2).all fun k => x.arrived.get (y.1 + k)).length

/-- A unit is resolved: with a refusal the descriptor keeps the first status; the last one completes it (R214, R223). -/
def State.unitResolved (s : State) (n unit bytes poisoned : Nat) (st : Byte) : State :=
  let x := s.slot n
  let refused := decide (0x10 ≤ st.toNat) && decide (st ≠ stPOISON)
  let x := { x with left := x.left - 1, landed := x.landed.set unit true, arrived := if refused then x.arrived else x.arrived.set unit true, status := if x.status = 0 ∧ refused = true then st else x.status }
  let x := { x with done := if x.desc.flag 4 then x.done + (if refused then 0 else (bytes + 63) / 64) else if x.pages.isEmpty then x.done + (if refused then 0 else 1) else s.unitsIn x }
  let s := s.setSlotAt n x
  let s := if refused then s else s.countMoved n bytes poisoned
  s.settleDesc n

/-- Retries left for a unit whose tag did not match (R221). -/
def State.mayRetry (s : State) (x : Slot) (unit : Nat) : Bool := decide (x.tileRetries.get unit < s.rdN Reg.IBEX_TAG_RETRY)

/-- Counts a tile's retry (R217, R221, R230). -/
def State.retried (s : State) (n unit : Nat) : State :=
  let x := s.slot n
  (s.setSlotAt n { x with retries := x.retries + 1, tileRetries := x.tileRetries.mod unit (· + 1) }).bump Reg.IBEX_CHECK_FAILS 0 16 1

/-- The tile of unit `k` of a page operation, with its page's reference. -/
def State.unitTile (s : State) (x : Slot) (k : Nat) : Option (U64 × Nat × Nat) :=
  let refs := s.refList x.desc x.queue
  ((List.range x.pages.length).flatMap fun i => (List.range (s.page (x.pages.getD i 0)).tileCount).map fun j => (refs.getD i 0, x.pages.getD i 0, j))[k]?

/-- A unit of a remote write is acknowledged (R219, R221-R223): a tile whose tag failed at the target is sent again. -/
def State.unitAcked (s : State) (ref : U32) (unit : Nat) (st : Byte) : State :=
  match s.unitSlot ref unit with
  | none => s.ibexLate
  | some n =>
    let x := s.slot n
    if x.desc.op ≠ 8 then s.ibexLate
    else if x.desc.flag 4 then
      let us := byteUnits (x.desc.dst.toNat % 2 ^ 44) x.desc.n
      s.unitResolved n unit (us.getD unit (0, 0)).2 0 st
    else
      match s.unitTile x unit, st == stCHECK_FAIL && s.mayRetry x unit with
      | some t, true => (s.retried n unit).sendUnit x.peer false (s.descAccount x) (s.tileUnit n 0x40 t.1 t.2) unit
      | some t, false => s.unitResolved n unit (tileSize (s.page t.2.1).format.toNat) 0 st
      | none, _ => s.ibexLate

/-- A fetched tile comes back (R215, R221, R222): it is written only while its slot is WAITING and its tag matches. -/
def State.tileCame (s : State) (u : MoverUnit) (unit : Nat) : State :=
  match s.unitSlot u.slot unit with
  | none => s.ibexLate
  | some n =>
    let x := s.slot n
    let good := u.poison || BitVec.ofNat 64 (crc64 u.data) == u.check
    let refused := decide (0x10 ≤ u.status.toNat) && decide (u.status ≠ stPOISON)
    if x.desc.op = 9 then
      match s.unitTile x unit with
      | none => s.ibexLate
      | some t =>
        if refused then s.unitResolved n unit 0 0 u.status
        else if !good then
          if s.mayRetry x unit then (s.retried n unit).sendUnit x.peer false (s.descAccount x) (s.tileUnit n 0x41 t.1 t.2) unit
          else s.unitResolved n unit 0 0 stCHECK_FAIL
        else
          let s := s.putTile t.2.1 t.2.2 u.data u.poison
          let s := if u.poison then s else s.sealWith t.2.1 t.2.2 u.check
          s.unitResolved n unit u.data.length (if u.poison then 1 else 0) stOK
    else if x.desc.op = 10 then
      let us := (s.refList x.desc x.queue).flatMap fun w => (List.range (PageRef.ofWord w).tiles).map fun k => (w, k)
      let size := tileSize x.desc.srcFmt.toNat
      if refused then s.unitResolved n unit 0 0 u.status
      else if !good then
        if s.mayRetry x unit then (s.retried n unit).sendUnit x.peer false (s.descAccount x)
            { opcode := 0x41, slot := u.slot, target := (us.getD unit (0, 0)).1, requestId := x.desc.requestId, epoch := x.desc.epoch, tileSlot := (us.getD unit (0, 0)).2 } unit
        else s.unitResolved n unit 0 0 stCHECK_FAIL
      else (s.writeP (x.desc.dst.toNat + size * unit) u.data u.poison).unitResolved n unit u.data.length (if u.poison then 1 else 0) stOK
    else s.ibexLate

/-- A unit's connection or peer has failed: its units in flight are resolved, and the descriptor completes with the status
(R223, R295, R309). -/
def State.failUnits (s : State) (n : Nat) (st : Byte) : State :=
  let x := s.slot n
  if x.state = .waiting ∧ x.awaits = .descriptor then
    (s.setSlotAt n { x with left := 0, status := if x.status = 0 then st else x.status }).settleDesc n
  else s

/-- Descriptors with units outstanding to a peer complete TARGET_DEAD (R223, R295). -/
def State.failPeerUnits (s : State) (d : U16) : State :=
  (s.ibex.slots.keysWhere fun _ x => decide (x.state = .waiting) && decide (x.awaits = .descriptor) && decide (0 < x.left) && x.peer == d).foldl
    (fun s n => s.failUnits n stTARGET_DEAD) s

/-! ### Events (R214, R216, R230) -/

/-- DESCRIPTOR_COMPLETE (R214): the last unit of slot `slot` has committed, or its descriptor failed. -/
def execDescriptorComplete (slot : Fin 65536) (s : State) : Host.Outcome State Fault Refusal :=
  .next (if s.alive then s.settleDesc slot.val else s)

/-- SLOT_TIMER_EXPIRY (R214, R393, R394): the timer of a WAITING slot wins. A host decision has no such timer (R30, R31). -/
def execSlotTimerExpiry (slot : Fin 65536) (s : State) : Host.Outcome State Fault Refusal :=
  .next (let x := s.slot slot.val
    if x.state ≠ .waiting ∨ x.awaits = .decision ∨ !s.alive then s
    else
      let s := s.count Reg.IBEX_TIMEOUTS 1
      match x.awaits with
      | .descriptor => s.completeDesc slot.val stTIMEOUT
      | .reply => (s.endSlot slot.val).answered x stTIMEOUT 0 false
      | .commit => s.failAttempt x.handoffId.toNat stTIMEOUT
      | .peerPartial => (s.endSlot slot.val).peerArrived x [] true true
      | .decision | .none => s)

/-- SLOT_AUDIT (R216, R395): the two counts must make 65,536. -/
def execSlotAudit (s : State) : Host.Outcome State Fault Refusal :=
  .next (if s.ibex.slotsFree + s.ibex.slotsBusy = 65536 then s
    else ((s.setFlag Reg.IBEX_STATUS 3 true).setFlag Reg.FAULT_AUDIT 1 true).fatal { severity := .fatal, block := 0x00A, cause := 0x0028, detail0 := BitVec.ofNat 64 s.ibex.slotsFree, detail1 := BitVec.ofNat 64 s.ibex.slotsBusy })

/-- IBEX_CTRL HOLD (R230). -/
def execIbexHold (on : Bool) (s : State) : Host.Outcome State Fault Refusal := .next (s.setFlag Reg.IBEX_CTRL 0 on)

/-- IBEX_CTRL CLEAR_HWM (R230). -/
def execIbexClearHwm (s : State) : Host.Outcome State Fault Refusal := .next (s.wr Reg.IBEX_SLOTS_HWM (BitVec.ofNat 32 s.ibex.slotsBusy))

/-- IBEX_CTRL CLEAR_COUNTS (R230). -/
def execIbexClearCounts (s : State) : Host.Outcome State Fault Refusal :=
  .next (((s.wr Reg.IBEX_LATE 0).wr Reg.IBEX_TIMEOUTS 0 |>.wr Reg.IBEX_CHECK_FAILS 0).wr Reg.IBEX_POISONED 0)

end Sys2Proof.Machine
end

