-- ==== Sys2Proof/Machine/TierCmds.lean ====
section
/-! DEFINITION. The memory tiers' own events: the patrol scrub and the test of quarantined pages (R200-R202), the page auditor
(R64, R67) and TIER_REGION_SEL (R203). -/

namespace Sys2Proof.Machine

/-- A unit whose wrong symbols the code did not find, or took for others, holds what the spec leaves open (R196). -/
def State.misread (s : State) (flips : List (Nat × BitVec 4)) (a n : Nat) : State :=
  if wrongSymbols flips ≤ 2 then s else (s.drawN (n + 1)).setBytes a (freeBytes (s.fresh + 1) n)

/-- PATROL_SCRUB_READ (R196-R198, R200): the scrub reads a unit whose stored symbols `flips` have changed, in `bank` and `row` of its
channel; it corrects them and writes back, or marks the unit poisoned. -/
def execPatrolScrubRead (u : ScrubAt) (flips : List (Nat × BitVec 4)) (bank row : Nat) (s : State) : Host.Outcome State Fault Refusal :=
  .next (if !s.pins.resetN then s
    else match u, codeFinds (wrongSymbols flips) s.freeNow with
    | .hbm l unit, found =>
      if 11718750 ≤ unit then s
      else match s.addrOfChannel l.val (64 * unit), found with
      | some a, .clean => s.misread flips a 64
      | some a, .corrected => (s.misread flips a 64).corrected l.val bank row
      | some a, .uncorrectable => s.uncorrectableAt a bank row
      | none, .clean => s
      | none, .corrected => s.corrected l.val bank row
      | none, .uncorrectable => s.uncorrectableUnit l.val unit bank row
    | .tile x, found =>
      let a := poisonUnit x
      if !addrFormed a ∨ addrSpace a ≠ 1 then s
      else match found with
      | .clean => s.misread flips a 32
      | .corrected => (s.misread flips a 32).count Reg.TIER_CE_TOTAL 1
      | .uncorrectable => s.uncorrectableAt a bank row)

/-- What the test leaves in a page's frame: the last pattern, each 8-byte word's own offset (R201). -/
def testPattern : List Byte := (List.range 2048).flatMap fun i => leBytes 8 (8 * i)

/-- A soft repair of a row, which lasts until power is removed (R201, R202). -/
def State.softRepair (s : State) (l bank row : Nat) : State :=
  let s := (s.markRow l bank row fun e => { e with softRepaired := true }).bump Reg.TIER_REPAIRS 0 16 1
  { s with tier := { s.tier with softRows := s.tier.softRows ++ [(l, bank, row)] } }

/-- A page is retired (R61, R202): its frame, and the rows that failed with no spare left, are remembered. -/
def State.retirePage (s : State) (p : Nat) (failed : List (Nat × Nat)) : State :=
  let a := s.pageAddr p
  let s := failed.foldl (fun s x => s.markRow (s.memLane a) x.1 x.2 fun e => { e with retired := true }) s
  let frame := match s.regionAt a 1 with
    | some r => [r.place a]
    | none => []
  ({ s with tier := { s.tier with retired := s.tier.retired ++ frame } }).setPage p { s.page p with qcause := 3 }

/-- QUARANTINE_TEST (R201, R202, R61): the scrub engine tests page `page`; `repaired` are the banks and rows that it repaired on the
way, and `failed` those that failed in banks without a spare. The test passes when there are none. -/
def execQuarantineTest (page : U32) (repaired failed : List (Nat × Nat)) (s : State) : Host.Outcome State Fault Refusal :=
  .next (let p := page.toNat
    if !s.testable p then s
    else
      let s := repaired.foldl (fun s x => s.softRepair (s.memLane (s.pageAddr p)) x.1 x.2) s
      let s := s.write (s.pageAddr p) testPattern
      if failed.isEmpty then s.setPage p { s.page p with state := .free, qcause := 0, changed := s.now } else s.retirePage p failed)

/-! ### The page auditor (R63, R64, R67) -/

/-- The four counts do not make TOTAL (R63). -/
def State.poolOff (s : State) : Bool := s.tier.free + s.tier.alloc + s.tier.inFlight + s.tier.quar ≠ s.tier.total

/-- The auditor is enabled (R67). -/
def State.auditOn (s : State) : Bool := s.flag Reg.TIER_POOL_AUDIT 0

/-- POOL_AUDIT_SAMPLE (R64): the first sample. -/
def execPoolAuditSample (s : State) : Host.Outcome State Fault Refusal :=
  .next (if s.auditOn then { s with tier := { s.tier with suspect := s.poolOff } } else s)

/-- Allocations are held and a recount begins, as a POOL recovery (R64 steps 2 and 3, R403). -/
def State.startRecount (s : State) : State :=
  ({ s with tier := { s.tier with held := true, recounting := true, suspect := false } }).causeRecovery { kind := .pool }

/-- POOL_AUDIT_RESAMPLE (R64, R395): a mismatch that has outlasted 1 µs is recorded, and the recount begins. -/
def execPoolAuditResample (s : State) : Host.Outcome State Fault Refusal :=
  .next (if s.auditOn && s.tier.suspect then
      if s.poolOff && !s.tier.recounting then
        let s := ((s.setFlag Reg.TIER_POOL_AUDIT 3 true).setFlag Reg.FAULT_AUDIT 0 true).bump Reg.TIER_POOL_AUDIT 16 16 1
        let s := s.raise { severity := .deferred, block := 0x008, cause := 0x0023
                           detail0 := BitVec.ofNat 64 (s.tier.free + s.tier.alloc + s.tier.inFlight + s.tier.quar), detail1 := BitVec.ofNat 64 s.tier.total }
        s.startRecount
      else { s with tier := { s.tier with suspect := false } }
    else s)

/-- RECOUNT (R67): software orders a recount, which holds allocations as R64 steps 2 to 4. -/
def execRecount (s : State) : Host.Outcome State Fault Refusal := .next (if s.tier.recounting then s else s.startRecount)

/-- The counts that a recount of every descriptor finds (R64 step 3). -/
def State.recounted (s : State) : State :=
  let n := fun (x : PageState) => s.tier.pages.countWhere fun _ d => decide (d.state = x)
  let a := n .allocated
  let f := n .inFlight
  let q := n .quarantined
  { s with tier := { s.tier with alloc := a, inFlight := f, quar := q, free := s.tier.total - a - f - q } }

/-- Requests for pages that the hold kept waiting are served (R64, R238). -/
def State.serveAll (s : State) : State :=
  (s.handoff.transfers.keysWhere fun _ t => decide (t.phase = .granting) && !t.holder).foldl (fun s id =>
    (if (s.transfer id).kind = .restore then s.retryGets id else s.serveCredit id).postCredit id) s

/-- RECOUNT_DONE (R64): `bad` is the first descriptor without a valid state, or unreadable, where there is one. -/
def execRecountDone (bad : Option Nat) (s : State) : Host.Outcome State Fault Refusal :=
  .next (if !s.tier.recounting then s
    else
      let s := s.recounted
      match bad with
      | some i => ((({ s with tier := { s.tier with recounting := false } }).setFlag Reg.TIER_POOL_AUDIT 4 true).fatal
          { severity := .fatal, block := 0x008, cause := 0x0024, detail0 := BitVec.ofNat 64 i })
      | none => ({ s with tier := { s.tier with recounting := false, held := false } }).serveAll)

/-- TIER_REGION_SEL (R203, R561). -/
def execTierRegionSelWrite (v : U32) (s : State) : Host.Outcome State Fault Refusal :=
  .next (let i := v.toNat % 1024
    let s := s.wr Reg.TIER_REGION_SEL (BitVec.ofNat 32 i)
    { s with tier := { s.tier with regionSnap := s.tier.regions.get i } })

end Sys2Proof.Machine
end

