-- ==== Sys2Proof/Machine/ChamOps.lean ====
section
/-! DEFINITION. The structures of a search index as they lie in memory (R340-R343), the delete log and the horizon (R346, R356),
segment frames (R341) and the start of a compaction (R358). -/

namespace Sys2Proof.Machine

/-! ### Index state (R340) -/

/-- A registered index. -/
def State.index (s : State) (i : Nat) : Index := s.cham.indexes.get i

/-- Replaces an index. -/
def State.setIndex (s : State) (i : Nat) (x : Index) : State := { s with cham := { s.cham with indexes := s.cham.indexes.set i x } }

/-- COMMITTED of an index, in its header (R340). -/
def State.committed (s : State) (i : Nat) : Nat := s.loadLE ((s.index i).header.addr + 0x58) 8

/-- The engine writes COMMITTED (R345, R346). -/
def State.commit (s : State) (i v : Nat) : State := s.write ((s.index i).header.addr + 0x58) (leBytes 8 v)

/-- Entries of a full segment, by M (R341). -/
def segEntries (m : Nat) : Nat := if m ≤ 16 then 8192 else if m ≤ 48 then 4096 else 2048

/-- Offsets in a segment of the slot, sequence and tombstone columns (R341). -/
def slotCol (m : Nat) : Nat := 64 + segEntries m * m

/-- Sequence column. -/
def seqCol (m : Nat) : Nat := slotCol m + 4 * segEntries m

/-- Tombstone column. -/
def tombCol (m : Nat) : Nat := seqCol m + 8 * segEntries m

/-- Address of a segment frame (R341). -/
def IndexHeader.segAt (h : IndexHeader) (seg : Nat) : Nat := h.segments + 262144 * seg

/-- COUNT of the segment at an address. -/
def State.segCount (s : State) (a : Nat) : Nat := s.loadLE (a + 2) 2

/-- NEXT of the segment at an address. -/
def State.segNext (s : State) (a : Nat) : Nat := s.loadLE (a + 8) 4

/-- No segment (R341). -/
abbrev noSeg : Nat := 0xFFFFFFFF

/-- Entry `i` of the segment at an address (R341). -/
def State.segEntry (s : State) (h : IndexHeader) (a seg i : Nat) : ListEntry :=
  { seg := seg, pos := i, code := s.bytes (a + 64 + i * h.m) h.m, slot := s.loadLE (a + slotCol h.m + 4 * i) 4
    seq := s.loadLE (a + seqCol h.m + 8 * i) 8, tombstone := (s.byte (a + tombCol h.m + i / 8)).getLsbD (i % 8) }

/-- Writes entry `i` of the segment at an address. -/
def State.putEntry (s : State) (h : IndexHeader) (a i : Nat) (e : ListEntry) : State :=
  let t := a + tombCol h.m + i / 8
  let b := s.byte t
  let bit : Byte := BitVec.ofNat 8 (2 ^ (i % 8))
  (((s.write (a + 64 + i * h.m) e.code).write (a + slotCol h.m + 4 * i) (leBytes 4 e.slot)).write (a + seqCol h.m + 8 * i) (leBytes 8 e.seq)).write t
    [if e.tombstone then b ||| bit else b &&& ~~~bit]

/-- Writes the header of a segment (R341). -/
def State.putSegHeader (s : State) (a count list next first last : Nat) : State :=
  s.write a (packBytes [(1, 1), (1, 0), (2, count), (4, list), (4, next), (4, 0), (8, first), (8, last)] ++ List.replicate 32 0)

/-- A directory entry (R342). -/
def State.dirEntry (s : State) (h : IndexHeader) (l : Nat) : DirEntry :=
  let a := h.directory + 16 * l
  { first := s.loadLE a 4, last := s.loadLE (a + 4) 4, count := s.loadLE (a + 8) 4, compacting := s.loadLE (a + 12) 1 % 2 = 1 }

/-- Writes a directory entry in one 16-byte write (R342, R358). -/
def State.putDir (s : State) (h : IndexHeader) (l : Nat) (d : DirEntry) : State :=
  s.write (h.directory + 16 * l) (packBytes [(4, d.first), (4, d.last), (4, d.count), (1, if d.compacting then 1 else 0), (3, 0)])

/-- Segments of a list from `seg`, in order; `fuel` bounds them. -/
def State.chain (s : State) (h : IndexHeader) : Nat → Nat → List Nat
  | 0, _ => []
  | fuel + 1, seg => if h.segCount ≤ seg then [] else seg :: s.chain h fuel (s.segNext (h.segAt seg))

/-- Segments of a list, in order (R342). -/
def State.listSegs (s : State) (h : IndexHeader) (l : Nat) : List Nat :=
  if (s.dirEntry h l).count = 0 then [] else s.chain h h.segCount (s.dirEntry h l).first

/-- Entries of a list in order (R342). -/
def State.listEntries (s : State) (h : IndexHeader) (l : Nat) : List ListEntry :=
  (s.listSegs h l).flatMap fun g => (List.range (s.segCount (h.segAt g))).map fun i => s.segEntry h (h.segAt g) g i

/-- Bytes of an item table entry (R343). -/
def IndexHeader.itemSize (h : IndexHeader) : Nat := if h.kind = 1 then 32 else 16

/-- Address of an item table entry. -/
def IndexHeader.itemAt (h : IndexHeader) (slot : Nat) : Nat := h.items + h.itemSize * slot

/-- An item table entry (R343). -/
def State.item (s : State) (h : IndexHeader) (slot : Nat) : ItemEntry :=
  let a := h.itemAt slot
  let p := s.loadLE (a + 12) 4
  { id := BitVec.ofNat 64 (s.loadLE a 8), seg := s.loadLE (a + 8) 4, pos := p % 8192, used := p / 8192 % 2 = 1, deleted := p / 16384 % 2 = 1
    holder := if h.kind = 1 then s.loadLE (a + 16) 2 else 0, prefixLen := if h.kind = 1 then s.loadLE (a + 20) 4 else 0
    tokenCrc := if h.kind = 1 then s.loadLE (a + 24) 8 else 0 }

/-- Writes an item table entry. -/
def State.putItem (s : State) (h : IndexHeader) (slot : Nat) (x : ItemEntry) : State :=
  s.write (h.itemAt slot) (packBytes [(8, x.id.toNat), (4, x.seg), (4, x.pos + (if x.used then 8192 else 0) + (if x.deleted then 16384 else 0))]
    ++ (if h.kind = 1 then packBytes [(2, x.holder), (2, 0), (4, x.prefixLen), (8, x.tokenCrc)] else []))

/-- The lowest slot without USED (R345; which of them the engine takes is log entry 15); `fuel` bounds the search. -/
def State.freeItem (s : State) (h : IndexHeader) : Nat → Nat → Option Nat
  | _, 0 => none
  | i, fuel + 1 => if (s.item h i).used then s.freeItem h (i + 1) fuel else some i

/-! ### The delete log and the horizon (R346, R355, R356) -/

/-- The horizon H of an index (R356). -/
def State.horizon (s : State) (i : Nat) : Nat :=
  let h := ((s.cham.batches.filter fun b => b.header.index == i).map Batch.snapshot).foldl min (s.committed i)
  if s.fnMode 5 = .hostAssist then min h s.cham.snapPoint else h

/-- Entry `k` of the delete log: its slot and sequence number (R346). -/
def State.delEntry (s : State) (h : IndexHeader) (k : Nat) : Nat × Nat := (s.loadLE (h.dellog + 16 * k) 4, s.loadLE (h.dellog + 16 * k + 8) 8)

/-- Delete-log entries that are not retired (R356): slots and sequence numbers. -/
def State.delLog (s : State) (i : Nat) : List (Nat × Nat) :=
  let x := s.index i
  ((List.range x.header.dellogCap).map (s.delEntry x.header)).filter fun d => decide (x.retired < d.2)

/-- The horizon has moved: entries at or below it are retired for good (R356). -/
def State.retire (s : State) (i : Nat) : State :=
  let x := s.index i
  if x.registered then s.setIndex i { x with retired := max x.retired (s.horizon i) } else s

/-! ### Segment frames (R341) -/

/-- A free frame for a new segment, in the channel after the one that received the previous segment, in the order of R186; the
lowest of that channel, and the next channel that has one (log entry 15). -/
def State.freeSeg (s : State) (i : Nat) : Option Nat :=
  let x := s.index i
  match s.regionAt x.header.segments 1 with
  | none => none
  | some r =>
    let cs := chList r.channels
    let k := (cs.findIdx? fun c => c == s.cham.lastChannel).getD (cs.length - 1)
    (List.range cs.length).findSome? fun j =>
      let c := cs.getD ((k + 1 + j) % cs.length) 0
      (List.range x.header.segCount).find? fun g => !x.usedSegs.contains g && decide ((r.place (x.header.segAt g)).1 = c)

/-- Takes a free frame. -/
def State.takeSeg (s : State) (i : Nat) : Option (Nat × State) :=
  (s.freeSeg i).map fun g =>
    let x := s.index i
    let s := s.setIndex i { x with usedSegs := x.usedSegs ++ [g] }
    (g, { s with cham := { s.cham with lastChannel := s.memLane (x.header.segAt g) } })

/-! ### Compaction (R358) -/

/-- Begins the compaction of the ordered lists of an index, unless NO_COMPACT is set: the compacting flag is written. -/
def State.startCompactions (s : State) (i : Nat) : State :=
  if s.flag Reg.CHAM_CTRL 2 then s
  else
    let x := s.index i
    let ls := x.ordered.filter fun l => !x.compacting.contains l
    let s := s.setIndex i { x with compacting := x.compacting ++ ls, ordered := x.ordered.filter fun l => x.compacting.contains l }
    ls.foldl (fun s l => s.putDir x.header l { s.dirEntry x.header l with compacting := true }) s

/-- Orders the compaction of a list (R358). -/
def State.orderCompaction (s : State) (i l : Nat) : State :=
  let x := s.index i
  let s := if x.ordered.contains l then s else s.setIndex i { x with ordered := x.ordered ++ [l] }
  s.startCompactions i

/-- A list whose tombstoned entries reach CHAM_COMPACT_PCT percent of its COUNT is compacted (R358). -/
def State.compactIfDue (s : State) (i l : Nat) : State :=
  let es := s.listEntries (s.index i).header l
  if (s.index i).compacting.contains l then s
  else if s.rdN Reg.CHAM_COMPACT_PCT * es.length ≤ 100 * (es.filter fun e => e.tombstone).length ∧ es ≠ [] then s.orderCompaction i l
  else s

end Sys2Proof.Machine
end

