-- ==== Sys2Proof/Machine/TrafficRegs.lean ====
section
/-! DEFINITION. Commands that are writes of one register each: traffic control, snapshots and clears of the network blocks, the
search engine's control, the device ID and the host interface's own registers (R301, R330, R333-R336, R357, R358, R363, R465, R467, R473, R474,
R558). -/

namespace Sys2Proof.Machine

/-! ### Traffic control (R330-R336) -/

/-- A signed 8-bit field. -/
def signed8 (v : Nat) : Int := if v % 256 < 128 then (v % 256 : Nat) else (v % 256 : Nat) - 256

/-- A policer; an unlisted tenant's is as after reset. -/
def State.policer (s : State) (t : Nat) : Policer := Tab.look {} t s.net.policers

/-- Replaces a policer. -/
def State.setPolicer (s : State) (t : Nat) (p : Policer) : State :=
  { s with net := { s.net with policers := Tab.place {} t p s.net.policers } }

/-- A shaper, keyed port × 8 + priority. -/
def State.shaper (s : State) (k : Nat) : Shaper := Tab.look {} k s.net.shapers

/-- Replaces a shaper. -/
def State.setShaper (s : State) (k : Nat) (x : Shaper) : State :=
  { s with net := { s.net with shapers := Tab.place {} k x s.net.shapers } }

/-- Write of RATE (0), BURST (1) or ADJ (2) of the selected policer: it takes effect at once, and the bucket is full (R333);
a value outside its range is ignored with CFG_ERR (R336). -/
def execPolicerWrite (field : Fin 3) (v : U32) (s : State) : Host.Outcome State Fault Refusal :=
  let t := s.rdN Reg.SHAPE_POL_SEL % 1024
  let p := s.policer t
  let n := v.toNat
  let full := { p with missing := 0, since := s.now }
  .next (match field with
    | 0 => if n ≤ 800000 then s.setPolicer t { full with rate := n } else s.setFlag Reg.SHAPE_STATUS 2 true
    | 1 => if 9236 ≤ n ∧ n ≤ 16777215 then s.setPolicer t { full with burst := n } else s.setFlag Reg.SHAPE_STATUS 2 true
    | _ => if -64 ≤ signed8 n then s.setPolicer t { full with adj := signed8 n } else s.setFlag Reg.SHAPE_STATUS 2 true)

/-- Write of SLOPE (0), HI (1), LO (2) or ADJ (3) of the selected shaper: it waits for the end of the port's frame (R333). -/
def State.writeShaper (s : State) (field : Fin 4) (v : U32) : State :=
  let k := s.field Reg.SHAPE_CBS_SEL 0 4 * 8 + s.field Reg.SHAPE_CBS_SEL 4 3
  let x := s.shaper k
  let n := v.toNat
  let (slope, hi, lo, adj) := x.pending.getD (x.slope, x.hi, x.lo, x.adj)
  let put (q : Nat × Nat × Nat × Int) : State := s.setShaper k { x with pending := some q }
  match field with
  | 0 => if n ≤ 800000 then put (n, hi, lo, adj) else s.setFlag Reg.SHAPE_STATUS 2 true
  | 1 => if n ≤ 16777215 then put (slope, n, lo, adj) else s.setFlag Reg.SHAPE_STATUS 2 true
  | 2 => if n ≤ 16777215 then put (slope, hi, n, adj) else s.setFlag Reg.SHAPE_STATUS 2 true
  | 3 => if -64 ≤ signed8 n then put (slope, hi, lo, signed8 n) else s.setFlag Reg.SHAPE_STATUS 2 true

/-- The frame that the port sends ends: a shaper's written settings take effect, and its credit is set to 0 (R333). -/
def execCbsSettingApply (port : Fin 16) (prio : Fin 8) (s : State) : Host.Outcome State Fault Refusal :=
  let k := port.val * 8 + prio.val
  .next (match (s.shaper k).pending with
    | none => s
    | some (slope, hi, lo, adj) => s.setShaper k { slope := slope, hi := hi, lo := lo, adj := adj, credit := 0 })

/-- A connection waits for its window in HOST_ASSIST mode (R330). -/
def State.windowWaits (s : State) (c : Conn) : Bool :=
  decide (s.fnMode 6 = .hostAssist) && decide (c.state = .ready) && c.attr.message && c.attr.multipath && decide (c.window = 0)

/-- Some connection waits for its window (R330). -/
def State.windowAwaited (s : State) : Bool := s.net.conns.anyWhere fun _ c => s.windowWaits c

/-- Write of SHAPE_CONN_WINDOW: in HOST_ASSIST mode PF0 of the assisting port sets the window of the selected MULTIPATH MESSAGE
connection; otherwise it is ignored (R29, R330). -/
def execShapeConnWindowWrite (x : PortWrite) (s : State) : Host.Outcome State Fault Refusal :=
  let n := s.rdN Reg.SHAPE_CONN_SEL % 8192
  let c := s.netConn n
  .next (if s.fnMode 6 = .hostAssist ∧ s.mayDecide 6 x.port = true ∧ c.state ≠ .free ∧ c.attr.message = true ∧ c.attr.multipath = true then
      let s := (s.setNetConn n { c with window := x.value.toNat }).sendWaiting n
      if s.windowAwaited then s else s.decided 6
    else s)

/-- Write of SHAPE_CTRL CLEAR_DROPS (R336). -/
def execShapeClearDrops (s : State) : Host.Outcome State Fault Refusal :=
  .next { s with net := { s.net with policers := s.net.policers.foldl (fun t e => Tab.place {} e.1 { e.2 with drops := 0 } t) [] } }

/-! ### Snapshots and clears (R301, R334) -/

/-- Write of NET_WIN_SEL: a snapshot of the selected RDMA window. -/
def execNetWinSelWrite (v : U32) (s : State) : Host.Outcome State Fault Refusal :=
  let n := v.toNat % 4096
  let s := s.wr Reg.NET_WIN_SEL (BitVec.ofNat 32 n)
  .next { s with net := { s.net with snap := some (s.net.windows.get n) } }

/-- Write of NET_CTRL CLEAR_COUNTS. -/
def execNetClearCounts (s : State) : Host.Outcome State Fault Refusal :=
  .next (((((s.wr Reg.NET_RETX 0).wr Reg.NET_DUP 0).wr Reg.NET_LATE 0).wr Reg.NET_REFUSED 0).wr Reg.NET_DROPPED 0)

/-- Write of STRAIT_WIN_SEL: a snapshot of the selected Strait window. -/
def execStraitWinSelWrite (v : U32) (s : State) : Host.Outcome State Fault Refusal :=
  let n := v.toNat % 256
  let s := s.wr Reg.STRAIT_WIN_SEL (BitVec.ofNat 32 n)
  .next { s with strait := { s.strait with snap := some (s.strait.windows.get n) } }

/-- Write of STRAIT_CTRL CLEAR_COUNTS. -/
def execStraitClearCounts (s : State) : Host.Outcome State Fault Refusal :=
  .next ((((s.wr Reg.STRAIT_TIMEOUTS 0).wr Reg.STRAIT_LATE 0).wr Reg.STRAIT_POISON_LOADS 0).wr Reg.STRAIT_REFUSED 0)

/-! ### Retraining (R277) -/

/-- Begins a retrain of a port: the retry buffer and the sequence numbers are kept; a DOWN port stays DOWN until a retrain
succeeds. A port that trains already goes on. -/
def State.startRetrain (s : State) (n : Nat) : State :=
  let p := s.sport n
  if !p.allocated || p.attempt || decide (p.state = .training) || decide (p.state = .retraining) then s
  else
    s.setSport n { p with
      state := if p.state = .up then .retraining else p.state
      attempt := decide (p.state = .down)
      retrains := satAdd 16 p.retrains 1, replaysNow := 0, nakSent := false }

/-- Write of STRAIT_CTRL RETRAIN: bit n retrains SPn at once (R301). -/
def execRetrain (ports : U16) (s : State) : Host.Outcome State Fault Refusal :=
  .next (((List.range 16).filter fun n => ports.getLsbD n).foldl State.startRetrain s)

/-! ### The search engine's registers (R357, R358, R363) -/

/-- Write of CHAM_COMPACT_CMD: compaction of a list of the selected index. -/
def execChamCompactCmd (v : U32) (s : State) : Host.Outcome State Fault Refusal :=
  let i := s.rdN Reg.CHAM_INDEX_SEL % 16
  let l := v.toNat % 2 ^ 20
  let x := s.index i
  .next (if x.registered = true ∧ l < x.header.nlist then s.orderCompaction i l else s)

/-- Write of CHAM_SNAP_POINT_HI: the compaction point of HOST_ASSIST mode, which never decreases (R357) and which only PF0 of the
assisting port gives (R29); ignored in HW mode. -/
def execChamSnapPointHiWrite (x : PortWrite) (s : State) : Host.Outcome State Fault Refusal :=
  let p := x.value.toNat * 2 ^ 32 + s.rdN Reg.CHAM_SNAP_POINT_LO
  .next (if s.fnMode 5 ≠ .hostAssist ∨ s.mayDecide 5 x.port = false then s
    else if p < s.cham.snapPoint then s.setFlag Reg.CHAM_STATUS 5 true
    else
      let s := s.wr Reg.CHAM_SNAP_POINT_HI x.value
      (List.range 16).foldl State.retire { s with cham := { s.cham with snapPoint := p } })

/-- Write of CHAM_CTRL HOLD: no further batch begins while it is set (R363). -/
def execChamHold (on : Bool) (s : State) : Host.Outcome State Fault Refusal := .next (s.setFlag Reg.CHAM_CTRL 0 on)

/-- Write of CHAM_CTRL CLEAR_COUNTS. -/
def execChamClearCounts (s : State) : Host.Outcome State Fault Refusal := .next ((s.wr Reg.CHAM_SHORT 0).wr Reg.CHAM_FAILED 0)

/-! ### The device ID (R558) -/

/-- Nothing remote is open: no READY connection, no window OPEN or REVOKING, no open transfer, and every Herd entry IDLE. -/
def State.nothingRemote (s : State) : Bool :=
  !(s.net.conns.anyWhere fun _ c => decide (c.state = .ready)) && !(s.strait.windows.anyWhere fun _ w => decide (w.state ≠ .free))
    && !(s.net.windows.anyWhere fun _ w => decide (w.state ≠ .free)) && !(s.handoff.transfers.anyWhere fun _ t => decide (t.phase ≠ .closed))
    && !(s.herd.entries.anyWhere fun _ e => decide (e.state ≠ .idle))

/-- Write of DEV_DEVICE_ID by PF0: it takes effect only while nothing remote is open; else CFG_ERR is set. -/
def execDevDeviceIdWrite (v : U32) (s : State) : Host.Outcome State Fault Refusal :=
  .next (if s.nothingRemote then s.wr Reg.DEV_DEVICE_ID (BitVec.ofNat 32 (v.toNat % 2 ^ 16)) else s.setFlag Reg.DEV_STATUS 2 true)

/-! ### The host interface's registers (R465, R467, R473, R474) -/

/-- Write of RESET in HOSTIF_WIN_CFG: the window is cleared, its ring counts are zero, and commands are counted from 0 again
(R467). Commands that run go on. -/
def State.resetWindow (s : State) (k : Nat) : State :=
  let w := s.win k
  let s := s.setWin k { w with error := false, head := 0, tail := 0, consumed := 0, slots := [], laps := [], ring := [] }
  State.drainWaiting w.waiting.length k s

/-- WINDOW_RESET (R467, R480): RESET of HOSTIF_WIN_CFG is written for a window. -/
def execWindowReset (w : WinRef) (s : State) : Host.Outcome State Fault Refusal := .next (s.resetWindow w.key)

/-- Write of HOSTIF_RING_HEAD: the host returns consumed records, and records that wait are written (R473). -/
def State.ringHead (s : State) (k : Nat) (v : U32) : State :=
  let s := s.setWin k { s.win k with head := v.toNat }
  State.drainWaiting (s.win k).waiting.length k s

/-- RING_HEAD_WRITE (R473, R480): the host moves the head of a window's ring. -/
def execRingHeadWrite (w : WinRef) (v : U32) (s : State) : Host.Outcome State Fault Refusal := .next (s.ringHead w.key v)

/-- HOSTIF_MSI_DELAY ends for a ring's vector: it is raised once, for every window of the port that shares it (R474). -/
def execMsiDelayExpiry (w : WinRef) (s : State) : Host.Outcome State Fault Refusal :=
  let x := s.win w.key
  .next (if x.msiPending then
      let shared := s.hostif.wins.keysWhere fun k y => decide (k % 2 = w.port.val) && y.vector == x.vector && y.msiPending
      (shared.foldl (fun s k => s.setWin k { s.win k with msiPending := false }) s).raiseMsi w.port.val x.vector
    else s)

/-- Write of HOSTIF_BAR4_BASE_HI: the BAR4 base moves (R465); a base that is no multiple of 1 GiB is ignored with CFG_ERR. -/
def execBar4BaseHiWrite (v : U32) (s : State) : Host.Outcome State Fault Refusal :=
  let lo := s.rdN Reg.HOSTIF_BAR4_BASE_LO
  .next (if lo % 2 ^ 30 ≠ 0 then s.setFlag Reg.HOSTIF_STATUS 3 true
    else
      let s := s.wr Reg.HOSTIF_BAR4_BASE_HI v
      { s with hostif := { s.hostif with bar4Base := BitVec.ofNat 64 (v.toNat * 2 ^ 32 + lo) } })

end Sys2Proof.Machine
end

