-- ==== Sys2Proof/Machine/Views.lean ====
section
/-! DEFINITION. What a read of a register gives: the common pair (R556), the fields that reflect the state of a block, the snapshots, and
the plain registers. Each function takes a byte offset within its block and answers `none` where the register is plain. -/

namespace Sys2Proof.Machine

/-- A bit at a position. -/
def bitAt (b : Bool) (i : Nat) : Nat := if b then 2 ^ i else 0

/-- The low or high word of a 64-bit value. -/
def loHi (v : Nat) (hi : Bool) : Nat := if hi then v / 2 ^ 32 % 2 ^ 32 else v % 2 ^ 32

/-- A 16-bit count that saturates. -/
def sat16 (n : Nat) : Nat := min n 65535

/-- Word `i` of a list of bytes, little-endian. -/
def wordOf (bs : List Byte) (i : Nat) : Nat := leNat ((bs.drop (4 * i)).take 4)

/-- A signed value in two's complement. -/
def twos (w : Nat) (x : Int) : Nat := (BitVec.ofInt w x).toNat

/-- The position of `o` in a row of `n` registers that starts at `base` with a stride, if it names one. -/
def rowIdx (o base stride n : Nat) : Option Nat :=
  if base ≤ o ∧ o < base + stride * n ∧ (o - base) % stride = 0 then some ((o - base) / stride) else none

/-- Self-tests of the present reset have run (R516, R529). -/
def State.tested (s : State) : Bool := s.sec.passed ≠ 0

/-- A cold reset has started the device: until then what it measures reads as after reset. -/
def State.everReset (s : State) : Bool := s.health.log.boots ≠ 0

/-- How many bits are set. -/
def popBits {w : Nat} (b : BitVec w) : Nat := (List.range w).countP fun i => b.getLsbD i

/-! ### Structures as bytes -/

/-- The 64 bytes of a region entry (R185). -/
def Region.bytes (r : Region) : List Byte :=
  packBytes [(2, r.id.toNat), (1, r.kind.toNat), (1, bitAt r.init 0 + bitAt r.zero 1 + bitAt r.readOnly 2), (1, r.partition.val),
    (1, r.space.val), (1, r.granule.val), (1, if r.space = 0 then r.chset.toNat else r.quadrant.val), (8, r.base), (8, r.size),
    (8, r.chBase), (8, r.initOff.toNat), (8, r.initCheck.toNat), (16, 0)]

/-- Code of a window state (R285, R312). -/
def WindowState.code : WindowState → Nat
  | .free => 0 | .opened => 1 | .revoking => 2

/-- The 32 bytes of a Strait window entry (R285). -/
def StraitWin.bytes (w : StraitWin) : List Byte :=
  packBytes [(1, 1), (1, w.state.code), (1, bitAt w.load 0 + bitAt w.store 1 + bitAt w.atomic 2 + bitAt w.privileged 3),
    (1, w.space.val + 16 * w.partition.val), (2, w.source.toNat), (2, w.gen.toNat), (8, w.base), (8, w.size), (4, w.inflight), (4, 0)]

/-- The 32 bytes of an RDMA window entry (R312). -/
def RdmaWin.bytes (w : RdmaWin) : List Byte :=
  packBytes [(1, 1), (1, w.state.code), (1, bitAt w.read 0 + bitAt w.write 1 + bitAt w.atomic 2), (1, w.space.val + 16 * w.partition.val),
    (2, w.gen.toNat), (2, 0), (4, w.spaceKey.toNat), (4, w.inflight), (8, w.base), (8, w.size)]

/-- The 128 bytes of a counter record (R376). -/
def AcctSnap.bytes (a : AcctSnap) : List Byte :=
  packBytes [(1, 1), (1, bitAt a.isOpen 0 + bitAt a.closed 1), (2, a.account), (4, 0), (8, a.interval), (8, a.use.promptRows),
    (8, a.use.genRows), (8, a.use.elandCycles), (8, a.use.laneCycles), (8, a.use.scanCycles), (8, a.use.moved), (8, a.use.netTx),
    (8, a.use.netRx), (8, a.use.energy), (8, a.use.deferred), (8, a.use.poisonRows), (8, a.use.admits), (8, a.use.delivered), (8, 0)]

/-- The 64 bytes of a fault record (R381); a ring position that holds none reads as zero. -/
def FaultRec.bytes (r : FaultRec) : List Byte :=
  if r.seq = 0 then List.replicate 64 0
  else packBytes [(1, 1), (1, r.info.severity.code), (1, r.info.status.toNat),
    (1, bitAt r.info.fence 0 + bitAt r.overflow 1 + bitAt r.recovery 2 + bitAt r.info.lifeLog 3), (2, r.info.block.toNat),
    (2, r.info.cause.toNat), (8, r.seq), (8, r.tide), (8, r.info.requestId.toNat), (8, r.info.detail0.toNat), (8, r.info.detail1.toNat),
    (2, match r.info.tenant with | some t => t.toNat + 0x8000 | none => 0), (2, r.info.unit.toNat), (1, r.info.islet.toNat),
    (1, r.info.die.toNat), (2, r.count), (4, r.epoch.toNat), (4, 0)]

/-- The record at a position of the fault ring. -/
def State.faultAt (s : State) (i : Nat) : FaultRec :=
  Tab.look { info := { severity := .corrected, block := 0, cause := 0 } } i s.fault.ring

/-! ### The blocks -/

/-- DEV (R557). -/
def State.viewDev (s : State) (o : Nat) : Option Nat :=
  if o = 0x100 then some (s.order.val + 16)
  else if o = 0x104 then some (s.pins.slot.toNat + bitAt s.pins.sb6 6 + bitAt s.pins.sb7 7)
  else if o = 0x10C then some (bitAt s.run 0 + bitAt s.unassigned 1 + bitAt (s.flag Reg.DEV_STATUS 2) 2)
  else none

/-- What a bitstream gives of STRUCT's registers (R462). -/
def Bitstream.view (b : Bitstream) (o : Nat) : Nat :=
  let sum (n w : Nat) (f : Nat → Nat) : Nat := ((List.range n).map fun i => f i * 2 ^ (w * i)).sum
  if o = 0x108 then b.role + 16 * b.preset + bitAt b.lanesOn 8 + bitAt b.chamOn 9 + 65536 * b.partCount
  else if o = 0x114 then sum 16 2 b.lane
  else if o = 0x118 then sum 16 2 fun n => b.lane (16 + n)
  else if o = 0x11C then sum 8 2 fun n => b.lane (32 + n)
  else if o = 0x120 ∨ o = 0x124 then loHi b.buildId.toNat (o == 0x124)
  else if o = 0x128 ∨ o = 0x12C then loHi b.check.toNat (o == 0x12C)
  else if o = 0x130 then 65536 * b.hwLevel.toNat
  else 0

/-- STRUCT (R462). -/
def State.viewStruct (s : State) (o : Nat) : Option Nat :=
  let x := s.struct
  if o = 0x100 then some (2 * s.bootRec.structBoot.val)
  else if o = 0x104 then
    some (bitAt x.loaded.isSome 0 + bitAt x.drain.isSome 1 + bitAt x.fallback 3 + bitAt x.unsigned 4 + 32 * x.slot.val
      + bitAt (s.flag Reg.STRUCT_STATUS 6) 6 + 256 * x.lastStatus.toNat + 65536 * x.lastSection)
  else if o = 0x10C then some ((List.range 10).map fun i => (s.fnMode i).code * 4 ^ i).sum
  else if o = 0x110 then some ((List.range 10).map fun i => (s.fnEntry i).port.val * 2 ^ i).sum
  else if o = 0x130 then some (0x100 + (match x.loaded with | some b => b.view o | none => 0))
  else if 0x108 ≤ o ∧ o ≤ 0x12C then some (match x.loaded with | some b => b.view o | none => 0)
  else if o = 0x13C then
    some (if s.draining then
        sat16 (s.herd.entries.countWhere fun _ e => decide (e.state ≠ .idle))
          + 65536 * sat16 (s.anchor.records.countWhere fun _ r => decide (r.state = .active))
      else 0)
  else none

/-- HERD (R91). -/
def State.viewHerd (s : State) (o : Nat) : Option Nat :=
  if o = 0x100 then some (s.rdN Reg.HERD_STEP_CTRL % 4 + 256 * (s.fnMode 0).code)
  else if o = 0x104 then
    some (bitAt s.herd.step.isSome 0 + bitAt (s.flag Reg.HERD_STEP_CTRL 1 && s.herd.step.isNone) 1 + bitAt s.herd.waitHost 2
      + s.rdN Reg.HERD_STEP_STATUS / 8 * 8)
  else if o = 0x128 ∨ o = 0x12C then some (loHi s.herd.stepNum (o == 0x12C))
  else if o = 0x138 then some (s.herd.entries.countWhere fun _ e => decide (e.state ≠ .idle))
  else if o = 0x148 ∨ o = 0x14C then some (match s.regionOfKind 8 with | some r => loHi r.start (o == 0x14C) | none => 0)
  else if o = 0x154 then
    let p := s.peer (s.field Reg.HERD_PEER_SEL 0 16)
    some (255 - p.reduce + bitAt p.suspect 8 + bitAt p.pinned 9)
  else match rowIdx o 0x180 4 32 with
    | some i => some (match s.herd.snap with | some x => wordOf x.bytes i | none => 0)
    | none => none

/-- Lowest clock among islets (R125, R152). -/
def State.lowestClock (s : State) (is : List Nat) : Nat := (is.map fun i => (s.isletClock i).1).foldl min 4095

/-- ELAND (R125). -/
def State.viewEland (s : State) (o : Nat) : Option Nat :=
  let running := s.eland.queue.any fun x => x.begun
  if o = 0x104 then
    some (bitAt running 0 + bitAt (s.flag Reg.ELAND_CTRL 0 && !running) 1 + bitAt (s.eland.fenced ≠ 0) 2
      + bitAt (s.eland.fenced = BitVec.allOnes 16) 3 + s.rdN Reg.ELAND_STATUS / 16 % 8 * 16 + 65536 * s.eland.queue.length)
  else if o = 0x114 then some s.eland.fenced.toNat
  else if o = 0x118 then some (if s.tested then 16 - popBits s.eland.fenced else 0)
  else if o = 0x124 then some (match s.eland.queue with | x :: _ => x.desc.serial.toNat | [] => 0)
  else match rowIdx o 0x20C 0x40000 4 with
    | some q => some (if s.everReset then s.lowestClock ((List.range 4).map fun k => saIslet (4 * q + k)) + 65536 * s.classMax 0 else 0)
    | none => none

/-- SPRING (R152). -/
def State.viewSpring (s : State) (o : Nat) : Option Nat :=
  if o = 0x104 then
    some (bitAt (!s.spring.queues.isEmpty || !s.spring.checks.isEmpty) 0 + bitAt (s.spring.fenced ≠ 0) 1
      + bitAt ((List.range 20).any s.stackOut) 2 + bitAt (s.spring.fenced = BitVec.allOnes 640) 3 + s.rdN Reg.SPRING_STATUS / 16 % 8 * 16)
  else if o = 0x138 then some (if s.tested then 640 - popBits s.spring.fenced else 0)
  else if o = 0x140 then
    let l := s.field Reg.SPRING_LANE_SEL 0 10
    some (min 15 (s.spring.strikes.get l) + bitAt (s.spring.fenced.getLsbD l) 4 + bitAt (s.spring.permanent.getLsbD l) 5
      + 64 * s.serving_ l + 65536 * (s.laneQueue l).length)
  else match rowIdx o 0x200 4 20, rowIdx o 0x308 0x10 4, rowIdx o 0x30C 0x10 4 with
    | some k, _, _ => some (s.spring.fenced.extractLsb' (32 * k) 32).toNat
    | _, some q, _ => some (s.spring.busy.get q / 1024 % 2 ^ 32)
    | _, _, some q => some (if s.everReset then s.lowestClock ((List.range 5).map fun k => laneIslet (32 * (5 * q + k))) else 0)
    | _, _, _ => none

/-- TIER (R66, R67, R203). What the hub state cache hits and misses is left open, so those two counts are free values once a bitstream is
loaded (log entry 2). -/
def State.viewTier (s : State) (o : Nat) : Option Nat :=
  let t := s.tier
  if o = 0x100 then some t.total
  else if o = 0x104 then some t.free
  else if o = 0x108 then some t.alloc
  else if o = 0x10C then some t.inFlight
  else if o = 0x110 then some t.quar
  else if o = 0x118 then
    let v := s.rdN Reg.TIER_POOL_AUDIT
    some (v % 2 + bitAt t.recounting 2 + v / 8 % 4 * 8 + v / 65536 * 65536)
  else if o = 0x140 then
    let v := s.rdN Reg.TIER_MAP_STATUS
    some (bitAt (s.regionList.any fun r => r.model.isNone) 0 + v / 2 % 4 * 2 + v / 256 % 256 * 256 + 65536 * min 1023 s.regionCount)
  else if o = 0x168 ∨ o = 0x16C then some (if s.struct.loaded.isSome then s.freeNow.toNat % 2 ^ 32 else 0)
  else if o = 0x204 then
    let c := t.channels.get (s.field Reg.TIER_CH_SEL 0 10)
    some (c.partition.val + bitAt (t.partitions.get c.partition.val).encrypt 3 + bitAt (s.testing (s.field Reg.TIER_CH_SEL 0 10)) 4 + 65536 * sat16 c.ue)
  else match rowIdx o 0x180 4 8, rowIdx o 0x240 4 16 with
    | some k, _ =>
      let p := t.partitions.get k
      some (bitAt p.active 0 + bitAt p.encrypt 1 + bitAt p.keyReady 2 + 65536 * (if p.active then t.channels.countWhere fun _ c => decide (c.partition.val = k) else 0))
    | _, some i => some (match t.regionSnap with | some r => wordOf r.bytes i | none => 0)
    | _, _ => none

/-- IBEX (R230). -/
def State.viewIbex (s : State) (o : Nat) : Option Nat :=
  let x := s.ibex
  let waiting := x.slots.anyWhere fun _ y => decide (y.state = .waiting)
  let noSlot := decide (x.slotsFree = 0)
  if o = 0x104 then
    some (bitAt waiting 0 + bitAt (s.flag Reg.IBEX_CTRL 0 && !waiting) 1
      + bitAt (noSlot && (!x.slotWait.isEmpty || x.queues.anyWhere fun _ q => !q.waiting.isEmpty)) 2 + s.rdN Reg.IBEX_STATUS / 8 % 8 * 8)
  else if o = 0x118 then some x.slotsFree
  else if o = 0x11C then some x.slotsBusy
  else if o = 0x148 then
    let m := s.field Reg.IBEX_MOVER_SEL 0 7
    some (bitAt (s.tested && !x.failedMovers.contains m) 0 + 65536 * min 4096 (x.movers.get m))
  else if o = 0x150 then
    let n := s.field Reg.IBEX_QUEUE_SEL 0 8
    let q := x.queues.get n
    let fence := match q.waiting with | d :: _ => d.flag 0 && s.queueBusy n | [] => false
    some (q.waiting.length + 512 * (n / 64) + bitAt (!q.waiting.isEmpty && noSlot) 11 + bitAt fence 12)
  else none

/-- HANDOFF (R266). -/
def State.viewHandoff (s : State) (o : Nat) : Option Nat :=
  let h := s.handoff
  if o = 0x104 then
    some (bitAt (h.mapped && decide (s.now < h.mapTide + s.grace)) 0
      + bitAt (s.ibex.slots.anyWhere fun _ y => decide (y.state = .waiting) && decide (y.awaits = .decision) && decide (y.fn = 2)) 1
      + s.rdN Reg.HANDOFF_STATUS / 4 % 8 * 4)
  else if o = 0x130 then some h.epoch.toNat
  else if o = 0x134 ∨ o = 0x138 then some (loHi h.mapTide (o == 0x138))
  else if o = 0x13C then
    let open_ (holder : Bool) : Nat := h.transfers.countWhere fun _ t => decide (t.phase ≠ .closed) && t.holder == holder
    some (sat16 (open_ true) + 65536 * sat16 (open_ false))
  else none

/-- Tags that are not free (R292). -/
def State.tagsBusy (s : State) : Nat := s.strait.tags.countWhere fun _ t => decide (t.state ≠ .free)

/-- Local device number of the domain as a global ID. -/
def State.domainPeer (s : State) (n : Nat) : U16 := BitVec.ofNat 16 (s.devId.toNat / 512 * 512 + n)

/-- STRAIT (R301). -/
def State.viewStrait (s : State) (o : Nat) : Option Nat :=
  let ports (f : StraitPort → Bool) : Nat := ((List.range 16).map fun n => bitAt (f (s.sport n)) n).sum
  if o = 0x104 then some (bitAt (!s.strait.heldReqs.isEmpty && decide (4096 ≤ s.tagsBusy)) 0 + s.rdN Reg.STRAIT_STATUS / 2 % 16 * 2)
  else if o = 0x11C then some (ports (fun p => decide (p.state = .up)) + 65536 * ports fun p => decide (p.state = .up) && p.half)
  else if o = 0x120 then some s.tagsBusy
  else if o = 0x138 then
    let d := s.domainPeer (s.field Reg.STRAIT_PEER_SEL 0 9)
    some (((s.livePlanes d).map fun n => 2 ^ n).sum + bitAt (s.isReady 0x00E && s.unreachable d) 16 + 131072 * min 15 (s.speer d).timeouts)
  else match rowIdx o 0x140 4 8, rowIdx o 0x200 4 64 with
    | some i, _ => some (match s.strait.snap with | some x => wordOf x.bytes i | none => 0)
    | _, some i =>
      let p := s.sport (i / 4)
      some (match i % 4 with
        | 0 => p.state.code + bitAt p.half 2 + bitAt p.allocated 3 + 65536 * p.buffer.length
        | 1 => p.replays
        | 2 => p.retrains + 65536 * p.auditErrs
        | _ => p.fecUncorr)
    | _, _ => none

/-- NET (R334). -/
def State.viewNet (s : State) (o : Nat) : Option Nat :=
  let c := s.netConn (s.field Reg.NET_CONN_SEL 0 13)
  if o = 0x104 then some (s.rdN Reg.NET_STATUS % 8 + bitAt s.obs.ptpLocked 3 + bitAt (s.flag Reg.NET_STATUS 4) 4)
  else if o = 0x11C then
    some ((s.net.conns.countWhere fun _ x => decide (x.state ≠ .free)) + 65536 * s.net.conns.countWhere fun _ x => decide (x.state = .error))
  else if o = 0x120 then some (s.net.windows.countWhere fun _ w => decide (w.state ≠ .free))
  else if o = 0x13C then
    some (if c.state = .free then 0 else
      c.state.code + bitAt c.attr.message 3 + bitAt c.attr.multipath 4 + 32 * min 63 (s.livePaths c).length + 65536 * c.attr.peer.toNat)
  else if o = 0x140 then
    some (if c.state = .free ∨ c.attr.message = true then 0
      else (c.rGranted + 2 ^ 33 - c.rConsumed - c.rReturned) % 2 ^ 32 % 65536 + 65536 * (c.held % 65536))
  else match rowIdx o 0x160 4 8, rowIdx o 0x200 4 64 with
    | some i, _ => some (match s.net.snap with | some x => wordOf x.bytes i | none => 0)
    | _, some i =>
      let p := s.net.ports.get (i / 4)
      some (match i % 4 with
        | 0 => p.state.code + bitAt p.allocated 2
        | 1 => p.fecUncorr
        | 2 => p.fcsErr
        | _ => p.pfcRx + 65536 * p.pfcTx)
    | _, _ => none

/-- SHAPE (R336); a shaper's setting reads as last written. -/
def State.viewShape (s : State) (o : Nat) : Option Nat :=
  let c := s.netConn (s.field Reg.SHAPE_CONN_SEL 0 13)
  let x := s.shaper (s.field Reg.SHAPE_CBS_SEL 0 4 * 8 + s.field Reg.SHAPE_CBS_SEL 4 3)
  let (slope, hi, lo, adj) := x.pending.getD (x.slope, x.hi, x.lo, x.adj)
  let p := s.policer (s.field Reg.SHAPE_POL_SEL 0 10)
  if o = 0x104 then some (bitAt s.windowAwaited 0 + s.rdN Reg.SHAPE_STATUS % 8 / 2 * 2 + 256 * (s.fnMode 6).code)
  else if o = 0x124 then some (if c.state = .free ∨ c.attr.message = false then 0 else s.windowOf c)
  else if o = 0x128 then some (c.delay % 2 ^ 32)
  else if o = 0x134 then some slope
  else if o = 0x138 then some hi
  else if o = 0x13C then some lo
  else if o = 0x140 then some (twos 8 adj)
  else if o = 0x144 then some (twos 32 x.credit)
  else if o = 0x154 then some p.rate
  else if o = 0x158 then some p.burst
  else if o = 0x15C then some (twos 8 p.adj)
  else if o = 0x160 then some p.drops
  else none

/-- A batch runs (R352). -/
def State.batchRuns (s : State) : Bool := s.cham.batches.any fun b => decide (b.phase ≠ .queued)

/-- CHAM (R363). -/
def State.viewCham (s : State) (o : Nat) : Option Nat :=
  let i := s.field Reg.CHAM_INDEX_SEL 0 4
  let x := s.index i
  if o = 0x104 then
    some (bitAt (s.batchRuns || s.cham.indexes.anyWhere fun _ y => !y.compacting.isEmpty) 0 + bitAt (s.flag Reg.CHAM_CTRL 0 && !s.batchRuns) 1
      + bitAt (!s.cham.failedUnits.isEmpty) 2 + s.rdN Reg.CHAM_STATUS / 8 % 8 * 8 + 256 * (s.fnMode 5).code)
  else if o = 0x118 then some s.cham.batches.length
  else if o = 0x120 ∨ o = 0x124 then some (loHi (s.cham.lookups / 1024) (o == 0x124))
  else if o = 0x130 then some (if s.tested then 80 - s.cham.failedUnits.length else 0)
  else if o = 0x144 then
    some (if x.registered then
        1 + bitAt (x.header.kind = 1) 1 + bitAt (!x.compacting.isEmpty) 2 + 256 * x.header.m + 65536 * x.header.dist + 262144 * x.header.tableFmt
      else 0)
  else if o = 0x148 ∨ o = 0x14C then some (loHi (if x.registered then s.committed i else 0) (o == 0x14C))
  else if o = 0x150 ∨ o = 0x154 then some (loHi (if x.registered then s.horizon i else 0) (o == 0x154))
  else if o = 0x160 then some (if x.registered then (s.delLog i).length else 0)
  else none

/-- TENANT (R378); intervals follow one another, so one is in progress once the block is READY. -/
def State.viewTenant (s : State) (o : Nat) : Option Nat :=
  let e := match s.selTenant with | some t => s.tenantOf t | none => {}
  let f := s.tenant.fnMap.get (s.field Reg.TENANT_FN_SEL 0 8)
  if o = 0x104 then some (bitAt (s.flag Reg.TENANT_STATUS 0) 0 + bitAt (s.isReady 0x016) 1)
  else if o = 0x114 then some ((e.sharePending.getD e.share).toNat + 65536 * e.partition.val + bitAt e.enable 19)
  else if o = 0x118 then some e.tokQuota
  else if o = 0x11C then some e.tokCap
  else if o = 0x120 then some (twos 32 e.tok)
  else if o = 0x124 then some e.admQuota
  else if o = 0x128 then some e.admCap
  else if o = 0x12C then some (twos 32 e.adm)
  else if o = 0x130 ∨ o = 0x134 then some (loHi e.vtime (o == 0x134))
  else if o = 0x13C then some (f.tenant.toNat + bitAt f.bound 15)
  else if o = 0x144 then
    let k := s.field Reg.TENANT_ECOEF_SEL 0 3
    some (if k = 6 then s.sec.staticMw else s.sec.ecoef.get k)
  else match rowIdx o 0x180 4 32 with
    | some i => some (match s.tenant.snap with | some x => wordOf x.bytes i | none => 0)
    | none => none

/-- FAULT (R407). -/
def State.viewFault (s : State) (o : Nat) : Option Nat :=
  let f := s.fault
  let r := f.recovery
  let d := s.field Reg.FAULT_PEER_SEL 0 16
  let p := s.peer d
  let waits := (p.barriers.take (s.rdN Reg.FAULT_SUSPECT_WINDOW)).map fun b => b.wait / 1000
  let t := s.field Reg.FAULT_TENANT_SEL 0 10
  let x := f.fences.get t
  let running := decide (r.step ≠ 0)
  if o = 0x104 then
    some (bitAt f.fatal 0 + bitAt s.faultFull 1 + bitAt running 2 + bitAt (f.fences.anyWhere fun _ y => y.fenced) 3
      + bitAt (s.rdN Reg.FAULT_AUDIT ≠ 0) 4 + bitAt (s.flag Reg.FAULT_STATUS 5) 5)
  else if o = 0x120 then some f.head
  else if o = 0x124 then some f.tail
  else if o = 0x128 then some ((List.range 4).map fun k => f.lost.get k * 256 ^ k).sum
  else if o = 0x130 then
    some (bitAt running 0 + 2 * r.step.val + 16 * (if running then r.cause.kind.code else r.lastKind) + 256 * min 255 s.recentRestarts.length
      + bitAt (running && decide (s.fnMode 8 = .hostAssist)) 16)
  else if o = 0x144 then some (f.causes.get (s.field Reg.FAULT_CAUSE_SEL 0 16))
  else if o = 0x14C then
    let bs := p.barriers.take (s.rdN Reg.FAULT_SUSPECT_WINDOW)
    some (lasts bs + 256 * bs.length + bitAt p.suspect 16 + bitAt (s.isFailed (BitVec.ofNat 16 d)) 17 + bitAt p.present 18)
  else if o = 0x150 then
    some (if waits.isEmpty then 0 else sat16 (waits.sum / waits.length) + 65536 * sat16 (waits.foldl max 0))
  else if o = 0x158 then
    some (bitAt x.fenced 0 + 2 * (if x.fenced then x.reason.val else 0) + 65536 * (if x.second = s.now / 1000000000 then x.contained else 0))
  else match rowIdx o 0x10000 4 16384 with
    | some i => some (wordOf (s.faultAt (i / 16)).bytes (i % 16))
    | none => none

/-- OBS (R410, R411, R432). -/
def State.viewObs (s : State) (o : Nat) : Option Nat :=
  let b := s.obs
  let w := b.windows.get (s.field Reg.OBS_WIN_SEL 0 2)
  let blocked := s.flag Reg.OBS_TRACE_CTRL 0 && s.traceBlock.isSome
  let size := if (s.regionOfKind 0x0A).isSome then s.traceN else 0
  if o = 0x104 then some (bitAt b.snap.isSome 0 + bitAt (s.flag Reg.OBS_STATUS 1) 1)
  else if o = 0x120 then
    some (b.state.code + bitAt (s.flag Reg.OBS_TIME_STATUS 3) 3 + bitAt b.ptpLocked 4 + s.rdN Reg.OBS_TIME_STATUS / 65536 * 65536)
  else if o = 0x124 ∨ o = 0x128 then some (loHi b.tide (o == 0x128))
  else if o = 0x144 then
    some (bitAt (s.flag Reg.OBS_TRACE_CTRL 0 && !blocked) 0 + bitAt blocked 1 + bitAt b.loss.isSome 2
      + 8 * (match b.loss with | some l => l.cause | none => 0) + 32 * b.windows.countWhere fun _ v => decide (v.state ≠ .free))
  else if o = 0x14C then some size
  else if o = 0x150 then some b.wpos
  else if o = 0x154 then some b.rpos
  else if o = 0x158 then some (match b.loss with | some l => l.count | none => 0)
  else if o = 0x15C then some b.seq
  else if o = 0x168 then
    some (if w.state = .free then 0
      else (match w.state with | .free => 0 | .filling => 1 | .locked => 2) + bitAt w.capped 2 + 256 * (fwd s.traceM w.start w.stop + 1))
  else if o = 0x16C then some (if w.state = .free then 0 else w.start)
  else if o = 0x560 ∨ o = 0x564 then some (match b.snap with | some x => loHi x.tide (o == 0x564) | none => 0)
  else match rowIdx o 0x400 4 24, rowIdx o 0x500 4 24 with
    | some i, _ => some (loHi (b.counters.get (i / 2)) (i % 2 == 1))
    | _, some i => some (match b.snap with | some x => loHi (x.counters.get (i / 2)) (i % 2 == 1) | none => 0)
    | _, _ => none

/-- HEALTH (R448). The life-log window reads as zero to all but PF0 (R447, R465), which is a rule of the reader. -/
def State.viewHealth (s : State) (o : Nat) : Option Nat :=
  let h := s.health
  let x := h.islets.get (s.field Reg.HEALTH_ISLET_SEL 0 7)
  let l := h.lanes.get (s.field Reg.HEALTH_LANE_SEL 0 8)
  if o = 0x104 then some (bitAt s.everReset 0 + bitAt h.log.permFull 1 + bitAt h.log.erasing.isSome 2 + s.rdN Reg.HEALTH_STATUS / 8 % 4 * 8)
  else if o = 0x124 then some (h.log.hours / 3600)
  else if o = 0x128 then some h.log.boots
  else if o = 0x134 then some (twos 16 x.temp + 65536 * twos 16 x.tempMax)
  else if o = 0x138 then some (min (2 ^ 24 - 1) x.stretches + 2 ^ 24 * min 255 x.longest)
  else if o = 0x13C then some (if x.sampled then x.margin % 1024 + 65536 * (1023 - x.marginDrop) else 0)
  else if o = 0x140 then some (twos 8 x.age + 256 * (x.birth % 256))
  else if o = 0x174 then some (l.h + 65536 * l.v)
  else if o = 0x178 ∨ o = 0x17C then some (loHi l.fec (o == 0x17C))
  else if o = 0x180 then some h.log.nextSeq
  else match rowIdx o 0x160 4 4, rowIdx o 0x1C0 4 16, rowIdx o 0x200 4 40 with
    | some i, _, _ => some (wordOf h.rowSnap.bytes i)
    | _, some i, _ => some (wordOf (match h.logSnap with | some r => r.bytes | none => List.replicate 64 0) i)
    | _, _, some i => some ((h.dies.get (i / 8)).hours.get (i % 8))
    | _, _, _ => none

/-- A window's registers, by offset from HOSTIF_WIN_CFG (R480). -/
def HostWin.view (w : HostWin) (o : Nat) : Nat :=
  if o = 0 then bitAt w.enable 0 + 4 * w.size.val + 64 * w.vector.toNat + bitAt w.error 17
  else if o = 4 ∨ o = 8 then loHi w.ringBase.toNat (o == 8)
  else if o = 0xC then w.head
  else if o = 0x10 then w.tail
  else if o = 0x14 then w.consumed % 2 ^ 32
  else 0

/-- HOSTIF (R480). -/
def State.viewHostif (s : State) (o : Nat) : Option Nat :=
  if o = 0x104 then some (bitAt (s.hostif.wins.anyWhere fun _ w => w.full) 0 + s.rdN Reg.HOSTIF_STATUS / 2 % 8 * 2)
  else if o = 0x120 then
    let p := s.tier.plans.get (s.field Reg.HOSTIF_PLAN_SEL 0 6)
    some (bitAt (p.loaded && !p.loading) 0 + bitAt p.loading 1 + 256 * p.status.toNat)
  else if 0x304 ≤ o ∧ o ≤ 0x318 then some ((s.win (s.field Reg.HOSTIF_WIN_SEL 0 16)).view (o - 0x304))
  else match rowIdx o 0x200 0x40 2 with
    | some p =>
      let x := s.hostif.ports.get p
      some (x.speed.val + 4 * x.width.val + bitAt x.ideSecure 7 + 65536 * x.losses)
    | none => none

/-- FW (R501). -/
def State.viewFw (s : State) (o : Nat) : Option Nat :=
  let f := s.fw
  let b := s.bootRec
  if o = 0x104 then
    some (f.service.code + bitAt f.conservative 2 + bitAt (s.flag Reg.FW_STATUS 3 || f.incompatible) 3 + bitAt f.session.isSome 4
      + 32 * f.handover.code + bitAt (s.flag Reg.FW_STATUS 8 || f.reverted) 8
      + bitAt (match f.session with | some x => !x.hw | none => false) 9 + bitAt (s.flag Reg.FW_STATUS 10) 10
      + 65536 * f.lastStatus.toNat + 2 ^ 24 * f.recoveryCause)
  else if o = 0x118 then
    some (((List.range 7).map fun i => (f.slots.get i).state.code * 4 ^ i).sum + bitAt (b.active = 3) 16 + bitAt (b.pending ≠ 0) 17)
  else if o = 0x11C then some f.svn
  else if o = 0x124 then some (f.secLevel.toNat + 65536 * (match f.run with | some i => i.imgIf.toNat | none => 0))
  else if o = 0x128 then some (match f.run with | some i => i.version.toNat | none => 0)
  else if o = 0x12C ∨ o = 0x130 then some (loHi f.features.toNat (o == 0x130))
  else if o = 0x134 then some (match f.session with | some x => x.next | none => 0)
  else if o = 0x138 then some (f.pauseLast / 1000)
  else if o = 0x13C then some (sat16 f.completed + 65536 * sat16 f.abandoned)
  else match rowIdx o 0x180 4 32 with
    | some i => some (match f.hdrSnap with | some x => wordOf x.header i | none => 0)
    | none => none

/-- Bits [19:0] of the hub security bank (R511). -/
def State.secFuses (s : State) : Nat :=
  let keys (f : SkeySlot → Bool) : Nat := ((List.range 4).map fun k => bitAt (f (s.sec.skeys.get k)) k).sum
  bitAt s.sec.debugLock 0 + bitAt s.sec.mldsaReq 1 + 16 * s.order.val + 256 * s.sec.novuoRevoke.toNat
    + 4096 * keys (fun k => k.revoked) + 65536 * keys (fun k => k.used)

/-- SEC (R523). -/
def State.viewSec (s : State) (o : Nat) : Option Nat :=
  let x := s.sec
  let id := (x.dieId.get (s.field Reg.SEC_DIE_SEL 0 3)).toNat
  if o = 0x104 then
    some (bitAt s.approved 0 + bitAt x.error 1 + bitAt (s.flag Reg.SEC_STATUS 4) 4 + 256 * x.enrollStatus.toNat
      + 65536 * min 255 (x.conns.map fun c => c.2.sessions.length).sum)
  else if o = 0x108 then some s.secFuses
  else if o = 0x110 then some (x.passed.toNat + 65536 * sat16 x.failures)
  else if o = 0x114 then some (x.keyReady.toNat + 256 * x.keyUnusable.toNat + 65536 * x.keyImported.toNat)
  else if o = 0x124 ∨ o = 0x128 then some (loHi id (o == 0x128))
  else if o = 0x12C then some (s.fw.secIf.toNat + 65536 * s.fw.secIfMin.toNat)
  else if o = 0x130 then some (sat16 x.errors + 65536 * sat16 x.sessionFails)
  else none

/-- PWR (R537). -/
def State.viewPwr (s : State) (o : Nat) : Option Nat :=
  let p := s.pwr
  let decided (k : Nat) : Bool := (List.range 112).any fun i => decide ((s.isletClock i).2 = k)
  if o = 0x104 then
    some (s.supplyCode + bitAt (s.everReset && p.vinAGood) 2 + bitAt (s.everReset && p.vinBGood) 3 + bitAt (decided 2) 4 + bitAt (decided 3) 5
      + s.rdN Reg.PWR_STATUS / 64 % 4 * 64 + 256 * p.capLevel.val + 4096 * p.lastReset)
  else if o = 0x118 then some s.softCap
  else if o = 0x11C then some (s.capInForce.1 + 65536 * s.capInForce.2)
  else if o = 0x120 then some p.capI3c
  else if o = 0x124 then some (sat16 s.meanInput)
  else if o = 0x128 ∨ o = 0x12C then some (loHi p.energy (o == 0x12C))
  else if o = 0x130 then some (if s.everReset then p.vinA + 65536 * p.vinB else 0)
  else if o = 0x134 then some (sat16 p.switchOvers + 65536 * sat16 p.returns)
  else if o = 0x144 then
    let i := s.field Reg.PWR_ISLET_SEL 0 7
    let (m, k) := s.isletClock i
    some (if s.everReset then m + 65536 * m + 2 ^ 28 * k else 0)
  else none

/-- The block that holds a BAR0 offset, and its base (R555). -/
def blockBase (a : Nat) : Nat × Nat :=
  if a < 0x100000 then (0, 0) else if a < 0x200000 then (1, 0x100000) else (a / 0x200000 * 2, a / 0x200000 * 0x200000)

/-- The loaded bitstream disables a block's engine (R453, R556): the lanes or the search engine. -/
def State.disabled (s : State) (block : Nat) : Bool :=
  match s.struct.loaded with
  | none => false
  | some b => (decide (block = 6) && !b.lanesOn) || (decide (block = 0x14) && !b.chamOn)

/-- What a read of a block's own registers gives. -/
def State.view (s : State) (block o : Nat) : Option Nat :=
  match block with
  | 0x00 => s.viewDev o | 0x01 => s.viewStruct o | 0x02 => s.viewHerd o | 0x04 => s.viewEland o | 0x06 => s.viewSpring o
  | 0x08 => s.viewTier o | 0x0A => s.viewIbex o | 0x0C => s.viewHandoff o | 0x0E => s.viewStrait o | 0x10 => s.viewNet o
  | 0x12 => s.viewShape o | 0x14 => s.viewCham o | 0x16 => s.viewTenant o | 0x18 => s.viewFault o | 0x1A => s.viewObs o
  | 0x1C => s.viewHealth o | 0x1E => s.viewHostif o | 0x20 => s.viewFw o | 0x22 => s.viewSec o | 0x24 => s.viewPwr o
  | _ => none

/-- A 4-byte read of BAR0 (R555, R556, R559): the common pair, a register of a block, or zero; WO bits read as zero (R11). -/
def State.readReg (s : State) (a : Nat) : U32 :=
  let (block, base) := blockBase a
  let o := a - base
  if 0x2600000 ≤ a then 0
  else if o = 0 then BitVec.ofNat 32 (0x100 + 65536 * block)
  else if o = 4 then BitVec.ofNat 32 (bitAt (s.isReady block) 0 + bitAt (s.disabled block) 1)
  else match regInfo? a with
    | none => 0
    | some i =>
      match s.view block o with
      | some v => BitVec.ofNat 32 v
      | none => s.rd a &&& ~~~i.wo

/-- Offsets of the LO words whose HI word, 4 bytes on, is latched when LO is read (R562), by block type. -/
def latchedLo (block o : Nat) : Bool :=
  match block with
  | 0x01 => o == 0x120 || o == 0x128
  | 0x02 => o == 0x128
  | 0x04 => o == 0x11C || o % 0x40000 == 0x200 || o % 0x40000 == 0x220
  | 0x06 => o == 0x11C || (decide (0x300 ≤ o ∧ o < 0x340) && o % 16 == 0)
  | 0x08 => o == 0x160
  | 0x0A => o == 0x124 || o == 0x12C
  | 0x0C => o == 0x134
  | 0x14 => o == 0x120 || o == 0x148 || o == 0x150
  | 0x16 => o == 0x130
  | 0x1A => o == 0x124 || o == 0x560 || (decide (0x400 ≤ o ∧ o < 0x560) && o % 8 == 0)
  | 0x1C => o == 0x178
  | 0x20 => o == 0x12C
  | 0x22 => o == 0x124
  | 0x24 => o == 0x128
  | _ => false

/-- Whether the register at `a` is such a LO word. -/
def latchesAt (a : Nat) : Bool := let (block, base) := blockBase a; latchedLo block (a - base)

/-- A 4-byte read by one reader (R562): LO latches the HI word of that moment for the reader, and HI gives what its LO
latched; a HI word whose LO the reader has not read gives its current value (log entry 92). -/
def State.readFor (s : State) (reader a : Nat) : State × U32 :=
  if latchesAt a then ({ s with latches := s.latches.set (reader * 2 ^ 26 + a + 4) (some (s.readReg (a + 4))) }, s.readReg a)
  else if 4 ≤ a ∧ latchesAt (a - 4) then (s, (s.latches.get (reader * 2 ^ 26 + a)).getD (s.readReg a))
  else (s, s.readReg a)

/-- A read by one reader of `n` bytes of registers from `a`, each 4 bytes little-endian, in rising order (R559). -/
def State.readRegs (s : State) (reader a n : Nat) : State × List Byte :=
  (List.range (n / 4)).foldl (fun (t, bs) i => let (t, v) := t.readFor reader (a + 4 * i); (t, bs ++ leBytes 4 v.toNat)) (s, [])

end Sys2Proof.Machine
end

