-- ==== Sys2Proof/Machine/RegWrite.lean ====
section
/-! DEFINITION. Writes of BAR0 registers: the access types of R11, the ranges and selectors of R560, the writes that act,
and who may write what (R465, R480, R486, R559). -/

namespace Sys2Proof.Machine


/-- The state that an effect leaves. -/
def after (f : State → Host.Outcome State Fault Refusal) (s : State) : State :=
  match f s with
  | .next t => t
  | _ => s

/-- The state that an effect leaves when a bit is written as 1. -/
def afterIf (b : Bool) (f : State → Host.Outcome State Fault Refusal) (s : State) : State := if b then after f s else s

/-- The bits of RWL fields count as RW until a bitstream is loaded (R11). -/
def State.writable (s : State) (i : RegInfo) : U32 := if s.struct.loaded.isSome then i.rw else i.rw ||| i.rwl

/-- A write of a register that is plain storage (R11): RW bits take the value, and W1C bits written as 1 are cleared. -/
def State.plainWrite (s : State) (i : RegInfo) (a : Nat) (v : U32) : State :=
  let m := s.writable i
  s.wr a (((s.rd a &&& ~~~m) ||| (v &&& m)) &&& ~~~(v &&& i.w1c))

/-- The number of values of a selector field that name a unit, its width, and the CFG_ERR of its block (R560). -/
def selectorLimit (a : Nat) : Option (Nat × Nat × Nat × Nat) :=
  if a = Reg.SPRING_LANE_SEL then some (10, 640, Reg.SPRING_STATUS, 6)
  else if a = Reg.TIER_CH_SEL then some (10, 640, Reg.TIER_MAP_STATUS, 2)
  else if a = Reg.IBEX_MOVER_SEL then some (7, 80, Reg.IBEX_STATUS, 5)
  else if a = Reg.HEALTH_ISLET_SEL then some (7, 112, Reg.HEALTH_STATUS, 4)
  else if a = Reg.HEALTH_LANE_SEL then some (8, 192, Reg.HEALTH_STATUS, 4)
  else if a = Reg.PWR_ISLET_SEL then some (7, 112, Reg.PWR_STATUS, 7)
  else if a = Reg.TENANT_ECOEF_SEL then some (3, 7, Reg.TENANT_STATUS, 0)
  else if a = Reg.TENANT_FN_SEL then some (8, 130, Reg.TENANT_STATUS, 0)
  else if a = Reg.SEC_DIE_SEL then some (3, 5, Reg.SEC_STATUS, 4)
  else none

/-- Windows of a function (R465): 16 of PF0, 64 of PF1, 4 of a VF. -/
def windowsOf (fn : Nat) : Nat := if fn = 0 then 16 else if fn = 1 then 64 else if fn ≤ 64 then 4 else 0

/-- A number on the layout of HOSTIF_WIN_SEL names a window that exists (R464, R465). -/
def windowExists (k : Nat) : Bool := decide (winNum k < windowsOf (winFn k))

/-- A write of a window's register at `o` from HOSTIF_WIN_CFG (R467, R473, R480): WIN_CFG, RING_BASE_LO and HI, RING_HEAD;
RING_TAIL and WIN_CONSUMED are read only. A ring size or a ring address outside its range is ignored with CFG_ERR. -/
def State.writeWindow (s : State) (k o : Nat) (v : U32) : State :=
  let w := s.win k
  let base := w.ringBase.toNat
  if o = 0 then
    let size := v.toNat / 4 % 16
    if 10 < size then s.setFlag Reg.HOSTIF_STATUS 3 true
    else
      let s := s.setWin k { w with enable := v.getLsbD 0, size := ⟨size, Nat.mod_lt _ (by decide)⟩, vector := BitVec.ofNat 11 (v.toNat / 64) }
      if v.getLsbD 1 then s.resetWindow k else s
  else if o = 4 then
    if v.toNat % 32 ≠ 0 then s.setFlag Reg.HOSTIF_STATUS 3 true
    else s.setWin k { w with ringBase := BitVec.ofNat 64 (base / 2 ^ 32 * 2 ^ 32 + v.toNat) }
  else if o = 8 then s.setWin k { w with ringBase := BitVec.ofNat 64 (v.toNat * 2 ^ 32 + base % 2 ^ 32) }
  else if o = 12 then s.ringHead k v
  else s

/-- What a write of a per-tenant quota or cap of the selected tenant sets; one above 2,147,483,647 is ignored with CFG_ERR
(R371, R378). -/
def State.writeQuota (s : State) (v : U32) (f : Tenant → Tenant) : State :=
  if 2 ^ 31 ≤ v.toNat then s.setFlag Reg.TENANT_STATUS 0 true
  else match s.selTenant with
    | some t => s.setTenant t (f (s.tenantOf t))
    | none => s

/-- Writes of DEV, STRUCT, HERD, ELAND and SPRING registers that act; `none` for a register that is plain storage. -/
def State.writeEngines (s : State) (a : Nat) (v : U32) : Option State :=
  let b (i : Nat) : Bool := v.getLsbD i
  if a = Reg.DEV_DEVICE_ID then some (after (execDevDeviceIdWrite v) s)
  else if a = Reg.STRUCT_CTRL then some (after (execBootSlotWrite (if b 1 then 1 else 0)) (afterIf (b 0) execAbortDrain s))
  else if a = Reg.STRUCT_DRAIN_MAX then
    some (if 1 ≤ v.toNat ∧ v.toNat ≤ 3600 then s.wr a v else s.setFlag Reg.STRUCT_STATUS 6 true)
  else if a = Reg.HERD_STEP_CTRL then
    some (afterIf (b 3) execClearMax (afterIf (b 2) execStepSingle (after (execStepPause (b 1)) (after (execStepRun (b 0)) s))))
  else if a = Reg.HERD_PEER_WEIGHT then some (after (execHerdPeerWeightWrite v) s)
  else if a = Reg.HERD_ENTRY_SEL then some (after (execHerdEntrySelWrite ⟨v.toNat % 65536, Nat.mod_lt _ (by decide)⟩) s)
  else if a = Reg.ELAND_CTRL then some (afterIf (b 1) execElandClearHwm (after (execElandHold (b 0)) s))
  else if a = Reg.ELAND_FENCED then some (after (execElandFencedWrite v) s)
  else if a = Reg.SPRING_CTRL then some (afterIf (b 0) execSpringClearCounts s)
  else if Reg.SPRING_FENCED ≤ a ∧ a < Reg.SPRING_FENCED + 80 then
    some (after (execSpringFencedWrite ⟨(a - Reg.SPRING_FENCED) / 4 % 20, Nat.mod_lt _ (by decide)⟩ v) s)
  else none

/-- The same for TIER, IBEX, HANDOFF, STRAIT, NET and SHAPE. -/
def State.writeMovement (s : State) (port : Option (Fin 2)) (a : Nat) (v : U32) : Option State :=
  let b (i : Nat) : Bool := v.getLsbD i
  let plain (s : State) : State := match regInfo? a with | some i => s.plainWrite i a v | none => s
  if Reg.TIER_SC_WAYS ≤ a ∧ a < Reg.TIER_SC_WAYS + 36 ∧ v.toNat % 65536 = 0 ∧ s.struct.loaded.isNone then
    some (s.setFlag Reg.TIER_MAP_STATUS 2 true)
  else if a = Reg.TIER_POOL_AUDIT then some (afterIf (b 1) execRecount (plain s))
  else if a = Reg.TIER_REGION_SEL then some (after (execTierRegionSelWrite v) s)
  else if a = Reg.IBEX_CTRL then
    some (afterIf (b 2) execIbexClearCounts (afterIf (b 1) execIbexClearHwm (after (execIbexHold (b 0)) s)))
  else if a = Reg.HANDOFF_CTRL then
    let s := plain s
    some (if b 2 then ((s.wr Reg.HANDOFF_ABORTS 0).wr Reg.HANDOFF_STALE 0).wr Reg.HANDOFF_LATE 0 else s)
  else if a = Reg.STRAIT_CTRL then some (afterIf (b 16) execStraitClearCounts (after (execRetrain (v.truncate 16)) s))
  else if a = Reg.STRAIT_WIN_SEL then some (after (execStraitWinSelWrite v) s)
  else if a = Reg.NET_CTRL then
    let s := afterIf (b 0) execNetClearCounts s
    let prios := ((List.range 8).filter fun i => b (i + 2)).length
    some (if s.struct.loaded.isSome then s else if 2 < prios then s.setFlag Reg.NET_STATUS 4 true else plain s)
  else if a = Reg.NET_WIN_SEL then some (after (execNetWinSelWrite v) s)
  else if a = Reg.SHAPE_CTRL then some (afterIf (b 0) execShapeClearDrops s)
  else if a = Reg.SHAPE_CONN_WINDOW then some (after (execShapeConnWindowWrite { port := port, value := v }) s)
  else if a = Reg.SHAPE_CBS_SLOPE then some (s.writeShaper 0 v)
  else if a = Reg.SHAPE_CBS_HI then some (s.writeShaper 1 v)
  else if a = Reg.SHAPE_CBS_LO then some (s.writeShaper 2 v)
  else if a = Reg.SHAPE_CBS_ADJ then some (s.writeShaper 3 v)
  else if a = Reg.SHAPE_POL_RATE then some (after (execPolicerWrite 0 v) s)
  else if a = Reg.SHAPE_POL_BURST then some (after (execPolicerWrite 1 v) s)
  else if a = Reg.SHAPE_POL_ADJ then some (after (execPolicerWrite 2 v) s)
  else none

/-- The same for CHAM and TENANT. -/
def State.writeSharing (s : State) (port : Option (Fin 2)) (a : Nat) (v : U32) : Option State :=
  let b (i : Nat) : Bool := v.getLsbD i
  if a = Reg.CHAM_CTRL then
    let off := s.flag a 2 && !b 2
    let s := afterIf (b 1) execChamClearCounts ((after (execChamHold (b 0)) s).setFlag a 2 (b 2))
    some (if off then (List.range 16).foldl State.startCompactions s else s)
  else if a = Reg.CHAM_COMPACT_CMD then some (after (execChamCompactCmd v) s)
  else if a = Reg.CHAM_SNAP_POINT_LO then some (if s.fnMode 5 = .hostAssist ∧ s.mayDecide 5 port = true then s.wr a v else s)
  else if a = Reg.CHAM_SNAP_POINT_HI then some (after (execChamSnapPointHiWrite { port := port, value := v }) s)
  else if a = Reg.TENANT_SEL then some (after (execTenantSelWrite v) s)
  else if a = Reg.TENANT_CFG then some (after (execTenantCfgWrite v) s)
  else if a = Reg.TENANT_TOK_QUOTA then some (s.writeQuota v fun t => { t with tokQuota := v.toNat })
  else if a = Reg.TENANT_TOK_CAP then some (s.writeQuota v fun t => { t with tokCap := v.toNat })
  else if a = Reg.TENANT_TOK_BALANCE then some (after (execTenantTokBalanceWrite v) s)
  else if a = Reg.TENANT_ADM_QUOTA then some (s.writeQuota v fun t => { t with admQuota := v.toNat })
  else if a = Reg.TENANT_ADM_CAP then some (s.writeQuota v fun t => { t with admCap := v.toNat })
  else if a = Reg.TENANT_ADM_BALANCE then some (after (execTenantAdmBalanceWrite v) s)
  else if a = Reg.TENANT_FN_MAP then
    let f : FnMap := { tenant := BitVec.ofNat 10 v.toNat, bound := b 15 }
    some { s with tenant := { s.tenant with fnMap := s.tenant.fnMap.set (s.field Reg.TENANT_FN_SEL 0 8) f } }
  else none

/-- The same for FAULT, OBS and HEALTH; `port` is the host port that the write came through. -/
def State.writeWatch (s : State) (env : WriteEnv) (port : Option (Fin 2)) (a : Nat) (v : U32) : Option State :=
  let b (i : Nat) : Bool := v.getLsbD i
  if a = Reg.FAULT_CTRL then some (afterIf (b 1) execInject (afterIf (b 0) execClearLost s))
  else if a = Reg.FAULT_RING_TAIL then some (after (execFaultRingTailWrite v) s)
  else if a = Reg.FAULT_TENANT_FENCE then some (after (execFaultTenantFenceWrite v) s)
  else if a = Reg.OBS_CTRL then some (afterIf (b 0) execSnap s)
  else if a = Reg.OBS_TIDE_NEXT_HI then some (after (execTideNextWrite v) s)
  else if a = Reg.OBS_PULSE_COMP then
    some (if -1000 ≤ v.toInt ∧ v.toInt ≤ 1000 then s.wr a v else s.setFlag Reg.OBS_STATUS 1 true)
  else if a = Reg.OBS_TRACE_CTRL then
    let s := afterIf (b 3) execTraceReset s
    let s := if b 1 == s.flag a 1 then s else if s.flag a 0 then s.setFlag Reg.OBS_STATUS 1 true else s.setFlag a 1 (b 1)
    let s := if s.flag a 0 && !b 0 then s.flushLoss else s
    some (afterIf (b 2) execMark (s.setFlag a 0 (b 0)))
  else if a = Reg.OBS_TRACE_RPOS then some (after (execObsTraceRposWrite v) s)
  else if a = Reg.OBS_TRACE_TRIGGER then
    some (match port with
      | some p => afterIf (b 0) (execObsTraceTrigger p) s
      | none => afterIf (b 0 && decide (s.fnMode 7 ≠ .hostAssist)) (execObsTraceTrigger 0) s)
  else if a = Reg.OBS_WIN_UNLOCK then some (after (execObsWinUnlock ⟨v.toNat % 4, Nat.mod_lt _ (by decide)⟩) s)
  else if Reg.OBS_TRIG_CFG ≤ a ∧ a < Reg.OBS_TRIG_CFG + 64 ∧ a % 8 = 0 ∧ 4 < v.toNat / 256 % 8 then
    some (s.setFlag Reg.OBS_STATUS 1 true)
  else if a = Reg.HEALTH_CTRL then some (afterIf (b 1) execHealthClearDropped (afterIf (b 0) (execEyeNow env.eyes) s))
  else if a = Reg.HEALTH_ROW_SEL then some (after (execHealthRowSelWrite ⟨v.toNat % 4096, Nat.mod_lt _ (by decide)⟩) s)
  else if a = Reg.HEALTH_LOG_SEL then some (after (execHealthLogSelWrite ⟨v.toNat % 131072, Nat.mod_lt _ (by decide)⟩) s)
  else none

/-- The same for HOSTIF, FW, SEC and PWR. -/
def State.writeManage (s : State) (env : WriteEnv) (a : Nat) (v : U32) : Option State :=
  let b (i : Nat) : Bool := v.getLsbD i
  let plain (s : State) : State := match regInfo? a with | some i => s.plainWrite i a v | none => s
  let key : U16 := BitVec.ofNat 16 (v.toNat / 65536)
  if a = Reg.HOSTIF_CTRL then
    let s := plain s
    some (if b 2 then s.wr Reg.HOSTIF_DROPPED 0 else s)
  else if a = Reg.HOSTIF_BAR4_BASE_HI then some (after (execBar4BaseHiWrite v) s)
  else if a = Reg.HOSTIF_WIN_SEL then
    some (if windowExists (v.toNat % 65536) then plain s else s.setFlag Reg.HOSTIF_STATUS 3 true)
  else if Reg.HOSTIF_WIN_CFG ≤ a ∧ a < Reg.HOSTIF_WIN_CFG + 24 then
    some (s.writeWindow (s.field Reg.HOSTIF_WIN_SEL 0 16) (a - Reg.HOSTIF_WIN_CFG) v)
  else if a = Reg.FW_CTRL then some (afterIf (b 2) execFwAbort (plain s))
  else if a = Reg.FW_SVN_ADVANCE then some (after (execFwSvnAdvance v) s)
  else if a = Reg.FW_SEL then some (after (execFwSelWrite v) s)
  else if a = Reg.SEC_CTRL then some (afterIf (b 1) (execEnroll env.enrolSigs) (afterIf (b 0) (execSelftest env.pass env.inlineFail) s))
  else if a = Reg.SEC_FUSE_CMD then
    some (match v.toNat % 16 with
      | 1 => after (execBlowDebugLock key) s
      | 2 => after (execBlowMldsaReq key) s
      | _ => s.setFlag Reg.SEC_STATUS 4 true)
  else if a = Reg.PWR_CTRL then some (afterIf (b 1) execPwrClearCounts (after (execPreferB (b 0)) s))
  else if a = Reg.PWR_CAP then some (after (execPwrCapWrite v) s)
  else if a = Reg.PWR_RESET then
    some (match v.toNat % 4 with
      | 1 => after (execPwrResetWarm key env.boot) s
      | 2 => after (execPwrResetCold key env.boot) s
      | _ => s.setFlag Reg.PWR_STATUS 7 true)
  else none

/-- The first of the writes above that acts at an address. -/
def State.writeActs (s : State) (env : WriteEnv) (port : Option (Fin 2)) (a : Nat) (v : U32) : Option State :=
  (((s.writeEngines a v).or (s.writeMovement port a v)).or (s.writeSharing port a v)).or
    ((s.writeWatch env port a v).or (s.writeManage env a v))

/-- A 4-byte write of a BAR0 register (R11, R34, R35, R555, R560): a profile or an expert field waits for the step boundary,
a write that acts does so, a selector beyond its units is ignored with CFG_ERR, and any other register takes its RW and W1C
bits; an offset that no chapter assigns ignores the write. -/
def State.regWrite (s : State) (env : WriteEnv) (port : Option (Fin 2)) (a : Nat) (v : U32) : State :=
  if (blockOfProfile a).isSome then after (execProfileSelect a v) s
  else if (expertAt a).isSome then after (execExpertFieldWrite a v) s
  else match s.writeActs env port a v with
  | some t => t
  | none =>
    match selectorLimit a, regInfo? a with
    | _, none => s
    | some (width, units, err, bit), some i => if units ≤ v.toNat % 2 ^ width then s.setFlag err bit true else s.plainWrite i a v
    | none, some i => s.plainWrite i a v

/-- A write of `size` bytes, 4 or 8 and aligned: an 8-byte write is two of 4 bytes, the lower address first (R559); any other
has no effect. -/
def State.regWrites (s : State) (env : WriteEnv) (port : Option (Fin 2)) (a size : Nat) (v : U64) : State :=
  if size = 4 ∧ a % 4 = 0 then s.regWrite env port a (v.truncate 32)
  else if size = 8 ∧ a % 8 = 0 then
    (s.regWrite env port a (v.truncate 32)).regWrite env port (a + 4) (BitVec.ofNat 32 (v.toNat / 2 ^ 32))
  else s

/-- A host port takes register accesses: it is not lost, and its IDE stream is secure where that is required (R477, R479). -/
def State.portOpen (s : State) (p : Fin 2) : Bool :=
  !(s.hostif.ports.get p.val).lost && (!s.flag Reg.HOSTIF_CTRL p.val || (s.hostif.ports.get p.val).ideSecure)

/-- The level of service lets PF0 write a block (R486): in RECOVERY the blocks DEV, SEC, FW, HOSTIF, HEALTH and STRUCT; in
MINIMAL HOSTIF alone, for the windows that the firmware commands come through. -/
def State.serves (s : State) (block : Nat) : Bool :=
  match s.fw.service with
  | .normal => true
  | .recovery => [0, 1, 0x1C, 0x1E, 0x20, 0x22].contains block
  | .minimal => block == 0x1E

/-- The window register that a function other than PF0 names, as its window's key and the offset from HOSTIF_WIN_CFG (R465,
R480): PF1 at the addresses of BAR0 when the selected window is its own, a VF in its own page. -/
def State.ownWindow (s : State) (port : Fin 2) (fn : Fin 65) (a : Nat) : Option (Nat × Nat) :=
  if fn.val = 1 then
    let k := s.field Reg.HOSTIF_WIN_SEL 0 16
    if Reg.HOSTIF_WIN_CFG ≤ a ∧ a < Reg.HOSTIF_WIN_CFG + 24 ∧ winPort k = port.val ∧ winFn k = 1 then some (k, a - Reg.HOSTIF_WIN_CFG)
    else none
  else if 0x1000 ≤ a ∧ a < 0x1000 + 4 * 0x20 then some (port.val + 2 * fn.val + 256 * ((a - 0x1000) / 0x20), (a - 0x1000) % 0x20)
  else none

/-- A 4-byte write from a function (R465): PF0 writes every block that the service serves; PF1 and VFs write only their own
window registers, and PF1 selects a window of its own. -/
def State.hostWrite (s : State) (env : WriteEnv) (port : Fin 2) (fn : Fin 65) (a : Nat) (v : U32) : State :=
  if fn.val = 0 then (if s.serves (blockBase a).1 then s.regWrite env (some port) a v else s)
  else if fn.val = 1 ∧ a = Reg.HOSTIF_WIN_SEL then
    (if winPort v.toNat = port.val ∧ winFn (v.toNat % 65536) = 1 then s.regWrite env (some port) a v else s)
  else match s.ownWindow port fn a with
    | some (k, o) => s.writeWindow k o v
    | none => s

/-- REGISTER_WRITE (R11, R465, R559, R560): a write of 4 or 8 aligned bytes by a function; `env` gives what the tests or the
reset that it may start will find. Nothing is written while RESET_N is low. -/
def execRegisterWrite (port : Fin 2) (fn : Fin 65) (addr size : Nat) (v : U64) (env : WriteEnv) (s : State) :
    Host.Outcome State Fault Refusal :=
  .next (if !s.portOpen port ∨ s.pins.resetN = false then s
    else if size = 4 ∧ addr % 4 = 0 then s.hostWrite env port fn addr (v.truncate 32)
    else if size = 8 ∧ addr % 8 = 0 then
      (s.hostWrite env port fn addr (v.truncate 32)).hostWrite env port fn (addr + 4) (BitVec.ofNat 32 (v.toNat / 2 ^ 32))
    else s)

end Sys2Proof.Machine
end

