-- ==== Sys2Proof/Machine/StraitTarget.lean ====
section
/-! DEFINITION. The device as the target of Strait transactions: spaces and windows (R278, R283, R285, R286), loads, stores
and atomics (R280-R283), and mover units (R284, R221). -/

namespace Sys2Proof.Machine

/-! ### Responses -/

/-- The device answers transactions: it is neither in FATAL (R389) nor without an ID (R558). -/
def State.answers (s : State) : Bool := s.alive && !s.unassigned

/-- Slots of a response (R281): its header, and its data. -/
def StraitResp.slots (r : StraitResp) : Nat := 1 + (if r.opcode = 0x92 then 1 else (r.data.length + 15) / 16)

/-- Sends a response on the next live plane to its requester (R288; the plane is log entry 15); where no plane is live nothing
can be sent. -/
def State.sendResp (s : State) (r : StraitResp) : State :=
  if (s.livePlanes r.dst).isEmpty then s
  else
    let (n, s) := s.nextPlane r.dst
    s.onPlane n chRsp r.slots (.response r)

/-- Counts a request refused as target (R286, STRAIT_REFUSED). -/
def State.countRefused (s : State) (st : Byte) : State :=
  if st = stKEY_REVOKED then s.bump Reg.STRAIT_REFUSED 0 16 1 else if st = stPRIVILEGE then s.bump Reg.STRAIT_REFUSED 16 16 1 else s

/-! ### Windows (R285, R286) -/

/-- What a request does. -/
inductive StraitAccess where
  | load | store | atomic
  deriving DecidableEq, Repr

/-- The window's access bits allow it. -/
def StraitWin.allows (w : StraitWin) : StraitAccess → Bool
  | .load => w.load
  | .store => w.store
  | .atomic => w.atomic

/-- Spaces reached through privileged windows only (R278). -/
def privilegedSpace (space : Nat) : Bool := space == 1 || space == 2

/-- Check of a request against the windows (R286): KEY_REVOKED where no OPEN window has the key, PRIVILEGE where the access
falls outside the one that has it. -/
def State.windowCheck (s : State) (src key : U16) (acc : StraitAccess) (space off n : Nat) : Except Byte StraitWin :=
  match s.strait.windows.find? fun (_, w) => decide (w.state = .opened) && w.gen == key with
  | none => .error stKEY_REVOKED
  | some (_, w) =>
    if decide (w.space.val = space) && decide (w.base ≤ off) && decide (off + n ≤ w.base + w.size) && w.allows acc
        && (if w.source = 0xFFFF then s.sameDomain src else w.source == src) && (!privilegedSpace space || w.privileged) then .ok w
    else .error stPRIVILEGE

/-- Device-local address of an offset of a space that is memory (R182, R278): HBM, the tile store, or the trace reserve. -/
def State.spaceAddr (s : State) (space off : Nat) : Option Nat :=
  match space with
  | 0 => some off
  | 1 => some (2 ^ 44 + off)
  | 3 => (s.regionOfKind 0x0A).map fun r => r.start + off
  | _ => none

/-- Status with which an admitted access to memory is refused (R183, R191, R507): the partition is the window's, a
privileged one's too, and device regions are open to privileged windows; a window into the tile store or the trace reserve reaches
what it names. -/
def State.memoryStatus (s : State) (w : StraitWin) (space off n : Nat) (write : Bool) : Option Byte :=
  match s.spaceAddr space off with
  | none => some stPRIVILEGE
  | some a =>
    match s.accessStatus a n w.partition.val (w.privileged || decide (space = 3)) write, s.regionAt a n with
    | some st, _ => some st
    | none, some r =>
      if (write && s.indexRegion r) || (decide (space = 3) && decide (r.kind ≠ 0x0A))
          || (!privilegedKind r.kind.toNat && decide (r.partition ≠ w.partition)) then some stPRIVILEGE else none
    | none, none => some stPRIVILEGE

/-! ### Memory requests (R280-R283) -/

/-- Bytes of a request by its size code (R280); codes 6-15 are reserved. -/
def sizeOfCode (c : Nat) : Option Nat := if c ≤ 5 then some (8 * 2 ^ c) else none

/-- Kind of access of an operation. -/
def StraitOp.access : StraitOp → StraitAccess
  | .load => .load
  | .store => .store
  | _ => .atomic

/-- Response opcode of an operation (R282). -/
def StraitOp.answer : StraitOp → Byte
  | .load => 0x90
  | .store => 0x91
  | _ => 0x92

/-- The space allows the kind of access, with `n` bytes (R278, R283). -/
def spaceAllows (space n : Nat) : StraitAccess → Bool
  | .load => decide (space ≤ 3)
  | .store => decide (space ≤ 1) || (decide (space = 2) && decide (n = 8))
  | .atomic => decide (space = 0) && decide (n = 8)

/-- The word that poisoned data reads as (R198, R293). -/
def poisonWord : List Byte := List.replicate 8 0xFF

/-- Bytes read from memory, each poisoned 8-byte word as the poison word (R293). -/
def State.loadWords (s : State) (a n : Nat) : List Byte :=
  (List.range (n / 8)).flatMap fun i => if s.poisoned (a + 8 * i) 8 then poisonWord else s.seen (a + 8 * i) 8

/-- New value of an atomic's word from the old one and the two words of its data slot (R283). -/
def StraitOp.apply (op : StraitOp) (old x y : U64) : U64 :=
  match op with
  | .fetchAdd => old + x
  | .swap => x
  | .cas => if old = x then y else old
  | .fetchAnd => old &&& x
  | .fetchOr => old ||| x
  | .fetchXor => old ^^^ x
  | .fetchMin => if x.toInt < old.toInt then x else old
  | .fetchMax => if old.toInt < x.toInt then x else old
  | .load | .store => old

/-- What executing a request gives: the state, the status, the data, and whether they hold poison. -/
structure StraitRun where
  state : State
  status : Byte := 0
  data : List Byte := []
  poison : Bool := false

/-- An admitted request on memory at device-local address `a` (R283, R293). -/
def State.runMemory (s : State) (op : StraitOp) (a n : Nat) (data : List Byte) (poison : Bool) : StraitRun :=
  match op with
  | .load =>
    let p := s.poisoned a n
    { state := s, status := if p then stPOISON else stOK, data := s.loadWords a n, poison := p }
  | .store => { state := s.writeP a (data.take n) poison }
  | op =>
    if s.poisoned a 8 then { state := s, status := stPOISON, data := poisonWord, poison := true }
    else
      let old := BitVec.ofNat 64 (s.seenLE a 8)
      let x := BitVec.ofNat 64 (leNat (data.take 8))
      let y := BitVec.ofNat 64 (leNat ((data.drop 8).take 8))
      { state := s.write a (leBytes 8 (op.apply old x y).toNat), data := leBytes 8 old.toNat }

/-- Executes a memory request on this device (R278-R286): its form, its window, and what it names. `env` gives what a register
write that starts a test or a reset will find. -/
def State.runRequest (s : State) (env : WriteEnv) (op : StraitOp) (src key : U16) (addr : U64) (size : Option Nat) (data : List Byte)
    (poison : Bool) : StraitRun :=
  let space := addr.toNat / 2 ^ 44 % 16
  let off := addr.toNat % 2 ^ 44
  let refuse (st : Byte) : StraitRun := { state := s.countRefused st, status := st }
  match size with
  | none => refuse stMALFORMED
  | some n =>
    if !spaceAllows space n op.access ∨ off % n ≠ 0 then refuse stMALFORMED
    else match s.windowCheck src key op.access space off n with
      | .error st => refuse st
      | .ok w =>
        if space = 2 then
          match op with
          | .load => let (t, data) := s.readRegs src.toNat off n; { state := t, data := data }
          | _ => { state := s.regWrites env none off n (BitVec.ofNat 64 (leNat (data.take 8))) }
        else match s.memoryStatus w space off n (op.access != .load), s.spaceAddr space off with
          | some st, a => { state := (s.refuse st (a.getD off) w.partition.val none).countRefused st, status := st }
          | none, none => refuse stPRIVILEGE
          | none, some a => s.runMemory op a n data poison

/-- A memory request arrives from a peer: it is executed and answered. A request that names another device is not this
device's (R279). -/
def State.serveRequest (s : State) (env : WriteEnv) (op : StraitOp) (r : StraitReq) : State :=
  if !s.answers ∨ r.address.extractLsb' 48 16 ≠ s.devId then s
  else
    let flags := r.sizeFlags.toNat
    let x := s.runRequest env op r.src r.key r.address (sizeOfCode (flags % 16)) r.data (flags / 16 % 2 = 1)
    x.state.sendResp { opcode := op.answer, sizeFlags := BitVec.ofNat 8 (flags % 16 + (if x.poison then 16 else 0)), src := s.devId, tag := r.tag
                       status := x.status, dst := r.src, data := x.data }

/-- LOAD (R280-R286). -/
def execLoad (r : StraitReq) (s : State) : Host.Outcome State Fault Refusal := .next (s.serveRequest {} .load r)

/-- STORE (R280-R286); a store to registers acts as a register write. -/
def execStore (r : StraitReq) (env : WriteEnv) (s : State) : Host.Outcome State Fault Refusal := .next (s.serveRequest env .store r)

/-- SWAP (R283). -/
def execSwap (r : StraitReq) (s : State) : Host.Outcome State Fault Refusal := .next (s.serveRequest {} .swap r)

/-- CAS (R283). -/
def execCas (r : StraitReq) (s : State) : Host.Outcome State Fault Refusal := .next (s.serveRequest {} .cas r)

/-- FETCH_AND (R283). -/
def execFetchAnd (r : StraitReq) (s : State) : Host.Outcome State Fault Refusal := .next (s.serveRequest {} .fetchAnd r)

/-- FETCH_OR (R283). -/
def execFetchOr (r : StraitReq) (s : State) : Host.Outcome State Fault Refusal := .next (s.serveRequest {} .fetchOr r)

/-- FETCH_XOR (R283). -/
def execFetchXor (r : StraitReq) (s : State) : Host.Outcome State Fault Refusal := .next (s.serveRequest {} .fetchXor r)

/-- FETCH_MIN (R283). -/
def execFetchMin (r : StraitReq) (s : State) : Host.Outcome State Fault Refusal := .next (s.serveRequest {} .fetchMin r)

/-- FETCH_MAX (R283). -/
def execFetchMax (r : StraitReq) (s : State) : Host.Outcome State Fault Refusal := .next (s.serveRequest {} .fetchMax r)

/-! ### Mover units (R284) -/

/-- What a unit meets: it waits for a newer map (R265), or it is answered with a response. -/
inductive UnitTaken where
  | held
  | answer (s : State) (u : MoverUnit)

/-- The response to a unit. -/
def State.unitResponse (s : State) (u : MoverUnit) (st : Byte) : MoverUnit :=
  { opcode := if u.opcode = 0x41 then 0xC0 else 0xC1, poison := st == stPOISON, src := s.devId, slot := u.slot
    target := BitVec.ofNat 64 (u.src.toNat * 2 ^ 48), requestId := u.requestId, epoch := u.epoch, tileSlot := u.tileSlot, status := st }

/-- A unit is refused. -/
def State.refuseUnit (s : State) (u : MoverUnit) (st : Byte) : UnitTaken := .answer s (s.unitResponse u st)

/-- The receiving transfer whose grant `credit` for a request holds a page. -/
def State.grantOf (s : State) (credit : U32) (req : U64) (page : Nat) : Option Nat :=
  (s.handoff.transfers.find? fun (_, t) =>
    !t.holder && decide (t.phase ≠ .closed) && t.requestId == req
      && t.grants.any fun g => g.creditId == credit && g.pages.contains page).map Prod.fst

/-- TILE_PUT at its target (R60, R221, R222, R284): a page IN_FLIGHT under the grant takes the tile when its tag matches; a
poisoned tile is written with poison and stays unsealed. The last tile of a range lets its receiver commit (R242). -/
def State.putUnit (s : State) (u : MoverUnit) : UnitTaken :=
  let r := PageRef.ofWord u.target
  let g := s.page r.page
  match s.grantOf u.creditId u.requestId r.page with
  | none => s.refuseUnit u stPRIVILEGE
  | some id =>
    if g.state ≠ .inFlight then s.refuseUnit u stPRIVILEGE
    else if !r.ok ∨ g.tileCount ≤ u.tileSlot ∨ u.data.length ≠ tileSize g.format.toNat then s.refuseUnit u stMALFORMED
    else if r.replica ∧ (s.transfer id).kind ≠ .replica then s.refuseUnit u stFENCED
    else if s.sec.keyUnusable.getLsbD g.partition.val then s.refuseUnit u stFENCED
    else if u.poison then .answer (s.putTile r.page u.tileSlot u.data true) (s.unitResponse u stPOISON)
    else if BitVec.ofNat 64 (crc64 u.data) ≠ u.check then .answer s (s.unitResponse u stCHECK_FAIL)
    else
      let s := (s.putTile r.page u.tileSlot u.data false).sealWith r.page u.tileSlot u.check
      .answer (s.checkCommit id) (s.unitResponse u stOK)

/-- TILE_GET at its target (R47, R284): a page ALLOCATED to the request gives the tile and its tag. A tile that is not sealed
is sealed as it is taken; a poisoned one stays unsealed, and the tag sent is the one its descriptor holds. -/
def State.getUnit (s : State) (u : MoverUnit) : UnitTaken :=
  let r := PageRef.ofWord u.target
  let g := s.page r.page
  if g.state ≠ .allocated ∨ g.requestId ≠ u.requestId then s.refuseUnit u stPRIVILEGE
  else if !r.ok ∨ g.tileCount ≤ u.tileSlot then s.refuseUnit u stMALFORMED
  else if s.sec.keyUnusable.getLsbD g.partition.val then s.refuseUnit u stFENCED
  else
    let p := s.tilePoisoned r.page u.tileSlot
    let s := if g.sealed.getLsbD u.tileSlot then s else s.sealSlot r.page u.tileSlot
    let a := s.unitResponse u (if p then stPOISON else stOK)
    .answer s { a with data := s.tileBytes r.page u.tileSlot, check := (s.page r.page).tag u.tileSlot }

/-- BYTE_PUT at its target (R222, R278, R284, R286): into the message window, whose message is taken by the command of its
kind, or through a window into memory. -/
def State.bytesUnit (s : State) (u : MoverUnit) : UnitTaken :=
  let n := u.data.length
  let space := u.target.toNat / 2 ^ 44 % 16
  let off := u.target.toNat % 2 ^ 44
  if n = 0 ∨ 16384 < n then s.refuseUnit u stMALFORMED
  else if inMessageWindow u.target then .answer s (s.unitResponse u stOK)
  else if 1 < space then s.refuseUnit u stMALFORMED
  else match s.windowCheck u.src u.key .store space off n with
    | .error st => s.refuseUnit u st
    | .ok w => match s.memoryStatus w space off n true, s.spaceAddr space off with
      | some st, a => (s.refuse st (a.getD off) w.partition.val none u.requestId).refuseUnit u st
      | none, none => s.refuseUnit u stPRIVILEGE
      | none, some a => .answer (s.writeP a u.data u.poison) (s.unitResponse u stOK)

/-- A unit at its target: its EPOCH is checked first (R264, R265, R284). -/
def State.takeUnit (s : State) (u : MoverUnit) : UnitTaken :=
  let age := epochDiff u.epoch s.handoff.epoch
  if 0 < age then .held
  else if age < 0 ∧ s.handoff.mapTide + s.grace ≤ s.now then s.refuseUnit u stSTALE_MAP
  else if u.opcode = 0x40 then s.putUnit u
  else if u.opcode = 0x41 then s.getUnit u
  else s.bytesUnit u

/-- Sends the response to a unit that came over the Strait fabric; a refusal is counted (R286). -/
def State.answerUnit (s : State) (u : MoverUnit) : State :=
  let s := s.countRefused u.status
  let d : U16 := u.target.extractLsb' 48 16
  if (s.livePlanes d).isEmpty then s
  else
    let (n, s) := s.nextPlane d
    s.onPlane n chRsp u.slots (.unit u)

/-- A unit arrives over the Strait fabric; its destination is this device. -/
def State.serveUnit (s : State) (u : MoverUnit) : State :=
  if !s.answers ∨ u.target.extractLsb' 48 16 ≠ s.devId then s
  else match s.takeUnit u with
    | .held => { s with handoff := { s.handoff with heldUnits := s.handoff.heldUnits ++ [(u, none)] } }
    | .answer t a => t.answerUnit a

/-- TILE_PUT (R284). -/
def execTilePut (u : MoverUnit) (s : State) : Host.Outcome State Fault Refusal := .next (s.serveUnit { u with opcode := 0x40 })

/-- TILE_GET (R284). -/
def execTileGet (u : MoverUnit) (s : State) : Host.Outcome State Fault Refusal := .next (s.serveUnit { u with opcode := 0x41 })

/-- BYTE_PUT (R284). -/
def execBytePut (u : MoverUnit) (s : State) : Host.Outcome State Fault Refusal := .next (s.serveUnit { u with opcode := 0x42 })

end Sys2Proof.Machine
end

