-- ==== Sys2Proof/Machine/StraitTags.lean ====
section
/-! DEFINITION. The device as the requester of Strait transactions: tags (R292), order and fences (R289, R290), live masks
(R291), timeouts and unreachable peers (R293-R295), the Sound gateway (R298-R300) and the end of revocations (R287, R314). -/

namespace Sys2Proof.Machine

/-! ### Tags and answers (R292-R294) -/

/-- A tag. -/
def State.tag (s : State) (n : Nat) : StraitTag := s.strait.tags.get n

/-- Replaces a tag. -/
def State.setTag (s : State) (n : Nat) (t : StraitTag) : State := { s with strait := { s.strait with tags := s.strait.tags.set n t } }

/-- A store or atomic that a fence covers (R290). -/
def StraitFence.covers (f : StraitFence) (issuer : Issuer) (op : StraitOp) (dst : U16) (order : Nat) : Bool :=
  decide (f.issuer = issuer) && decide (op ≠ .load) && decide (order < f.before)
    && (match f.dest with | none => true | some d => d == dst)

/-- Every store and atomic that a fence covers has been answered (R290). -/
def State.fenceMet (s : State) (f : StraitFence) : Bool :=
  !(s.strait.tags.anyWhere fun _ t => decide (t.state = .waiting) && f.covers t.issuer t.op t.dst t.order)
    && !(s.strait.heldReqs.any fun r => f.covers r.issuer r.op (r.address.extractLsb' 48 16) r.order)

/-- The failing answer that comes first in issue order. -/
def earliest (xs : List StraitDone) : Option StraitDone :=
  xs.foldl (fun b x => match b with
    | none => some x
    | some y => if x.order < y.order then some x else some y) none

/-- A fence completes: with the status of the earliest failing answer it covers (R290), among every earlier store and atomic of the
issuer. -/
def State.endFence (s : State) (f : StraitFence) : State :=
  let st := match earliest (s.strait.failed.filter fun x => f.covers x.issuer x.op x.dst x.order) with | some x => x.status | none => stOK
  { s with strait := { s.strait with fenceDone := (f.issuer, st) :: s.strait.fenceDone } }

/-- Fences that are met complete, in the order of their issue. -/
def State.checkFences (s : State) : State :=
  let (s, left) := s.strait.fences.foldl (fun (x : State × List StraitFence) f =>
    if x.1.fenceMet f then (x.1.endFence f, x.2) else (x.1, x.2 ++ [f])) (s, [])
  { s with strait := { s.strait with fences := left } }

/-- A load has completed with poison: it is counted, and the first to its destination in a millisecond writes POISON_LOAD
(R293). -/
def State.poisonLoad (s : State) (d : U16) (addr : U64) (st : Byte) : State :=
  let s := s.count Reg.STRAIT_POISON_LOADS 1
  let p := s.speer d
  if p.poisonMs = s.msStamp then s
  else (s.setSpeer d { p with poisonMs := s.msStamp }).raise
    { severity := .deferred, block := 0x00E, cause := 0x0031, status := st, unit := d, detail0 := addr }

/-- A request completes to its issuer (R290, R293, R294). -/
def State.finishReq (s : State) (x : StraitDone) (addr : U64) : State :=
  let s := if x.op = .load ∧ x.poison = true then s.poisonLoad x.dst addr x.status else s
  let failed := if x.op ≠ .load ∧ 0x10 ≤ x.status.toNat then s.strait.failed ++ [x] else s.strait.failed
  ({ s with strait := { s.strait with answered := x :: s.strait.answered, failed := failed } }).checkFences

/-- What a request that gets no data reads as (R293, R294): the poison word in every word of a load, and in the word of an
atomic. -/
def deadData (op : StraitOp) (size : Nat) : List Byte :=
  match op with
  | .load => List.replicate size 0xFF
  | .store => []
  | _ => poisonWord

/-- A request completes without reaching its target (R293, R558). -/
def State.finishDead (s : State) (r : StraitHeld) (st : Byte) (poison : Bool) : State :=
  s.finishReq { issuer := r.issuer, op := r.op, dst := r.address.extractLsb' 48 16, order := r.order, status := st
                data := if poison then deadData r.op r.size else [], poison := poison } r.address

/-- A WAITING tag commits DONE with an answer. -/
def State.tagDone (s : State) (n : Nat) (st : Byte) (data : List Byte) (poison : Bool) : State :=
  let t := s.tag n
  (s.setTag n { t with state := .free }).finishReq
    { issuer := t.issuer, op := t.op, dst := t.dst, order := t.order, status := st, data := data, poison := poison } t.address

/-- A WAITING tag commits TIMED_OUT with TIMEOUT, or TARGET_DEAD at the mark of its peer (R292-R295). -/
def State.tagTimedOut (s : State) (n : Nat) (st : Byte) : State :=
  let t := s.tag n
  (s.count Reg.STRAIT_TIMEOUTS 1).tagDone n st (deadData t.op t.size) (t.op != .store)

/-- WAITING tags that satisfy `p`, oldest first. -/
def State.waitingTags (s : State) (p : StraitTag → Bool) : List Nat :=
  sortBy (fun a b => decide ((s.tag a).order ≤ (s.tag b).order)) (s.strait.tags.keysWhere fun _ t => decide (t.state = .waiting) && p t)

/-! ### A connection in ERROR (R309, R320) -/

/-- The outcome of a message that will not be answered goes to its slot or its tags (R309, R323). -/
def State.itemDead (s : State) (x : NetItem) (st : Byte) : State :=
  match x with
  | .put ref _ | .get ref _ => match s.waitingAt ref with
    | some n => s.failUnits n st
    | none => s
  | .write tags => tags.foldl (fun s t => if (s.tag (t % 4096)).state = .waiting ∧ (s.tag (t % 4096)).gen = t / 4096
      then s.tagDone (t % 4096) st [] false else s) s
  | .read t | .atomic t => if (s.tag (t % 4096)).state = .waiting ∧ (s.tag (t % 4096)).gen = t / 4096
      then s.tagDone (t % 4096) st (deadData (s.tag (t % 4096)).op (s.tag (t % 4096)).size) true else s
  | .none => s

/-- Every outstanding message of a connection completes TARGET_DEAD; nothing is sent or held on it any more. -/
def State.dropMessages (s : State) (n : Nat) : State :=
  let c := s.netConn n
  let held := (c.heldPkts.map fun p => p.payload.length).sum
  let s := s.setNetConn n { c with unacked := [], toSend := [], out := [], heldPkts := [], waitingOps := [] }
  let s := { s with net := { s.net with holdBytes := s.net.holdBytes - held } }
  c.out.foldl (fun s x => s.itemDead x.2.item stTARGET_DEAD) s

/-- A READY connection enters ERROR: a packet reached NET_RETRY retransmissions, or its peer is marked failed. -/
def State.connError (s : State) (n : Nat) : State :=
  let c := s.netConn n
  if c.state ≠ .ready then s
  else
    let s := s.setNetConn n { c with state := .error }
    let s := (s.setFlag Reg.NET_STATUS 1 true).raise
      { severity := .contained, block := 0x010, cause := 0x0038, status := stTARGET_DEAD, unit := BitVec.ofNat 16 n, detail0 := c.attr.peer.zeroExtend 64 }
    s.dropMessages n

/-- Connections whose peer is marked failed enter ERROR (R309). -/
def State.settleFailed (s : State) : State :=
  (s.net.conns.keysWhere fun _ c => decide (c.state = .ready) && decide (c.attr.peer ≠ 0xFFFF)
    && (s.isFailed c.attr.peer || (s.speer c.attr.peer).unreachable)).foldl State.connError s

/-! ### The Sound gateway (R298-R300) -/

/-- Takes the lowest-numbered free tag; its generation advances (R292). -/
def State.takeTag (s : State) (t : StraitTag) : Option (Nat × State) :=
  (s.strait.tags.first (fun x => decide (x.state = .free)) 4096).map fun n =>
    (n, s.setTag n { t with state := .waiting, gen := ((s.tag n).gen + 1) % 16 })

/-- A tag with its generation, as a request carries it. -/
def State.tagWord (s : State) (n : Nat) : Nat := (s.tag n).gen * 4096 + n

/-- The gathered write of a route is sent (R299). -/
def State.flushRoute (s : State) (i : Nat) : State :=
  let w := s.strait.writes.get i
  let r := s.strait.routes.get i
  if !w.active then s
  else
    let s := { s with strait := { s.strait with writes := s.strait.writes.set i {} } }
    s.netSend r.conn (.write w.stores) w.data.length fun msn => .message r.conn msn 0xC0 r.key (w.addr - r.base) w.data w.poison

/-- Routes whose gathered write holds a store of an issuer that a fence waits for (R299). -/
def State.flushFenced (s : State) (f : StraitFence) : State :=
  (s.strait.writes.keysWhere fun _ w => w.active && w.stores.any fun t => f.covers (s.tag (t % 4096)).issuer .store (s.tag (t % 4096)).dst (s.tag (t % 4096)).order).foldl
    State.flushRoute s

/-- A store joins the gathered write of its route, or starts the next one (R299). -/
def State.gather (s : State) (i addr : Nat) (data : List Byte) (poison : Bool) (tag : Nat) : State :=
  let w := s.strait.writes.get i
  let joins := w.active && decide (w.addr + w.data.length = addr) && decide (w.data.length + data.length ≤ 4096) && w.poison == poison
  let s := if joins then s else s.flushRoute i
  let w := s.strait.writes.get i
  let w : GwWrite := if w.active then { w with data := w.data ++ data, stores := w.stores ++ [tag] }
    else { active := true, addr := addr, data := data, stores := [tag], since := s.now, poison := poison }
  let s := { s with strait := { s.strait with writes := s.strait.writes.set i w } }
  if 4096 ≤ w.data.length then s.flushRoute i else s

/-- The route of a request to another domain, or the status that refuses it (R298, R300, R308): KEY indexes the table, the route
names the device and the address, spaces 1 and 2 are not reached, and of the atomics only FETCH_ADD and CAS have an RDMA
counterpart. -/
def State.gwRoute (s : State) (r : StraitHeld) : Except Byte (Nat × Route) :=
  let i := r.key.toNat
  let x := s.strait.routes.get i
  let a := r.address.toNat % 2 ^ 48
  if 1024 ≤ i ∨ !x.valid ∨ x.dst ≠ r.address.extractLsb' 48 16 ∨ a < x.base ∨ x.base + x.size < a + r.size ∨ privilegedSpace (a / 2 ^ 44) then
    .error stPRIVILEGE
  else if r.op.access = .atomic ∧ r.op ≠ .fetchAdd ∧ r.op ≠ .cas then .error stMALFORMED
  else if (s.netConn x.conn).state ≠ .ready then .error stNOT_READY
  else .ok (i, x)

/-- A request through the gateway, with its tag taken (R299, R300). -/
def State.gwSend (s : State) (r : StraitHeld) (i : Nat) (x : Route) (n : Nat) : State :=
  let a := r.address.toNat % 2 ^ 48
  let t := s.tagWord n
  match r.op with
  | .store => s.gather i a (r.data.take r.size) r.poison t
  | .load => s.netSend x.conn (.read t) r.size fun msn => .message x.conn msn 0xC2 x.key (a - x.base) [] false
  | _ => s.netSend x.conn (.atomic t) 8 fun msn => .message x.conn msn 0xC4 x.key (a - x.base) (r.data.take 16) false

/-! ### Issue (R279, R288, R289, R291, R292) -/

/-- Two accesses meet in a 64-byte line of one device. -/
def sameLine (a : U64) (n : Nat) (b : U64) (m : Nat) : Bool :=
  decide (a.toNat / 64 ≤ (b.toNat + m - 1) / 64) && decide (b.toNat / 64 ≤ (a.toNat + n - 1) / 64)

/-- A later access waits for an earlier one of its issuer (R289): a load or atomic for a store or atomic, and a store or atomic
for a load. -/
def mustFollow (earlier later : StraitOp) : Bool :=
  match earlier.access, later.access with
  | .store, .load | .store, .atomic | .atomic, .load | .atomic, .atomic | .load, .store | .load, .atomic => true
  | .store, .store | .load, .load | .atomic, .store => false

/-- An outstanding request of the issuer holds this one up. -/
def State.orderHeld (s : State) (r : StraitHeld) : Bool :=
  s.strait.tags.anyWhere fun _ t => decide (t.state = .waiting) && decide (t.issuer = r.issuer) && mustFollow t.op r.op
    && sameLine t.address t.size r.address r.size

/-- The tag that a request takes. -/
def StraitHeld.tag (r : StraitHeld) (gateway : Bool) : StraitTag :=
  { op := r.op, issuer := r.issuer, dst := r.address.extractLsb' 48 16, address := r.address, size := r.size, order := r.order, viaGateway := gateway }

/-- Size code of a request (R280). -/
def sizeCode (n : Nat) : Nat := if n ≤ 8 then 0 else if n ≤ 16 then 1 else if n ≤ 32 then 2 else if n ≤ 64 then 3 else if n ≤ 128 then 4 else 5

/-- Slots of a memory request (R280, R282). -/
def StraitHeld.slots (r : StraitHeld) : Nat :=
  match r.op with
  | .load => 1
  | .store => 1 + (r.size + 15) / 16
  | _ => 2

/-- Channel of a memory request (R273). -/
def StraitOp.channel (op : StraitOp) : Nat := if op = .store then chSto else chReq

/-- Sends a request on the plane of its address, with its tag taken (R280, R288). -/
def State.sendReq (s : State) (r : StraitHeld) (n : Nat) : State :=
  let d : U16 := r.address.extractLsb' 48 16
  let p := s.planeOf d r.address
  let q : StraitReq := { sizeFlags := BitVec.ofNat 8 (sizeCode r.size + (if r.poison then 16 else 0)), src := s.devId, tag := BitVec.ofNat 16 (s.tagWord n)
                         key := r.key, address := r.address, data := r.data }
  s.onPlane p r.op.channel r.slots (.request r.op q p)

/-- A request is issued, or completes at once, or is held (`none`): the device's own address is executed here (R279), another
domain's goes through the gateway (R298), and an unreachable peer's completes TARGET_DEAD (R293). -/
def State.tryIssue (s : State) (r : StraitHeld) : Option State :=
  let d : U16 := r.address.extractLsb' 48 16
  if s.unassigned then some (s.finishDead r stNOT_READY false)
  else if d = s.devId then
    let x := s.runRequest {} r.op s.devId r.key r.address (if [8, 16, 32, 64, 128, 256].contains r.size then some r.size else none) r.data r.poison
    some (x.state.finishReq { issuer := r.issuer, op := r.op, dst := d, order := r.order, status := x.status, data := x.data, poison := x.poison } r.address)
  else if s.orderHeld r then none
  else if s.sameDomain d then
    if s.unreachable d then some (s.finishDead r stTARGET_DEAD true)
    else if (s.speer d).paused then none
    else (s.takeTag (r.tag false)).map fun x => x.2.sendReq r x.1
  else match s.gwRoute r with
    | .error st => some (s.finishDead r st false)
    | .ok (i, x) => (s.takeTag (r.tag true)).map fun y => y.2.gwSend r i x y.1

/-- Held requests are tried again, oldest first; an issuer keeps its own order (R289, R292). -/
def State.pumpHeld (s : State) : State :=
  let rs := s.strait.heldReqs
  (rs.foldl (fun (x : State × List Issuer) r =>
    let keep (s : State) : State := { s with strait := { s.strait with heldReqs := s.strait.heldReqs ++ [r] } }
    if x.2.contains r.issuer then (keep x.1, x.2)
    else match x.1.tryIssue r with
      | some t => (t, x.2)
      | none => (keep x.1, r.issuer :: x.2)) ({ s with strait := { s.strait with heldReqs := [] } }, [])).1

/-- STRAIT_REQUEST_ISSUE (R279-R300): an issuer issues a request. -/
def execStraitRequestIssue (r : StraitHeld) (s : State) : Host.Outcome State Fault Refusal :=
  .next (if !s.alive then s
    else
      let r := { r with order := s.strait.order }
      let s := { s with strait := { s.strait with order := s.strait.order + 1 } }
      let hold (s : State) : State := { s with strait := { s.strait with heldReqs := s.strait.heldReqs ++ [r] } }
      if s.strait.heldReqs.any fun x => decide (x.issuer = r.issuer) then hold s
      else match s.tryIssue r with
        | some t => t.checkFences
        | none => hold s)

/-- An issuer places a fence (R290, R299). -/
def State.fence (s : State) (issuer : Issuer) (dest : Option U16) : State :=
  if !s.alive then s
  else
    let f : StraitFence := { issuer := issuer, dest := dest, before := s.strait.order }
    let s := { s with strait := { s.strait with fences := s.strait.fences ++ [f] } }
    (s.flushFenced f).checkFences

/-- FENCE (R290). -/
def execFence (issuer : Issuer) (s : State) : Host.Outcome State Fault Refusal := .next (s.fence issuer none)

/-- FENCE_DEST (R290). -/
def execFenceDest (issuer : Issuer) (dest : U16) (s : State) : Host.Outcome State Fault Refusal := .next (s.fence issuer (some dest))

/-! ### Peers (R291, R295) -/

/-- A peer is marked unreachable (R295): every tag outstanding to it commits TIMED_OUT with TARGET_DEAD, mover units to it
complete, connections to it enter ERROR, and what was held for it completes. -/
def State.markUnreachable (s : State) (d : U16) : State :=
  if (s.speer d).unreachable || d == s.devId then s
  else
    let s := (s.setSpeer d { s.speer d with unreachable := true, timeouts := 0, paused := false }).setFlag Reg.STRAIT_STATUS 2 true
    let s := (s.waitingTags fun t => t.dst == d && !t.viaGateway).foldl (fun s n => s.tagTimedOut n stTARGET_DEAD) s
    ((s.failPeerUnits d).settleFailed).pumpHeld

/-- The live mask of a peer has changed (R270, R291, R295): with no live plane it is unreachable; else issuing to it pauses
while anything is outstanding. -/
def State.maskChanged (s : State) (d : U16) : State :=
  if (s.speer d).unreachable then s
  else if (s.livePlanes d).isEmpty then s.markUnreachable d
  else if s.strait.tags.anyWhere fun _ t => decide (t.state = .waiting) && t.dst == d && !t.viaGateway then
    s.setSpeer d { s.speer d with paused := true }
  else s

/-- LIVE_MASK_CHANGE (R270, R291, R295). -/
def execLiveMaskChange (d : U16) (s : State) : Host.Outcome State Fault Refusal :=
  .next (if s.sameDomain d ∧ s.alive = true then s.maskChanged d else s)

/-- ISSUE_RESUME (R291): everything outstanding to the peer has been answered or has timed out; issuing resumes. -/
def execIssueResume (d : U16) (s : State) : Host.Outcome State Fault Refusal :=
  .next (if (s.speer d).paused = true ∧ s.alive = true
        ∧ (s.strait.tags.anyWhere fun _ t => decide (t.state = .waiting) && t.dst == d && !t.viaGateway) = false then
      (s.setSpeer d { s.speer d with paused := false }).pumpHeld
    else s)

/-- TAG_TIMEOUT (R292-R295, R300): the tag's timeout wins; STRAIT_DEAD_COUNT consecutive timeouts mark a peer of the domain. -/
def execTagTimeout (n : Fin 4096) (s : State) : Host.Outcome State Fault Refusal :=
  .next (let t := s.tag n.val
    if t.state ≠ .waiting ∨ !s.alive then s
    else
      let s := s.tagTimedOut n.val stTIMEOUT
      if t.viaGateway then s.pumpHeld
      else
        let p := s.speer t.dst
        let s := s.setSpeer t.dst { p with timeouts := p.timeouts + 1 }
        if s.rdN Reg.STRAIT_DEAD_COUNT ≤ p.timeouts + 1 then s.markUnreachable t.dst else s.pumpHeld)

/-- A response arrives (R292-R295): it resolves its tag when that waits under its generation for such an answer; else it is
discarded and counted LATE. A switch's TARGET_DEAD marks the peer. -/
def State.respCame (s : State) (opcode : Byte) (r : StraitResp) : State :=
  let n := r.tag.toNat % 4096
  let t := s.tag n
  if t.state ≠ .waiting ∨ t.gen ≠ r.tag.toNat / 4096 ∨ t.op.answer ≠ opcode ∨ t.viaGateway then s.count Reg.STRAIT_LATE 1
  else
    let dead := r.status == stTARGET_DEAD
    let s := s.setSpeer t.dst { s.speer t.dst with timeouts := 0 }
    let s := s.tagDone n r.status (if dead then deadData t.op t.size else r.data) (dead && t.op != .store || r.sizeFlags.getLsbD 4)
    if dead then s.markUnreachable t.dst else s.pumpHeld

/-- LOAD_DATA (R281, R292). -/
def execLoadData (r : StraitResp) (s : State) : Host.Outcome State Fault Refusal := .next (if s.answers then s.respCame 0x90 r else s)

/-- STORE_ACK (R281, R292). -/
def execStoreAck (r : StraitResp) (s : State) : Host.Outcome State Fault Refusal := .next (if s.answers then s.respCame 0x91 r else s)

/-- ATOMIC_DATA (R281, R292). -/
def execAtomicData (r : StraitResp) (s : State) : Host.Outcome State Fault Refusal := .next (if s.answers then s.respCame 0x92 r else s)

/-- TILE_DATA (R215, R221, R284): tile `unit` of a REMOTE_GET or of a PREFETCH from a peer. -/
def execTileData (u : MoverUnit) (unit : Nat) (s : State) : Host.Outcome State Fault Refusal :=
  .next (if s.answers then (s.tileCame u unit).settleFailed else s)

/-- UNIT_ACK (R219, R221-R223, R284): unit `unit` of a REMOTE_PUT is resolved. -/
def execUnitAck (u : MoverUnit) (unit : Nat) (s : State) : Host.Outcome State Fault Refusal :=
  .next (if s.answers then (s.unitAcked u.slot unit u.status).settleFailed else s)

/-- PING (R282, R389, R558): answered by PONG, but not in FATAL or without an ID. -/
def execPing (src : U16) (s : State) : Host.Outcome State Fault Refusal :=
  .next (if !s.answers ∨ (s.livePlanes src).isEmpty then s
    else
      let (n, s) := s.nextPlane src
      s.onPlane n chRsp 1 (.pong src))

/-- PONG (R248, R295): clears the mark of a peer that the map lists present, and its failure. -/
def execPong (src : U16) (s : State) : Host.Outcome State Fault Refusal :=
  .next (if s.answers ∧ (s.speer src).unreachable ∧ (s.peerMap src).present then
      let s := s.setSpeer src { s.speer src with unreachable := false, timeouts := 0 }
      { s with handoff := { s.handoff with failed := s.handoff.failed.set src.toNat false } }
    else s)

/-- PEER_PING_TIMER (R295): a marked peer that the map lists present is pinged on each live plane. -/
def execPeerPingTimer (d : U16) (s : State) : Host.Outcome State Fault Refusal :=
  .next (if s.answers ∧ (s.speer d).unreachable ∧ (s.peerMap d).present ∧ s.sameDomain d then
      (s.livePlanes d).foldl (fun s n => s.onPlane n chReq 1 (.ping d n)) s
    else s)

/-- LAST_GASP (R295, R296, R392): PEER_GASP is written, the sender is marked unreachable, and its transfers complete
TARGET_DEAD. -/
def execLastGasp (src : U16) (cause : Byte) (s : State) : Host.Outcome State Fault Refusal :=
  .next (if !s.answers then s
    else
      let s := (s.setFlag Reg.STRAIT_STATUS 3 true).raise
        { severity := .corrected, block := 0x018, cause := 0x0049, detail0 := src.zeroExtend 64, detail1 := cause.zeroExtend 64 }
      ((s.markUnreachable src).peerDead src).settleFailed)

/-! ### Time and windows (R287, R299, R314) -/

/-- GATEWAY_FLUSH (R299): the oldest store of a route's gathered write is STRAIT_GW_FLUSH old. -/
def execGatewayFlush (route : Fin 1024) (s : State) : Host.Outcome State Fault Refusal :=
  .next (if s.alive then s.flushRoute route.val else s)

/-- REVOCATION_COMPLETE (R287, R314): INFLIGHT of a REVOKING window has reached zero; the window is FREE, and its command
completes. -/
def execRevocationComplete (rdma : Bool) (index : Fin 4096) (s : State) : Host.Outcome State Fault Refusal :=
  .next (if rdma then
      let w := s.net.windows.get index.val
      if w.state = .revoking ∧ w.inflight = 0 then
        ({ s with net := { s.net with windows := s.net.windows.set index.val { w with state := .free, revoke := none } } }).completeOpt w.revoke stOK
      else s
    else
      let w := s.strait.windows.get (index.val % 256)
      if w.state = .revoking ∧ w.inflight = 0 then
        ({ s with strait := { s.strait with windows := s.strait.windows.set (index.val % 256) { w with state := .free, revoke := none } } }).completeOpt w.revoke stOK
      else s)

end Sys2Proof.Machine
end

