-- ==== Sys2Proof/Machine/StraitLink.lean ====
section
/-! DEFINITION. The link layer of the Strait ports: flits, credits and replay (R271-R276), AUDIT (R275), retraining and DOWN ports
(R277). In FATAL the link layer goes on (R389). -/

namespace Sys2Proof.Machine

/-! ### Flits (R271, R274, R276) -/

/-- The flit that 256 bytes carry (R271): its CRC is computed over bytes 0-247. -/
def Flit.ofBytes (bs : List Byte) : Flit :=
  let h := leNat (bs.take 8)
  { type := match h / 2 ^ 28 % 16 with | 0 => .idle | 1 => .data | 2 => .linkCtrl | _ => .reserved
    seq := h % 4096, ack := h / 4096 % 4096, nak := h.testBit 24
    crcOk := decide (bs.length = 256) && decide (crc64 (bs.take 248) = leNat ((bs.drop 248).take 8))
    credits := (List.range 4).map fun i => h / 2 ^ (32 + 8 * i) % 256
    slots := (List.range 15).map fun i => (bs.drop (8 + 16 * i)).take 16 }

/-- Channel of a transaction by its opcode (R273, R282). -/
def opcodeChannel (op : Nat) : Option Nat :=
  if op = 0x01 ∨ op = 0x10 ∨ (0x20 ≤ op ∧ op ≤ 0x27) ∨ op = 0x41 then some chReq
  else if op = 0x81 ∨ (0x90 ≤ op ∧ op ≤ 0x92) ∨ op = 0xC0 ∨ op = 0xC1 then some chRsp
  else if op = 0x11 ∨ op = 0x40 ∨ op = 0x42 then some chSto
  else if op = 0x60 ∨ op = 0x70 then some chCtl
  else none

/-- The opcode of a mover unit (R282, R284). -/
def unitOpcode (op : Nat) : Bool := op == 0x40 || op == 0x41 || op == 0x42 || op == 0xC0 || op == 0xC1

/-- Slots that follow a header slot (R280-R284): of a mover unit the two that end its header, whose LENGTH then tells the rest. -/
def slotsAfter (slot : List Byte) : Nat :=
  let op := (slot.getD 0 0).toNat
  let data := (8 * 2 ^ ((slot.getD 1 0).toNat % 16) + 15) / 16
  let st := slot.getD 6 0
  if op = 0x11 then data
  else if op = 0x90 then (if st = stOK ∨ st = stPOISON then data else 0)
  else if (0x20 ≤ op ∧ op ≤ 0x27) ∨ op = 0x92 ∨ op = 0x70 then 1
  else if unitOpcode op then 2
  else 0

/-- Takes one slot of the stream (R272): the stream after it, and the channel whose slot it is; a NOP and a reserved opcode fill
one slot of no channel. -/
def SlotStream.take (x : SlotStream) (slot : List Byte) : SlotStream × Option Nat :=
  if 0 < x.left then
    let more := if x.unit = 1 then (leNat ((slot.drop 12).take 4) + 15) / 16 else 0
    ({ x with left := x.left - 1 + more, unit := x.unit - 1 }, some x.channel)
  else match opcodeChannel (slot.getD 0 0).toNat with
    | none => (x, none)
    | some ch => ({ channel := ch, left := slotsAfter slot, unit := if unitOpcode (slot.getD 0 0).toNat then 2 else 0 }, some ch)

/-- The stream after the slots of a flit, and the slots that each channel received. -/
def SlotStream.takeAll (x : SlotStream) (slots : List (List Byte)) : SlotStream × List Nat :=
  slots.foldl (fun (y : SlotStream × List Nat) slot =>
    let (z, ch) := y.1.take slot
    (z, match ch with | some c => y.2.set c (y.2.getD c 0 + 1) | none => y.2)) (x, [0, 0, 0, 0])

/-- Adds to a count of each channel. -/
def addByChannel (t : Tab Nat) (xs : List Nat) (w : Nat) : Tab Nat :=
  xs.zipIdx.foldl (fun t x => t.mod x.2 fun n => (n + x.1) % 2 ^ w) t

/-- The partner acknowledges every flit up to `ack`: they leave the retry buffer (R276). An ACK that names no flit in the buffer
changes nothing. -/
def StraitPort.acknowledge (p : StraitPort) (ack : Nat) : StraitPort :=
  let k := (ack + 4096 - p.acked % 4096) % 4096
  if k = 0 ∨ p.buffer.length < k then p else { p with buffer := p.buffer.drop k, acked := ack % 4096, replaysNow := 0 }

/-- The sender replays from ACK + 1; after 8 replays without any advance of ACK it retrains the link (R276). -/
def State.replay (s : State) (n : Nat) : State :=
  let p := s.sport n
  if p.buffer.isEmpty then s
  else
    let s := (s.setSport n { p with replays := satAdd 32 p.replays 1, replaysNow := p.replaysNow + 1 }).straitOut (.replay n ((p.acked + 1) % 4096))
    if 8 ≤ p.replaysNow + 1 then s.startRetrain n else s

/-- What every good flit carries: ACK, credit returns and NAK (R271). -/
def State.flitHeader (s : State) (n : Nat) (f : Flit) : State :=
  let p := (s.sport n).acknowledge f.ack
  let s := s.setSport n { p with credits := addByChannel p.credits f.credits 32 }
  let s := if f.nak then s.replay n else s
  s.setSport n (s.sport n).pump

/-- A DATA flit in order: its slots are received, and freed as they arrive, so their credits go back (R274). -/
def State.flitData (s : State) (n : Nat) (f : Flit) : State :=
  let p := s.sport n
  let x := p.stream.takeAll f.slots
  let s := s.setSport n { p with recvSeq := f.seq % 4096, nakSent := false, stream := x.1, received := addByChannel p.received x.2 32 }
  s.straitOut (.credits n x.2)

/-- A flit with a CRC error, or a DATA flit out of order, is discarded; NAK is sent once (R276). -/
def State.flitBad (s : State) (n : Nat) : State :=
  let p := s.sport n
  if p.nakSent then s else (s.setSport n { p with nakSent := true }).straitOut (.nak n p.recvSeq)

/-- DATA_FLIT_RECEIVED (R271-R276): the 256 bytes of a flit arrive on a port that is UP. A DATA flit out of order is discarded whole, since the
replay brings its fields again; a reserved TYPE carries nothing. -/
def execDataFlitReceived (port : Fin 16) (flit : List Byte) (s : State) : Host.Outcome State Fault Refusal :=
  .next (let n := port.val
    let f := Flit.ofBytes flit
    let p := s.sport n
    if p.state ≠ .up ∨ s.pins.resetN = false ∨ f.type = .reserved then s
    else if !f.crcOk then s.flitBad n
    else if f.type ≠ .data then s.flitHeader n f
    else if f.seq % 4096 = (p.recvSeq + 1) % 4096 then (s.flitData n f).flitHeader n f
    else s.flitBad n)

/-- REPLAY_TIMEOUT (R276): flits are unacknowledged and ACK has not advanced for 2 µs. -/
def execReplayTimeout (port : Fin 16) (s : State) : Host.Outcome State Fault Refusal :=
  .next (if (s.sport port.val).state = .up then s.replay port.val else s)

/-! ### Retraining and DOWN ports (R270, R277) -/

/-- The live masks of the peers on a port's plane have changed (R270, R291, R295). -/
def State.planeChanged (s : State) (n : Nat) : State :=
  ((s.handoff.map.filter fun e => e.2.planes.getLsbD n && s.sameDomain (BitVec.ofNat 16 e.1) && BitVec.ofNat 16 e.1 != s.devId).map Prod.fst).foldl
    (fun s d => s.maskChanged (BitVec.ofNat 16 d)) s

/-- Slots of the flits in a retry buffer, by channel. -/
def bufferedSlots (b : List (Nat × Nat)) : List Nat := (List.range 4).map fun ch => ((b.filter fun x => x.1 == ch).map Prod.snd).sum

/-- RETRAIN_COMPLETE (R268, R277): the port is UP at full or half width. `ack` is the partner's last good flit and `grants` are its
credit grants, net of its occupancy; what stays in the retry buffer is replayed, and its slots are already taken from the
grants. A port that was DOWN or trained for the first time starts its sequence numbers and totals anew. -/
def execRetrainComplete (port : Fin 16) (half : Bool) (ack : Fin 4096) (grants : List Nat) (s : State) : Host.Outcome State Fault Refusal :=
  .next (let n := port.val
    let p := s.sport n
    if s.pins.resetN = false then s
    else if p.state = .retraining then
      let p := (p.acknowledge ack.val)
      let left := (grants.zip (bufferedSlots p.buffer)).map fun x => x.1 - x.2
      let s := s.setSport n { p with state := .up, half := half, replaysNow := 0, nakSent := false, credits := addByChannel [] left 32 }
      let s := if p.buffer.isEmpty then s
        else (s.setSport n { s.sport n with replays := satAdd 32 p.replays 1 }).straitOut (.replay n ((p.acked + 1) % 4096))
      s.setSport n (s.sport n).pump
    else if p.state = .training ∨ p.attempt then
      let s := s.setSport n { p with
        state := .up, half := half, attempt := false, sendSeq := 0, acked := 0, recvSeq := 0, buffer := [], replaysNow := 0, nakSent := false
        credits := addByChannel [] grants 32, sentSlots := [], received := [], stream := {} }
      (s.setSport n (s.sport n).pump).planeChanged n
    else s)

/-- RETRAIN_TIMEOUT (R277): the retrain has not completed within 10 ms: the port goes DOWN, or stays so, and what it had to send
is discarded. -/
def execRetrainTimeout (port : Fin 16) (s : State) : Host.Outcome State Fault Refusal :=
  .next (let n := port.val
    let p := s.sport n
    if p.state = .retraining ∨ p.state = .training then
      let s := s.setSport n { p with state := .down, buffer := [], backlog := [], replaysNow := 0, nakSent := false }
      (s.setFlag Reg.STRAIT_STATUS 1 true).planeChanged n
    else s.setSport n { p with attempt := false })

/-- RETRAIN_ATTEMPT (R277): every 100 ms a DOWN port tries a retrain. -/
def execRetrainAttempt (port : Fin 16) (s : State) : Host.Outcome State Fault Refusal :=
  .next (if (s.sport port.val).state = .down ∧ s.pins.resetN = true then s.startRetrain port.val else s)

/-! ### AUDIT (R275) -/

/-- AUDIT_SEND (R275): every 100 µs the totals of slots sent, AUDIT's own among them, go to the partner; it waits for the next
interval where the control channel has no credit. -/
def execAuditSend (port : Fin 16) (s : State) : Host.Outcome State Fault Refusal :=
  .next (let n := port.val
    let p := s.sport n
    if p.state = .up ∧ p.canSend chCtl 2 false then
      let p := p.sendNow chCtl 2
      (s.setSport n p).straitOut (.audit n p.sentSlots)
    else s)

/-- AUDIT (R275, R395): the partner's totals must equal what was received since training; where a channel differs, LINK_AUDIT is
written, the partner's totals are taken on, and the link retrains. -/
def execAudit (port : Fin 16) (totals : List Nat) (s : State) : Host.Outcome State Fault Refusal :=
  .next (let n := port.val
    let p := s.sport n
    if p.state ≠ .up then s
    else match (List.range 4).find? fun ch => decide (totals.getD ch 0 % 2 ^ 32 ≠ p.received.get ch) with
      | none => s
      | some ch =>
        let diff := (totals.getD ch 0 % 2 ^ 32 + 2 ^ 32 - p.received.get ch) % 2 ^ 32
        let s := s.setSport n { p with auditErrs := satAdd 16 p.auditErrs 1, received := addByChannel [] (totals.take 4) 32 }
        let s := (s.setFlag Reg.FAULT_AUDIT 2 true).raise (FaultInfo.onIslet
          { severity := .corrected, block := 0x00E, cause := 0x0030, unit := BitVec.ofNat 16 n, detail0 := BitVec.ofNat 64 ch, detail1 := BitVec.ofNat 64 diff }
          (straitIslet n))
        s.startRetrain n)

end Sys2Proof.Machine
end

