-- ==== Sys2Proof/Machine/NetRecv.lean ====
section
/-! DEFINITION. The receiver of RDMA connections: the checks of a packet (R309, R310, R313, R332), delivery by offset and
completion (R316-R320), and credit grants (R324-R327). -/

namespace Sys2Proof.Machine

/-! ### Drops and refusals -/

/-- A packet that is unsupported or MALFORMED is dropped (R304, R310, NET_DROPPED). -/
def State.netMalformed (s : State) : State := s.bump Reg.NET_DROPPED 0 16 1

/-- A packet for a connection that is not READY is dropped (R309, NET_DROPPED). -/
def State.netUnready (s : State) : State := s.bump Reg.NET_DROPPED 16 16 1

/-- Counts a packet refused (NET_REFUSED). -/
def State.netRefused (s : State) (st : Byte) : State :=
  if st = stKEY_REVOKED then s.bump Reg.NET_REFUSED 0 16 1 else if st = stPRIVILEGE then s.bump Reg.NET_REFUSED 16 16 1 else s

/-- The policer of a tenant judges a packet of `len` bytes (R332): whether it passes. Its bucket holds BURST less what is
missing, and fills at RATE Mb/s, one 8,000th of RATE bytes in a ns. -/
def State.police (s : State) (t len : Nat) : Bool × State :=
  let p := s.policer t
  let missing := p.missing - p.rate * (s.now - p.since)
  let cost := ((len : Int) + p.adj).toNat * 8000
  if p.rate = 0 then (true, s)
  else if missing + cost ≤ p.burst * 8000 then (true, s.setPolicer t { p with missing := missing + cost, since := s.now })
  else (false, (s.setPolicer t { p with missing := missing, since := s.now, drops := satAdd 32 p.drops 1 }).setFlag Reg.SHAPE_STATUS 1 true)

/-! ### RDMA windows (R312, R313) -/

/-- An RDMA window. -/
def State.rdmaWin (s : State) (i : Nat) : RdmaWin := s.net.windows.get i

/-- Replaces an RDMA window. -/
def State.setRdmaWin (s : State) (i : Nat) (w : RdmaWin) : State := { s with net := { s.net with windows := s.net.windows.set i w } }

/-- The window's access bits allow it. -/
def RdmaWin.allows (w : RdmaWin) : StraitAccess → Bool
  | .load => w.read
  | .store => w.write
  | .atomic => w.atomic

/-- Device-local address of byte `off` of an RDMA window (R182, R312). -/
def State.rdmaAddr (s : State) (w : RdmaWin) (off : Nat) : Option Nat := s.spaceAddr w.space.val (w.base + off)

/-- Check of `n` bytes at offset `off` of the window that a key names (R312, R313), and of what lies there (R191, R507). -/
def State.rdmaCheck (s : State) (c : Conn) (key : U32) (acc : StraitAccess) (off n : Nat) : Except Byte (Nat × Nat) :=
  let i := key.toNat % 4096
  let w := s.rdmaWin i
  if w.state ≠ .opened ∨ w.gen.toNat ≠ key.toNat / 65536 ∨ key.toNat / 4096 % 16 ≠ 0 then .error stKEY_REVOKED
  else if w.spaceKey ≠ c.attr.spaceKey ∨ w.size < off + n ∨ !w.allows acc ∨ (acc ≠ .load ∧ w.space.val = 3) then .error stPRIVILEGE
  else match s.memoryStatus { space := w.space, partition := w.partition } w.space.val (w.base + off) n (acc != .load), s.rdmaAddr w off with
    | some st, _ => .error st
    | none, none => .error stPRIVILEGE
    | none, some a => .ok (i, a)

/-! ### Credits (R324-R327) -/

/-- Outstanding of a STATE connection (R326). -/
def Conn.outstanding (c : Conn) : Nat := (c.rGranted + 2 ^ 33 - c.rConsumed - c.rReturned) % 2 ^ 32

/-- A STATE connection whose receiver grants credits (R327). -/
def Conn.grants (c : Conn) : Bool := decide (c.state = .ready) && !c.attr.message && c.attr.multipath

/-- Credits of the pool that are free (R324, R327): every packet is placed by the step in which it arrives, so none waits to be
placed. -/
def State.freeCredits (s : State) : Nat := 16384 - (s.net.conns.map fun x => if x.2.grants then x.2.outstanding else 0).sum

/-- The connections are served in turn (R327). -/
def State.grantTo (cap : Nat) : Nat → List Nat → State → State
  | _, [], s => s
  | free, n :: rest, s =>
    let c := s.netConn n
    let want := min c.rDemand cap - c.outstanding
    if want = 0 then State.grantTo cap free rest s
    else
      let g := min want free
      let s := { s with net := { s.net with rr := if g = 0 then n else n + 1 } }
      if g = 0 then s
      else
        let c := { c with rGranted := (c.rGranted + g) % 2 ^ 32 }
        State.grantTo cap (free - g) rest ((s.setNetConn n c).netOut (.credit n 0 c.rGranted c.rConsumed c.rReturned 0))

/-- The receiver shares the pool over the connections with demand, in turn from its last position (R327). -/
def State.grantCredits (s : State) : State :=
  let ns := s.net.conns.keysWhere fun _ c => c.grants && decide (0 < c.rDemand)
  let turn := (ns.filter fun n => decide (s.net.rr ≤ n)) ++ ns.filter fun n => decide (n < s.net.rr)
  State.grantTo (s.rdN Reg.NET_STATE_INIT) s.freeCredits turn s

/-- CREDIT_GRANT_TICK (R327). -/
def execCreditGrantTick (s : State) : Host.Outcome State Fault Refusal := .next (if s.answers then s.grantCredits else s)

/-! ### Messages that arrive (R316-R318) -/

/-- Message `m` lies below `cum`, in numbers modulo 2^32. -/
def msnBelow (m cum : Nat) : Bool := decide (0 < (cum + 2 ^ 32 - m) % 2 ^ 32) && decide ((cum + 2 ^ 32 - m) % 2 ^ 32 < 2 ^ 31)

/-- A message of a connection as received. -/
def State.recvMsg (s : State) (n msn : Nat) : RecvMsg := (s.netConn n).msgs.get msn

/-- Replaces a message as received. -/
def State.setRecvMsg (s : State) (n msn : Nat) (m : RecvMsg) : State :=
  s.setNetConn n { s.netConn n with msgs := (s.netConn n).msgs.set msn m }

/-- Acknowledges a packet (R321). -/
def State.ackPacket (s : State) (n msn index : Nat) (st : Byte) (echo : U32) : State :=
  s.netOut (.ack n msn index st echo (s.netConn n).cumMsn)

/-- Index of a packet in its message. -/
def MpPacket.index (p : MpPacket) (c : Conn) : Nat := p.offset / c.attr.mtu

/-- A packet that carries none of the message's bytes: a gateway read request (R310). -/
def MpPacket.bare (p : MpPacket) (c : Conn) : Bool := p.op == 0xC2 && c.attr.message

/-- The multipath extension header fits the connection (R310). -/
def MpPacket.formed (p : MpPacket) (c : Conn) : Bool :=
  let n := p.payload.length
  readable p.level.toNat && p.message == c.attr.message && decide (1 ≤ p.totalLen) && decide (p.totalLen ≤ 1048576)
    && (if p.bare c then decide (p.offset = 0) && decide (n = 0)
        else if p.op = 0xC4 ∨ p.op = 0xC5 then c.attr.message && decide (p.offset = 0) && decide (p.totalLen = 8)
        else decide (p.offset % c.attr.mtu = 0) && decide (p.offset + n ≤ p.totalLen) && decide (0 < n)
          && (decide (n = c.attr.mtu) || (decide (n < c.attr.mtu) && decide (p.offset + n = p.totalLen)))
          && (c.attr.message || p.op != 0xC1))

/-- Bytes of a whole message buffer, in the order of their offsets. -/
def RecvMsg.whole (m : RecvMsg) : List Byte :=
  (sortBy (fun a b => decide (a.1 ≤ b.1)) m.body).flatMap Prod.snd

/-- A packet joins its message (R316, R317): a refused one counts as received and brings nothing. -/
def RecvMsg.join (m : RecvMsg) (p : MpPacket) (index : Nat) (st : Byte) (keep : Bool) : RecvMsg :=
  { m with known := true, op := p.op, total := p.totalLen, key := p.windowKey, target := p.target, bits := index :: m.bits
           refused := if 0x10 ≤ st.toNat then (index, st) :: m.refused else m.refused, bytes := m.bytes + p.payload.length
           poison := m.poison || p.poison, body := if keep then (p.offset, p.payload) :: m.body else m.body }

/-- Status that a packet received before was acknowledged with. -/
def RecvMsg.statusOf (m : RecvMsg) (index : Nat) : Byte := ((m.refused.find? fun x => x.1 == index).map Prod.snd).getD stOK

/-- The mover unit that a whole message buffer holds (R284): its header of 48 bytes, then its data. -/
def unitOf (bs : List Byte) (poison : Bool) : MoverUnit :=
  let f (o n : Nat) : Nat := leNat ((bs.drop o).take n)
  { opcode := BitVec.ofNat 8 (f 0 1), poison := poison || decide (f 1 1 % 2 = 1), src := BitVec.ofNat 16 (f 2 2), slot := BitVec.ofNat 32 (f 4 4)
    target := BitVec.ofNat 64 (f 8 8), requestId := BitVec.ofNat 64 (f 0x10 8), epoch := BitVec.ofNat 32 (f 0x18 4), creditId := BitVec.ofNat 32 (f 0x1C 4)
    check := BitVec.ofNat 64 (f 0x20 8), tileSlot := f 0x28 1, status := BitVec.ofNat 8 (f 0x29 1), key := BitVec.ofNat 16 (f 0x2A 2)
    data := (bs.drop 48).take (f 0x2C 4) }

/-- Charges bytes received (R370): those of a MESSAGE connection to its tenant, those of a STATE connection to the tenant of the
unit's request where the device knows it. -/
def State.chargeRx (s : State) (c : Conn) (req : U64) (bytes : Nat) : State :=
  let account := if c.attr.message then c.attr.tenant.toNat
    else match s.herdOf req with
      | some i => (s.entry i).tenant.toNat
      | none => 1024
  s.tally account fun u => { u with netRx := u.netRx + bytes }

/-- Messages that are kept: those that CUM_MSN has not passed by 256 (R318). -/
def Conn.prune (c : Conn) : Conn := { c with msgs := c.msgs.filter fun x => !msnBelow ((x.1 + 256) % 2 ^ 32) c.cumMsn }

/-! ### READs, atomics and units that execute (R318, R319, R323) -/

/-- A READ of a window executes, and its response is sent and kept; its window counts it no longer (R313, R318). -/
def State.runRead (s : State) (p : MpPacket) : State :=
  let n := p.conn
  let i := p.windowKey.toNat % 4096
  let w := s.rdmaWin i
  let s := s.setRdmaWin i { w with inflight := w.inflight - 1 }
  match s.rdmaAddr w p.target with
  | none => s
  | some a =>
    let poison := s.poisoned a p.totalLen
    let data := s.seen a p.totalLen
    let s := s.setRecvMsg n p.msn { s.recvMsg n p.msn with complete := true, result := data, resultPoison := poison }
    s.netRespond n p.msn p.totalLen (.readResp n p.msn poison data)

/-- An atomic on a window executes once (R283, R318). -/
def State.runAtomic (s : State) (p : MpPacket) : State :=
  let n := p.conn
  let i := p.windowKey.toNat % 4096
  let w := s.rdmaWin i
  let s := s.setRdmaWin i { w with inflight := w.inflight - 1 }
  match s.rdmaAddr w p.target with
  | none => s
  | some a =>
    let r := s.runMemory (if p.cas then .cas else .fetchAdd) a 8 p.payload p.poison
    let s := r.state.setRecvMsg n p.msn { r.state.recvMsg n p.msn with complete := true, result := r.data, resultPoison := r.poison }
    s.netRespond n p.msn 8 (.atomicResp n p.msn r.data)

/-- Bytes of a unit, for the result that is kept. -/
def MoverUnit.bytes (u : MoverUnit) : List Byte :=
  leBytes 1 u.opcode.toNat ++ leBytes 1 (if u.poison then 1 else 0) ++ leBytes 2 u.src.toNat ++ leBytes 4 u.slot.toNat ++ leBytes 8 u.target.toNat
    ++ leBytes 8 u.requestId.toNat ++ leBytes 4 u.epoch.toNat ++ leBytes 4 u.creditId.toNat ++ leBytes 8 u.check.toNat ++ leBytes 1 u.tileSlot
    ++ leBytes 1 u.status.toNat ++ leBytes 2 u.key.toNat ++ leBytes 4 u.data.length ++ u.data

/-- A TILE_GET that came on a connection executes (R284): its tile goes back in an MP_READ_RESP; for a newer epoch it waits
(R265). -/
def State.runGet (s : State) (p : MpPacket) : State :=
  let n := p.conn
  let u := unitOf (s.recvMsg n p.msn).whole (s.recvMsg n p.msn).poison
  match s.takeUnit u with
  | .held => { s with handoff := { s.handoff with heldUnits := s.handoff.heldUnits ++ [(u, some { conn := n, msn := p.msn })] } }
  | .answer t a =>
    let t := (t.netRefused a.status).setRecvMsg n p.msn { t.recvMsg n p.msn with complete := true, result := a.bytes, resultPoison := a.poison }
    let t := match t.herdOf u.requestId with
      | some i => t.tally (t.entry i).tenant.toNat fun x => { x with netTx := x.netTx + 48 + a.data.length }
      | none => t.tally 1024 fun x => { x with netTx := x.netTx + 48 + a.data.length }
    t.netRespond n p.msn (48 + a.data.length) (.unit n p.msn a)

/-- A READ or atomic whose turn has come (R319). -/
def State.runOp (s : State) (p : MpPacket) : State :=
  if !(s.netConn p.conn).attr.message then s.runGet p else if p.op = 0xC2 then s.runRead p else s.runAtomic p

/-- CUM_MSN passes every complete message in order, and the READ or atomic that comes next executes (R319); `fuel` bounds
them. -/
def State.advance : Nat → Nat → State → State
  | 0, _, s => s
  | fuel + 1, n, s =>
    let c := s.netConn n
    match c.waitingOps.find? fun p => p.msn == c.cumMsn with
    | some p => State.advance fuel n ((s.setNetConn n { c with waitingOps := c.waitingOps.filter fun q => q.msn != c.cumMsn }).runOp p)
    | none =>
      if (c.msgs.get c.cumMsn).complete then State.advance fuel n (s.setNetConn n { c with cumMsn := (c.cumMsn + 1) % 2 ^ 32 }.prune)
      else s

/-- What may now complete on a connection does. -/
def State.settleRecv (s : State) (n : Nat) : State :=
  State.advance (2 * ((s.netConn n).msgs.length + (s.netConn n).waitingOps.length) + 2) n s

/-- The message is marked complete at the receiver (R317). -/
def State.msgComplete (s : State) (n msn : Nat) : State := s.setRecvMsg n msn { s.recvMsg n msn with complete := true, body := [] }

/-- A message all of whose bytes have come is complete (R317). -/
def State.checkWhole (s : State) (n msn : Nat) : State :=
  let m := s.recvMsg n msn
  if m.bytes = m.total then s.msgComplete n msn else s

/-! ### STATE class: units (R284, R310) -/

/-- The unit of a whole MP_WRITE is taken (R284); its status goes with the acknowledgement of the packet that made it whole. -/
def State.takePut (s : State) (n msn index : Nat) (echo : U32) : State :=
  let m := s.recvMsg n msn
  let u := unitOf m.whole m.poison
  match s.takeUnit u with
  | .held =>
    let s := s.setRecvMsg n msn { m with due := some index }
    { s with handoff := { s.handoff with heldUnits := s.handoff.heldUnits ++ [(u, some { conn := n, msn := msn, index := index, echo := echo })] } }
  | .answer t a =>
    let m := { t.recvMsg n msn with due := none, refused := if 0x10 ≤ a.status.toNat then (index, a.status) :: m.refused else m.refused }
    ((((t.netRefused a.status).setRecvMsg n msn m).msgComplete n msn).settleRecv n).ackPacket n msn index a.status echo

/-- First copy of a packet of a unit: it takes its credit and its place in the message buffer (R316, R324). -/
def State.statePacket (s : State) (p : MpPacket) : State :=
  let n := p.conn
  let c := s.netConn n
  let i := p.index c
  let s := (s.setNetConn n { c with rConsumed := (c.rConsumed + 1) % 2 ^ 32 }).setRecvMsg n p.msn (((s.recvMsg n p.msn).join p i stOK true))
  let m := s.recvMsg n p.msn
  let s :=
    if m.bytes ≠ m.total then s.ackPacket n p.msn i stOK p.sendTime
    else
      let s := s.chargeRx c (unitOf m.whole m.poison).requestId m.total
      if p.op = 0xC0 then s.takePut n p.msn i p.sendTime
      else
        let c := s.netConn n
        ((s.setNetConn n { c with waitingOps := c.waitingOps ++ [p] }).settleRecv n).ackPacket n p.msn i stOK p.sendTime
  s.grantCredits

/-! ### MESSAGE class (R313, R316, R319) -/

/-- Bytes that a write message covers, in the address of its window: none where the window does not exist (R319). -/
def State.writeSpan (s : State) (key : U32) (target total : Nat) : Nat × Nat :=
  let w := s.rdmaWin (key.toNat % 4096)
  (w.space.val * 2 ^ 44 + w.base + target, total)

/-- An earlier message of the connection, still incomplete, covers bytes of a write packet (R319). -/
def State.overlapsEarlier (s : State) (p : MpPacket) : Bool :=
  let (a, n) := s.writeSpan p.windowKey (p.target + p.offset) p.payload.length
  (s.netConn p.conn).msgs.any fun x => x.2.known && !x.2.complete && x.2.op == 0xC0 && msnBelow x.1 p.msn
    && (let (b, m) := s.writeSpan x.2.key x.2.target x.2.total; meets a n b m)

/-- The packet is refused: it counts as received, and its refusal is acknowledged (R313). -/
def State.refusePacket (s : State) (p : MpPacket) (st : Byte) : State :=
  let n := p.conn
  let i := p.index (s.netConn n)
  let s := (s.netRefused st).setRecvMsg n p.msn ((s.recvMsg n p.msn).join p i st false)
  let s := if p.bare (s.netConn n) ∨ p.op = 0xC4 then s.msgComplete n p.msn else s.checkWhole n p.msn
  (s.settleRecv n).ackPacket n p.msn i st p.sendTime

/-- The check of a packet for a window, and what an admitted one does (R313, R316, R318): a write is placed, a READ or atomic
waits its turn. -/
def State.windowPacket (s : State) (p : MpPacket) : State :=
  let n := p.conn
  let c := s.netConn n
  let i := p.index c
  let acc : StraitAccess := if p.op = 0xC0 then .store else if p.op = 0xC2 then .load else .atomic
  let len := if p.op = 0xC0 then p.payload.length else p.totalLen
  if p.op = 0xC4 ∧ p.target % 8 ≠ 0 then s.netMalformed
  else match s.rdmaCheck c p.windowKey acc (p.target + p.offset) len with
    | .error st => s.refusePacket p st
    | .ok (k, a) =>
      let s := s.setRecvMsg n p.msn ((s.recvMsg n p.msn).join p i stOK false)
      let s :=
        if p.op = 0xC0 then (((s.writeP a p.payload p.poison).chargeRx c 0 p.payload.length).checkWhole n p.msn).settleRecv n
        else
          let s := s.setRdmaWin k { s.rdmaWin k with inflight := (s.rdmaWin k).inflight + 1 }
          let c := s.netConn n
          ((s.setNetConn n { c with waitingOps := c.waitingOps ++ [p] }).chargeRx c 0 p.payload.length).settleRecv n
      s.ackPacket n p.msn i stOK p.sendTime

/-- A write packet that overlaps an earlier message is held in the hold buffer of 16 MiB, or dropped when it is full (R319). -/
def State.holdPacket (s : State) (p : MpPacket) : State :=
  if 16777216 < s.net.holdBytes + p.payload.length then s.setFlag Reg.NET_STATUS 0 true
  else
    let c := s.netConn p.conn
    let s := s.setNetConn p.conn { c with heldPkts := c.heldPkts ++ [p] }
    { s with net := { s.net with holdBytes := s.net.holdBytes + p.payload.length } }

/-- First copy of a packet of the MESSAGE class: a protocol message gathers in its buffer (R234), the rest goes to windows. -/
def State.messagePacket (s : State) (p : MpPacket) : State :=
  let n := p.conn
  let c := s.netConn n
  let i := p.index c
  if p.op = 0xC1 then
    let s := s.setRecvMsg n p.msn ((s.recvMsg n p.msn).join p i stOK true)
    let s := (s.chargeRx c 0 p.payload.length).checkWhole n p.msn
    (s.settleRecv n).ackPacket n p.msn i stOK p.sendTime
  else if p.op = 0xC0 ∧ s.overlapsEarlier p then s.holdPacket p
  else s.windowPacket p

/-! ### Arrival (R309, R310, R313, R316, R332) -/

/-- Incomplete messages of a connection (R316). -/
def Conn.incomplete (c : Conn) : Nat := c.msgs.countWhere fun _ m => m.known && !m.complete

/-- A duplicate (R316, R318): counted, and acknowledged again; one of a completed READ or atomic is answered from the kept
result. -/
def State.duplicate (s : State) (p : MpPacket) : State :=
  let n := p.conn
  let c := s.netConn n
  let m := s.recvMsg n p.msn
  let i := p.index c
  let s := s.count Reg.NET_DUP 1
  if !m.known then s.ackPacket n p.msn i stOK p.sendTime
  else if m.due = some i then s
  else
    let s := s.ackPacket n p.msn i (m.statusOf i) p.sendTime
    if !m.complete ∨ m.result.isEmpty then s
    else if !c.attr.message then s.netRespond n p.msn m.result.length (.unit n p.msn (unitOf m.result m.resultPoison))
    else if m.op = 0xC2 then s.netRespond n p.msn m.result.length (.readResp n p.msn m.resultPoison m.result)
    else s.netRespond n p.msn 8 (.atomicResp n p.msn m.result)

/-- The packet agrees with what is known of its message. -/
def RecvMsg.fits (m : RecvMsg) (p : MpPacket) : Bool :=
  !m.known || (m.op == p.op && m.total == p.totalLen && m.key == p.windowKey && m.target == p.target)

/-- A packet of a request, write or message arrives. -/
def State.mpPacket (s : State) (p : MpPacket) : State :=
  let n := p.conn
  let c := s.netConn n
  if !s.answers then s
  else if c.state ≠ .ready then s.netUnready
  else if !p.srcOk then s
  else if !c.attr.multipath ∨ !p.formed c then s.netMalformed
  else
    let (pass, s) := if c.attr.message then s.police c.attr.tenant.toNat p.frameLen else (true, s)
    let m := s.recvMsg n p.msn
    let i := p.index c
    if !pass then s
    else if (msnBelow p.msn c.cumMsn && !m.known) || (m.known && m.bits.contains i) then s.duplicate p
    else if c.heldPkts.any fun q => q.msn == p.msn && q.offset == p.offset then s.count Reg.NET_DUP 1
    else if !m.fits p then s.netMalformed
    else if !m.known && decide (256 ≤ c.incomplete) then s
    else if c.attr.message then s.messagePacket p
    else s.statePacket p

/-- MP_WRITE (R310, R316). -/
def execMpWrite (p : MpPacket) (s : State) : Host.Outcome State Fault Refusal := .next (s.mpPacket { p with op := 0xC0 })

/-- MP_SEND (R234, R310): a protocol message; what it says is taken by the command of its kind once every byte has landed. -/
def execMpSend (p : MpPacket) (s : State) : Host.Outcome State Fault Refusal := .next (s.mpPacket { p with op := 0xC1 })

/-- MP_READ_REQ (R310, R318, R319). -/
def execMpReadReq (p : MpPacket) (s : State) : Host.Outcome State Fault Refusal := .next (s.mpPacket { p with op := 0xC2 })

/-- MP_ATOMIC (R310, R318, R319). -/
def execMpAtomic (p : MpPacket) (s : State) : Host.Outcome State Fault Refusal := .next (s.mpPacket { p with op := 0xC4 })

/-- HELD_PACKET_RELEASE (R319): the oldest held packet of a connection that no earlier incomplete message overlaps goes to its
check. -/
def execHeldPacketRelease (conn : Fin 8192) (s : State) : Host.Outcome State Fault Refusal :=
  let c := s.netConn conn.val
  .next (match c.heldPkts.find? fun p => !s.overlapsEarlier p with
    | none => s
    | some p =>
      if c.state ≠ .ready ∨ !s.answers then s
      else
        let s := s.setNetConn conn.val { c with heldPkts := c.heldPkts.filter fun q => !(q.msn == p.msn && q.offset == p.offset) }
        ({ s with net := { s.net with holdBytes := s.net.holdBytes - p.payload.length } }).windowPacket p)

/-! ### Units held for a newer map (R265) -/

/-- The answer to a unit that came on a connection. -/
def State.routeUnit (s : State) (r : UnitRoute) (a : MoverUnit) : State :=
  let m := s.recvMsg r.conn r.msn
  if (s.netConn r.conn).state ≠ .ready ∨ !m.known ∨ m.complete then s
  else if a.opcode = 0xC0 then
    let s := s.setRecvMsg r.conn r.msn { m with complete := true, result := a.bytes, resultPoison := a.poison }
    (s.netRespond r.conn r.msn (48 + a.data.length) (.unit r.conn r.msn a)).settleRecv r.conn
  else
    let m := { m with due := none, refused := if 0x10 ≤ a.status.toNat then (r.index, a.status) :: m.refused else m.refused }
    ((((s.setRecvMsg r.conn r.msn m).msgComplete r.conn r.msn).settleRecv r.conn).ackPacket r.conn r.msn r.index a.status r.echo).grantCredits

/-- The answer to a held unit goes back the way the unit came. -/
def State.answerHeld (s : State) (u : MoverUnit × Option UnitRoute) (a : MoverUnit) : State :=
  match u.2 with
  | none => s.answerUnit a
  | some r => s.routeUnit r a

/-- The units held for an epoch that is no longer newer are taken, in order (R265). -/
def State.takeHeldUnits (s : State) : State :=
  let us := s.handoff.heldUnits
  us.foldl (fun s u => match s.takeUnit u.1 with
    | .held => { s with handoff := { s.handoff with heldUnits := s.handoff.heldUnits ++ [u] } }
    | .answer t a => t.answerHeld u a) { s with handoff := { s.handoff with heldUnits := [] } }

/-- HELD_MESSAGE_TIMEOUT (R265): a message or a unit held for HANDOFF_GRACE is refused; the units are numbered after the
messages. -/
def execHeldMessageTimeout (i : Nat) (s : State) : Host.Outcome State Fault Refusal :=
  .next (if !s.alive then s
    else match s.handoff.heldMsgs[i]? with
      | some m => ({ s with handoff := { s.handoff with heldMsgs := s.handoff.heldMsgs.eraseIdx i } }).refuseMsg m stNOT_READY
      | none =>
        let j := i - s.handoff.heldMsgs.length
        match s.handoff.heldUnits[j]? with
        | some u => ({ s with handoff := { s.handoff with heldUnits := s.handoff.heldUnits.eraseIdx j } }).answerHeld u (s.unitResponse u.1 stNOT_READY)
        | none => s)

end Sys2Proof.Machine
end

