-- ==== Sys2Proof/Machine/NetSend.lean ====
section
/-! DEFINITION. The sender of RDMA connections: acknowledgement, retransmission and responses (R321-R323), credits held (R324-R326),
delay-based windows (R328-R330), and the states of a connection (R309); standard RoCE v2 (R304), and what else arrives on the
Ethernet ports (R303, R306, R417). -/

namespace Sys2Proof.Machine

/-! ### Delay-based windows (R328-R330) -/

/-- Congestion-window control runs in hardware on this connection (R328, R330). -/
def State.windowed (s : State) (c : Conn) : Bool := c.attr.message && c.attr.multipath && decide (s.fnMode 6 ≠ .hostAssist)

/-- A window within its bounds (R328). -/
def State.clampWindow (s : State) (w : Nat) : Nat := min (max w (s.rdN Reg.SHAPE_WIN_MIN)) (s.rdN Reg.SHAPE_WIN_MAX)

/-- Window of a new connection (R328, R330). -/
def State.startWindow (s : State) (c : Conn) : Nat := if s.windowed c then s.rdN Reg.SHAPE_WIN_MIN * 4 else 0

/-- The window after an acknowledgement of `b` bytes with delay `d`, in whole bytes, exactly (R328): the factor of a decrease is
(256 d − BETA (d − T)) / (256 d), and no less than a half. -/
def windowAfter (w b d target ai beta : Nat) : Nat :=
  if d < target then w + ai * b / w
  else
    let num := 256 * d - beta * (d - target)
    max (w * num / (256 * d)) (w / 2)

/-- A delay sample of an acknowledged packet (R328, R330). -/
def State.sample (s : State) (n b d : Nat) : State :=
  let c := s.netConn n
  let target := s.rdN Reg.SHAPE_TARGET_DELAY
  let c := { c with delay := d }
  if !s.windowed c ∨ c.window = 0 then s.setNetConn n c
  else if d < target ∨ d ≤ s.now - c.lastDecrease then
    s.setNetConn n { c with
      window := s.clampWindow (windowAfter c.window b d target (s.rdN Reg.SHAPE_AI) (s.rdN Reg.SHAPE_BETA))
      lastDecrease := if d < target then c.lastDecrease else s.now }
  else s.setNetConn n c

/-! ### Outcomes of messages (R323) -/

/-- A gateway tag that a request carried still waits (R292). -/
def State.tagWaits (s : State) (t : Nat) : Bool := decide ((s.tag (t % 4096)).state = .waiting) && decide ((s.tag (t % 4096)).gen = t / 4096)

/-- What decides a message at its requester still waits (R323). -/
def State.itemWaits (s : State) (x : NetItem) : Bool :=
  match x with
  | .none => true
  | .put ref k | .get ref k => (s.unitSlot ref k).isSome
  | .write tags => tags.any s.tagWaits
  | .read t | .atomic t => s.tagWaits t

/-- The outcome of a message goes to its slot or to its tags (R299, R323). -/
def State.itemDone (s : State) (x : NetItem) (st : Byte) : State :=
  match x with
  | .none => s
  | .put ref k => if s.itemWaits x then s.unitAcked ref k st else s
  | .get ref k => if s.itemWaits x then s.tileCame { slot := ref, status := st } k else s
  | .write tags => tags.foldl (fun s t => if s.tagWaits t then s.tagDone (t % 4096) st [] false else s) s
  | .read t | .atomic t => if s.tagWaits t then s.tagDone (t % 4096) st [] false else s

/-- The message has a response that decides it. -/
def NetItem.answered : NetItem → Bool
  | .get _ _ | .read _ | .atomic _ => true
  | .none | .put _ _ | .write _ => false

/-- A message is known and all its packets have been acknowledged, with a refusal, or with CUM_MSN past it (R315, R321). -/
def Conn.resolved (c : Conn) (msn : Nat) (m : OutMsg) : Bool :=
  decide (0 < m.total) && decide (m.left = 0) && (decide (0x10 ≤ m.status.toNat) || (!m.item.answered && msnBelow msn c.peerCum))

/-- Messages of a connection that are resolved complete to their requesters (R323). -/
def State.settleOut (s : State) (n : Nat) : State :=
  let c := s.netConn n
  (c.out.filter fun x => c.resolved x.1 x.2).foldl (fun s x =>
    let c := s.netConn n
    (s.setNetConn n { c with out := c.out.set x.1 {} }).itemDone x.2.item x.2.status) s

/-! ### Acknowledgement and retransmission (R321, R322) -/

/-- A packet goes again (R322); at NET_RETRY retransmissions the connection enters ERROR, and one that closes resolves its
messages (R309). -/
def State.retransmit (s : State) (n : Nat) (p : SentPacket) : State :=
  let s := s.emit n p true
  if p.retx + 1 < s.rdN Reg.NET_RETRY then s
  else if (s.netConn n).state = .ready then s.connError n
  else s.dropMessages n

/-- Packets that three later packets on other paths have passed go again (R322). -/
def State.fastRetransmit (s : State) (n : Nat) : State :=
  ((s.netConn n).unacked.filter fun p => decide (3 ≤ p.passed)).foldl (fun s p =>
    if (s.netConn n).unacked.any fun q => decide (q.msn = p.msn) && decide (q.index = p.index) then s.retransmit n p else s) s

/-- One entry of an MP_ACK (R321-R323, R329). -/
def State.ackEntry (s : State) (n : Nat) (e : AckEntry) : State :=
  let c := s.netConn n
  match c.unacked.find? fun p => p.msn == e.msn && p.index == e.index with
  | none => s
  | some p =>
    let m := c.out.get e.msn
    let s := if s.itemWaits m.item then s else s.count Reg.NET_LATE 1
    let before := c.unacked.takeWhile fun q => !(q.msn == p.msn && q.index == p.index)
    let after := (c.unacked.drop (before.length + 1))
    let before := before.map fun q => if q.path = p.path then q else { q with passed := q.passed + 1 }
    let m := { m with left := m.left - 1, status := if m.status = 0 ∧ 0x10 ≤ e.status.toNat then e.status else m.status }
    let s := s.setNetConn n { c with unacked := before ++ after, out := if m.total = 0 then c.out else c.out.set e.msn m }
    if c.attr.message ∧ 0x10 > e.status.toNat then s.sample n p.size ((s.now + 2 ^ 32 - e.echo.toNat) % 2 ^ 32) else s

/-- A cumulative count, when it is newer than the one known (R325). -/
def newer (old new : Nat) : Nat := if msnBelow old new then new else old

/-- A connection on which answers to this device's packets are taken: READY, or CLOSING until its messages are resolved. -/
def Conn.listens (c : Conn) : Bool := decide (c.state = .ready) || decide (c.state = .closing)

/-- MP_ACK (R321-R323, R325). -/
def execMpAck (p : MpAckPkt) (s : State) : Host.Outcome State Fault Refusal :=
  let n := p.conn
  let c := s.netConn n
  .next (if !s.answers then s
    else if !c.listens then s.netUnready
    else if !p.srcOk then s
    else if !c.attr.multipath ∨ readable p.level.toNat = false ∨ p.entries.length < 1 ∨ 4 < p.entries.length then s.netMalformed
    else
      let c := { c with peerCum := newer c.peerCum p.cumMsn }
      let c := if c.attr.message then c else { c with granted := newer c.granted p.granted, seenConsumed := newer c.seenConsumed p.consumed }
      let s := p.entries.foldl (fun s e => s.ackEntry n e) (s.setNetConn n c)
      ((((s.settleOut n).fastRetransmit n).sendWaiting n).settleFailed).pumpHeld)

/-- MP_CREDIT (R325): a grant for this sender, or a return and demand for this receiver. -/
def execMpCredit (p : MpCreditPkt) (s : State) : Host.Outcome State Fault Refusal :=
  let n := p.conn
  let c := s.netConn n
  .next (if !s.answers then s
    else if !c.listens then s.netUnready
    else if !p.srcOk then s
    else if !c.attr.multipath ∨ c.attr.message ∨ readable p.level.toNat = false ∨ 1 < p.kind then s.netMalformed
    else if p.kind = 0 then
      (s.setNetConn n { c with granted := newer c.granted p.granted, seenConsumed := newer c.seenConsumed p.consumed
                               seenReturned := newer c.seenReturned p.returned }).sendWaiting n
    else s.setNetConn n { c with rReturned := newer c.rReturned p.returned, rDemand := p.demand })

/-- RETRANSMIT_TIMEOUT (R322, R328): NET_RTO has passed since a packet was sent; its path is avoided for 1 ms, unless no other
remains. -/
def execRetransmitTimeout (conn : Fin 8192) (msn index : Nat) (s : State) : Host.Outcome State Fault Refusal :=
  let n := conn.val
  let c := s.netConn n
  .next (match c.unacked.find? fun p => p.msn == msn && p.index == index with
    | none => s
    | some p =>
      if !s.answers ∨ !c.listens then s
      else
        let others := (s.livePaths c).filter fun x => decide (x ≠ p.path)
        let c := if others.isEmpty then c else { c with avoided := (p.path, s.now + 1000000) :: c.avoided.filter fun a => decide (s.now < a.2) && decide (a.1 ≠ p.path) }
        let c := if s.windowed c then { c with window := s.clampWindow (s.rdN Reg.SHAPE_WIN_MIN) } else c
        ((s.setNetConn n c).retransmit n p).settleFailed)

/-! ### Responses (R318, R323) -/

/-- The request that a response answers: a READ, an atomic or a TILE_GET whose slot or tag still waits (R323). -/
def State.awaits (s : State) (n msn : Nat) (op : Byte) : Option OutMsg :=
  let m := (s.netConn n).out.get msn
  let right := match m.item with
    | .get _ _ | .read _ => op == 0xC3
    | .atomic _ => op == 0xC5
    | .none | .put _ _ | .write _ => false
  if right && s.itemWaits m.item then some m else none

/-- The request is resolved by its response: nothing of it is kept. -/
def State.forgetOut (s : State) (n msn : Nat) : State :=
  let c := s.netConn n
  s.setNetConn n { c with
    out := c.out.set msn {}, resps := c.resps.set msn {}, unacked := c.unacked.filter fun p => p.msn != msn
    toSend := c.toSend.filter fun p => p.resp || p.msn != msn }

/-- A whole response goes to the request's slot or tag (R215, R221, R293). -/
def State.deliverResp (s : State) (n msn : Nat) (x : NetItem) (data : List Byte) (poison : Bool) : State :=
  let s := s.forgetOut n msn
  match x with
  | .get ref k => s.tileCame { unitOf data poison with slot := ref } k
  | .read t | .atomic t => s.tagDone (t % 4096) (if poison then stPOISON else stOK) data poison
  | .none | .put _ _ | .write _ => s

/-- MP_READ_RESP, MP_ATOMIC_RESP (R310, R316, R323, R324): a response to a request that no longer waits is discarded and counted
LATE. -/
def State.respPacket (s : State) (p : MpPacket) : State :=
  let n := p.conn
  let c := s.netConn n
  if !s.answers then s
  else if !c.listens then s.netUnready
  else if !p.srcOk then s
  else if !c.attr.multipath ∨ !p.formed c then s.netMalformed
  else
    let i := p.index c
    let m := c.resps.get p.msn
    if m.bits.contains i then s.count Reg.NET_DUP 1
    else
      let s := if c.attr.message then s else s.setNetConn n { c with rConsumed := (c.rConsumed + 1) % 2 ^ 32 }
      match s.awaits n p.msn p.op with
      | none => (((s.count Reg.NET_LATE 1).forgetOut n p.msn).grantCredits).sendWaiting n
      | some x =>
        if !m.fits p then s.netMalformed
        else
          let m := m.join p i stOK true
          let c := s.netConn n
          let s := s.setNetConn n { c with resps := c.resps.set p.msn m }
          let s := if c.attr.message then s.chargeRx c 0 p.payload.length else s
          let done := if p.op = 0xC5 then true else decide (m.bytes = m.total)
          if !done then s.grantCredits
          else
            let s := if c.attr.message then s else s.chargeRx c (unitOf m.whole m.poison).requestId m.total
            ((((s.deliverResp n p.msn x.item m.whole m.poison).grantCredits).sendWaiting n).settleFailed).pumpHeld

/-- MP_READ_RESP. -/
def execMpReadResp (p : MpPacket) (s : State) : Host.Outcome State Fault Refusal := .next (s.respPacket { p with op := 0xC3 })

/-- MP_ATOMIC_RESP. -/
def execMpAtomicResp (p : MpPacket) (s : State) : Host.Outcome State Fault Refusal := .next (s.respPacket { p with op := 0xC5 })

/-! ### Credits of the sender (R325, R326) -/

/-- CREDIT_RETURN (R325): a sender that has held credits for 100 µs without sending returns them. -/
def execCreditReturn (conn : Fin 8192) (s : State) : Host.Outcome State Fault Refusal :=
  let c := s.netConn conn.val
  .next (if c.state ≠ .ready ∨ c.attr.message ∨ !c.attr.multipath ∨ c.held = 0 ∨ !s.answers then s
    else
      let c := { c with returned := (c.returned + c.held) % 2 ^ 32 }
      (s.setNetConn conn.val c).netOut (.credit conn.val 1 c.granted c.used c.returned c.demand))

/-- CREDIT_RESYNC (R326): the sender's count has differed from the receiver's totals for longer than 4 × NET_RTO. -/
def execCreditResync (conn : Fin 8192) (s : State) : Host.Outcome State Fault Refusal :=
  let c := s.netConn conn.val
  .next (if c.state ≠ .ready ∨ c.attr.message ∨ !c.attr.multipath ∨ (c.used = c.seenConsumed ∧ c.returned = c.seenReturned) ∨ !s.answers then s
    else
      let s := s.setNetConn conn.val { c with used := c.seenConsumed, returned := c.seenReturned }
      let s := ((s.setFlag Reg.NET_STATUS 2 true).setFlag Reg.FAULT_AUDIT 3 true).raise
        { severity := .corrected, block := 0x010, cause := 0x0039, unit := BitVec.ofNat 16 conn.val, detail0 := c.attr.peer.zeroExtend 64 }
      s.sendWaiting conn.val)

/-! ### States of a connection (R309) -/

/-- MP_HELLO (R309): one that names the connection's queue pair, class and space key makes a CONNECTING connection READY, and is
answered; so is a repeated one. Of a STATE connection only the partition of the key counts (R311). -/
def execMpHello (p : MpHelloPkt) (s : State) : Host.Outcome State Fault Refusal :=
  let n := p.conn
  let c := s.netConn n
  let keys := if c.attr.message then c.attr.spaceKey == p.spaceKey else c.attr.spaceKey.toNat / 2 ^ 29 == p.spaceKey.toNat / 2 ^ 29
  .next (if !s.answers then s
    else if !c.attr.multipath ∨ (c.state ≠ .connecting ∧ c.state ≠ .ready) then s.netUnready
    else if !p.srcOk then s
    else if p.message ≠ c.attr.message ∨ !keys then (if c.state = .connecting then s.netUnready else s)
    else if c.state = .connecting then
      ((s.setNetConn n { c with state := .ready, connectCmd := none }).netOut (.hello n)).completeOpt c.connectCmd stOK (BitVec.ofNat 64 n)
    else s.netOut (.hello n))

/-- MP_HELLO_TIMER (R309). -/
def execMpHelloTimer (conn : Fin 8192) (s : State) : Host.Outcome State Fault Refusal :=
  .next (if (s.netConn conn.val).state = .connecting ∧ s.answers = true then s.netOut (.hello conn.val) else s)

/-- CONNECT_TIMEOUT (R309): 1 s without a matching MP_HELLO. -/
def execConnectTimeout (conn : Fin 8192) (s : State) : Host.Outcome State Fault Refusal :=
  let c := s.netConn conn.val
  .next (if c.state = .connecting ∧ s.alive = true then (s.setNetConn conn.val {}).completeOpt c.connectCmd stTIMEOUT else s)

/-- CLOSING_RESOLVED (R309): every outstanding message of a CLOSING connection is resolved. -/
def execClosingResolved (conn : Fin 8192) (s : State) : Host.Outcome State Fault Refusal :=
  let c := s.netConn conn.val
  .next (if c.state = .closing ∧ c.out = [] ∧ s.alive = true then
      c.closeCmds.foldl (fun s x => s.complete x stOK) (s.freeConn conn.val)
    else s)

/-! ### Standard RoCE v2 (R304, R313) -/

/-- The connection takes a standard packet (R304, R309, R313, R332). -/
def State.rocePacket (s : State) (p : RocePkt) (run : Conn → State → State) : State :=
  let c := s.netConn p.conn
  if !s.answers then s
  else if c.state ≠ .ready then s.netUnready
  else if !p.srcOk then s
  else if c.attr.multipath ∨ !p.supported ∨ c.attr.mtu < p.payload.length then s.netMalformed
  else
    let (pass, s) := s.police c.attr.tenant.toNat p.frameLen
    if pass then run c (s.chargeRx c 0 p.payload.length) else s

/-- SEND (R304): acknowledged; the spec names no place for its data. -/
def execSend (p : RocePkt) (s : State) : Host.Outcome State Fault Refusal :=
  .next (s.rocePacket p fun _ s => s.netOut (.roceAck p.conn p.psn stOK))

/-- RDMA_WRITE (R304, R313). -/
def execRdmaWrite (p : RocePkt) (s : State) : Host.Outcome State Fault Refusal :=
  .next (s.rocePacket p fun c s => match s.rdmaCheck c p.key .store p.target p.payload.length with
    | .error st => (s.netRefused st).netOut (.roceAck p.conn p.psn st)
    | .ok (_, a) => (s.writeP a p.payload false).netOut (.roceAck p.conn p.psn stOK))

/-- RDMA_READ (R304, R313). -/
def execRdmaRead (p : RocePkt) (s : State) : Host.Outcome State Fault Refusal :=
  .next (s.rocePacket p fun c s => match s.rdmaCheck c p.key .load p.target p.length with
    | .error st => (s.netRefused st).netOut (.roceAck p.conn p.psn st)
    | .ok (_, a) =>
      let s := s.tally c.attr.tenant.toNat fun u => { u with netTx := u.netTx + p.length }
      s.netOut (.readResp p.conn p.psn (s.poisoned a p.length) (s.seen a p.length)))

/-- A standard atomic (R283, R304, R313). -/
def State.roceAtomic (s : State) (p : RocePkt) (op : StraitOp) : State :=
  s.rocePacket p fun c s =>
    if p.target % 8 ≠ 0 then s.netMalformed
    else match s.rdmaCheck c p.key .atomic p.target 8 with
      | .error st => (s.netRefused st).netOut (.roceAck p.conn p.psn st)
      | .ok (_, a) =>
        let r := s.runMemory op a 8 p.payload false
        (r.state.tally c.attr.tenant.toNat fun u => { u with netTx := u.netTx + 8 }).netOut (.atomicResp p.conn p.psn r.data)

/-- CMP_SWAP (R304): its payload is the compare and the swap word. -/
def execCmpSwap (p : RocePkt) (s : State) : Host.Outcome State Fault Refusal := .next (s.roceAtomic p .cas)

/-- FETCH_ADD: the Strait atomic (R283), or the one of standard RoCE v2 (R304). -/
def execFetchAdd (x : FetchAddReq) (s : State) : Host.Outcome State Fault Refusal :=
  .next (match x with
    | .strait r => s.serveRequest {} .fetchAdd r
    | .roce p => s.roceAtomic p .fetchAdd)

/-! ### Ports (R303, R306, R417) -/

/-- Replaces an Ethernet port. -/
def State.setEthPort (s : State) (n : Nat) (e : EthPort) : State := { s with net := { s.net with ports := s.net.ports.set n e } }

/-- PTP_MESSAGE (R306, R417): with PTP_REF set, the frames of the port PTP_PORT give the slave clock PTP time less the Tide. -/
def execPtpMessage (port : Fin 16) (offset : Int) (s : State) : Host.Outcome State Fault Refusal :=
  .next (if s.alive = true ∧ s.flag Reg.OBS_TIME_CTRL 2 = true ∧ s.field Reg.OBS_TIME_CTRL 4 4 = port.val
        ∧ (s.net.ports.get port.val).allocated = true then
      { s with obs := { s.obs with ptpClock := some offset } }
    else s)

/-- PFC_FRAME (R303, R334): counted; with PFC_EN it pauses or resumes the enabled priorities that it names. -/
def execPfcFrame (port : Fin 16) (classes : Byte) (pause : Byte) (s : State) : Host.Outcome State Fault Refusal :=
  let e := s.net.ports.get port.val
  let mask : Byte := if s.flag Reg.NET_CTRL 1 then BitVec.ofNat 8 (s.field Reg.NET_CTRL 2 8) &&& classes else 0
  let e' : EthPort := { e with pfcRx := satAdd 16 e.pfcRx 1, paused := (e.paused &&& ~~~mask) ||| (pause &&& mask) }
  .next (if e.allocated = true ∧ s.alive = true then s.setEthPort port.val e' else s)

/-- ETHERNET_LINK_CHANGE (R303, NET_EPn_STATUS): an allocated port trains, comes up or goes down. -/
def execEthernetLinkChange (port : Fin 16) (up : Option Bool) (s : State) : Host.Outcome State Fault Refusal :=
  let e := s.net.ports.get port.val
  let e' : EthPort := { e with state := (match up with | some true => .up | some false => .down | none => .training), paused := 0 }
  .next (if e.allocated = true ∧ s.alive = true then s.setEthPort port.val e' else s)

end Sys2Proof.Machine
end

