-- ==== Sys2Proof/Machine/Chamois.lean ====
section
/-! DEFINITION. The Chamois search engine (chapter 12): registration of indexes (R340), mutations (R344-R347), query batches and
their phases (R348-R355, R359-R362), and compaction (R358). -/

namespace Sys2Proof.Machine

/-! ### Registration (R340, R351, R453) -/

/-- The search engine is enabled (R453). -/
def State.chamEnabled (s : State) : Bool :=
  match s.struct.loaded with
  | some b => b.chamOn
  | none => false

/-- An index header read from memory (R340). -/
def State.readHeader (s : State) (a : Nat) : IndexHeader :=
  let f (o n : Nat) : Nat := s.loadLE (a + o) n
  { addr := a, level := f 0 1, kind := f 1 1, m := f 2 1, dist := f 3 1, dim := f 4 2, tableFmt := f 6 1, partition := f 7 1, nlist := f 8 4
    itemCap := f 0xC 4, codebook := f 0x10 8, coarse := f 0x18 8, directory := f 0x20 8, items := f 0x28 8, segments := f 0x30 8
    segCount := f 0x38 4, dellogCap := f 0x3C 4, dellog := f 0x40 8, tables := f 0x48 8, combine := f 0x50 8 }

/-- The ranges of a header's fields (R340). -/
def IndexHeader.ranges (h : IndexHeader) : Bool :=
  readable h.level && decide (h.kind ≤ 1) && [8, 16, 32, 48, 64].contains h.m && decide (h.dist ≤ 3) && decide (h.tableFmt ≤ 1) && reserved h.level (decide (h.partition ≤ 7))
    && (if h.dist = 3 then decide (h.dim = 8 * h.m) && h.codebook == 0 else decide (h.m ≤ h.dim) && decide (h.dim ≤ 4096) && decide (h.dim % h.m = 0))
    && decide (1 ≤ h.nlist) && decide (h.nlist ≤ 1048576) && decide (1 ≤ h.itemCap) && decide (h.itemCap ≤ 2147483648)
    && decide (1024 ≤ h.dellogCap) && decide (h.dellogCap ≤ 1048576)

/-- A combination program keeps to its ops and ranges (R351). -/
def State.programOk (s : State) (h : IndexHeader) : Bool :=
  let f (o n : Nat) : Nat := s.loadLE (h.combine + o) n
  h.combine == 0 ||
    ((List.range 4).all fun i => decide (f (2 * i) 1 ≤ f (2 * i + 1) 1) && decide (f (2 * i + 1) 1 < h.m))
      && decide (1 ≤ f 8 1) && decide (f 8 1 ≤ 8) && f 9 7 == 0 && f 80 16 == 0
      && (List.range (f 8 1)).all fun i =>
        let v := f (48 + 4 * i) 4
        decide (v % 16 ≤ 9) && decide (v / 16 % 16 ≤ 3) && decide (v / 256 % 16 ≤ 7) && decide (v / 4096 % 16 ≤ 7) && decide (v < 2 ^ 19)

/-- Bytes of a distance table of one query (R349). -/
def IndexHeader.tableSize (h : IndexHeader) : Nat := distTableSize h.tableFmt h.m

/-- Structures of an index: address and bytes (R340). -/
def IndexHeader.structures (h : IndexHeader) : List (Nat × Nat) :=
  [(h.addr, 128), (h.coarse, 262144 * ((h.nlist + segEntries h.m - 1) / segEntries h.m)), (h.directory, 16 * h.nlist), (h.items, h.itemSize * h.itemCap)
    , (h.segments, 262144 * h.segCount), (h.dellog, 16 * h.dellogCap), (h.tables, 4096 * h.tableSize)]
    ++ (if h.dist = 3 then [] else [(h.codebook, 512 * h.dim)]) ++ (if h.combine = 0 then [] else [(h.combine, 96)])

/-- Status with which a structure is refused (R340): it lies in one SEARCH_INDEX region of granule 1 MiB, of the index's
partition; frames do not straddle a granule. -/
def State.structureStatus (s : State) (h : IndexHeader) (x : Nat × Nat) (frames : Bool) : Option Byte :=
  match s.regionAt x.1 (max 1 x.2) with
  | none => some stMALFORMED
  | some r =>
    if r.kind ≠ 0x0B ∨ r.granule ≠ 3 ∨ (frames = true ∧ (x.1 - r.start) % 262144 ≠ 0) then some stMALFORMED
    else if r.partition.val ≠ h.partition then some stPRIVILEGE
    else none

/-- Status with which a registration is refused (R340, R351). -/
def State.registerStatus (s : State) (h : IndexHeader) (part : Nat) : Option Byte :=
  if !h.ranges ∨ s.loadLE (h.addr + 0x60) 32 ≠ 0 then some stMALFORMED
  else match h.structures.findSome? fun x => s.structureStatus h x (x.1 == h.coarse || x.1 == h.segments) with
    | some st => some st
    | none => if !s.programOk h then some stMALFORMED else if h.partition ≠ part then some stPRIVILEGE else none

/-- Segment frames that the lists of an index and its coarse table use at registration. -/
def State.framesUsed (s : State) (h : IndexHeader) : List Nat :=
  let coarse := (List.range ((h.nlist + segEntries h.m - 1) / segEntries h.m)).filterMap fun i =>
    let a := h.coarse + 262144 * i
    if h.segments ≤ a ∧ a < h.segments + 262144 * h.segCount then some ((a - h.segments) / 262144) else none
  coarse ++ (List.range h.nlist).flatMap fun l => s.listSegs h l

/-- INDEX_REGISTER (R340, R453). An index that a batch or a mutation still uses is not replaced. -/
def execIndexRegister (w : WinRef) (s : State) : Host.Outcome State Fault Refusal :=
  .next (s.hostCmd w 0x11 fun c ref s =>
    let i := c.arg0.toNat % 16
    let h := s.readHeader c.arg1.toNat
    if !s.chamEnabled then s.complete ref stSTALE_MAP
    else if c.arg0.toNat ≥ 16 ∨ !addrFormed c.arg1.toNat then s.complete ref stMALFORMED
    else match s.registerStatus h c.part with
      | some st => s.complete ref st
      | none =>
        if !(s.index i).jobs.isEmpty ∨ s.cham.batches.any fun b => b.header.index == i then s.complete ref stNOT_READY
        else
          let s := s.setIndex i { registered := true, header := h, usedSegs := s.framesUsed h }
          (s.retire i).complete ref stOK)

/-! ### Mutations (R344-R347) -/

/-- Bytes of a mutation record (R344). -/
def recordSize (m : Nat) : Nat := 64 * ((48 + m + 63) / 64)

/-- MUTATE (R344, R365, R368): the buffer's records are then applied in order by INSERT and DELETE. -/
def execMutate (w : WinRef) (s : State) : Host.Outcome State Fault Refusal :=
  .next (s.hostCmd w 0x12 fun c ref s =>
    let i := c.arg0.toNat
    let x := s.index i
    let n := c.arg2.toNat
    if !s.chamEnabled then s.complete ref stSTALE_MAP
    else if 16 ≤ i ∨ !x.registered ∨ n < 1 ∨ 4096 < n then s.complete ref stMALFORMED
    else if !(s.tenantOf c.tenantId.toNat).enable ∨ x.header.partition ≠ c.part then s.complete ref stPRIVILEGE
    else match s.fnAccess (winFn w.key) c.arg1.toNat (n * recordSize x.header.m) c.part true with
      | some st => (s.refuse st c.arg1.toNat c.part (some c.tenantId)).complete ref st
      | none => s.setIndex i { x with jobs := x.jobs ++ [{ cmd := ref, addr := c.arg1.toNat, count := n }] })

/-- Address of the record that is next to be applied, when there is one. -/
def State.nextRecord (s : State) (i : Nat) : Option Nat :=
  match (s.index i).jobs with
  | [] => none
  | j :: _ => some (j.addr + j.next * recordSize (s.index i).header.m)

/-- The engine writes a record's outcome, and the MUTATE completes with its last record (R344). -/
def State.recordDone (s : State) (i a : Nat) (st : Byte) (seq : Nat) (slot : Option Nat) : State :=
  let s := (s.write (a + 1) [st]).write (a + 0x10) (leBytes 8 seq)
  let s := match slot with
    | some v => s.write (a + 0x18) (leBytes 4 v)
    | none => s
  let x := s.index i
  match x.jobs with
  | [] => s
  | j :: js =>
    if j.next + 1 < j.count then s.setIndex i { x with jobs := { j with next := j.next + 1 } :: js }
    else (s.setIndex i { x with jobs := js }).complete j.cmd stOK

/-- The tail segment of a list with room for one entry more: the last, or a new one linked to it (R345). -/
def State.tailSeg (s : State) (i l : Nat) : Option (Nat × State) :=
  let h := (s.index i).header
  let d := s.dirEntry h l
  let full := d.count = 0 || segEntries h.m ≤ s.segCount (h.segAt d.last)
  if !full then some (d.last, s)
  else (s.takeSeg i).map fun (g, s) =>
    let s := s.putSegHeader (h.segAt g) 0 l noSeg 0 0
    let s := if d.count = 0 then s else s.write (h.segAt d.last + 8) (leBytes 4 g)
    (g, s.putDir h l { d with first := if d.count = 0 then g else d.first, last := g })

/-- Appends an entry to a segment, and counts it in the segment header and the directory (R341, R342). -/
def State.append (s : State) (h : IndexHeader) (l g : Nat) (e : ListEntry) : State :=
  let a := h.segAt g
  let n := s.segCount a
  let s := s.putEntry h a n e
  let first := if n = 0 then e.seq else s.loadLE (a + 16) 8
  let s := s.putSegHeader a (n + 1) l (s.segNext a) first e.seq
  let d := s.dirEntry h l
  s.putDir h l { d with count := d.count + 1 }

/-- INSERT (R345): the next record of an index's oldest MUTATE, where it is an INSERT or has a reserved OP; one for a list that
is being compacted waits. -/
def execInsert (index : Fin 16) (s : State) : Host.Outcome State Fault Refusal :=
  .next (let i := index.val
    let h := (s.index i).header
    match s.nextRecord i with
    | none => s
    | some a =>
      let op := s.loadLE a 1
      let l := s.loadLE (a + 4) 4
      let len := s.loadLE (a + 0x1C) 4
      if op = 2 ∨ !s.alive then s
      else if op ≠ 1 ∨ h.nlist ≤ l ∨ (h.kind = 1 ∧ (len % 64 ≠ 0 ∨ len < 64 ∨ 1048576 < len)) then s.recordDone i a stMALFORMED 0 none
      else if (s.index i).compacting.contains l then s
      else match s.freeItem h 0 h.itemCap, s.tailSeg i l with
        | some slot, some (g, s) =>
          let seq := s.committed i + 1
          let pos := s.segCount (h.segAt g)
          let item : ItemEntry := { id := BitVec.ofNat 64 (s.loadLE (a + 8) 8), seg := g, pos := pos, used := true, holder := s.loadLE (a + 0x28) 2
                                    prefixLen := len, tokenCrc := s.loadLE (a + 0x20) 8 }
          let s := s.append h l g { code := s.bytes (a + 0x30) h.m, slot := slot, seq := seq }
          let s := ((s.putItem h slot item).commit i seq).retire i
          s.recordDone i a stOK seq (some slot)
        | _, _ => s.recordDone i a stNO_PAGES 0 none)

/-- First place of the delete log that is free: never used, or retired (R346, R356). -/
def State.freeDel (s : State) (i : Nat) : Option Nat :=
  let x := s.index i
  (List.range x.header.dellogCap).find? fun k => decide ((s.delEntry x.header k).2 ≤ x.retired)

/-- DELETE (R346): the next record of an index's oldest MUTATE. -/
def execDelete (index : Fin 16) (s : State) : Host.Outcome State Fault Refusal :=
  .next (let i := index.val
    let h := (s.index i).header
    match s.nextRecord i with
    | none => s
    | some a =>
      let slot := s.loadLE (a + 4) 4
      let x := s.item h slot
      let g := h.segAt x.seg
      let l := s.loadLE (g + 4) 4
      if s.loadLE a 1 ≠ 2 ∨ !s.alive then s
      else if h.itemCap ≤ slot ∨ !x.used then s.recordDone i a stMALFORMED 0 none
      else if (s.index i).compacting.contains l then s
      else if x.deleted then s.recordDone i a stOK 0 none
      else match s.freeDel i with
        | none => (s.setFlag Reg.CHAM_STATUS 3 true).recordDone i a stNOT_READY 0 none
        | some k =>
          let seq := s.committed i + 1
          let s := s.write (h.dellog + 16 * k) (packBytes [(4, slot), (4, 0), (8, seq)])
          let s := s.putEntry h g x.pos { s.segEntry h g x.seg x.pos with tombstone := true }
          let s := ((s.putItem h slot { x with deleted := true }).commit i seq).retire i
          (s.compactIfDue i l).recordDone i a stOK seq none)

/-! ### Search batches (R348, R355, R357) -/

/-- A batch header read from memory (R348). -/
def State.readBatch (s : State) (a : Nat) : BatchHeader :=
  let f (o n : Nat) : Nat := s.loadLE (a + o) n
  { addr := a, level := f 0 1, index := f 1 1, flags := f 2 1, partition := f 3 1, queries := f 4 2, k := f 6 2, nprobe := f 8 2, widenCap := f 0xA 2
    filters := f 0xC 1, snapshot := f 0x10 8, queryAddr := f 0x18 8, entryAddr := f 0x20 8, filterAddr := f 0x28 8, resultAddr := f 0x30 8 }

/-- WIDEN of a batch. -/
def BatchHeader.widen (b : BatchHeader) : Bool := b.flags % 2 == 1

/-- Bytes of a query vector (R348). -/
def IndexHeader.vectorSize (h : IndexHeader) : Nat := if h.dist = 3 then h.m else 2 * h.dim

/-- Bytes of a result block (R348). -/
def BatchHeader.blockSize (b : BatchHeader) : Nat := 16 + 16 * b.k

/-- Address of the entry of query `q`. -/
def BatchHeader.entryAt (b : BatchHeader) (q : Nat) : Nat := b.entryAddr + 16 * q

/-- The ranges of a batch header and of its query entries (R348). -/
def State.batchRanges (s : State) (b : BatchHeader) (h : IndexHeader) : Bool :=
  readable b.level && reserved b.level (decide (b.flags ≤ 1) && decide (b.partition ≤ 7) && s.loadLE (b.addr + 0xD) 3 == 0 && s.loadLE (b.addr + 0x38) 8 == 0)
    && decide (1 ≤ b.queries) && decide (b.queries ≤ 4096) && decide (1 ≤ b.k) && decide (b.k ≤ 1024) && decide (1 ≤ b.nprobe)
    && decide (b.nprobe ≤ min 4096 h.nlist) && (b.widenCap == 0 || (decide (b.nprobe ≤ b.widenCap) && decide (b.widenCap ≤ 4096))) && decide (b.filters ≤ 64)
    && (List.range b.queries).all fun q =>
      let f := s.loadLE (b.entryAt q) 2
      let g := s.loadLE (b.entryAt q + 2) 2
      (decide (f < b.filters) || f == 0xFFFF) && decide (g ≤ 1) && (g == 0 || h.kind == 1)

/-- Stretches of memory that a batch reads, and those that it writes. -/
def State.batchReach (s : State) (b : BatchHeader) (h : IndexHeader) : List (Nat × Nat × Bool) :=
  [(b.entryAddr, 16 * b.queries, false), (b.queryAddr, b.queries * h.vectorSize, false), (b.resultAddr, b.queries * b.blockSize, true), (b.addr, 64, true)]
    ++ (if b.filters = 0 then [] else [(b.filterAddr, 8 * b.filters, false)])
    ++ ((List.range b.filters).map fun f => (s.loadLE (b.filterAddr + 8 * f) 8, (h.itemCap + 7) / 8, false))
    ++ (if h.kind = 1 then (List.range b.queries).filterMap fun q =>
        let n := s.loadLE (b.entryAt q + 4) 4
        if n = 0 then none else some (s.loadLE (b.entryAt q + 8) 8, 4 * n, false)
      else [])

/-- SEARCH (R348, R355, R357, R365, R368, R453): the batch is admitted with its snapshot. -/
def execSearch (w : WinRef) (s : State) : Host.Outcome State Fault Refusal :=
  .next (s.hostCmd w 0x13 fun c ref s =>
    let fn := winFn w.key
    let b := s.readBatch c.arg0.toNat
    let x := s.index b.index
    let assist := decide (s.fnMode 5 = .hostAssist)
    let snapshot := if assist then b.snapshot else s.committed b.index
    let fail (st : Byte) (a : Nat) : State := (s.refuse st a c.part (some c.tenantId)).complete ref st
    if !s.chamEnabled then s.complete ref stSTALE_MAP
    else if !(s.tenantOf c.tenantId.toNat).enable ∨ (s.tenantOf c.tenantId.toNat).partition.val ≠ c.part then s.complete ref stPRIVILEGE
    else match s.fnAccess fn b.addr 64 c.part true with
    | some st => fail st b.addr
    | none =>
      if 16 ≤ b.index ∨ !x.registered then s.complete ref stMALFORMED
      else if b.partition ≠ x.header.partition ∨ b.partition ≠ c.part then s.complete ref stPRIVILEGE
      else if !s.batchRanges b x.header then s.complete ref stMALFORMED
      else match (s.batchReach b x.header).findSome? fun r => (s.fnAccess fn r.1 r.2.1 c.part r.2.2).map fun st => (st, r.1) with
      | some (st, a) => fail st a
      | none =>
        if assist = true ∧ (s.committed b.index < snapshot ∨ snapshot < s.cham.snapPoint) then s.complete ref stMALFORMED
        else if 16 ≤ s.cham.batches.length then s.complete ref stNOT_READY
        else
          let s := s.write (b.addr + 0x10) (leBytes 8 snapshot)
          let n : Batch := { number := s.cham.nextBatch, header := b, tenant := c.tenantId, snapshot := snapshot, queries := List.replicate b.queries {}, cmd := ref }
          { s with cham := { s.cham with batches := s.cham.batches ++ [n], nextBatch := s.cham.nextBatch + 1 } })

/-! ### Distances (R349-R351) -/

/-- The half-precision format of FP16 tables (R349). -/
def fp16 : FloatFmt := { eb := 5, mb := 10, ieee := true }

/-- A whole number. -/
def FNum.ofNat (n : Nat) : FNum := .num false n 0

/-- Address of the distance table of query `q`. -/
def IndexHeader.tableAt (h : IndexHeader) (q : Nat) : Nat := h.tables + q * h.tableSize

/-- Sum over the sub-spaces `lo` to `hi` of a query's table for a code (R350, R351): in FP32, in ascending order of the
sub-spaces, from FP16 tables; from UINT8 tables the exact integer sum, dequantised in FP32. -/
def State.codeSum (s : State) (h : IndexHeader) (q lo hi : Nat) (code : List Byte) : FNum :=
  let t := h.tableAt q
  let subs := (List.range (hi + 1 - lo)).map (lo + ·)
  let byte (k : Nat) : Nat := (code.getD k 0).toNat
  if h.tableFmt = 0 then
    subs.foldl (fun x k => x.add (fp16.decode (s.loadLE (t + 512 * k + 2 * byte k) 2))) (.num false 0 0)
  else
    let u := (subs.map fun k => s.loadLE (t + 64 + 256 * k + byte k) 1).sum
    ((FNum.ofNat subs.length).mul (fp32.decode (s.loadLE t 4))).add ((fp32.decode (s.loadLE (t + 4) 4)).mul (FNum.ofNat u))

/-- One instruction of a combination program on its eight registers (R351). -/
def progStep (consts : List FNum) (r : List FNum) (v : Nat) : List FNum :=
  let a := r.getD (v / 256 % 16) (.num false 0 0)
  let b := r.getD (v / 4096 % 16) (.num false 0 0)
  let c := consts.getD (v / 65536 % 8) (.num false 0 0)
  let x := match v % 16 with
    | 0 => a
    | 1 => a.add b
    | 2 => a.add b.neg
    | 3 => a.mul c
    | 4 => a.mul b
    | 5 => if a.isNan then a else if b.isNan then b else if b.less a then b else a
    | 6 => if a.isNan then a else if b.isNan then b else if a.less b then b else a
    | 7 => a.abs
    | 8 => a.sqrt
    | _ => a.add c
  r.set (v / 16 % 16) x

/-- The distance of a code from query `q` (R350, R351). -/
def State.distance (s : State) (h : IndexHeader) (q : Nat) (code : List Byte) : FNum :=
  if h.combine = 0 then
    let x := s.codeSum h q 0 (h.m - 1) code
    if h.dist = 2 then (FNum.ofNat 1).add x else x
  else
    let f (o n : Nat) : Nat := s.loadLE (h.combine + o) n
    let zero : FNum := .num false 0 0
    let accs := (List.range 4).map fun i => s.codeSum h q (f (2 * i) 1) (f (2 * i + 1) 1) code
    let consts := (List.range 8).map fun i => fp32.decode (f (16 + 4 * i) 4)
    let r := (List.range (f 8 1)).foldl (fun r i => progStep consts r (f (48 + 4 * i) 4)) ([zero, zero, zero, zero] ++ accs)
    r.getD 0 zero

/-- The table of query `q` holds a NaN or a poisoned tile (R350). -/
def State.tableBad (s : State) (h : IndexHeader) (q : Nat) : Bool :=
  let t := h.tableAt q
  s.poisoned t h.tableSize ||
    (if h.tableFmt = 0 then (List.range (256 * h.m)).any fun k => (fp16.decode (s.loadLE (t + 2 * k) 2)).isNan
     else (fp32.decode (s.loadLE t 4)).isNan || (fp32.decode (s.loadLE (t + 4) 4)).isNan)

/-! ### Running a batch (R352-R354, R359-R362) -/

/-- The running batch. -/
def State.runBatch (s : State) : Option Batch := s.cham.batches.head?

/-- Replaces the running batch. -/
def State.setBatch (s : State) (b : Batch) : State := { s with cham := { s.cham with batches := b :: s.cham.batches.drop 1 } }

/-- BATCH_BEGIN (R348, R349, R352, R363): the oldest batch begins, and its DIST_TABLE is queued on the Eland array. -/
def execBatchBegin (s : State) : Host.Outcome State Fault Refusal :=
  .next (match s.runBatch with
    | none => s
    | some b =>
      if b.phase ≠ .queued ∨ s.flag Reg.CHAM_CTRL 0 ∨ !s.alive then s
      else
        let h := (s.index b.header.index).header
        let d : ElandDesc := { kind := 7, partition := BitVec.ofNat 8 b.header.partition, mode := BitVec.ofNat 8 h.tableFmt
                               m := BitVec.ofNat 32 b.header.queries, n := 256, k := BitVec.ofNat 32 h.dim, g := BitVec.ofNat 16 h.m
                               aAddr := BitVec.ofNat 64 b.header.queryAddr, bAddr := BitVec.ofNat 64 h.codebook, cAddr := BitVec.ofNat 64 h.tables
                               param0 := BitVec.ofNat 32 (fp32.wide (.ofNat h.dist)), serial := BitVec.ofNat 32 b.number }
        (s.setBatch { b with phase := .tables, mult := s.rdN Reg.CHAM_WIDEN_MULT }).elandAdd { desc := d, source := .chamois, tenant := some b.tenant })

/-- BATCH_TABLES_DONE (R350, R352): the DIST_TABLE has completed; a query whose table holds a NaN or poison, or was not built,
gets no results. -/
def execBatchTablesDone (s : State) : Host.Outcome State Fault Refusal :=
  .next (match s.runBatch with
    | none => s
    | some b =>
      let mine := s.eland.completions.find? fun c => decide (c.source = .chamois) && c.serial == BitVec.ofNat 32 b.number
      match mine with
      | none => s
      | some c =>
        if b.phase ≠ .tables ∨ !s.alive then s
        else
          let h := (s.index b.header.index).header
          let ran := c.status == stOK || c.status == stPOISON
          let qs := b.queries.zipIdx.map fun x => { x.1 with poison := !ran || s.tableBad h x.2 }
          let s := if qs.any QueryState.poison then s.setFlag Reg.CHAM_STATUS 4 true else s
          s.setBatch { b with phase := .coarse, queries := qs })

/-- All four scan units of the stack that holds an address are out (R338, R362). -/
def State.unitsOut (s : State) (a : Nat) : Bool :=
  let k := s.memLane a / 32
  (List.range 4).all fun u => s.cham.failedUnits.contains (4 * k + u)

/-- Cycles of a scan unit for `n` entries (R339). -/
def scanCycles (m n : Nat) : Nat := (n + 63) / 64 * m + 64

/-- A DEFERRED record of poison met in a list (R362, R382). -/
def State.searchPoison (s : State) (i l : Nat) : State :=
  (s.setFlag Reg.CHAM_STATUS 4 true).raise
    { severity := .deferred, block := 0x014, cause := 0x0040, status := stPOISON, unit := BitVec.ofNat 16 i, detail0 := BitVec.ofNat 64 l }

/-- Counts lookups and cycles of a scan of `n` entries, charged to the batch's tenant (R339, R363, R374). -/
def State.countScan (s : State) (b : Batch) (m n : Nat) : State :=
  let s := { s with cham := { s.cham with lookups := s.cham.lookups + n * m } }
  (s.spend (scanCycles m n)).tally b.tenant.toNat fun u => { u with scanCycles := u.scanCycles + scanCycles m n }

/-- Some byte of an entry's code, slot or tombstone is poisoned (R362). -/
def State.entryPoisoned (s : State) (h : IndexHeader) (a i : Nat) : Bool :=
  s.poisoned (a + 64 + i * h.m) h.m || s.poisoned (a + slotCol h.m + 4 * i) 4 || s.poisoned (a + tombCol h.m + i / 8) 1

/-- The coarse segments of an index: addresses and numbers (R340). -/
def IndexHeader.coarseSegs (h : IndexHeader) : List Nat :=
  (List.range ((h.nlist + segEntries h.m - 1) / segEntries h.m)).map fun i => h.coarse + 262144 * i

/-- The lists of least distance from query `q`, at most `n`, with ties broken by the lower number (R352), from the coarse
entries: list numbers and codes. -/
def State.nearLists (s : State) (h : IndexHeader) (q n : Nat) (es : List ListEntry) : List Nat :=
  let ds := (es.map fun e => (s.distance h q e.code, e.slot)).filter fun d => !d.1.isNan
  ((sortBy (fun a b => a.1.less b.1 || (!b.1.less a.1 && decide (a.2 ≤ b.2))) ds).take n).map Prod.snd

/-- Greatest number of lists that a query of a batch may probe (R348, R359). -/
def Batch.cap (b : Batch) (nlist : Nat) : Nat :=
  if b.header.widen then min nlist (if b.header.widenCap = 0 then b.header.nprobe * 2 ^ b.mult else b.header.widenCap) else b.header.nprobe

/-- COARSE_PASS_DONE (R352, R362): every query has scanned every coarse segment. -/
def execCoarsePassDone (s : State) : Host.Outcome State Fault Refusal :=
  .next (match s.runBatch with
    | none => s
    | some b =>
      if b.phase ≠ .coarse ∨ !s.alive then s
      else
        let i := b.header.index
        let h := (s.index i).header
        let segs := h.coarseSegs
        let live := segs.filter fun a => !s.unitsOut a
        let all := live.flatMap fun a => (List.range (s.segCount a)).map fun k => (a, k)
        let good := all.filter fun x => !s.entryPoisoned h x.1 x.2
        let bad := all.filter fun x => s.entryPoisoned h x.1 x.2
        let es := good.map fun x => s.segEntry h x.1 0 x.2
        let part := decide (live.length < segs.length) || !bad.isEmpty
        let qs := b.queries.zipIdx.map fun x =>
          if x.1.poison then x.1
          else
            let order := s.nearLists h x.2 (b.cap h.nlist) es
            { x.1 with order := order, probed := min b.header.nprobe order.length, part := part }
        let s := (b.queries.filter fun x => !x.poison).foldl (fun s _ => live.foldl (fun s a => s.countScan b h.m (s.segCount a)) s) s
        let s := match bad with
          | [] => s
          | x :: _ => s.searchPoison i (s.loadLE (x.1 + slotCol h.m + 4 * x.2) 4)
        s.setBatch { b with phase := .scan, queries := qs })

/-- The filter of query `q` admits a slot (R354). -/
def State.filtered (s : State) (b : BatchHeader) (q slot : Nat) : Bool :=
  let f := s.loadLE (b.entryAt q) 2
  f == 0xFFFF || (s.byte (s.loadLE (b.filterAddr + 8 * f) 8 + slot / 8)).getLsbD (slot % 8)

/-- An entry is visible at snapshot `snap` (R355); `log` is the delete log. -/
def visible (log : List (Nat × Nat)) (snap : Nat) (e : ListEntry) : Bool :=
  decide (e.seq ≤ snap) && (!e.tombstone || log.any fun d => d.1 == e.slot && decide (snap < d.2))

/-- The item's stored prefix is EXACT for query `q` (R361). -/
def State.exactFor (s : State) (b : BatchHeader) (q : Nat) (x : ItemEntry) : Bool :=
  let n := s.loadLE (b.entryAt q + 4) 4
  decide (x.prefixLen ≤ n) && decide (crc64 (s.bytes (s.loadLE (b.entryAt q + 8) 8) (4 * x.prefixLen)) = x.tokenCrc)

/-- Order of results (R354): distance, then ID, then slot. -/
def ResultEntry.before (a b : ResultEntry) : Bool :=
  let x := fp32.decode a.dist.toNat
  let y := fp32.decode b.dist.toNat
  x.less y || (!y.less x && (decide (a.id.toNat < b.id.toNat) || (decide (a.id = b.id) && decide (a.slot ≤ b.slot))))

/-- A candidate of query `q`: a visible entry that its filter and EXACT_ONLY admit, and whose distance is not a NaN (R350, R354,
R361). -/
def State.candidate (s : State) (b : BatchHeader) (h : IndexHeader) (q : Nat) (e : ListEntry) : Option ResultEntry :=
  let d := s.distance h q e.code
  let x := s.item h e.slot
  let bad := s.poisoned (h.itemAt e.slot) h.itemSize
  let exact := h.kind == 1 && !bad && s.exactFor b q x
  let only := s.loadLE (b.entryAt q + 2) 2 % 2 == 1
  if d.isNan || !s.filtered b q e.slot || (only && !exact && !bad) then none
  else some { id := x.id, dist := BitVec.ofNat 32 (fp32.wide d), slot := e.slot, exact := exact, bad := bad }

/-- A list that a scan skips whole: its directory entry, a segment header or a sequence column is poisoned (R362). -/
def State.listSkipped (s : State) (h : IndexHeader) (l : Nat) : Bool :=
  s.poisoned (h.directory + 16 * l) 16 || (s.listSegs h l).any fun g =>
    s.poisoned (h.segAt g) 64 || s.poisoned (h.segAt g + seqCol h.m) (8 * s.segCount (h.segAt g))

/-- Segments of a list that a batch scans: those that the directory named when the batch first read it (R353). -/
def State.batchSegs (s : State) (b : Batch) (l : Nat) : List Nat :=
  (b.lists.get l).getD (s.listSegs (s.index b.header.index).header l)

/-- The batch has read the directory entries of these lists (R353). -/
def State.readLists (s : State) (b : Batch) (ls : List Nat) : Batch :=
  ls.eraseDups.foldl (fun b l => { b with lists := b.lists.set l (some (s.batchSegs b l)) }) b

/-- Query `q` scans one list (R353-R355, R362): its state after it, and the device's with what was counted. -/
def State.scanList (s : State) (b : Batch) (q : Nat) (x : State × QueryState) (l : Nat) : State × QueryState :=
  let h := (s.index b.header.index).header
  if s.listSkipped h l then (x.1, { x.2 with part := true })
  else
    let segs := s.batchSegs b l
    let live := segs.filter fun g => !s.unitsOut (h.segAt g)
    let all := live.flatMap fun g => (List.range (s.segCount (h.segAt g))).map fun i => s.segEntry h (h.segAt g) g i
    let seen := all.filter fun e => decide (e.seq ≤ b.snapshot)
    let good := seen.filter fun e => !s.entryPoisoned h (h.segAt e.seg) e.pos
    let log := s.delLog b.header.index
    let cs := (good.filter (visible log b.snapshot)).filterMap (s.candidate b.header h q)
    let found := (sortBy ResultEntry.before (x.2.found ++ cs)).take b.header.k
    let s' := live.foldl (fun s' g => s'.countScan b h.m ((seen.filter fun e => e.seg == g).length)) x.1
    (s', { x.2 with found := found, scanned := x.2.scanned + seen.length
                    part := x.2.part || decide (live.length < segs.length) || decide (good.length < seen.length) })

/-- Lists among those probed now that hold poison, each with one record (R362). -/
def State.reportLists (s : State) (i : Nat) (ls : List Nat) : State :=
  let h := (s.index i).header
  ls.eraseDups.foldl (fun t l =>
    let entry := (s.listSegs h l).any fun g => (List.range (s.segCount (h.segAt g))).any fun k => s.entryPoisoned h (h.segAt g) k
    if s.listSkipped h l || entry then t.searchPoison i l else t) s

/-- A round: each query scans the lists that `pick` names for it (R353, R359). -/
def State.scanRound (s : State) (b : Batch) (pick : QueryState → List Nat) : State × List QueryState :=
  let s' := s.reportLists b.header.index ((b.queries.filter fun x => !x.poison).flatMap pick)
  b.queries.zipIdx.foldl (fun (acc : State × List QueryState) x =>
    if x.1.poison then (acc.1, acc.2 ++ [x.1])
    else
      let r := (pick x.1).foldl (s.scanList b x.2) (acc.1, x.1)
      (r.1, acc.2 ++ [r.2])) (s', [])

/-- A query may be scanned again (R359). -/
def Batch.widens (b : Batch) (x : QueryState) : Bool :=
  b.header.widen && !x.poison && decide (x.found.length < b.header.k) && decide (x.probed < x.order.length)

/-- Status of a query (R359, R360), once poisoned results are dropped. -/
def QueryState.status (x : QueryState) (k : Nat) : Byte :=
  if x.poison then stPOISON
  else if x.part || x.found.any ResultEntry.bad then stPARTIAL
  else if x.found.length < k then stSHORT
  else stOK

/-- Bytes of a result block (R348): its header, and COUNT entries. -/
def QueryState.block (x : QueryState) (k : Nat) : List Byte :=
  let rs := if x.poison then [] else x.found.filter fun r => !r.bad
  packBytes [(1, (x.status k).toNat), (1, if x.widened then 1 else 0), (2, rs.length), (4, x.probed), (8, x.scanned)]
    ++ rs.flatMap fun r => packBytes [(8, r.id.toNat), (4, r.dist.toNat), (4, r.slot + (if r.exact then 2 ^ 31 else 0))]

/-- The batch completes (R352 phase 4, R360, R363): its results are written, it is counted, and the horizon moves. -/
def State.finishBatch (s : State) (b : Batch) : State :=
  let k := b.header.k
  let s := b.queries.zipIdx.foldl (fun s x => s.write (b.header.resultAddr + x.2 * b.header.blockSize) (x.1.block k)) s
  let n (st : Byte) : Nat := (b.queries.filter fun x => x.status k == st).length
  let s := ((s.bump Reg.CHAM_SHORT 0 16 (n stSHORT)).bump Reg.CHAM_SHORT 16 16 (b.queries.filter QueryState.widened).length).bump Reg.CHAM_FAILED 0 16 (n stPARTIAL)
  let s := (s.bump Reg.CHAM_FAILED 16 16 (n stPOISON)).count Reg.CHAM_BATCHES 1
  let s := if b.queries.any fun x => x.found.any ResultEntry.bad then s.setFlag Reg.CHAM_STATUS 4 true else s
  let s := { s with cham := { s.cham with batches := s.cham.batches.drop 1 } }
  (s.retire b.header.index).complete b.cmd (if n stOK = b.queries.length then stOK else stPARTIAL)

/-- After a round: short queries widen, or the batch completes (R352, R359). -/
def State.afterRound (s : State) (b : Batch) : State :=
  if b.queries.any b.widens then s.setBatch { b with phase := .widen } else (s.setBatch b).finishBatch b

/-- LIST_SCAN_DONE (R352-R354). -/
def execListScanDone (s : State) : Host.Outcome State Fault Refusal :=
  .next (match s.runBatch with
    | none => s
    | some b =>
      if b.phase ≠ .scan ∨ !s.alive then s
      else
        let b := s.readLists b ((b.queries.filter fun x => !x.poison).flatMap fun x => x.order.take x.probed)
        let (s, qs) := s.scanRound b fun x => x.order.take x.probed
        s.afterRound { b with queries := qs })

/-- WIDEN_ROUND_DONE (R359): each short query has doubled its probe count, up to its cap, and scanned the lists newly reached. -/
def execWidenRoundDone (s : State) : Host.Outcome State Fault Refusal :=
  .next (match s.runBatch with
    | none => s
    | some b =>
      if b.phase ≠ .widen ∨ !s.alive then s
      else
        let more (x : QueryState) : Nat := if b.widens x then min x.order.length (2 * x.probed) else x.probed
        let b := s.readLists b ((b.queries.filter fun x => !x.poison).flatMap fun x => (x.order.take (more x)).drop x.probed)
        let (s, qs) := s.scanRound b fun x => (x.order.take (more x)).drop x.probed
        let qs := (b.queries.zip qs).map fun x => { x.2 with probed := more x.1, widened := x.1.widened || b.widens x.1 }
        s.afterRound { b with queries := qs })

/-! ### Compaction (R358) -/

/-- Copies entries into new segments of a list, in order, and points their items at the copies; none where frames run out. -/
def State.copyEntries (i l : Nat) : List ListEntry → Nat → List Nat → State → Option (List Nat × State)
  | [], _, segs, s => some (segs, s)
  | e :: es, room, segs, s =>
    let h := (s.index i).header
    let put (g : Nat) (s : State) : State :=
      let a := h.segAt g
      let n := s.segCount a
      let s := s.putEntry h a n e
      let s := s.putSegHeader a (n + 1) l noSeg (if n = 0 then e.seq else s.loadLE (a + 16) 8) e.seq
      s.putItem h e.slot { s.item h e.slot with seg := g, pos := n }
    match room, segs.getLast? with
    | r + 1, some g => State.copyEntries i l es r segs (put g s)
    | _, last =>
      match s.takeSeg i with
      | none => none
      | some (g, s) =>
        let s := s.putSegHeader (h.segAt g) 0 l noSeg 0 0
        let s := match last with
          | some p => s.write (h.segAt p + 8) (leBytes 4 g)
          | none => s
        State.copyEntries i l es (segEntries h.m - 1) (segs ++ [g]) (put g s)

/-- COMPACTION_DONE (R358, R373): steps 2 to 5 for a list that is being compacted. While no frame is free it goes on waiting. -/
def execCompactionDone (index : Fin 16) (list : Nat) (s : State) : Host.Outcome State Fault Refusal :=
  .next (let i := index.val
    let x := s.index i
    let h := x.header
    let es := s.listEntries h list
    let log := s.delLog i
    let gone (e : ListEntry) : Bool := e.tombstone && !log.any fun d => d.1 == e.slot
    let old := s.listSegs h list
    if !x.compacting.contains list ∨ s.flag Reg.CHAM_CTRL 2 ∨ !s.alive then s
    else match State.copyEntries i list (es.filter fun e => !gone e) 0 [] s with
      | none => s
      | some (segs, s) =>
        let s := (es.filter gone).foldl (fun s e => s.putItem h e.slot { s.item h e.slot with used := false, deleted := false }) s
        let s := s.putDir h list { first := segs.headD noSeg, last := segs.getLastD noSeg, count := (es.filter fun e => !gone e).length }
        let waits := (s.cham.batches.filter fun b => b.header.index == i).map Batch.number
        let x := s.index i
        (s.setIndex i { x with compacting := x.compacting.filter fun l => l != list, oldSegs := x.oldSegs ++ [(old, waits)] }).startCompactions i)

/-- OLD_SEGMENTS_FREED (R358): old segments whose batches have all completed are free. -/
def execOldSegmentsFreed (index : Fin 16) (s : State) : Host.Outcome State Fault Refusal :=
  .next (let i := index.val
    let x := s.index i
    let done (o : List Nat × List Nat) : Bool := o.2.all fun n => !s.cham.batches.any fun b => b.number == n
    let freed := (x.oldSegs.filter done).flatMap Prod.fst
    if x.registered then s.setIndex i { x with usedSegs := x.usedSegs.filter fun g => !freed.contains g, oldSegs := x.oldSegs.filter fun o => !done o }
    else s)

end Sys2Proof.Machine
end

