-- ==== Sys2Proof/Machine/HostCmds.lean ====
section
/-! DEFINITION. Commands of the host interface (R470): orders to the Herd table, decisions (R30, R475), the pool map (R476),
windows (R285, R312), connections (R309), routes (R298), plans (R188, R189) and Ibex descriptors (R206). -/

namespace Sys2Proof.Machine

/-- NOP completes OK (R470). A command of a reserved opcode at the front of the window is taken as well: it completes
MALFORMED (R469). -/
def execNop (w : WinRef) (s : State) : Host.Outcome State Fault Refusal :=
  .next (if 0x1C < (s.frontCmd w.key).opcode.toNat then s.takeReserved w
    else s.hostCmd w 0x00 fun _ ref s => s.complete ref stOK)

/-! ### Orders to the Herd table (R85, R86, R172, R254) -/

/-- An order is refused at once where it fails, and otherwise waits for the next boundary (R73). -/
def State.placeOrder (s : State) (o : HerdOrder) : State :=
  match s.orderStatus o with
  | some st => s.complete o.cmd st
  | none => { s with herd := { s.herd with orders := s.herd.orders ++ [o] } }

/-- The one tenant whose entries a window's function may name (R366, R470). -/
def State.onlyTenant (s : State) (k : Nat) : Option (BitVec 10) := if winFn k ≤ 1 then none else some (s.binding k).tenant

/-- PREEMPT and RESUME: ARG0 [1:0] selects, ARG1 is the value. -/
def State.herdOrder (s : State) (w : WinRef) (op : Byte) (kind : OrderKind) : State :=
  s.hostCmd w op fun c ref s =>
    s.placeOrder { kind := kind, cmd := ref, selector := c.arg0.toNat % 4, value := c.arg1, tenant := s.onlyTenant w.key }

/-- PREEMPT (R85). -/
def execPreempt (w : WinRef) (s : State) : Host.Outcome State Fault Refusal := .next (s.herdOrder w 0x03 .preempt)

/-- RESUME (R86). -/
def execResume (w : WinRef) (s : State) : Host.Outcome State Fault Refusal := .next (s.herdOrder w 0x04 .resume)

/-- TREE_ATTACH (R172): ARG0 Herd slot, ARG1 tree handle. -/
def execTreeAttach (w : WinRef) (s : State) : Host.Outcome State Fault Refusal :=
  .next (s.hostCmd w 0x15 fun c ref s => s.placeOrder { kind := .attach, cmd := ref, value := c.arg0, handle := c.arg1 })

/-- RESTORE (R16, R254): the lower ranges of the entry are restored from the next step boundary on; a device whose role does
not generate refuses it with STALE_MAP. -/
def execRestore (w : WinRef) (s : State) : Host.Outcome State Fault Refusal :=
  .next (s.hostCmd w 0x05 fun c ref s =>
    let n := c.arg0.toNat
    let e := s.entry n
    if s.role.generates = false then s.complete ref stSTALE_MAP
    else if s.herdSize ≤ n ∨ e.state = .idle then s.complete ref stMALFORMED
    else if e.state ≠ .offloaded ∨ e.lowerPeers = [] ∨ e.restoring = true then s.complete ref stNOT_READY
    else (s.setEntry n { e with restoring := true }).complete ref stOK)

/-- STEP_SUBMIT (R88, R89): the list is checked and run at the next step boundary, and the command completes when its step
has closed, or was refused. -/
def execStepSubmit (w : WinRef) (s : State) : Host.Outcome State Fault Refusal :=
  .next (s.hostCmd w 0x06 fun c ref s =>
    ({ s with herd := { s.herd with
        waitHost := false, submits := s.herd.submits ++ [(ref.1, ref.2, c.arg0.toNat, c.arg1.toNat)] } }).decided 0)

/-! ### Decisions (R29-R31, R475) -/

/-- A 4-byte word of an answer. -/
def State.answerWord (s : State) (a i : Nat) : Nat := s.loadLE (a + 4 * i) 4

/-- Words of an answer. -/
def State.answerWords (s : State) (a i n : Nat) : List Nat := (List.range n).map fun j => s.answerWord a (i + j)

/-- Bytes of the answer to a decision (log entry 35). -/
def State.answerSize (s : State) (x : Slot) (a : Nat) : Nat :=
  match x.fn.val with
  | 1 => 4 * (if x.msgKind = mCREDIT_REQ then
      (match (s.transfer x.handoffId.toNat).requests with | q :: _ => q.tps * (s.transfer x.handoffId.toNat).ppt | [] => 0) else x.rows)
  | 4 => 8 + 4 * s.answerWord a 0
  | 2 => if x.msgKind = mCOMMIT then 0 else 4
  | _ => 4

/-- Pages for the request that a credit request posted (R65, R134, R238). -/
def State.answerCredit (s : State) (x : Slot) (a : Nat) : Except Byte State :=
  let id := x.handoffId.toNat
  let t := s.transfer id
  match t.requests with
  | [] => .ok s
  | q :: qs =>
    let ps := s.answerWords a 0 (q.tps * t.ppt)
    if t.phase ≠ .granting ∨ t.holder = true then .ok s
    else if s.tier.held || !s.listable ((s.entry t.slot).pageRoot.getD 0) q.layer ps.length then .error stNOT_READY
    else if !s.suppliedOk t.partition.val t.ppt q.tps ps then .error stMALFORMED
    else
      let s := State.giveSupplied (s.inFlightFor t) t.ppt q.cells ps s
      match t.grants.find? fun g => decide (t.kind = .restore) && g.req.same q with
      | some g => .ok (s.getGiven id g)
      | none => .ok ((s.setTransfer id { t with requests := qs }).sendGrant id q)

/-- Pages for an entry's next work (R65, R79, R134): they are kept until the work is built. -/
def State.answerPages (s : State) (x : Slot) (a : Nat) : Except Byte State :=
  let ps := s.answerWords a 0 x.rows
  if s.suppliedOk (s.entry x.herdSlot).partition.val (x.rows / max 1 x.layer) x.layer ps then
    .ok { s with herd := { s.herd with supplied := s.herd.supplied.set x.herdSlot ps } }
  else .error stMALFORMED

/-- The host's choice of a redirect receiver (R246, R247). -/
def State.answerRedirect (s : State) (x : Slot) (d : U16) : Except Byte State :=
  let r := s.recordAt x.item
  match r.pending, x.msg with
  | some p, some m =>
    if r.state ≠ .active ∨ r.requestId ≠ x.requestId ∨ p.id ≠ x.handoffId then .ok (s.reply m stLATE)
    else if (s.candidates r Role.generates).contains d && !s.isFailed d && d != p.sender && d != p.receiver then .ok (s.redirectTo x.item p m d)
    else .error stMALFORMED
  | none, some m => .ok (s.reply m stLATE)
  | _, none => .ok s

/-- The host's choice of an offload target (R247, R251). -/
def State.answerOffload (s : State) (x : Slot) (d : U16) : Except Byte State :=
  if (s.entry x.herdSlot).requestId ≠ x.requestId ∨ s.offloadable x.herdSlot = false then .ok s
  else if (s.offloadTargets (s.entry x.herdSlot)).contains d && !s.isFailed d then .ok (s.startOffload x.herdSlot d [])
  else .error stMALFORMED

/-- The go-ahead for a COMMIT (R247). -/
def State.answerCommit (s : State) (x : Slot) : State :=
  let t := s.transfer x.handoffId.toNat
  match x.msg with
  | some m => if t.phase = .waitCommit ∧ t.goAhead ≠ [] then s.acceptCommit x.handoffId.toNat t.goAhead (fieldOf m.arg1 31 0) else s
  | none => s

/-- The token of a sample row (R115): below the number of logits. -/
def State.answerToken (s : State) (x : Slot) (v : Nat) : Except Byte State :=
  if x.step ≤ v then .error stMALFORMED
  else
    let token : U32 := BitVec.ofNat 32 v
    match s.herd.step with
    | none => .ok s
    | some st => match st.samples[x.item]? with
      | none => .ok s
      | some row =>
        if row.known then .ok s
        else
          let rows := st.samples.set x.item { row with token := token, status := stOK, known := true }
          let p := sampleParamsOf (x.question.take 32)
          .ok (((s.putSample s.fresh 0 x.layer p (wordsOf (x.question.drop 32)) token stOK).drawn).modStep fun st => { st with samples := rows })

/-- The accepted path of a tree (R176). -/
def State.answerPath (s : State) (x : Slot) (a : Nat) : Except Byte State :=
  let t := s.tree x.item
  let k := s.answerWord a 0
  let bonus : U32 := BitVec.ofNat 32 (s.answerWord a 1)
  let path := s.answerWords a 2 (min k 16)
  if k ≤ 16 ∧ pathOk t (s.pathMost x.herdSlot t) path = true then
    .ok (s.modStep fun st => { st with paths := st.paths ++ [(x.herdSlot, path, bonus)] })
  else .error stMALFORMED

/-- What an answer at an address does: the state after it, or the status with which it is refused while the device keeps
waiting. A recovery's decision is answered by RECOVER alone (R406). -/
def State.answer (s : State) (x : Slot) (a : Nat) : Except Byte State :=
  match x.fn.val with
  | 1 => if x.msgKind = mCREDIT_REQ then s.answerCredit x a else s.answerPages x a
  | 2 =>
    if x.msgKind = mREDIRECT then s.answerRedirect x (BitVec.ofNat 16 (s.answerWord a 0))
    else if x.msgKind = mOPEN then s.answerOffload x (BitVec.ofNat 16 (s.answerWord a 0))
    else .ok (s.answerCommit x)
  | 3 => s.answerToken x (s.answerWord a 0)
  | 4 => s.answerPath x a
  | _ => .error stMALFORMED

/-- The place of an answer in memory, when it lies in EXCHANGE and is not poisoned. -/
def State.answerAt (s : State) (x : Slot) (off : Nat) : Option Nat :=
  match s.exchange with
  | none => none
  | some (a, size) =>
    if off + 4 ≤ size + (if x.fn = 2 ∧ x.msgKind = mCOMMIT then 4 else 0) ∧ off + s.answerSize x (a + off) ≤ size
        ∧ s.poisoned (a + off) (s.answerSize x (a + off)) = false then some (a + off)
    else none

/-- DECIDE (R31, R475): ARG1 names the awaited slot, and ARG2 the answer's place in EXCHANGE. A slot that is no longer WAITING
makes it LATE. -/
def execDecideCmd (w : WinRef) (s : State) : Host.Outcome State Fault Refusal :=
  .next (s.hostCmd w 0x07 fun c ref s =>
    match s.waitingAt (c.arg1.truncate 32), decide (c.arg1.toNat < 2 ^ 32) with
    | some n, true =>
      let x := s.slot n
      if x.awaits ≠ .decision ∨ x.fn.val ≠ c.arg0.toNat % 16 then s.complete ref stMALFORMED
      else match s.answerAt x c.arg2.toNat with
        | none => s.complete ref stMALFORMED
        | some a => match (s.endSlot n).answer x a with
          | .ok t => (t.decided x.fn.val).complete ref stOK
          | .error st => s.complete ref st
    | none, true => (s.count Reg.FAULT_LATE_DECISIONS 1).complete ref stLATE
    | _, false => s.complete ref stMALFORMED)

/-- Block whose decision function a row of R28 is (R382). -/
def decisionBlock : Nat → U16
  | 0 => 0x002 | 1 => 0x008 | 2 => 0x00C | 3 => 0x004 | 4 => 0x004 | 5 => 0x014 | 6 => 0x012 | 7 => 0x01A | 8 => 0x018 | _ => 0x020

/-- The three actions of R30: a CONTAINED record and the function's status NOT_READY; the device keeps waiting. -/
def State.decisionLate (s : State) (fn : Nat) (ref : U64) : State :=
  let s := { s with fault := { s.fault with notReady := s.fault.notReady.set fn true } }
  s.raise { severity := .contained, block := decisionBlock fn, cause := 0x0001, status := stNOT_READY, unit := BitVec.ofNat 16 fn, detail0 := ref }

/-- DECISION_TIMEOUT (R30, R89, R330, R492): the decision of a completion slot, the work list of a step, the window of a
connection or the next block of a staging session is awaited for longer than its function's timeout. Where no slot is awaited
DETAIL0 is a free value (log entry 26). -/
def execDecisionTimeout (item : Awaited) (s : State) : Host.Outcome State Fault Refusal :=
  .next (if !s.alive then s
    else match item with
    | .slot n =>
      if (s.slot n.val).state = .waiting ∧ (s.slot n.val).awaits = .decision then
        s.decisionLate (s.slot n.val).fn.val ((s.slotRef n.val).zeroExtend 64)
      else s
    | .workList => if s.herd.waitHost then s.drawn.decisionLate 0 s.freeNow else s
    | .window n => if s.windowWaits (s.netConn n.val) then s.drawn.decisionLate 6 s.freeNow else s
    | .block => if s.fw.session.isSome ∧ s.fnMode 9 = .hostAssist then s.drawn.decisionLate 9 s.freeNow else s)

/-! ### The pool map (R263, R476) -/

/-- The layout of a map is valid (R476): `length` is the length the command gives. -/
def PoolMap.formed (m : PoolMap) (length : Nat) : Bool :=
  readable m.level.toNat && reserved m.level.toNat m.reservedOk && m.checkOk && decide (1 ≤ m.count.toNat) && decide (m.count.toNat ≤ 16384)
    && decide (m.entries.length = m.count.toNat) && decide (length = 32 + 16 * m.count.toNat) && distinct (m.entries.map PoolEntry.device)
    && m.entries.all fun e => decide (e.role.toNat ≤ 4) && reserved m.level.toNat (e.flags.extractLsb' 1 7 == 0 && e.reserved == 0)

/-- A map's entries that are present, by device. -/
def PoolMap.table (m : PoolMap) : Tab MapEntry :=
  m.entries.foldl (fun t e => if e.flags.getLsbD 0 then
      t.set e.device.toNat { present := true, role := Role.ofCode e.role.toNat, planes := e.planes, partitions := e.partitions, models := e.models }
    else t) []

/-- Devices on which state held here depends: the anchors, peers and holders of its entries, and the devices that its records
name. -/
def State.namedDevices (s : State) : List Nat :=
  ((s.herd.entries.filter fun x => decide (x.2.state ≠ .idle)).flatMap fun x => x.2.anchorDev :: (s.dependsOn x.2 ++ x.2.replicaDev.toList)).map BitVec.toNat
    ++ ((s.anchor.records.filter fun x => decide (x.2.state = .active)).flatMap fun x => x.2.holders).map BitVec.toNat

/-- Devices absent in a map: those with present clear, those that the installed map had and it has not, and those that no entry
lists and on which state held here depends (R22, R476: a device without an entry is absent). -/
def State.absentIn (s : State) (m : PoolMap) : List Nat :=
  let t := m.table
  let listed := (m.entries.filter fun e => !e.flags.getLsbD 0).map fun e => e.device.toNat
  let old := s.handoff.map.keysWhere fun d _ => !(t.get d).present && !listed.contains d
  listed ++ old ++ ((s.namedDevices.filter fun d => !(t.get d).present && !listed.contains d && !old.contains d && decide (d ≠ s.devId.toNat)).eraseDups)

/-- Peers whose plane masks differ between two maps and that both list present. -/
def planesMoved (old new : Tab MapEntry) : List Nat :=
  new.keysWhere fun d e => e.present && (old.get d).present && e.planes != (old.get d).planes

/-- A valid newer map is installed (R248, R263, R291, R295, R309, R476): the MAP recovery begins, and what was held for the map
is taken. -/
def State.installMap (s : State) (m : PoolMap) : State :=
  let gone := s.absentIn m
  let moved := planesMoved s.handoff.map m.table
  let s := { s with handoff := { s.handoff with
      map := m.table, epoch := m.epoch, mapTide := s.now, mapped := true
      failed := s.handoff.failed.mapAll fun d f => f && (!(m.table.get d).present || (s.strait.peers.get d).unreachable) } }
  let s := s.causeRecovery { kind := .map, targets := gone }
  let s := gone.foldl (fun s d => if s.sameDomain (BitVec.ofNat 16 d) then s.markUnreachable (BitVec.ofNat 16 d) else s) s
  let s := moved.foldl (fun s d => if s.sameDomain (BitVec.ofNat 16 d) then s.maskChanged (BitVec.ofNat 16 d) else s) s.settleFailed
  s.takeHeld.takeHeldUnits

/-- MAP_INSTALL (R476): ARG1 is the map's length; `bytes` are the map that lies at the host address. -/
def execMapInstall (w : WinRef) (bytes : List Byte) (s : State) : Host.Outcome State Fault Refusal :=
  .next (s.hostCmd w 0x08 fun c ref s =>
    let m := PoolMap.parse (bytes.take c.arg1.toNat)
    if !m.formed c.arg1.toNat then s.complete ref stMALFORMED
    else if s.handoff.mapped = true ∧ epochDiff m.epoch s.handoff.epoch ≤ 0 then s.complete ref stSTALE_MAP
    else (s.installMap m).complete ref stOK)

/-! ### Windows (R285, R287, R312, R314) -/

/-- `n` bytes from an address lie in regions of a partition, of a kind that is no device's unless `dev` (R191, R285). -/
def State.covered (s : State) (part : Nat) (dev : Bool) : Nat → Nat → Nat → Bool
  | _, _, 0 => true
  | 0, _, _ => false
  | fuel + 1, a, n + 1 => match s.regionAt a 1 with
    | none => false
    | some r => decide (r.partition.val = part) && (dev || !deviceKind r.kind.toNat)
        && (decide (a + (n + 1) ≤ r.start + r.size) || s.covered part dev fuel (r.start + r.size) (a + (n + 1) - (r.start + r.size)))

/-- Arguments of WINDOW_OPEN (log entry 36): ARG0 holds the entry's bytes 0x02 to 0x07 in place, after the kind in bit 0; for an
RDMA window bits [63:32] are its SPACE_KEY. -/
structure WinArgs where
  rdma : Bool
  access : Nat
  space : Nat
  part : Nat
  high : Nat
  base : Nat
  size : Nat
  reserved : Bool
  deriving DecidableEq, Repr

/-- The arguments of a WINDOW_OPEN command. -/
def HostCmd.winArgs (c : HostCmd) : WinArgs :=
  let a := c.arg0.toNat
  { rdma := decide (bits a 0 0 = 1), access := bits a 23 16, space := bits a 27 24, part := bits a 30 28, high := bits a 63 32
    base := c.arg1.toNat, size := c.arg2.toNat, reserved := decide (bits a 15 1 ≠ 0) || decide (bits a 31 31 ≠ 0) }

/-- The fields of a window are within their ranges (R278, R285, R312). -/
def WinArgs.formed (x : WinArgs) : Bool :=
  !x.reserved && decide (x.base % 4096 = 0) && decide (x.size % 4096 = 0) && decide (x.base + x.size ≤ 2 ^ 44)
    && (if x.rdma then decide (x.access < 8) && (decide (x.space = 0) || decide (x.space = 3))
        else decide (x.access < 16) && decide (x.space ≤ 3) && decide (x.high < 2 ^ 16))

/-- The function may create the window (R191, R285, R311, R366, R412). -/
def State.mayOpen (s : State) (k : Nat) (c : HostCmd) (x : WinArgs) : Bool :=
  let own := (s.tenantOf c.tenantId.toNat).partition.val
  let part := decide (winFn k ≤ 1) || (decide (x.part = own) && (!x.rdma || decide (x.high / 2 ^ 29 = own)))
  part && (decide (winFn k = 0) || ((x.rdma || decide (x.access < 8)) && decide (x.space ≠ 3)))
    && (decide (x.space ≠ 0) || s.covered x.part (decide (winFn k = 0)) (s.regionCount + 1) x.base x.size)

/-- Creates a Strait window: its key is the generation just written (R285). -/
def State.openStrait (s : State) (ref : CmdRef) (x : WinArgs) : State :=
  match s.strait.windows.first (fun w => decide (w.state = .free)) 256 with
  | none => s.complete ref stNOT_READY
  | some i =>
    let s := s.newKey
    let win : StraitWin := {
      state := .opened, load := x.access.testBit 0, store := x.access.testBit 1, atomic := x.access.testBit 2, privileged := x.access.testBit 3
      space := ⟨x.space % 16, Nat.mod_lt _ (by decide)⟩, partition := ⟨x.part % 8, Nat.mod_lt _ (by decide)⟩
      source := BitVec.ofNat 16 x.high, gen := s.strait.keyCounter, base := x.base, size := x.size, opener := ref.1 }
    ({ s with strait := { s.strait with windows := s.strait.windows.set i win } }).complete ref stOK (s.strait.keyCounter.zeroExtend 64)

/-- Creates an RDMA window: its key is the generation and the index (R312). -/
def State.openRdma (s : State) (ref : CmdRef) (x : WinArgs) : State :=
  match s.net.windows.first (fun w => decide (w.state = .free)) 4096 with
  | none => s.complete ref stNOT_READY
  | some i =>
    let s := s.newKey
    let win : RdmaWin := {
      state := .opened, read := x.access.testBit 0, write := x.access.testBit 1, atomic := x.access.testBit 2
      space := ⟨x.space % 16, Nat.mod_lt _ (by decide)⟩, partition := ⟨x.part % 8, Nat.mod_lt _ (by decide)⟩
      gen := s.strait.keyCounter, spaceKey := BitVec.ofNat 32 x.high, base := x.base, size := x.size, opener := ref.1 }
    (s.setRdmaWin i win).complete ref stOK (BitVec.ofNat 64 (s.strait.keyCounter.toNat * 65536 + i))

/-- WINDOW_OPEN (R285, R312). -/
def execWindowOpen (w : WinRef) (s : State) : Host.Outcome State Fault Refusal :=
  .next (s.hostCmd w 0x09 fun c ref s =>
    let x := c.winArgs
    if !x.formed then s.complete ref stMALFORMED
    else if !s.mayOpen w.key c x then s.complete ref stPRIVILEGE
    else if x.rdma then s.openRdma ref x else s.openStrait ref x)

/-- Revokes a Strait window (R287): its new generation is written, and it is REVOKING. -/
def State.revokeStrait (s : State) (i : Nat) (ref : Option CmdRef) : State :=
  let s := s.newKey
  let win := s.strait.windows.get i
  { s with strait := { s.strait with windows := s.strait.windows.set i { win with state := .revoking, gen := s.strait.keyCounter, revoke := ref } } }

/-- Revokes an RDMA window (R314). -/
def State.revokeRdma (s : State) (i : Nat) (ref : Option CmdRef) : State :=
  let s := s.newKey
  s.setRdmaWin i { s.rdmaWin i with state := .revoking, gen := s.strait.keyCounter, revoke := ref }

/-- Two windows are of one function. -/
def sameFn (a b : Nat) : Bool := decide (winPort a = winPort b) && decide (winFn a = winFn b)

/-- WINDOW_REVOKE (R287, R314): it completes when INFLIGHT reaches zero (REVOCATION_COMPLETE). -/
def execWindowRevoke (w : WinRef) (s : State) : Host.Outcome State Fault Refusal :=
  .next (s.hostCmd w 0x0A fun c ref s =>
    let rdma := c.arg0.getLsbD 0
    let i := c.arg1.toNat % 65536
    let state := if rdma then (s.rdmaWin i).state else (s.strait.windows.get i).state
    let opener := if rdma then (s.rdmaWin i).opener else (s.strait.windows.get i).opener
    if (if rdma then 4096 else 256) ≤ i ∨ state = .free then s.complete ref stMALFORMED
    else if winFn w.key ≠ 0 ∧ sameFn opener w.key = false then s.complete ref stPRIVILEGE
    else if state = .revoking then s.complete ref stNOT_READY
    else if rdma then s.revokeRdma i (some ref) else s.revokeStrait i (some ref))

/-! ### Connections and routes (R298, R307-R309) -/

/-- The attributes are within their ranges (R307). -/
def ConnAttr.formed (a : ConnAttr) : Bool :=
  (a.multipath || a.message) && (!a.multipath || decide (a.peer ≠ 0xFFFF)) && decide (a.priority.val ≤ 6)
    && (decide (a.mtu = 1024) || decide (a.mtu = 2048) || decide (a.mtu = 4096)) && decide (a.ports ≠ 0)

/-- Another connection of the class to the peer is already the device's own agents' (R308). -/
def State.agentsHave (s : State) (a : ConnAttr) : Bool :=
  s.net.conns.anyWhere fun _ c => decide (c.state ≠ .free) && c.attr.ownAgents && c.attr.peer == a.peer && c.attr.message == a.message

/-- CONNECT (R307-R309): `attr` are the attributes that the device reads from the host, and `ok` says that their layout is
valid. A MULTIPATH connection sends MP_HELLO and completes when the peer's has come; a STANDARD one is READY at once. -/
def execConnect (w : WinRef) (attr : ConnAttr) (ok : Bool) (s : State) : Host.Outcome State Fault Refusal :=
  .next (s.hostCmd w 0x0B fun c ref s =>
    if !ok || !attr.formed || (attr.ownAgents && s.agentsHave attr) then s.complete ref stMALFORMED
    else match s.net.conns.first (fun x => decide (x.state = .free)) 8192 with
    | none => s.complete ref stNOT_READY
    | some n =>
      let a := { attr with paths := if attr.multipath then s.rdN Reg.NET_PATHS else 1, tenant := c.tenantId }
      let conn : Conn := { state := if attr.multipath then .connecting else .ready, attr := a, creator := ref.1
                           connectCmd := if attr.multipath then some ref else none }
      let s := s.setNetConn n { conn with window := s.startWindow conn }
      if attr.multipath then s.netOut (.hello n) else s.complete ref stOK (BitVec.ofNat 64 n))

/-- Closes a connection according to its state (R309), for a CLOSE command or for the loss of its function (R477). -/
def State.closeConn (s : State) (n : Nat) (ref : Option CmdRef) : State :=
  let c := s.netConn n
  match c.state with
  | .free => s.completeOpt ref stMALFORMED
  | .ready => s.setNetConn n { c with state := .closing, closeCmds := ref.toList }
  | .closing => s.setNetConn n { c with closeCmds := c.closeCmds ++ ref.toList }
  | .connecting => ((s.freeConn n).completeOpt c.connectCmd stNOT_READY).completeOpt ref stOK
  | .error => (s.freeConn n).completeOpt ref stOK

/-- CLOSE (R309). -/
def execClose (w : WinRef) (s : State) : Host.Outcome State Fault Refusal :=
  .next (s.hostCmd w 0x0C fun c ref s =>
    if 8192 ≤ c.arg0.toNat then s.complete ref stMALFORMED else s.closeConn c.arg0.toNat (some ref))

/-- ROUTE_SET (R298): `r` is the entry that the device reads from the host, and `ok` says that its layout is valid. Writes that
the route gathers are sent first. -/
def execRouteSet (w : WinRef) (r : Route) (ok : Bool) (s : State) : Host.Outcome State Fault Refusal :=
  .next (s.hostCmd w 0x0D fun c ref s =>
    let i := c.arg0.toNat
    if 1024 ≤ i ∨ ok = false ∨ 8192 ≤ r.conn then s.complete ref stMALFORMED
    else
      let s := s.flushRoute i
      ({ s with strait := { s.strait with routes := s.strait.routes.set i r } }).complete ref stOK)

/-! ### Plans (R188, R189, R199) -/

/-- Records the status of a plan's last command (HOSTIF_PLAN_STATUS). -/
def State.planStatus (s : State) (m : Nat) (st : Byte) : State :=
  { s with tier := { s.tier with plans := s.tier.plans.mod m fun p => { p with status := st } } }

/-- Widths and rotation of a plan (R42, R50, R156): a supported head width, or a latent one; no rotation of a layer with a partly
filled last slice, nor of a latent one. -/
def Plan.shapeOk (p : Plan) : Bool :=
  (if p.valueWidth = 0 then [64, 128, 192, 256].contains p.width else decide (128 ≤ p.width ∧ p.width ≤ 512) && decide (p.width % 64 = 0))
    && (p.rotated.isEmpty || (decide (p.width % 128 = 0) && decide (p.valueWidth = 0)))

/-- The status of the first check that a plan fails, and whether it refuses its map (R42, R50, R156, R188, R189, R203). -/
def State.planFault (s : State) (p : PlanImage) (m length : Nat) : Option (Byte × Bool) :=
  let map := PlaceMap.parse p.mapBytes p.image
  if p.image.length ≠ length ∨ p.formed = false ∨ p.plan.shapeOk = false ∨ (s.tier.plans.get m).loaded = true then some (stMALFORMED, false)
  else if map.scope ≠ 1 ∨ map.model.toNat ≠ m then some (stMALFORMED, true)
  else match map.status s.regionList s.chOwner with
    | some st => some (st, true)
    | none => if 1024 < s.regionCount + map.regions.length then some (stNOT_READY, true) else none

/-- PLAN_LOAD (R188, R189): ARG1 is the length and ARG2 the model. -/
def execPlanLoad (w : WinRef) (p : PlanImage) (s : State) : Host.Outcome State Fault Refusal :=
  .next (s.hostCmd w 0x0E fun c ref s =>
    let m := c.arg2.toNat
    if 64 ≤ m then s.complete ref stMALFORMED
    else match s.planFault p m c.arg1.toNat with
    | some (st, map) => ((if map then s.mapRefused st else s).planStatus m st).complete ref st
    | none =>
      let map := PlaceMap.parse p.mapBytes p.image
      let s := s.loadRegions map
      let plan := { p.plan with
        loaded := true, loading := false, status := stOK, check := map.check, partition := map.partition, unload := none }
      ({ s with tier := { s.tier with plans := s.tier.plans.set m plan } }).complete ref stOK)

/-- PLAN_UNLOAD (R189): the regions leave the table once every operation and transfer that names them has committed. -/
def execPlanUnload (w : WinRef) (s : State) : Host.Outcome State Fault Refusal :=
  .next (s.hostCmd w 0x0F fun c ref s =>
    let m := c.arg2.toNat
    let p := s.tier.plans.get m
    if 64 ≤ m ∨ p.loaded = false then s.complete ref stMALFORMED
    else if p.unload.isSome then s.complete ref stNOT_READY
    else ({ s with tier := { s.tier with plans := s.tier.plans.set m { p with unload := some ref } } }).settleUnload m)

/-- REGION_LOAD (R199): ARG2 model, ARG3 REGION_ID; `content` is what the device reads from the host. It is for WEIGHTS and
ADAPTERS regions; what it writes is no longer poisoned. -/
def execRegionLoad (w : WinRef) (content : List Byte) (s : State) : Host.Outcome State Fault Refusal :=
  .next (s.hostCmd w 0x10 fun c ref s =>
    match s.regionList.find? fun r => (decide (r.kind = 1) || decide (r.kind = 3)) && decide (c.arg2.toNat < 64)
        && r.model == some (c.arg2.truncate 6) && decide (r.id.toNat = c.arg3.toNat) with
    | none => s.complete ref stMALFORMED
    | some r =>
      if s.sec.keyUnusable.getLsbD r.partition.val && decide (r.space = 0) then s.complete ref stFENCED
      else (s.write r.start (content.take r.size)).complete ref stOK)

/-! ### Descriptors (R206, R209) -/

/-- MOVE (R206, R209, R368): `d` is the descriptor that the device reads from the host. It enters the function's queue, and
completes the command when it completes. -/
def execMove (w : WinRef) (d : IbexDesc) (s : State) : Host.Outcome State Fault Refusal :=
  .next (s.hostCmd w 0x14 fun c ref s =>
    let fn := winFn w.key
    let t := c.tenantId.toNat
    if fn ≠ 0 ∧ d.partition.toNat ≠ (s.tenantOf t).partition.val then s.complete ref stPRIVILEGE
    else s.enqueue (192 + 2 * fn + winPort w.key) { d with cmd := some ref, fn := some fn, account := if fn = 0 then 1024 else t })

end Sys2Proof.Machine
end

