-- ==== Sys2Proof/Machine/HostPort.lean ====
section
/-! DEFINITION. The host ports: command slots (R466, R467), the loss and return of a host (R477-R479), and the HBM aperture
(R465). -/

namespace Sys2Proof.Machine

/-! ### Command slots (R466, R467) -/

/-- Lap of the next command expected in a slot (R467). -/
def HostWin.lap (w : HostWin) (slot : Nat) : Nat := w.laps.get slot % 255 + 1

/-- Commands of a slot that have been consumed. -/
def HostWin.usedOf (w : HostWin) (slot : Nat) : Nat := (w.consumed + 63 - slot) / 64

/-- The slot holds a command that has not been consumed. -/
def HostWin.busy (w : HostWin) (slot : Nat) : Bool := decide (w.usedOf slot < w.laps.get slot)

/-- A window enters ERROR (R467): it takes no more, and a WINDOW_ERROR record is written. -/
def State.windowError (s : State) (k : Nat) : State :=
  ((s.setWin k { s.win k with error := true }).setFlag Reg.HOSTIF_STATUS 1 true).putRec k { kind := .windowError, status := stMALFORMED }

/-- A 64-byte write to a slot of a window that takes commands (R467): SEQ is its last byte. -/
def State.slotWrite (s : State) (k slot : Nat) (data : BitVec 512) : State :=
  let w := s.win k
  let seq := (data.extractLsb' 504 8).toNat
  if seq = 0 then s
  else if seq = w.lap slot ∧ w.busy slot = false then
    s.setWin k { w with slots := w.slots.set slot data, laps := w.laps.set slot (w.laps.get slot + 1) }
  else s.windowError k

/-- COMMAND_SLOT_WRITE (R466, R467): a host writes `bytes` bytes of `data` to a slot. A window that is not enabled, or is in
ERROR, takes nothing. -/
def execCommandSlotWrite (w : WinRef) (slot : Fin 64) (bytes : Nat) (data : BitVec 512) (s : State) : Host.Outcome State Fault Refusal :=
  .next (if s.portOpen w.port = false ∨ s.pins.resetN = false ∨ windowExists w.key = false then s
    else if bytes < 64 then s.bump Reg.HOSTIF_DROPPED 0 16 1
    else if (s.win w.key).enable = false ∨ (s.win w.key).error = true then s
    else s.slotWrite w.key slot.val data)

/-! ### Loss of a function (R477) -/

/-- What a loss covers: a port's functions, or one function. -/
def covers (port : Nat) (fn : Option Nat) (k : Nat) : Bool :=
  decide (winPort k = port) && (match fn with | none => true | some f => decide (winFn k = f))

/-- Records that wait in a lost window are discarded, and a request whose END is among them is gone (R477, R478). -/
def State.dropRecord (s : State) (r : HostRec) : State :=
  let s := s.bump Reg.HOSTIF_DROPPED 16 16 1
  match r.kind, r.about with
  | .endRec, some i => s.setRecord i {}
  | _, _ => s

/-- A lost window: its commands not yet consumed are discarded, and those that run no longer have a record to write. -/
def State.loseWindow (s : State) (k : Nat) : State :=
  let w := s.win k
  w.waiting.foldl State.dropRecord (s.setWin k { w with slots := [], laps := [], running := [], waiting := [], msiPending := false })

/-- The four steps of R477 for the windows that `lost` names. -/
def State.loseFunctions (s : State) (lost : Nat → Bool) : State :=
  let s := (s.hostif.wins.keysWhere fun k _ => lost k).foldl State.loseWindow s
  let s := (s.strait.windows.keysWhere fun _ w => decide (w.state = .opened) && lost w.opener).foldl (fun s i => s.revokeStrait i none) s
  let s := (s.net.windows.keysWhere fun _ w => decide (w.state = .opened) && lost w.opener).foldl (fun s i => s.revokeRdma i none) s
  let s := (s.net.conns.keysWhere fun _ c => decide (c.state ≠ .free) && decide (c.state ≠ .closing) && lost c.creator).foldl
    (fun s n => s.closeConn n none) s
  let s := (s.anchor.records.keysWhere fun _ r => decide (r.state = .active) && lost r.submitter.toNat).foldl
    (fun s i => s.endRequest i stTARGET_DEAD false true) s
  s.setFlag Reg.HOSTIF_STATUS 2 true

/-- A host port's entry. -/
def State.port (s : State) (p : Nat) : HostPort := s.hostif.ports.get p

/-- Replaces a host port's entry. -/
def State.setPort (s : State) (p : Nat) (x : HostPort) : State :=
  { s with hostif := { s.hostif with ports := s.hostif.ports.set p x } }

/-- A port is lost (R477); a port that is lost already stays so. -/
def State.losePort (s : State) (p : Nat) : State :=
  if (s.port p).lost then s
  else
    let s := s.setPort p { losses := min 65535 ((s.port p).losses + 1), lost := true }
    (s.loseFunctions (covers p none)).dropPortSession p

/-- PORT_LOSS (R477): the link goes down, or PERST# is asserted. -/
def execPortLoss (p : Fin 2) (s : State) : Host.Outcome State Fault Refusal := .next (s.losePort p.val)

/-- FUNCTION_LEVEL_RESET (R477): the function's windows are as after reset. -/
def execFunctionLevelReset (p : Fin 2) (fn : Fin 65) (s : State) : Host.Outcome State Fault Refusal :=
  .next (if (s.port p.val).lost then s
    else
      let s := s.loseFunctions (covers p.val (some fn.val))
      { s with hostif := { s.hostif with wins := s.hostif.wins.mapAll fun k w => if covers p.val (some fn.val) k then {} else w } })

/-- PORT_LINK_RETURN (R463, R478): the port's link has trained at a speed code and a width. After a loss its windows, rings and
status are at their reset values. -/
def execPortLinkReturn (p : Fin 2) (speed : Fin 4) (width : Fin 32) (s : State) : Host.Outcome State Fault Refusal :=
  .next (if speed = 0 ∨ (width ≠ 4 ∧ width ≠ 8 ∧ width ≠ 16) then s
    else
      let x := s.port p.val
      let s := if x.lost then
          { s with hostif := { s.hostif with wins := s.hostif.wins.mapAll fun k w => if covers p.val none k then {} else w } }
        else s
      s.setPort p.val { speed := speed, width := width, ideSecure := x.ideSecure && !x.lost, losses := x.losses, lost := false })

/-- IDE_STREAM_INSECURE (R479). -/
def execIdeStreamInsecure (p : Fin 2) (s : State) : Host.Outcome State Fault Refusal :=
  .next (if (s.port p.val).ideSecure then s.losePort p.val else s)

/-! ### The HBM aperture (R465) -/

/-- Status with which an access through BAR4 is refused (R183, R191, R340, R412, R465): PF1 may also read the trace reserve. -/
def State.apertureStatus (s : State) (fn a n : Nat) (write : Bool) : Option Byte :=
  match if a + n ≤ 2 ^ 44 then s.regionAt a n else none with
  | none => some stPRIVILEGE
  | some r => if fn = 1 ∧ r.kind = 0x0A ∧ write = false then s.fnAccess 0 a n r.partition.val false else s.fnAccess fn a n r.partition.val write

/-- Placement-space offset of a BAR4 offset. -/
def State.apertureAddr (s : State) (off : Nat) : Nat := s.hostif.bar4Base.toNat + off

/-- The access may be made: by PF0 or PF1 of an open port, of whole 4-byte words within the aperture and one request (R463, R465). -/
def State.apertureOpen (s : State) (p : Fin 2) (fn off n : Nat) : Bool :=
  s.portOpen p && s.pins.resetN && decide (fn ≤ 1) && decide (off % 4 = 0) && decide (n % 4 = 0) && decide (0 < n) && decide (n ≤ 4096)
    && decide (off + n ≤ 2 ^ 39)

/-- Partition of a refused access, for its record. -/
def State.aperturePart (s : State) (a n : Nat) : Nat := match s.regionAt a n with | some r => r.partition.val | none => 0

/-- BAR4_READ (R465): poisoned data reads as the poison word, in a TLP with EP set; a refused read returns 0xFFFF_FFFF in every
4 bytes. -/
def execBar4Read (p : Fin 2) (fn : Fin 65) (off n : Nat) (s : State) : Host.Outcome State Fault Refusal :=
  .next (if s.apertureOpen p fn.val off n = false then s
    else
      let a := s.apertureAddr off
      let answer (s : State) (bs : List Byte) (ep : Bool) : State := { s with hostif := { s.hostif with reads := (bs, ep) :: s.hostif.reads } }
      match s.apertureStatus fn.val a n false with
      | some st => answer (s.refuse st a (s.aperturePart a n) none) (List.replicate n 0xFF) false
      | none =>
        if s.poisoned a n then answer s (List.replicate n 0xFF) true else answer s (s.seen a n) false)

/-- BAR4_WRITE (R465): a refused write is dropped. A write in a poisoned TLP (`ep`) writes poisoned data (R463). -/
def execBar4Write (p : Fin 2) (fn : Fin 65) (off : Nat) (data : List Byte) (ep : Bool) (s : State) : Host.Outcome State Fault Refusal :=
  .next (if s.apertureOpen p fn.val off data.length = false then s
    else
      let a := s.apertureAddr off
      match s.apertureStatus fn.val a data.length true with
      | some st => s.refuse st a (s.aperturePart a data.length) none
      | none => s.writeP a data ep)

end Sys2Proof.Machine
end

