-- ==== Sys2Proof/Machine/Dispatch.lean ====
section
/-! DEFINITION. Each command's meaning: one arm per constructor of Instr. -/

namespace Sys2Proof.Machine

/-- The effect of a command on everything but the queue. -/
def exec (i : Instr) (s : State) : Host.Outcome State Fault Refusal :=
  match i with
  | .nop w => Sys2Proof.Machine.execNop w s
  | .admitCmd w hdr formed tokens => Sys2Proof.Machine.execAdmitCmd w hdr formed tokens s
  | .cancel w => Sys2Proof.Machine.execCancel w s
  | .preempt w => Sys2Proof.Machine.execPreempt w s
  | .resume w => Sys2Proof.Machine.execResume w s
  | .restore w => Sys2Proof.Machine.execRestore w s
  | .stepSubmit w => Sys2Proof.Machine.execStepSubmit w s
  | .decideCmd w => Sys2Proof.Machine.execDecideCmd w s
  | .mapInstall w bytes => Sys2Proof.Machine.execMapInstall w bytes s
  | .windowOpen w => Sys2Proof.Machine.execWindowOpen w s
  | .windowRevoke w => Sys2Proof.Machine.execWindowRevoke w s
  | .connect w attr ok => Sys2Proof.Machine.execConnect w attr ok s
  | .close w => Sys2Proof.Machine.execClose w s
  | .routeSet w r ok => Sys2Proof.Machine.execRouteSet w r ok s
  | .planLoad w p => Sys2Proof.Machine.execPlanLoad w p s
  | .planUnload w => Sys2Proof.Machine.execPlanUnload w s
  | .regionLoad w content => Sys2Proof.Machine.execRegionLoad w content s
  | .indexRegister w => Sys2Proof.Machine.execIndexRegister w s
  | .mutate w => Sys2Proof.Machine.execMutate w s
  | .insert index => Sys2Proof.Machine.execInsert index s
  | .delete index => Sys2Proof.Machine.execDelete index s
  | .search w => Sys2Proof.Machine.execSearch w s
  | .move w d => Sys2Proof.Machine.execMove w d s
  | .treeAttach w => Sys2Proof.Machine.execTreeAttach w s
  | .recover w targets => Sys2Proof.Machine.execRecover w targets s
  | .loadStruct w => Sys2Proof.Machine.execLoadStruct w s
  | .fwBegin w file => Sys2Proof.Machine.execFwBegin w file s
  | .fwBlock w blk => Sys2Proof.Machine.execFwBlock w blk s
  | .fwEnd w => Sys2Proof.Machine.execFwEnd w s
  | .fwActivate w => Sys2Proof.Machine.execFwActivate w s
  | .releaseEntry w => Sys2Proof.Machine.execReleaseEntry w s
  | .commandSlotWrite w slot bytes data => Sys2Proof.Machine.execCommandSlotWrite w slot bytes data s
  | .windowReset w => Sys2Proof.Machine.execWindowReset w s
  | .ringHeadWrite w v => Sys2Proof.Machine.execRingHeadWrite w v s
  | .msiDelayExpiry w => Sys2Proof.Machine.execMsiDelayExpiry w s
  | .tokenHoldExpiry record => Sys2Proof.Machine.execTokenHoldExpiry record s
  | .portLoss p => Sys2Proof.Machine.execPortLoss p s
  | .functionLevelReset p fn => Sys2Proof.Machine.execFunctionLevelReset p fn s
  | .portLinkReturn p speed width => Sys2Proof.Machine.execPortLinkReturn p speed width s
  | .ideStreamInsecure p => Sys2Proof.Machine.execIdeStreamInsecure p s
  | .bar4Read p fn off n => Sys2Proof.Machine.execBar4Read p fn off n s
  | .bar4Write p fn off data ep => Sys2Proof.Machine.execBar4Write p fn off data ep s
  | .bar4BaseHiWrite v => Sys2Proof.Machine.execBar4BaseHiWrite v s
  | .query m => Sys2Proof.Machine.execQuery m s
  | .partialMsg m => Sys2Proof.Machine.execPartialMsg m s
  | .admitMessage m => Sys2Proof.Machine.execAdmitMessage m s
  | .promptTokens m => Sys2Proof.Machine.execPromptTokens m s
  | .openMsg m => Sys2Proof.Machine.execOpenMsg m s
  | .creditReq m => Sys2Proof.Machine.execCreditReq m s
  | .queuedCreditGrant id => Sys2Proof.Machine.execQueuedCreditGrant id s
  | .creditWaitExpiry id => Sys2Proof.Machine.execCreditWaitExpiry id s
  | .grant m => Sys2Proof.Machine.execGrant m s
  | .refs m => Sys2Proof.Machine.execRefs m s
  | .sent m => Sys2Proof.Machine.execSent m s
  | .commit m => Sys2Proof.Machine.execCommit m s
  | .reply m => Sys2Proof.Machine.execReply m s
  | .abort m => Sys2Proof.Machine.execAbort m s
  | .keepalive m => Sys2Proof.Machine.execKeepalive m s
  | .keepaliveTimer id => Sys2Proof.Machine.execKeepaliveTimer id s
  | .receiverHandoffTimer id => Sys2Proof.Machine.execReceiverHandoffTimer id s
  | .register m => Sys2Proof.Machine.execRegister m s
  | .redirect m => Sys2Proof.Machine.execRedirect m s
  | .endMsg m => Sys2Proof.Machine.execEndMsg m s
  | .released m => Sys2Proof.Machine.execReleased m s
  | .restoreReq m => Sys2Proof.Machine.execRestoreReq m s
  | .replicaReq m => Sys2Proof.Machine.execReplicaReq m s
  | .covered m => Sys2Proof.Machine.execCovered m s
  | .heldMessageTimeout item => Sys2Proof.Machine.execHeldMessageTimeout item s
  | .deadlineExpiry record => Sys2Proof.Machine.execDeadlineExpiry record s
  | .tokenArrival request k token => Sys2Proof.Machine.execTokenArrival request k token s
  | .decisionTimeout item => Sys2Proof.Machine.execDecisionTimeout item s
  | .idleBoundary => Sys2Proof.Machine.execIdleBoundary s
  | .stepBoundary buildNs given => Sys2Proof.Machine.execStepBoundary buildNs given s
  | .preemptMaxExpiry slot => Sys2Proof.Machine.execPreemptMaxExpiry slot s
  | .sequencerIssueOp model => Sys2Proof.Machine.execSequencerIssueOp model s
  | .stepClose => Sys2Proof.Machine.execStepClose s
  | .stepRun on => Sys2Proof.Machine.execStepRun on s
  | .stepPause on => Sys2Proof.Machine.execStepPause on s
  | .stepSingle => Sys2Proof.Machine.execStepSingle s
  | .clearMax => Sys2Proof.Machine.execClearMax s
  | .herdEntrySelWrite slot => Sys2Proof.Machine.execHerdEntrySelWrite slot s
  | .herdPeerWeightWrite v => Sys2Proof.Machine.execHerdPeerWeightWrite v s
  | .gemm => Sys2Proof.Machine.execGemm s
  | .groupedGemm => Sys2Proof.Machine.execGroupedGemm s
  | .attnFwd => Sys2Proof.Machine.execAttnFwd s
  | .attnTree => Sys2Proof.Machine.execAttnTree s
  | .attnBwd => Sys2Proof.Machine.execAttnBwd s
  | .kvPack => Sys2Proof.Machine.execKvPack s
  | .distTable => Sys2Proof.Machine.execDistTable s
  | .sample => Sys2Proof.Machine.execSample s
  | .elandOpEnqueue d => Sys2Proof.Machine.execElandOpEnqueue d s
  | .outputTileDone quad sub tile run => Sys2Proof.Machine.execOutputTileDone quad sub tile run s
  | .elandFencedWrite v => Sys2Proof.Machine.execElandFencedWrite v s
  | .elandHold on => Sys2Proof.Machine.execElandHold on s
  | .elandClearHwm => Sys2Proof.Machine.execElandClearHwm s
  | .laneUnitDispatch red head quad stack pc => Sys2Proof.Machine.execLaneUnitDispatch red head quad stack pc s
  | .laneUnitDone lane upset => Sys2Proof.Machine.execLaneUnitDone lane upset s
  | .spotCheckResult unit upset => Sys2Proof.Machine.execSpotCheckResult unit upset s
  | .reducerMergeComplete home red => Sys2Proof.Machine.execReducerMergeComplete home red s
  | .springFencedWrite stack v => Sys2Proof.Machine.execSpringFencedWrite stack v s
  | .springClearCounts => Sys2Proof.Machine.execSpringClearCounts s
  | .patrolScrubRead u flips bank row => Sys2Proof.Machine.execPatrolScrubRead u flips bank row s
  | .quarantineTest page repaired failed => Sys2Proof.Machine.execQuarantineTest page repaired failed s
  | .poolAuditSample => Sys2Proof.Machine.execPoolAuditSample s
  | .poolAuditResample => Sys2Proof.Machine.execPoolAuditResample s
  | .recount => Sys2Proof.Machine.execRecount s
  | .recountDone bad => Sys2Proof.Machine.execRecountDone bad s
  | .tierRegionSelWrite v => Sys2Proof.Machine.execTierRegionSelWrite v s
  | .copy q => Sys2Proof.Machine.execCopy q s
  | .gather q => Sys2Proof.Machine.execGather q s
  | .scatter q => Sys2Proof.Machine.execScatter q s
  | .pack q => Sys2Proof.Machine.execPack q s
  | .unpack q => Sys2Proof.Machine.execUnpack q s
  | .compact q => Sys2Proof.Machine.execCompact q s
  | .check q => Sys2Proof.Machine.execCheck q s
  | .remotePut q => Sys2Proof.Machine.execRemotePut q s
  | .remoteGet q => Sys2Proof.Machine.execRemoteGet q s
  | .prefetch q => Sys2Proof.Machine.execPrefetch q s
  | .descriptorComplete slot => Sys2Proof.Machine.execDescriptorComplete slot s
  | .slotTimerExpiry slot => Sys2Proof.Machine.execSlotTimerExpiry slot s
  | .slotAudit => Sys2Proof.Machine.execSlotAudit s
  | .ibexHold on => Sys2Proof.Machine.execIbexHold on s
  | .ibexClearHwm => Sys2Proof.Machine.execIbexClearHwm s
  | .ibexClearCounts => Sys2Proof.Machine.execIbexClearCounts s
  | .dataFlitReceived port flit => Sys2Proof.Machine.execDataFlitReceived port flit s
  | .replayTimeout port => Sys2Proof.Machine.execReplayTimeout port s
  | .retrainComplete port half ack grants => Sys2Proof.Machine.execRetrainComplete port half ack grants s
  | .retrainTimeout port => Sys2Proof.Machine.execRetrainTimeout port s
  | .retrainAttempt port => Sys2Proof.Machine.execRetrainAttempt port s
  | .retrain ports => Sys2Proof.Machine.execRetrain ports s
  | .auditSend port => Sys2Proof.Machine.execAuditSend port s
  | .audit port totals => Sys2Proof.Machine.execAudit port totals s
  | .ping src => Sys2Proof.Machine.execPing src s
  | .pong src => Sys2Proof.Machine.execPong src s
  | .load r => Sys2Proof.Machine.execLoad r s
  | .loadData r => Sys2Proof.Machine.execLoadData r s
  | .store r env => Sys2Proof.Machine.execStore r env s
  | .storeAck r => Sys2Proof.Machine.execStoreAck r s
  | .fetchAdd x => Sys2Proof.Machine.execFetchAdd x s
  | .swap r => Sys2Proof.Machine.execSwap r s
  | .cas r => Sys2Proof.Machine.execCas r s
  | .fetchAnd r => Sys2Proof.Machine.execFetchAnd r s
  | .fetchOr r => Sys2Proof.Machine.execFetchOr r s
  | .fetchXor r => Sys2Proof.Machine.execFetchXor r s
  | .fetchMin r => Sys2Proof.Machine.execFetchMin r s
  | .fetchMax r => Sys2Proof.Machine.execFetchMax r s
  | .atomicData r => Sys2Proof.Machine.execAtomicData r s
  | .tilePut u => Sys2Proof.Machine.execTilePut u s
  | .tileGet u => Sys2Proof.Machine.execTileGet u s
  | .tileData u unit => Sys2Proof.Machine.execTileData u unit s
  | .bytePut u => Sys2Proof.Machine.execBytePut u s
  | .unitAck u unit => Sys2Proof.Machine.execUnitAck u unit s
  | .lastGasp src cause => Sys2Proof.Machine.execLastGasp src cause s
  | .straitRequestIssue r => Sys2Proof.Machine.execStraitRequestIssue r s
  | .fence issuer => Sys2Proof.Machine.execFence issuer s
  | .fenceDest issuer dest => Sys2Proof.Machine.execFenceDest issuer dest s
  | .tagTimeout n => Sys2Proof.Machine.execTagTimeout n s
  | .peerPingTimer d => Sys2Proof.Machine.execPeerPingTimer d s
  | .liveMaskChange d => Sys2Proof.Machine.execLiveMaskChange d s
  | .issueResume d => Sys2Proof.Machine.execIssueResume d s
  | .gatewayFlush route => Sys2Proof.Machine.execGatewayFlush route s
  | .revocationComplete rdma index => Sys2Proof.Machine.execRevocationComplete rdma index s
  | .straitWinSelWrite v => Sys2Proof.Machine.execStraitWinSelWrite v s
  | .straitClearCounts => Sys2Proof.Machine.execStraitClearCounts s
  | .mpWrite p => Sys2Proof.Machine.execMpWrite p s
  | .mpSend p => Sys2Proof.Machine.execMpSend p s
  | .mpReadReq p => Sys2Proof.Machine.execMpReadReq p s
  | .mpReadResp p => Sys2Proof.Machine.execMpReadResp p s
  | .mpAtomic p => Sys2Proof.Machine.execMpAtomic p s
  | .mpAtomicResp p => Sys2Proof.Machine.execMpAtomicResp p s
  | .mpAck p => Sys2Proof.Machine.execMpAck p s
  | .mpCredit p => Sys2Proof.Machine.execMpCredit p s
  | .mpHello p => Sys2Proof.Machine.execMpHello p s
  | .send p => Sys2Proof.Machine.execSend p s
  | .rdmaWrite p => Sys2Proof.Machine.execRdmaWrite p s
  | .rdmaRead p => Sys2Proof.Machine.execRdmaRead p s
  | .cmpSwap p => Sys2Proof.Machine.execCmpSwap p s
  | .mpHelloTimer conn => Sys2Proof.Machine.execMpHelloTimer conn s
  | .connectTimeout conn => Sys2Proof.Machine.execConnectTimeout conn s
  | .retransmitTimeout conn msn index => Sys2Proof.Machine.execRetransmitTimeout conn msn index s
  | .closingResolved conn => Sys2Proof.Machine.execClosingResolved conn s
  | .heldPacketRelease conn => Sys2Proof.Machine.execHeldPacketRelease conn s
  | .creditGrantTick => Sys2Proof.Machine.execCreditGrantTick s
  | .creditReturn conn => Sys2Proof.Machine.execCreditReturn conn s
  | .creditResync conn => Sys2Proof.Machine.execCreditResync conn s
  | .ptpMessage port offset => Sys2Proof.Machine.execPtpMessage port offset s
  | .pfcFrame port classes pause => Sys2Proof.Machine.execPfcFrame port classes pause s
  | .ethernetLinkChange port up => Sys2Proof.Machine.execEthernetLinkChange port up s
  | .cbsSettingApply port prio => Sys2Proof.Machine.execCbsSettingApply port prio s
  | .policerWrite field v => Sys2Proof.Machine.execPolicerWrite field v s
  | .shapeConnWindowWrite x => Sys2Proof.Machine.execShapeConnWindowWrite x s
  | .shapeClearDrops => Sys2Proof.Machine.execShapeClearDrops s
  | .netWinSelWrite v => Sys2Proof.Machine.execNetWinSelWrite v s
  | .netClearCounts => Sys2Proof.Machine.execNetClearCounts s
  | .batchBegin => Sys2Proof.Machine.execBatchBegin s
  | .batchTablesDone => Sys2Proof.Machine.execBatchTablesDone s
  | .coarsePassDone => Sys2Proof.Machine.execCoarsePassDone s
  | .listScanDone => Sys2Proof.Machine.execListScanDone s
  | .widenRoundDone => Sys2Proof.Machine.execWidenRoundDone s
  | .compactionDone index list => Sys2Proof.Machine.execCompactionDone index list s
  | .oldSegmentsFreed index => Sys2Proof.Machine.execOldSegmentsFreed index s
  | .chamCompactCmd v => Sys2Proof.Machine.execChamCompactCmd v s
  | .chamSnapPointHiWrite x => Sys2Proof.Machine.execChamSnapPointHiWrite x s
  | .chamHold on => Sys2Proof.Machine.execChamHold on s
  | .chamClearCounts => Sys2Proof.Machine.execChamClearCounts s
  | .periodBoundary => Sys2Proof.Machine.execPeriodBoundary s
  | .tenantTokBalanceWrite v => Sys2Proof.Machine.execTenantTokBalanceWrite v s
  | .tenantAdmBalanceWrite v => Sys2Proof.Machine.execTenantAdmBalanceWrite v s
  | .tenantCfgWrite v => Sys2Proof.Machine.execTenantCfgWrite v s
  | .tenantPeriodWrite v => Sys2Proof.Machine.execTenantPeriodWrite v s
  | .tenantSelWrite v => Sys2Proof.Machine.execTenantSelWrite v s
  | .accountingIntervalClose => Sys2Proof.Machine.execAccountingIntervalClose s
  | .faultRingTailWrite v => Sys2Proof.Machine.execFaultRingTailWrite v s
  | .inject => Sys2Proof.Machine.execInject s
  | .clearLost => Sys2Proof.Machine.execClearLost s
  | .faultTenantFenceWrite v => Sys2Proof.Machine.execFaultTenantFenceWrite v s
  | .recoveryStart => Sys2Proof.Machine.execRecoveryStart s
  | .recoveryStepDone => Sys2Proof.Machine.execRecoveryStepDone s
  | .epochPulse tide => Sys2Proof.Machine.execEpochPulse tide s
  | .pulseAbsence => Sys2Proof.Machine.execPulseAbsence s
  | .holdoverExpiry => Sys2Proof.Machine.execHoldoverExpiry s
  | .tideNextWrite hi => Sys2Proof.Machine.execTideNextWrite hi s
  | .alarmCodeSend => Sys2Proof.Machine.execAlarmCodeSend s
  | .snap => Sys2Proof.Machine.execSnap s
  | .traceRecordWrite overRate => Sys2Proof.Machine.execTraceRecordWrite overRate s
  | .obsTraceTrigger port => Sys2Proof.Machine.execObsTraceTrigger port s
  | .obsWinUnlock win => Sys2Proof.Machine.execObsWinUnlock win s
  | .mark => Sys2Proof.Machine.execMark s
  | .traceReset => Sys2Proof.Machine.execTraceReset s
  | .obsTraceRposWrite v => Sys2Proof.Machine.execObsTraceRposWrite v s
  | .monitorSample islet temp margin => Sys2Proof.Machine.execMonitorSample islet temp margin s
  | .thermalCeiling islet => Sys2Proof.Machine.execThermalCeiling islet s
  | .thermalTrip islet => Sys2Proof.Machine.execThermalTrip islet s
  | .droopStretch islet cycles => Sys2Proof.Machine.execDroopStretch islet cycles s
  | .histogramMinute die => Sys2Proof.Machine.execHistogramMinute die s
  | .summary die => Sys2Proof.Machine.execSummary die s
  | .dayEnd => Sys2Proof.Machine.execDayEnd s
  | .eyeMeasure lane h v fec => Sys2Proof.Machine.execEyeMeasure lane h v fec s
  | .eyeNow eyes => Sys2Proof.Machine.execEyeNow eyes s
  | .healthClearDropped => Sys2Proof.Machine.execHealthClearDropped s
  | .healthRowSelWrite entry => Sys2Proof.Machine.execHealthRowSelWrite entry s
  | .healthLogSelWrite pos => Sys2Proof.Machine.execHealthLogSelWrite pos s
  | .lifeLogWrite => Sys2Proof.Machine.execLifeLogWrite s
  | .sectorEraseDone => Sys2Proof.Machine.execSectorEraseDone s
  | .drainComplete inlineFail => Sys2Proof.Machine.execDrainComplete inlineFail s
  | .drainTimeout => Sys2Proof.Machine.execDrainTimeout s
  | .abortDrain => Sys2Proof.Machine.execAbortDrain s
  | .bootSlotWrite slot => Sys2Proof.Machine.execBootSlotWrite slot s
  | .fwStagingDone => Sys2Proof.Machine.execFwStagingDone s
  | .standbyReady => Sys2Proof.Machine.execStandbyReady s
  | .prepareTimeout => Sys2Proof.Machine.execPrepareTimeout s
  | .quiesceReady => Sys2Proof.Machine.execQuiesceReady s
  | .quiesceTimeout => Sys2Proof.Machine.execQuiesceTimeout s
  | .stateRead => Sys2Proof.Machine.execStateRead s
  | .pauseTimeout => Sys2Proof.Machine.execPauseTimeout s
  | .newSetRun => Sys2Proof.Machine.execNewSetRun s
  | .confirmElapsed => Sys2Proof.Machine.execConfirmElapsed s
  | .fwAbort => Sys2Proof.Machine.execFwAbort s
  | .fwSvnAdvance v => Sys2Proof.Machine.execFwSvnAdvance v s
  | .selftest pass inlineFail => Sys2Proof.Machine.execSelftest pass inlineFail s
  | .enroll sigs => Sys2Proof.Machine.execEnroll sigs s
  | .blowDebugLock key => Sys2Proof.Machine.execBlowDebugLock key s
  | .blowMldsaReq key => Sys2Proof.Machine.execBlowMldsaReq key s
  | .getVersion t q => Sys2Proof.Machine.execGetVersion t q s
  | .getCapabilities t q => Sys2Proof.Machine.execGetCapabilities t q s
  | .negotiateAlgorithms t q => Sys2Proof.Machine.execNegotiateAlgorithms t q s
  | .getDigests t q => Sys2Proof.Machine.execGetDigests t q s
  | .getCertificate t q => Sys2Proof.Machine.execGetCertificate t q s
  | .challenge t q => Sys2Proof.Machine.execChallenge t q s
  | .getMeasurements t q => Sys2Proof.Machine.execGetMeasurements t q s
  | .keyExchange t q => Sys2Proof.Machine.execKeyExchange t q s
  | .finish t q => Sys2Proof.Machine.execFinish t q s
  | .heartbeat t q => Sys2Proof.Machine.execHeartbeat t q s
  | .keyUpdate t q => Sys2Proof.Machine.execKeyUpdate t q s
  | .endSession t q => Sys2Proof.Machine.execEndSession t q s
  | .vendorDefinedRequest t q => Sys2Proof.Machine.execVendorDefinedRequest t q s
  | .powerOn aGood bGood straps env => Sys2Proof.Machine.execPowerOn aGood bGood straps env s
  | .resetNRise lowNs straps env => Sys2Proof.Machine.execResetNRise lowNs straps env s
  | .resetNFall => Sys2Proof.Machine.execResetNFall s
  | .pwrResetCold key env => Sys2Proof.Machine.execPwrResetCold key env s
  | .pwrResetWarm key env => Sys2Proof.Machine.execPwrResetWarm key env s
  | .stackTrainingDone stack ok phase => Sys2Proof.Machine.execStackTrainingDone stack ok phase s
  | .supplyNotGood b volts => Sys2Proof.Machine.execSupplyNotGood b volts s
  | .shutdownComplete => Sys2Proof.Machine.execShutdownComplete s
  | .supplyReturn b volts => Sys2Proof.Machine.execSupplyReturn b volts s
  | .supplyGoodInOff b volts env => Sys2Proof.Machine.execSupplyGoodInOff b volts env s
  | .auxSupplyLoss b volts => Sys2Proof.Machine.execAuxSupplyLoss b volts s
  | .capLevelChange level => Sys2Proof.Machine.execCapLevelChange level s
  | .capControlTick => Sys2Proof.Machine.execCapControlTick s
  | .energyMeterSample watts => Sys2Proof.Machine.execEnergyMeterSample watts s
  | .pwrCapWrite v => Sys2Proof.Machine.execPwrCapWrite v s
  | .preferB on => Sys2Proof.Machine.execPreferB on s
  | .pwrClearCounts => Sys2Proof.Machine.execPwrClearCounts s
  | .entdaa addr => Sys2Proof.Machine.execEntdaa addr s
  | .readStatus data => Sys2Proof.Machine.execReadStatus data s
  | .setCap data => Sys2Proof.Machine.execSetCap data s
  | .setTideNext data => Sys2Proof.Machine.execSetTideNext data s
  | .logRead data => Sys2Proof.Machine.execLogRead data s
  | .logNext data => Sys2Proof.Machine.execLogNext data s
  | .devDeviceIdWrite v => Sys2Proof.Machine.execDevDeviceIdWrite v s
  | .profileSelect addr v => Sys2Proof.Machine.execProfileSelect addr v s
  | .expertFieldWrite addr v => Sys2Proof.Machine.execExpertFieldWrite addr v s
  | .fwSelWrite v => Sys2Proof.Machine.execFwSelWrite v s
  | .registerWrite port fn addr size v env => Sys2Proof.Machine.execRegisterWrite port fn addr size v env s
  | .standbySetFault => Sys2Proof.Machine.execStandbySetFault s
  | .continuousEntropyTest => Sys2Proof.Machine.execContinuousEntropyTest s
  | .auxSupplyReturn b => Sys2Proof.Machine.execAuxSupplyReturn b s

end Sys2Proof.Machine
end

