-- ==== Sys2Proof/Safety.lean ====
section
/-! DEFINITION. The terms in which claims speak of the device: its invariant, and what a command leaves alone. -/

namespace Sys2Proof.Machine

/-- The form that every state keeps: memory and the plain registers are held in their one canonical form. -/
def State.Inv (s : State) : Prop := Tab.wfBy (fun _ => (0 : Byte)) s.mem = true ∧ Tab.wfBy resetOf s.regs = true

/-- The fuses that nothing changes once the device is made (R511, R512): ORDER_CODE, NOVUO_REVOKE, MAC_BASE, ECOEF, STATIC_MW,
and each die's ID, birth margins, temperature coefficient and test date. -/
abbrev State.madeFuses (s : State) :=
  (s.order, s.sec.novuoRevoke, s.sec.macBase, s.sec.ecoef, s.sec.staticMw, s.sec.dieId, s.sec.birth, s.sec.coef, s.sec.testDate)

/-- A fuse that is blown stays blown (R500, R511, R514): the fuses of the making are as they were, DEBUG_LOCK and MLDSA_REQ are
not cleared, and the security version does not fall. -/
def State.FusesKept (s t : State) : Prop :=
  t.madeFuses = s.madeFuses ∧ (s.sec.debugLock = true → t.sec.debugLock = true)
    ∧ (s.sec.mldsaReq = true → t.sec.mldsaReq = true) ∧ s.fw.svn ≤ t.fw.svn

/-- The parts of a state, one for each field. -/
inductive Part where
  | pending | fresh | order | ready | run | regs | latches | staged | mem | hostif | fault | obs | tenant | tier | herd | anchor | eland | spring | ibex | handoff | strait | net | cham | health | struct | fw | sec | pwr | pins
  deriving DecidableEq, Repr

/-- A part is in `t` as it was in `s`. -/
def State.Kept (s t : State) : Part → Prop
  | .pending => t.pending = s.pending
  | .fresh => t.fresh = s.fresh
  | .order => t.order = s.order
  | .ready => t.ready = s.ready
  | .run => t.run = s.run
  | .regs => t.regs = s.regs
  | .latches => t.latches = s.latches
  | .staged => t.staged = s.staged
  | .mem => t.mem = s.mem
  | .hostif => t.hostif = s.hostif
  | .fault => t.fault = s.fault
  | .obs => t.obs = s.obs
  | .tenant => t.tenant = s.tenant
  | .tier => t.tier = s.tier
  | .herd => t.herd = s.herd
  | .anchor => t.anchor = s.anchor
  | .eland => t.eland = s.eland
  | .spring => t.spring = s.spring
  | .ibex => t.ibex = s.ibex
  | .handoff => t.handoff = s.handoff
  | .strait => t.strait = s.strait
  | .net => t.net = s.net
  | .cham => t.cham = s.cham
  | .health => t.health = s.health
  | .struct => t.struct = s.struct
  | .fw => t.fw = s.fw
  | .sec => t.sec = s.sec
  | .pwr => t.pwr = s.pwr
  | .pins => t.pins = s.pins

/-- The frame of a command: every part of the state but those listed is as it was. -/
def State.ChangesOnly (s t : State) (l : List Part) : Prop := ∀ p, p ∉ l → s.Kept t p

/-- Every register but those listed reads as it did. -/
def State.RegsKept (s t : State) (l : List Nat) : Prop := ∀ a, a ∉ l → t.rd a = s.rd a

/-- Every byte of memory outside the `n` bytes from `a` reads as it did. -/
def State.BytesKept (s t : State) (a n : Nat) : Prop := ∀ b, b < a ∨ a + n ≤ b → t.byte b = s.byte b

/-- The command of opcode `op` is at the front of window `w`, may be consumed, and passes every check of R469: it runs. -/
def State.Runs (s : State) (w : WinRef) (op : Byte) : Prop :=
  s.canConsume w.key (s.frontCmd w.key) = true ∧ (s.frontCmd w.key).opcode = op ∧ s.cmdStatus w.key (s.frontCmd w.key) = none

/-- The descriptor `d` at the front of descriptor queue `q`, as its level reads, can be accepted: the device is alive and not held, no
completion waits for a slot, an ORDERED descriptor finds the queue idle with no failed status, and a mover and slot `n` are
free. `t` is the state in which it has left the queue and holds both (R205, R207, R214, R217). -/
def State.Accepts (s : State) (q : Nat) (d : IbexDesc) (n : Nat) (t : State) : Prop :=
  s.alive = true ∧ s.flag Reg.IBEX_CTRL 0 = false ∧ s.ibex.slotWait = [] ∧ (d.flag 0 = true → s.queueBusy q = false ∧ (s.queue q).statuses = []) ∧
  ∃ (d0 : IbexDesc) (ds : List IbexDesc) (m : Nat) (u : State), (s.queue q).waiting = d0 :: ds ∧ d = d0.known ∧ s.moverFor d = some m
    ∧ s.claim { awaits := .descriptor, desc := d, queue := q, order := (s.queue q).accepted, since := s.now, requestId := d.requestId, replyDue := d.flag 3 } = some (n, u)
    ∧ t = (let v := u.setSlotAt n { u.slot n with mover := m }
           let w : State := { v with ibex := { v.ibex with movers := v.ibex.movers.mod m (· + 1) } }
           w.setQueue q { (s.queue q).pop with statuses := (s.queue q).statuses })

/-- The device's number for the command at the front of a window, once it is consumed. -/
def State.ref (s : State) (w : WinRef) : CmdRef := (w.key, s.hostif.nextCmd)

end Sys2Proof.Machine
end

