-- ==== Sys2Proof/Certificates/Slice0/Obligations.lean ====
section
/-! DEFINITION. Statements for the provers, each from the numbered rules that its docstring names. -/

open Sys2Proof Sys2Proof.Machine

/-- For every command c, queue cs and state s, step of s with c in front of cs is exec of c on s with the queue cs. The queue
itself is the model's, not the spec's (log entry 8). -/
def Obligations.StepRunsFrontCommand : Prop :=
  ∀ (c : Instr) (cs : List Instr) (s : State), step { s with pending := c :: cs } = Machine.exec c { s with pending := cs }

/-- With nothing waiting a step only moves time: the Tide goes on by 1 ns when no error is being slewed out, and nothing but
the time fields changes. That the idle step is a nanosecond is the model's choice of log entry 8. -/
def Obligations.IdleStepTicks : Prop :=
  ∀ s : State, s.pending = [] → s.obs.slew = 0 → ∃ t, step s = .next t ∧ t.obs.tide = (s.obs.tide + 1) % 2 ^ 64 ∧ t.obs.slew = 0 ∧ s.ChangesOnly t [.obs]

/-- Every command answers a next state in every state: the device reports its errors in statuses, fault records and registers,
which are state, and no command stops it. -/
def Obligations.EveryCommandAnswersNext : Prop :=
  ∀ (c : Instr) (s : State), ∃ t, Machine.exec c s = .next t

/-- The invariant that every step keeps holds of the state after reset: memory lists no byte that reads as unwritten memory
does, registers list none that holds its reset value, and both are in rising order. -/
def Obligations.ResetKeepsForms : Prop :=
  State.reset.Inv

/-- For every state in which memory and the plain registers are in canonical form, whatever command stands in front of the
queue, the state that the step answers has them in canonical form; so equal memories are equal data, and what is written is
read back. -/
def Obligations.StepKeepsForms : Prop :=
  ∀ s t : State, s.Inv → step s = .next t → t.Inv

/-- Whatever command runs, a reset of any kind included, ORDER_CODE, NOVUO_REVOKE, MAC_BASE, ECOEF, STATIC_MW and each die's
ID, birth margins, coefficient and test date are as they were, DEBUG_LOCK and MLDSA_REQ once blown stay blown, the security
version does not fall, and the command leaves the queue of waiting commands alone. -/
def Obligations.CommandsKeepFuses : Prop :=
  ∀ (c : Instr) (s t : State), Machine.exec c s = .next t → s.FusesKept t ∧ t.pending = s.pending

/-- In every state of canonical form, writing a register makes it read as written and leaves every other register and all
memory; writing bytes makes each read as written and leaves every byte outside them and every register. -/
def Obligations.RegisterAndMemoryReadBack : Prop :=
  (∀ (s : State) (a : Nat) (v : U32), s.Inv → (s.wr a v).rd a = v ∧ s.RegsKept (s.wr a v) [a] ∧ s.ChangesOnly (s.wr a v) [.regs] ∧ (s.wr a v).Inv)
  ∧ (∀ (s : State) (a i : Nat) (bs : List Byte), s.Inv → i < bs.length → (s.setBytes a bs).byte (a + i) = bs[i]?.getD 0
  ∧ s.BytesKept (s.setBytes a bs) a bs.length ∧ s.ChangesOnly (s.setBytes a bs) [.mem] ∧ (s.setBytes a bs).Inv)

/-- For every list of bytes, the tag function equals CRC-64/XZ written straight from its parameters: a 64-bit register that
starts at all ones and takes each byte's bits from the lowest up, each bit shifting it left with polynomial
0x42F0_E1EB_A9EA_3693, reflected at the end and inverted; over the ASCII string "123456789" it is 0x995D_C9BB_DF19_39FA; and
sealing a slot whose bytes hold no poison records that function of exactly the bytes of the format's tile size at the slot's
address. -/
def Obligations.TileTagIsCrc64Xz : Prop :=
  (∀ bs : List Byte, let shift (r : BitVec 64) (b : Bool) : BitVec 64 := if (r.msb ^^ b) then (r <<< 1) ^^^ 0x42F0E1EBA9EA3693 else r <<< 1
  let register := (bs.flatMap fun x => (List.range 8).map x.getLsbD).foldl shift (BitVec.allOnes 64)
  crc64 bs = (register.reverse ^^^ BitVec.allOnes 64).toNat)
  ∧ (crc64 [0x31, 0x32, 0x33, 0x34, 0x35, 0x36, 0x37, 0x38, 0x39] = 0x995DC9BBDF1939FA)
  ∧ (∀ (s : State) (p slot : Nat), s.tilePoisoned p slot = false →
  s.sealSlot p slot = s.sealWith p slot (BitVec.ofNat 64 (crc64 (s.bytes (s.pageAddr p + slot * tileSize (s.page p).format.toNat) (tileSize (s.page p).format.toNat)))))
  ∧ (∀ (s : State) (p slot : Nat), s.tilePoisoned p slot = false → slot < 3 → (s.page p).tags.length ≤ 3 → ∃ d : PageDesc, s.sealSlot p slot = s.setPage p d
  ∧ d.tag slot = BitVec.ofNat 64 (crc64 (s.tileBytes p slot)) ∧ d.sealed.getLsbD slot = true)
  ∧ (tileSize 0 = 16384 ∧ tileSize 1 = 8192 ∧ tileSize 2 = 8192 ∧ tileSize 3 = 6400 ∧ tileSize 4 = 6400 ∧ tileSize 5 = 4352)

/-- A query with no valid table is POISON; else one that missed a unit or dropped a poisoned result is PARTIAL; else one with
fewer than K results is SHORT; else it is OK. A batch that finishes completes its SEARCH with OK exactly when every query is
OK, and with PARTIAL otherwise. -/
def Obligations.QueryAndBatchStatus : Prop :=
  (∀ (x : QueryState) (k : Nat), let bad := x.part = true ∨ ∃ r ∈ x.found, r.bad = true
  (x.status k = stPOISON ↔ x.poison = true) ∧ (x.status k = stPARTIAL ↔ x.poison = false ∧ bad)
  ∧ (x.status k = stSHORT ↔ x.poison = false ∧ ¬ bad ∧ x.found.length < k) ∧ (x.status k = stOK ↔ x.poison = false ∧ ¬ bad ∧ k ≤ x.found.length))
  ∧ (∀ (s : State) (b : Batch), ∃ u : State, s.finishBatch b = u.complete b.cmd (if ∀ x ∈ b.queries, x.status b.header.k = stOK then stOK else stPARTIAL))

/-- A slot that is taken was FREE, the lowest-numbered one (the model's choice, log entry 15); it goes to WAITING with the
next generation, from 1 to 65,535 and 1 again after 65,535, so its reference is never 0 and names it under that generation; no
other slot changes; FREE and BUSY keep their sum, whatever it was, while one is FREE; and a slot that is returned keeps its
generation and the sum. -/
def Obligations.SlotTakenAndReturned : Prop :=
  (∀ (s t : State) (x : Slot) (n : Nat), s.claim x = some (n, t) → n < 65536 ∧ (s.slot n).state = .free ∧ (∀ m, m < n → (s.slot m).state ≠ .free)
  ∧ t.ibex.slots = s.ibex.slots.set n { x with state := .waiting, gen := nextGen (s.slot n).gen }
  ∧ (1 ≤ s.ibex.slotsFree → t.ibex.slotsFree + t.ibex.slotsBusy = s.ibex.slotsFree + s.ibex.slotsBusy) ∧ s.ChangesOnly t [.regs, .ibex] ∧ s.RegsKept t [Reg.IBEX_SLOTS_HWM])
  ∧ (∀ g : Nat, 1 ≤ nextGen g ∧ nextGen g ≤ 65535 ∧ (g < 65535 → nextGen g = g + 1) ∧ (g = 65535 → nextGen g = 1))
  ∧ (∀ (s : State) (n : Nat), n < 65536 → 1 ≤ (s.slot n).gen → (s.slot n).gen ≤ 65535 →
  s.slotRef n ≠ 0 ∧ (s.slotRef n).toNat % 65536 = n ∧ (s.slotRef n).toNat / 65536 = (s.slot n).gen ∧ ((s.slot n).state = .waiting → s.waitingAt (s.slotRef n) = some n))
  ∧ (∀ (s : State) (n : Nat), (s.slot n).state ≠ .free → 1 ≤ s.ibex.slotsBusy →
  (s.unclaim n).ibex.slotsFree + (s.unclaim n).ibex.slotsBusy = s.ibex.slotsFree + s.ibex.slotsBusy
  ∧ (s.unclaim n).ibex.slots = s.ibex.slots.set n { gen := (s.slot n).gen } ∧ s.ChangesOnly (s.unclaim n) [.ibex])
  ∧ (∀ (s : State) (r : U32) (n : Nat), s.waitingAt r = some n ↔ n = r.toNat % 65536 ∧ (s.slot n).state = .waiting ∧ (s.slot n).gen = r.toNat / 65536)

/-- Each new generation is the next of the device's one counter, never 0; of any 65,535 generations in a row no two are equal,
and the next one is the first again; a window that is revoked takes a new generation, so that no window keeps the old key. -/
def Obligations.KeyGenerationsRecurLate : Prop :=
  (∀ s : State, s.newKey.strait.keyCounter ≠ 0 ∧ (s.strait.keyCounter ≠ 0xFFFF → s.newKey.strait.keyCounter = s.strait.keyCounter + 1)
  ∧ (s.strait.keyCounter = 0xFFFF → s.newKey.strait.keyCounter = 1) ∧ s.ChangesOnly s.newKey [.strait])
  ∧ (∀ (s : State) (m n : Nat), s.strait.keyCounter ≠ 0 → ((State.newKey^[m] s).strait.keyCounter = (State.newKey^[n] s).strait.keyCounter ↔ m % 65535 = n % 65535))
  ∧ (∀ (s : State) (i : Nat) (r : Option CmdRef), ∃ w : StraitWin, (s.revokeStrait i r).strait.windows = s.strait.windows.set i w ∧ w.state = .revoking ∧ w.gen = s.newKey.strait.keyCounter ∧ w.gen ≠ 0)

/-- Losing VIN_A with VIN_B good moves the load to VIN_B with event 1, SUPPLY_SWITCH and a switch-over counted; with both lost
the device enters hold-up and FATAL 0x0050; VIN_A back for PWR_RETURN_TIME returns the load and counts a return;
SHUTDOWN_COMPLETE ends hold-up; SUPPLY_GOOD_IN_OFF cold-resets; AUX losses and returns are recorded; PREFER_B writes its bit;
PWR_CLEAR_COUNTS zeroes PWR_EVENTS; the meter adds 10 × watts microjoules and keeps 1,000 samples; CAP_LEVEL_CHANGE counts
while SBRUN is high; PWR_CAP_WRITE takes 1,200 W to the code maximum and sets CFG_ERR for anything else; CAP_CONTROL_TICK runs
the millisecond's control. Each of the commands SUPPLY_NOT_GOOD, SUPPLY_RETURN, AUX_SUPPLY_LOSS, AUX_SUPPLY_RETURN,
ENERGY_METER_SAMPLE has a clause whose conclusion is the next state it answers. -/
def Obligations.SupplyCommands : Prop :=
  (∀ (s : State) (v : Nat), s.pwr.supply = .onA → s.pwr.vinBGood = true →
  Machine.exec (.supplyNotGood false v) s = .next (State.moveLoad { s with pwr := { s.pwr with vinA := v, vinAGood := false } } .onB 1 v true))
  ∧ (∀ (s : State) (v : Nat), s.pwr.supply = .onA → s.pwr.vinBGood = false →
  Machine.exec (.supplyNotGood false v) s = .next (State.supplyLost { s with pwr := { s.pwr with vinA := v, vinAGood := false } } v))
  ∧ (∀ s : State, s.pwr.supply = .holdUp → s.pins.resetN = true →
  Machine.exec .shutdownComplete s = .next { s with pwr := { s.pwr with supply := .off }, pins := { s.pins with sbrun := false, phase := .off } })
  ∧ (∀ (s : State) (v : Nat), s.pwr.supply = .onB → s.flag Reg.PWR_CTRL 0 = false →
  Machine.exec (.supplyReturn false v) s = .next (State.moveLoad { s with pwr := { s.pwr with vinA := v, vinAGood := true } } .onA 2 v false))
  ∧ (∀ (s : State) (v : Nat) (e : BootEnv), s.pwr.supply = .off → s.pins.resetN = true →
  Machine.exec (.supplyGoodInOff false v e) s =
    .next (State.coldReset { s with pwr := { s.pwr with vinA := v, vinAGood := true, supply := .onA } } false 0 e))
  ∧ (∀ (s : State) (v : Nat), Machine.exec (.auxSupplyLoss true v) s =
  .next { s.supplyRecord 6 v with pwr := { (s.supplyRecord 6 v).pwr with auxB := false } })
  ∧ (∀ (s : State) (v : Nat), Machine.exec (.auxSupplyLoss false v) s =
  .next { s.supplyRecord 6 v with pwr := { (s.supplyRecord 6 v).pwr with auxA := false } })
  ∧ (∀ (s : State), Machine.exec (.auxSupplyReturn true) s = .next { s with pwr := { s.pwr with auxB := true } }
  ∧ Machine.exec (.auxSupplyReturn false) s = .next { s with pwr := { s.pwr with auxA := true } })
  ∧ (∀ (s : State) (on : Bool), s.pwr.supply = .onB → s.pwr.degradedSaid = true → s.Inv →
  ∃ t, Machine.exec (.preferB on) s = .next t ∧ t.flag Reg.PWR_CTRL 0 = on ∧ s.RegsKept t [Reg.PWR_CTRL] ∧ s.ChangesOnly t [.regs])
  ∧ (∀ s : State, Machine.exec .pwrClearCounts s = .next { s with pwr := { s.pwr with switchOvers := 0, returns := 0 } })
  ∧ (∀ (s : State) (w : Fin 65536), s.supplied = true → Machine.exec (.energyMeterSample w) s = .next { s with pwr := { s.pwr with
  energy := (s.pwr.energy + 10 * w.val) % 2 ^ 64, samples := (w.val :: s.pwr.samples).take 1000 } })
  ∧ (∀ (s : State) (l : Fin 4), s.pins.sbrun = true → Machine.exec (.capLevelChange l) s = .next { s with pwr := { s.pwr with capLevel := l } })
  ∧ (∀ (s : State) (v : U32), Machine.exec (.pwrCapWrite v) s =
  .next (if 1200 ≤ v.toNat ∧ v.toNat ≤ s.codeMax then s.wr Reg.PWR_CAP v else s.setFlag Reg.PWR_STATUS 7 true))
  ∧ (∀ s : State, Machine.exec .capControlTick s = .next ((((((s.capTick).thermTick 0).thermTick 1).thermTick 2).thermTick 3).thermTick 4))

/-- In the RUN phase with AUX power and an address: READ_STATUS, LOG_READ and LOG_NEXT answer OK with their bytes, SET_CAP
takes its two bytes (0 is none, below 1,200 is 1,200), SET_TIDE_NEXT arms the Tide, a wrong length is answered MALFORMED;
ENTDAA takes the address; a target that is not up stays silent. Which bits of the provisioned ID beyond [5:0] it sends is a
free value (log entry 14). -/
def Obligations.I3cCommands : Prop :=
  (∀ (s : State) (a : BitVec 7), s.i3cUp = true → Machine.exec (.entdaa a) s =
  .next { s with pins := { s.pins with i3cAddr := some a, answers := { status := stOK, data := leBytes 6 s.provisionedId.toNat } :: s.pins.answers } })
  ∧ (∀ (s : State) (a : BitVec 7), s.i3cUp = true → s.pins.i3cAddr = some a → s.pins.phase = .run →
  Machine.exec (.readStatus []) s = .next (s.i3cAnswer stOK (packBytes [
    (1, s.supplyCode), (1, s.fw.service.code), (1, s.obs.state.code), (1, s.pwr.capLevel.val), (2, s.capInForce.1),
    (2, s.meanInput), (1, min 255 (s.unreadCount 0)), (1, min 255 (s.unreadCount 1)), (1, min 255 (s.unreadCount 2)),
    (1, min 255 (s.unreadCount 3)), (4, 0)])))
  ∧ (∀ (s : State) (a : BitVec 7) (x y : Byte), s.i3cUp = true → s.pins.i3cAddr = some a → s.pins.phase = .run →
  Machine.exec (.setCap [x, y]) s = .next (State.i3cAnswer
    { s with pwr := { s.pwr with capI3c := if leNat [x, y] = 0 then 0 else max 1200 (leNat [x, y]) } } stOK []))
  ∧ (∀ (s : State) (a : BitVec 7) (d : List Byte), s.i3cUp = true → s.pins.i3cAddr = some a → s.pins.phase = .run → d.length = 8 →
  Machine.exec (.setTideNext d) s = .next ((s.armTide (leNat d)).i3cAnswer stOK []))
  ∧ (∀ (s : State) (a : BitVec 7) (d : List Byte), s.i3cUp = true → s.pins.i3cAddr = some a → s.pins.phase = .run → d.length = 3 →
  Machine.exec (.logRead d) s = .next (s.i3cAnswer stOK (logBytes (s.logAt (leNat d % 131072)))))
  ∧ (∀ (s : State) (a : BitVec 7), s.i3cUp = true → s.pins.i3cAddr = some a → s.pins.phase = .run →
  Machine.exec (.logNext []) s = .next (s.i3cAnswer stOK (packBytes [(4, s.health.log.nextSeq), (4, (s.health.log.rollPlace false).1)])))
  ∧ (∀ (s : State) (a : BitVec 7) (d : List Byte), s.i3cUp = true → s.pins.i3cAddr = some a → s.pins.phase = .run → d.length ≠ 2 →
  Machine.exec (.setCap d) s = .next (s.i3cAnswer stMALFORMED []))
  ∧ (∀ (s : State) (d : List Byte), s.i3cUp = false → Machine.exec (.setCap d) s = .next s ∧ Machine.exec (.readStatus d) s = .next s)

/-- POWER_ON with VIN_A good samples the straps and cold-resets from VIN_A, and without a good supply leaves the device OFF;
RESET_N low holds the device with SBRUN low; its rise after 10 ms or more is a cold reset with cause 1 and after 1 µs or more
a warm reset with cause 2; PWR_RESET with key 0x7E5E resets cold or warm with causes 3 and 4, and with another key only sets
CFG_ERR; a trained stack is marked, and one that fails is reported with cause 0x0025. A cold reset clears memory and every
plain register; a warm reset keeps memory and the RESET-kept registers. Each of the commands RESET_N_FALL, RESET_N_RISE,
PWR_RESET_COLD, PWR_RESET_WARM, STACK_TRAINING_DONE has a clause whose conclusion is the next state it answers. -/
def Obligations.ResetCommands : Prop :=
  (∀ (s : State) (b : Bool) (x : Byte) (e : BootEnv), Machine.exec (.powerOn true b x e) s =
  .next (State.coldReset (State.strapped { s with pwr := { s.pwr with supply := .onA, vinAGood := true, vinBGood := b, auxA := true, auxB := true } } x) true 0 e))
  ∧ (∀ (s : State) (x : Byte) (e : BootEnv), ∃ t, Machine.exec (.powerOn false false x e) s = .next t ∧ t.pwr.supply = .off ∧ t.pins.phase = .off
  ∧ t.pins.sbrun = false ∧ s.ChangesOnly t [.pwr, .pins])
  ∧ (∀ s : State, Machine.exec .resetNFall s = .next { s with pins := { s.pins with resetN := false, sbrun := false, phase := .aux } })
  ∧ (∀ (s : State) (n : Nat) (x : Byte) (e : BootEnv), s.pins.resetN = false → s.supplied = true → 10000000 ≤ n →
  Machine.exec (.resetNRise n x e) s = .next (State.coldReset { s.strapped x with pins := { (s.strapped x).pins with resetN := true } } false 1 e))
  ∧ (∀ (s : State) (n : Nat) (x : Byte) (e : BootEnv), s.pins.resetN = false → s.supplied = true → 1000 ≤ n → n < 10000000 →
  Machine.exec (.resetNRise n x e) s = .next (State.warmReset { s.strapped x with pins := { (s.strapped x).pins with resetN := true } } 2 e))
  ∧ (∀ (s : State) (e : BootEnv), s.supplied = true → Machine.exec (.pwrResetCold 0x7E5E e) s = .next (s.coldReset false 3 e)
  ∧ Machine.exec (.pwrResetWarm 0x7E5E e) s = .next (s.warmReset 4 e))
  ∧ (∀ (s : State) (k : U16) (e : BootEnv), s.supplied = true → k ≠ 0x7E5E → Machine.exec (.pwrResetCold k e) s = .next (s.setFlag Reg.PWR_STATUS 7 true)
  ∧ Machine.exec (.pwrResetWarm k e) s = .next (s.setFlag Reg.PWR_STATUS 7 true))
  ∧ (∀ (s : State) (n : Fin 20) (p : Nat), s.tier.trained.getLsbD n.val = false → Machine.exec (.stackTrainingDone n true p) s =
  .next (State.tierReady { s with tier := { s.tier with trained := s.tier.trained ||| BitVec.ofNat 20 (2 ^ n.val) } }))
  ∧ (∀ (s : State) (n : Fin 20) (p : Nat), s.tier.trained.getLsbD n.val = false → Machine.exec (.stackTrainingDone n false p) s =
  .next (s.raise (FaultInfo.onIslet { severity := .contained, block := 0x008, cause := 0x0025, unit := BitVec.ofNat 16 n.val
                                      detail0 := BitVec.ofNat 64 p } (hbmIslet (32 * n.val)))))
  ∧ (∀ (s : State) (k : Nat) (p : Bool), (s.coldBase p k).mem = [] ∧ (s.coldBase p k).regs = [] ∧ (s.coldBase p k).pwr.lastReset = k
  ∧ (s.warmBase k).mem = s.mem ∧ (s.warmBase k).pwr.lastReset = k)

/-- A monitor sample sets the islet's temperature, its highest, its margin and its hot and trip times; the ceiling cuts every
class of the die to 500 MHz; a trip is FATAL 0x0153; a droop is counted for islet and die; the minute's bin gains a minute;
SUMMARY clears the hour's figures but the histogram; DAY_END clears CE_DAY; an eye measurement is stored; the clear and select
commands do as R448 says; the log writer programs the oldest waiting record; an erase done clears its sector. Each of the
commands MONITOR_SAMPLE, THERMAL_CEILING, THERMAL_TRIP, DROOP_STRETCH, HISTOGRAM_MINUTE, EYE_MEASURE, EYE_NOW,
HEALTH_CLEAR_DROPPED, HEALTH_ROW_SEL_WRITE, HEALTH_LOG_SEL_WRITE, LIFE_LOG_WRITE, SECTOR_ERASE_DONE has a clause whose
conclusion is the next state it answers. -/
def Obligations.HealthCommands : Prop :=
  (∀ (s : State) (i : Fin 112) (x : Int) (m : Fin 1024), ∃ u : State, Machine.exec (.monitorSample i x m) s = .next ((u.judgeTemp i.val x).judgeMargin i.val m.val)
  ∧ u.health.islets = s.health.islets.set i.val { s.health.islets.get i.val with
      temp := x, tempMax := if (s.health.islets.get i.val).sampled then max (s.health.islets.get i.val).tempMax x else x, sampled := true
      margin := m.val, marginDrop := max (s.health.islets.get i.val).marginDrop (1023 - m.val)
      hotMs := if 840 ≤ x then (s.health.islets.get i.val).hotMs + 1 else 0, tripMs := if 880 ≤ x then (s.health.islets.get i.val).tripMs + 1 else 0 }
  ∧ s.ChangesOnly u [.health])
  ∧ (∀ (s : State) (i : Fin 112), 10 ≤ (s.health.islets.get i.val).hotMs → ∃ t, Machine.exec (.thermalCeiling i) s = .next t
  ∧ t.pwr = { s.pwr with thermCut := (List.range 8).foldl (fun x c => x.set (8 * isletDie i.val + c) (s.classMax c - 500)) s.pwr.thermCut } ∧ s.ChangesOnly t [.pwr])
  ∧ (∀ (s : State) (i : Fin 112), (s.health.islets.get i.val).tripMs ≠ 0 → Machine.exec (.thermalTrip i) s =
  .next (s.fatal (FaultInfo.onIslet { severity := .fatal, block := 0x024, cause := 0x0153, unit := BitVec.ofNat 16 i.val
                                      detail0 := BitVec.ofInt 64 (s.health.islets.get i.val).temp } i.val)))
  ∧ (∀ (s : State) (i : Fin 112) (n : Nat), ∃ t, Machine.exec (.droopStretch i n) s = .next t
  ∧ t.health.islets = s.health.islets.set i.val { s.health.islets.get i.val with
      stretches := satAdd 24 (s.health.islets.get i.val).stretches 1, longest := min 255 (max (s.health.islets.get i.val).longest n) }
  ∧ s.ChangesOnly t [.health])
  ∧ (∀ (s : State) (d : Fin 5), let x := s.health.dies.get d.val
  let b := histBin x.minuteMax
  ∃ t, Machine.exec (.histogramMinute d) s = .next t
  ∧ t.health.dies = s.health.dies.set d.val { x with
      minutes := x.minutes.set b ((x.minutes.get b + 1) % 60)
      hours := if x.minutes.get b + 1 = 60 then x.hours.set b ((x.hours.get b + 1) % 2 ^ 32) else x.hours
      hourMinutes := x.hourMinutes.set b (x.hourMinutes.get b + 1), minuteMax := 0 }
  ∧ s.ChangesOnly t [.health])
  ∧ (∀ (s : State) (d : Fin 5), ∃ u : State, Machine.exec (.summary d) s = .next (u.modDie d.val fun x => { hours := x.hours, minutes := x.minutes, minuteMax := x.minuteMax }))
  ∧ (∀ s : State, Machine.exec .dayEnd s = .next { s with health := { s.health with rows := s.health.rows.mapAll fun _ e => { e with ceDay := 0 } } })
  ∧ (∀ (s : State) (l : Fin 192) (h v : U16) (f : U64), s.laneUsed l.val = true → Machine.exec (.eyeMeasure l h v f) s = .next (s.eye l.val h.toNat v.toNat f.toNat))
  ∧ (∀ s : State, Machine.exec (.eyeNow []) s = .next s)
  ∧ (∀ (s : State) (h v : U16) (f : U64), s.laneUsed 0 = true → Machine.exec (.eyeNow [(h, v, f)]) s = .next (s.eye 0 h.toNat v.toNat f.toNat))
  ∧ (∀ s : State, s.Inv → ∃ t, Machine.exec .healthClearDropped s = .next t ∧ t.rd Reg.HEALTH_ROWS_DROPPED = 0 ∧ t.rd Reg.HEALTH_LOG_LOST = 0
  ∧ s.RegsKept t [Reg.HEALTH_ROWS_DROPPED, Reg.HEALTH_LOG_LOST] ∧ s.ChangesOnly t [.regs])
  ∧ (∀ (s : State) (n : Fin 4096), s.Inv → ∃ t, Machine.exec (.healthRowSelWrite n) s = .next t ∧ t.rd Reg.HEALTH_ROW_SEL = BitVec.ofNat 32 n.val
  ∧ t.health = { s.health with rowSnap := s.health.rows.get n.val } ∧ s.RegsKept t [Reg.HEALTH_ROW_SEL] ∧ s.ChangesOnly t [.regs, .health])
  ∧ (∀ (s : State) (n : Fin 131072), s.Inv → ∃ t, Machine.exec (.healthLogSelWrite n) s = .next t ∧ t.rd Reg.HEALTH_LOG_SEL = BitVec.ofNat 32 n.val
  ∧ t.health = { s.health with logSnap := (s.wr Reg.HEALTH_LOG_SEL (BitVec.ofNat 32 n.val)).logAt n.val } ∧ s.RegsKept t [Reg.HEALTH_LOG_SEL] ∧ s.ChangesOnly t [.regs, .health])
  ∧ (∀ (s : State) (r : LifeRec) (rs : List LifeRec), s.health.log.buffer = r :: rs → s.logWritable = true →
  Machine.exec .lifeLogWrite s = .next (State.logProgram { s with health := { s.health with log := { s.health.log with buffer := rs } } } r))
  ∧ (∀ (s : State) (n : Nat), s.health.log.erasing = some n → Machine.exec .sectorEraseDone s =
  .next { s with health := { s.health with log := { s.health.log.eraseSector n with erasing := none } } })

/-- With key 0xB10E, BLOW_DEBUG_LOCK blows DEBUG_LOCK, and BLOW_MLDSA_REQ blows MLDSA_REQ when every image and key allows it;
with another key both only set CFG_ERR. SELFTEST runs the tests; a failing continuous entropy test clears its passed bit, is
counted, reported and takes the islet to its error state; an enrolment record in an EXCHANGE region that passes every check
fills its slot and both boot-record copies, a revocation that passes revokes its slot, and a record that fails a check reports
0x0142 with the check's status. Each of the commands CONTINUOUS_ENTROPY_TEST, ENROLL has a clause whose conclusion is the next
state it answers. -/
def Obligations.FuseAndSelfTestCommands : Prop :=
  (∀ s : State, Machine.exec (.blowDebugLock 0xB10E) s = .next { s with sec := { s.sec with debugLock := true } })
  ∧ (∀ s : State, s.allMldsa = true → Machine.exec (.blowMldsaReq 0xB10E) s = .next { s with sec := { s.sec with mldsaReq := true } })
  ∧ (∀ (s : State) (k : U16), k ≠ 0xB10E → Machine.exec (.blowDebugLock k) s = .next (s.setFlag Reg.SEC_STATUS 4 true)
  ∧ Machine.exec (.blowMldsaReq k) s = .next (s.setFlag Reg.SEC_STATUS 4 true))
  ∧ (∀ (s : State) (p : BitVec 10) (f : BitVec 8), Machine.exec (.selftest p f) s = .next (s.runTests p f false))
  ∧ (∀ s : State, ∃ u : State, Machine.exec .continuousEntropyTest s = .next (u.testFail 9).secError
  ∧ u.sec = { s.sec with passed := s.sec.passed &&& 0x1FF#10, failures := satAdd 16 s.sec.failures 1, failedSince := true } ∧ s.ChangesOnly u [.sec])
  ∧ (∀ (s : State) (g : Bool), let r := s.enrolRec
  s.enrolFault r g = none → r.op = 1 → ∃ u : State,
  Machine.exec (.enroll g) s = .next ((u.writeBoot fun c => c.withKey r.slot r.pub).writeBoot fun c => c.withKey r.slot r.pub)
  ∧ u.sec = { s.sec with enrollStatus := stOK, skeys := s.sec.skeys.set r.slot { hash := r.newHash, used := true, present := true } } ∧ s.ChangesOnly u [.sec])
  ∧ (∀ (s : State) (g : Bool), let r := s.enrolRec
  s.enrolFault r g = none → r.op ≠ 1 → ∃ u : State, Machine.exec (.enroll g) s = .next ((u.writeBoot id).writeBoot id)
  ∧ u.sec = { s.sec with enrollStatus := stOK, skeys := s.sec.skeys.mod r.slot fun k => { k with revoked := true } } ∧ s.ChangesOnly u [.sec])
  ∧ (∀ (s : State) (g : Bool) (e : Byte), let r := s.enrolRec
  s.enrolFault r g = some e → Machine.exec (.enroll g) s =
  .next (State.raise { s with sec := { s.sec with enrollStatus := e } } { severity := .corrected, block := 0x022, cause := 0x0142, unit := BitVec.ofNat 16 r.slot, detail0 := BitVec.ofNat 64 r.op.toNat, detail1 := BitVec.ofNat 64 e.toNat }))

/-- GET_DIGESTS and GET_CERTIFICATE answer for the chain of slot 0, and CHALLENGE, GET_MEASUREMENTS and KEY_EXCHANGE are
signed under the L1 alias key. On a DOE transport, with the security firmware running, the islet out of its error state and a
well-formed request: GET_VERSION starts the negotiation, each further request is answered once its predecessor was and moves
the connection on; a session opened by KEY_EXCHANGE is established by FINISH, kept by HEARTBEAT, re-keyed by KEY_UPDATE and
ended by END_SESSION; a request out of order is answered UnexpectedRequest and counted (the SPDM 1.3 codes are presumed, log
entry 10); K_SET_GO makes the port's IDE stream secure. Each of the commands GET_CAPABILITIES, NEGOTIATE_ALGORITHMS,
VENDOR_DEFINED_REQUEST has a clause whose conclusion is the next state it answers. -/
def Obligations.SpdmCommands : Prop :=
  (∀ (s : State) (p : Fin 2) (q : SpdmReq), s.fw.secRun.isSome = true → s.sec.error = false → q.ok = true →
  Machine.exec (.getVersion (.doe p) q) s = .next ((s.setConn (.doe p) { version := true, sessions := (s.conn (.doe p)).sessions }).respond (.doe p) (.reply 0x84)))
  ∧ (∀ (s : State) (p : Fin 2) (q : SpdmReq), s.fw.secRun.isSome = true → s.sec.error = false → q.ok = true → (s.conn (.doe p)).version = true →
  Machine.exec (.getCapabilities (.doe p) q) s = .next ((s.setConn (.doe p) { s.conn (.doe p) with capabilities := true }).respond (.doe p) (.reply 0xE1)))
  ∧ (∀ (s : State) (p : Fin 2) (q : SpdmReq), s.fw.secRun.isSome = true → s.sec.error = false → q.ok = true → (s.conn (.doe p)).capabilities = true →
  Machine.exec (.negotiateAlgorithms (.doe p) q) s = .next ((s.setConn (.doe p) { s.conn (.doe p) with algorithms := true }).respond (.doe p) (.reply 0xE3)))
  ∧ (∀ (s : State) (p : Fin 2) (q : SpdmReq), s.fw.secRun.isSome = true → s.sec.error = false → q.ok = true → (s.conn (.doe p)).algorithms = true → q.slot = 0 →
  Machine.exec (.getDigests (.doe p) q) s = .next (s.respond (.doe p) (.digests (s.certChain.map Config.sha384)))
  ∧ Machine.exec (.getCertificate (.doe p) q) s = .next (s.respond (.doe p) (.certificates s.certChain))
  ∧ Machine.exec (.challenge (.doe p) q) s = .next (s.respond (.doe p) (.signed 0x83 s.l1Public))
  ∧ Machine.exec (.getMeasurements (.doe p) q) s = .next (s.respond (.doe p) (.measurements ((measured q).map fun n => (n, s.measurement n)) s.l1Public))
  ∧ ((s.conn (.doe p)).sessions.length < Spdm.limit (.doe p) → Machine.exec (.keyExchange (.doe p) q) s = .next (State.respond
      { s.setConn (.doe p) { s.conn (.doe p) with sessions := (s.conn (.doe p)).sessions ++ [{ id := s.sec.nextSession }] } with
        sec := { (s.setConn (.doe p) { s.conn (.doe p) with sessions := (s.conn (.doe p)).sessions ++ [{ id := s.sec.nextSession }] }).sec with
                 nextSession := s.sec.nextSession + 1 } } (.doe p) (.signed 0xE4 s.l1Public))))
  ∧ (∀ (s : State) (p : Fin 2) (q : SpdmReq), s.fw.secRun.isSome = true → s.sec.error = false → q.ok = true → q.verifies = true → s.hasSession (.doe p) q false = true →
  Machine.exec (.finish (.doe p) q) s = .next ((s.setConn (.doe p) ((s.conn (.doe p)).modSession q.session fun x => { x with ready := true })).respond (.doe p) (.reply 0xE5)))
  ∧ (∀ (s : State) (p : Fin 2) (q : SpdmReq), s.fw.secRun.isSome = true → s.sec.error = false → q.ok = true → q.verifies = true → s.hasSession (.doe p) q true = true →
  Machine.exec (.heartbeat (.doe p) q) s = .next ((s.setConn (.doe p) (s.conn (.doe p))).respond (.doe p) (.reply 0xE8))
  ∧ Machine.exec (.keyUpdate (.doe p) q) s = .next ((s.setConn (.doe p) ((s.conn (.doe p)).modSession q.session fun x => { x with updates := x.updates + 1 })).respond (.doe p) (.reply 0xE9))
  ∧ Machine.exec (.endSession (.doe p) q) s = .next ((s.setConn (.doe p) { s.conn (.doe p) with
      sessions := (s.conn (.doe p)).sessions.filter fun x => decide (x.id ≠ q.session) }).respond (.doe p) (.reply 0xEC))
  ∧ (q.keySetGo = true → Machine.exec (.vendorDefinedRequest (.doe p) q) s = .next (State.respond
      { s with hostif := { s.hostif with ports := s.hostif.ports.mod p.val fun x => { x with ideSecure := true } } } (.doe p) (.reply 0xFE))))
  ∧ (∀ (s : State) (p : Fin 2) (q : SpdmReq), s.fw.secRun.isSome = true → s.sec.error = false → (s.conn (.doe p)).version = false →
  Machine.exec (.getCapabilities (.doe p) q) s = .next (s.spdmError (.doe p) 0x04))

/-- FW_BEGIN in HW mode erases a free slot and opens its session; FW_BLOCK and FW_END of a HOST_ASSIST staging take the block
and end the session; FW_ACTIVATE activates; the handover moves from PREPARE to QUIESCE to PAUSE to SWITCHED, ownership moving
to the new set in one write, and each timeout, abort or standby fault abandons it with TIMEOUT; CONFIRM_ELAPSED writes ACTIVE;
FW_SVN_ADVANCE raises the counter to a target every named image reaches, at most 64, or sets CFG_ERR; FW_SEL takes the
snapshot. Each of the commands FW_STAGING_DONE, STANDBY_READY, PREPARE_TIMEOUT, STANDBY_SET_FAULT, FW_ABORT, QUIESCE_READY,
QUIESCE_TIMEOUT, STATE_READ, PAUSE_TIMEOUT, NEW_SET_RUN, FW_SEL_WRITE has a clause whose conclusion is the next state it
answers. -/
def Obligations.FirmwareCommands : Prop :=
  (∀ (s : State) (w : WinRef) (x : SlotFile), let c := s.frontCmd w.key
  let u := s.take w.key
  s.Runs w 0x18 → u.beginSlot c ≠ 7 → c.arg1.toNat ≤ slotSize (u.beginSlot c) → u.fw.session = none → u.handingOver = false → u.structLoading = false
    → u.sec.error = false → u.struct.loaded = none → u.fw.handover = .idle → u.fw.service = .normal → u.fnMode 9 ≠ .hostAssist →
    Machine.exec (.fwBegin w x) s = .next { u.setSlot (u.beginSlot c) { state := .staging } with fw := { (u.setSlot (u.beginSlot c) { state := .staging }).fw with
      session := some { slot := u.beginSlot c, port := w.port.val, length := c.arg1.toNat, hw := true, file := x, cmd := some (s.ref w) } } })
  ∧ (∀ (s : State) (w : WinRef) (b : StagedBlock) (x : Session), s.Runs w 0x19 → (s.take w.key).fw.session = some x → s.sec.error = false → x.hw = false
  → (s.frontCmd w.key).arg0.toNat = x.next → b.tagOk = true →
  Machine.exec (.fwBlock w b) s = .next ((State.decided { s.take w.key with fw := { (s.take w.key).fw with
    session := some { x with next := x.next + 1, file := x.file.add b.file x.slot x.next } } } 9).fwComplete (some (s.ref w)) stOK))
  ∧ (∀ (s : State) (w : WinRef) (x : Session), s.Runs w 0x1A → (s.take w.key).fw.session = some x → x.hw = false →
  Machine.exec (.fwEnd w) s = .next ((s.take w.key).endSession x (some (s.ref w))))
  ∧ (∀ (s : State) (w : WinRef), s.Runs w 0x1B → Machine.exec (.fwActivate w) s = .next ((s.take w.key).activate (some (s.ref w)) ((s.frontCmd w.key).arg0.getLsbD 0)))
  ∧ (∀ (s : State) (x : Session), s.fw.session = some x → x.hw = true → x.slot = 5 → Machine.exec .fwStagingDone s = .next (s.endSession x x.cmd))
  ∧ (∀ s : State, s.fw.handover = .prepare → Machine.exec .standbyReady s = .next { s with fw := { s.fw with handover := .quiesce } }
  ∧ Machine.exec .prepareTimeout s = .next (s.abandon stTIMEOUT) ∧ Machine.exec .standbySetFault s = .next (s.abandon stTIMEOUT)
  ∧ (s.fw.session = none → Machine.exec .fwAbort s = .next (s.abandon stTIMEOUT)))
  ∧ (∀ s : State, s.fw.handover = .quiesce → s.fault.recovery.step = 0 → s.tier.plans = [] →
  Machine.exec .quiesceReady s = .next { s with fw := { s.fw with handover := .pause, pauseStart := s.obs.tide } }
  ∧ Machine.exec .quiesceTimeout s = .next (s.abandon stTIMEOUT))
  ∧ (∀ s : State, s.fw.handover = .pause → Machine.exec .stateRead s = .next { s with fw := { s.fw with
    handover := .switched, old := s.fw.run, oldSlot := s.fw.runSlot, run := s.fw.next, runSlot := s.fw.nextSlot } }
  ∧ Machine.exec .pauseTimeout s = .next (s.abandon stTIMEOUT))
  ∧ (∀ (s : State) (i : Image), s.fw.handover = .switched → s.fw.run = some i → s.rdN Reg.FW_CONFIRM ≠ 0 → s.fw.nextSlot = 2 → s.fw.cmd = none → ∃ u : State,
  Machine.exec .newSetRun s = .next ((u.writeBoot fun r => { r with pending := 2 }).fwComplete none stOK)
  ∧ u.fw.handover = .confirming ∧ u.fw.completed = satAdd 16 s.fw.completed 1 ∧ u.fw.next = none ∧ u.fw.run = some i ∧ s.ChangesOnly u [.fw])
  ∧ (∀ s : State, s.fw.handover = .confirming → s.alive = true → Machine.exec .confirmElapsed s =
  .next (State.writeBoot { s with fw := { s.fw with handover := .idle } } fun r => { r with active := s.bootRec.pending, pending := 0 }))
  ∧ (∀ (s : State) (v : U32), Machine.exec (.fwSvnAdvance v) s =
  .next (if s.fw.svn < v.toNat % 128 ∧ v.toNat % 128 ≤ 64 ∧ ([0, 1, 4, s.bootRec.active.val].all fun n => s.slotSvn n (v.toNat % 128)) = true
    then { s with fw := { s.fw with svn := v.toNat % 128 } } else s.setFlag Reg.FW_STATUS 10 true))
  ∧ (∀ (s : State) (v : U32) (i : Image), v.toNat % 8 ≠ 7 → (s.fw.slots.get (v.toNat % 8)).state = .valid → (s.fw.slots.get (v.toNat % 8)).content = .image i → s.Inv →
  ∃ t, Machine.exec (.fwSelWrite v) s = .next t ∧ t.rd Reg.FW_SEL = BitVec.ofNat 32 (v.toNat % 8) ∧ t.fw = { s.fw with hdrSnap := some i }
  ∧ s.RegsKept t [Reg.FW_SEL] ∧ s.ChangesOnly t [.regs, .fw])
  ∧ (∀ (s : State) (v : U32), v.toNat % 8 = 7 → Machine.exec (.fwSelWrite v) s = .next (s.setFlag Reg.FW_STATUS 10 true))

/-- A policer's field in range refills its bucket, a shaper's written setting takes effect at a frame's end with credit 0, the
connection window is taken only in HOST_ASSIST mode and from the port that decides, clears zero their counters, selects take
their snapshot, a compaction point never decreases, DEVICE_ID is taken only while nothing remote is open and otherwise sets
CFG_ERR, a window reset restarts it at command 0, the ring's head moves and waiting records follow, a delayed vector is raised
once, and BAR4 moves to a multiple of 1 GiB. Each of the commands POLICER_WRITE, CBS_SETTING_APPLY, SHAPE_CONN_WINDOW_WRITE,
SHAPE_CLEAR_DROPS, NET_WIN_SEL_WRITE, STRAIT_WIN_SEL_WRITE, NET_CLEAR_COUNTS, STRAIT_CLEAR_COUNTS, RETRAIN, CHAM_COMPACT_CMD,
CHAM_SNAP_POINT_HI_WRITE, CHAM_HOLD, CHAM_CLEAR_COUNTS, DEV_DEVICE_ID_WRITE, WINDOW_RESET, RING_HEAD_WRITE, MSI_DELAY_EXPIRY,
BAR4_BASE_HI_WRITE has a clause whose conclusion is the next state it answers. -/
def Obligations.RegisterCommands : Prop :=
  (∀ (s : State) (v : U32), let n := s.rdN Reg.SHAPE_POL_SEL % 1024
  (v.toNat ≤ 800000 → Machine.exec (.policerWrite 0 v) s = .next (s.setPolicer n { s.policer n with missing := 0, since := s.now, rate := v.toNat }))
  ∧ (9236 ≤ v.toNat → v.toNat ≤ 16777215 → Machine.exec (.policerWrite 1 v) s = .next (s.setPolicer n { s.policer n with missing := 0, since := s.now, burst := v.toNat }))
  ∧ (800000 < v.toNat → Machine.exec (.policerWrite 0 v) s = .next (s.setFlag Reg.SHAPE_STATUS 2 true)))
  ∧ (∀ (s : State) (p : Fin 16) (k : Fin 8) (a b c : Nat) (d : Int), (s.shaper (p.val * 8 + k.val)).pending = some (a, b, c, d) →
  Machine.exec (.cbsSettingApply p k) s = .next (s.setShaper (p.val * 8 + k.val) { slope := a, hi := b, lo := c, adj := d, credit := 0 }))
  ∧ (∀ (s : State) (x : PortWrite), s.fnMode 6 ≠ .hostAssist ∨ x.port ≠ some (s.fnEntry 6).port → Machine.exec (.shapeConnWindowWrite x) s = .next s)
  ∧ (∀ (s : State) (x : PortWrite), let n := s.rdN Reg.SHAPE_CONN_SEL % 8192
  s.fnMode 6 = .hostAssist → s.mayDecide 6 x.port = true → (s.netConn n).state ≠ .free → (s.netConn n).attr.message = true → (s.netConn n).attr.multipath = true →
  Machine.exec (.shapeConnWindowWrite x) s = .next (if ((s.setNetConn n { s.netConn n with window := x.value.toNat }).sendWaiting n).windowAwaited
    then (s.setNetConn n { s.netConn n with window := x.value.toNat }).sendWaiting n
    else ((s.setNetConn n { s.netConn n with window := x.value.toNat }).sendWaiting n).decided 6))
  ∧ (∀ s : State, ∃ t, Machine.exec .shapeClearDrops s = .next t ∧ s.ChangesOnly t [.net] ∧ t.net.conns = s.net.conns ∧ t.net.shapers = s.net.shapers)
  ∧ (∀ (s : State) (v : U32), s.Inv → ∃ t, Machine.exec (.netWinSelWrite v) s = .next t ∧ t.rd Reg.NET_WIN_SEL = BitVec.ofNat 32 (v.toNat % 4096)
  ∧ t.net = { s.net with snap := some (s.net.windows.get (v.toNat % 4096)) } ∧ s.RegsKept t [Reg.NET_WIN_SEL] ∧ s.ChangesOnly t [.regs, .net])
  ∧ (∀ (s : State) (v : U32), s.Inv → ∃ t, Machine.exec (.straitWinSelWrite v) s = .next t ∧ t.rd Reg.STRAIT_WIN_SEL = BitVec.ofNat 32 (v.toNat % 256)
  ∧ t.strait = { s.strait with snap := some (s.strait.windows.get (v.toNat % 256)) } ∧ s.RegsKept t [Reg.STRAIT_WIN_SEL] ∧ s.ChangesOnly t [.regs, .strait])
  ∧ (∀ s : State, s.Inv → ∃ t, Machine.exec .netClearCounts s = .next t ∧ (∀ a ∈ [Reg.NET_RETX, Reg.NET_DUP, Reg.NET_LATE, Reg.NET_REFUSED, Reg.NET_DROPPED], t.rd a = 0)
  ∧ s.RegsKept t [Reg.NET_RETX, Reg.NET_DUP, Reg.NET_LATE, Reg.NET_REFUSED, Reg.NET_DROPPED] ∧ s.ChangesOnly t [.regs])
  ∧ (∀ s : State, Machine.exec .straitClearCounts s = .next ((((s.wr Reg.STRAIT_TIMEOUTS 0).wr Reg.STRAIT_LATE 0).wr Reg.STRAIT_POISON_LOADS 0).wr Reg.STRAIT_REFUSED 0))
  ∧ (∀ s : State, Machine.exec (.retrain 1) s = .next (s.startRetrain 0) ∧ Machine.exec (.retrain 0) s = .next s)
  ∧ (∀ (s : State) (v : U32), let i := s.rdN Reg.CHAM_INDEX_SEL % 16
  (s.index i).registered = true → v.toNat % 2 ^ 20 < (s.index i).header.nlist → Machine.exec (.chamCompactCmd v) s = .next (s.orderCompaction i (v.toNat % 2 ^ 20)))
  ∧ (∀ (s : State) (x : PortWrite), s.fnMode 5 = .hostAssist → s.mayDecide 5 x.port = true → x.value.toNat * 2 ^ 32 + s.rdN Reg.CHAM_SNAP_POINT_LO < s.cham.snapPoint →
  Machine.exec (.chamSnapPointHiWrite x) s = .next (s.setFlag Reg.CHAM_STATUS 5 true))
  ∧ (∀ (s : State) (x : PortWrite), s.fnMode 5 = .hostAssist → s.mayDecide 5 x.port = true → s.cham.snapPoint ≤ x.value.toNat * 2 ^ 32 + s.rdN Reg.CHAM_SNAP_POINT_LO → ∃ u : State,
  Machine.exec (.chamSnapPointHiWrite x) s = .next ((List.range 16).foldl State.retire u)
  ∧ u.cham = { s.cham with snapPoint := x.value.toNat * 2 ^ 32 + s.rdN Reg.CHAM_SNAP_POINT_LO } ∧ s.RegsKept u [Reg.CHAM_SNAP_POINT_HI] ∧ s.ChangesOnly u [.regs, .cham])
  ∧ (∀ (s : State) (on : Bool), s.Inv → ∃ t, Machine.exec (.chamHold on) s = .next t ∧ t.flag Reg.CHAM_CTRL 0 = on ∧ s.RegsKept t [Reg.CHAM_CTRL] ∧ s.ChangesOnly t [.regs])
  ∧ (∀ s : State, Machine.exec .chamClearCounts s = .next ((s.wr Reg.CHAM_SHORT 0).wr Reg.CHAM_FAILED 0))
  ∧ (∀ (s : State) (v : U32), Machine.exec (.devDeviceIdWrite v) s =
  .next (if s.nothingRemote then s.wr Reg.DEV_DEVICE_ID (BitVec.ofNat 32 (v.toNat % 2 ^ 16)) else s.setFlag Reg.DEV_STATUS 2 true))
  ∧ (∀ (s : State) (w : WinRef), (s.win w.key).waiting = [] → Machine.exec (.windowReset w) s =
  .next (s.setWin w.key { s.win w.key with error := false, head := 0, tail := 0, consumed := 0, slots := [], laps := [], ring := [] }))
  ∧ (∀ (s : State) (w : WinRef) (v : U32), let u := s.setWin w.key { s.win w.key with head := v.toNat }
  Machine.exec (.ringHeadWrite w v) s = .next (State.drainWaiting (u.win w.key).waiting.length w.key u)
  ∧ ((u.win w.key).waiting = [] → Machine.exec (.ringHeadWrite w v) s = .next u))
  ∧ (∀ (s : State) (w : WinRef), (s.win w.key).msiPending = false → Machine.exec (.msiDelayExpiry w) s = .next s)
  ∧ (∀ (s : State) (w : WinRef), (s.win w.key).msiPending = true → ∃ u : State, Machine.exec (.msiDelayExpiry w) s = .next (u.raiseMsi w.port.val (s.win w.key).vector))
  ∧ (∀ (s : State) (v : U32), s.Inv → s.rdN Reg.HOSTIF_BAR4_BASE_LO % 2 ^ 30 = 0 → ∃ t, Machine.exec (.bar4BaseHiWrite v) s = .next t ∧ t.rd Reg.HOSTIF_BAR4_BASE_HI = v
  ∧ t.hostif = { s.hostif with bar4Base := BitVec.ofNat 64 (v.toNat * 2 ^ 32 + s.rdN Reg.HOSTIF_BAR4_BASE_LO) } ∧ s.RegsKept t [Reg.HOSTIF_BAR4_BASE_HI]
  ∧ s.ChangesOnly t [.regs, .hostif])

/-- LOAD_STRUCT of a bitstream with no fault, with nothing loaded, waits for its drain; of one with a fault it completes with
that fault; while a load is under way it completes NOT_READY. DRAIN_COMPLETE of a drained device revokes every key, unloads
the plans, loads the bitstream, counts a load and completes OK; DRAIN_TIMEOUT and ABORT_DRAIN complete a waiting load TIMEOUT;
BOOT_SLOT_WRITE writes the boot record. A profile that exists and an expert value in range are staged for the step boundary;
anything else sets the block's CFG_ERR. Each of the commands PROFILE_SELECT, EXPERT_FIELD_WRITE has a clause whose conclusion
is the next state it answers. -/
def Obligations.StructureAndControlCommands : Prop :=
  (∀ (s : State) (w : WinRef), let u := s.take w.key
  let slot : Fin 2 := if (s.frontCmd w.key).arg0.getLsbD 0 then 1 else 0
  s.Runs w 0x17 → u.loadBusy slot.val = false → s.sec.error = false → u.bitsFault (u.structSlot slot.val) = none → u.struct.loaded = none →
  Machine.exec (.loadStruct w) s = .next { u with struct := { u.struct with drain := some (u.structSlot slot.val, slot, (s.ref w).1, (s.ref w).2) } })
  ∧ (∀ (s : State) (w : WinRef) (e : Byte × Nat), let u := s.take w.key
  let slot : Fin 2 := if (s.frontCmd w.key).arg0.getLsbD 0 then 1 else 0
  s.Runs w 0x17 → u.loadBusy slot.val = false → s.sec.error = false → u.bitsFault (u.structSlot slot.val) = some e →
  Machine.exec (.loadStruct w) s = .next ((u.structRefused slot.val e).complete (s.ref w) e.1))
  ∧ (∀ (s : State) (b : Bitstream) (slot : Fin 2) (k n : Nat) (f : BitVec 8), s.struct.drain = some (b, slot, k, n) → s.drained = true →
  Machine.exec (.drainComplete f) s = .next ((((State.revokeAll { s with struct := { s.struct with drain := none, fallback := false } }).unloadPlans.loadBits b slot f).bump
    Reg.STRUCT_LOADS 0 16 1).complete (k, n) stOK))
  ∧ (∀ (s : State) (b : Bitstream) (slot : Fin 2) (k n : Nat), s.struct.drain = some (b, slot, k, n) →
  (s.drained = false → Machine.exec .drainTimeout s = .next (State.complete { s with struct := { s.struct with drain := none, lastStatus := stTIMEOUT } } (k, n) stTIMEOUT))
  ∧ Machine.exec .abortDrain s = .next (State.complete { s with struct := { s.struct with drain := none, lastStatus := stTIMEOUT } } (k, n) stTIMEOUT))
  ∧ (∀ (s : State) (n : Fin 2), Machine.exec (.bootSlotWrite n) s = .next (s.writeBoot fun r => { r with structBoot := n }))
  ∧ (∀ (s : State) (a : Nat) (v : U32) (b : ControlBlock), blockOfProfile a = some b → Machine.exec (.profileSelect a v) s =
  .next (if v.toNat % 16 < b.profiles then { s with staged := s.staged ++ [(a, v)] } else s.setFlag b.errReg b.errBit true))
  ∧ (∀ (s : State) (a : Nat) (v : U32) (b : ControlBlock) (f : ExpertField), expertAt a = some (b, f) → Machine.exec (.expertFieldWrite a v) s =
  .next (if f.admits v.toNat then { s with staged := s.staged ++ [(a, v)] } else s.setFlag b.errReg b.errBit true))

/-- A 64-byte write to a slot of an open, enabled window whose SEQ is the slot's lap and whose last command has been consumed
puts the command there; with SEQ 0 nothing happens; with any other SEQ the window goes to ERROR; a shorter write is counted
dropped. A lost port's functions, and a staging session of it, are lost once and counted; its return trains it with its
windows at reset; a function-level reset clears the function's windows; an insecure IDE stream loses the port. An aperture
read answers the bytes, or ones when refused; a write lands, or is dropped when refused. Each of the commands
COMMAND_SLOT_WRITE, PORT_LOSS, FUNCTION_LEVEL_RESET, PORT_LINK_RETURN, IDE_STREAM_INSECURE, BAR4_READ, BAR4_WRITE has a clause
whose conclusion is the next state it answers. -/
def Obligations.HostPortCommands : Prop :=
  (∀ (s : State) (w : WinRef) (k : Fin 64) (d : BitVec 512), s.portOpen w.port = true → s.pins.resetN = true → windowExists w.key = true → (s.win w.key).enable = true →
  (s.win w.key).error = false →
  let q := (d.extractLsb' 504 8).toNat
  (q = 0 → Machine.exec (.commandSlotWrite w k 64 d) s = .next s)
  ∧ (q ≠ 0 → q = (s.win w.key).lap k.val → (s.win w.key).busy k.val = false → Machine.exec (.commandSlotWrite w k 64 d) s = .next (s.setWin w.key { s.win w.key with
      slots := (s.win w.key).slots.set k.val d, laps := (s.win w.key).laps.set k.val ((s.win w.key).laps.get k.val + 1) }))
  ∧ (q ≠ 0 → (q ≠ (s.win w.key).lap k.val ∨ (s.win w.key).busy k.val = true) → Machine.exec (.commandSlotWrite w k 64 d) s = .next (s.windowError w.key)))
  ∧ (∀ (s : State) (w : WinRef) (k : Fin 64) (n : Nat) (d : BitVec 512), s.portOpen w.port = true → s.pins.resetN = true → windowExists w.key = true → n < 64 →
  Machine.exec (.commandSlotWrite w k n d) s = .next (s.bump Reg.HOSTIF_DROPPED 0 16 1))
  ∧ (∀ (s : State) (p : Fin 2), (s.port p.val).lost = false → Machine.exec (.portLoss p) s =
  .next ((s.setPort p.val { losses := min 65535 ((s.port p.val).losses + 1), lost := true }).loseFunctions (covers p.val none) |>.dropPortSession p.val))
  ∧ (∀ (s : State) (p : Fin 2), (s.port p.val).lost = true → Machine.exec (.portLoss p) s = .next s)
  ∧ (∀ (s : State) (p : Fin 2) (f : Fin 65), (s.port p.val).lost = false → ∃ t, Machine.exec (.functionLevelReset p f) s = .next t
  ∧ t.hostif.wins = (s.loseFunctions (covers p.val (some f.val))).hostif.wins.mapAll (fun k w => if covers p.val (some f.val) k then {} else w))
  ∧ (∀ (s : State) (p : Fin 2), (s.port p.val).lost = false → Machine.exec (.portLinkReturn p 3 16) s =
  .next (s.setPort p.val { speed := 3, width := 16, ideSecure := (s.port p.val).ideSecure, losses := (s.port p.val).losses, lost := false }))
  ∧ (∀ (s : State) (p : Fin 2), Machine.exec (.ideStreamInsecure p) s = .next (if (s.port p.val).ideSecure then s.losePort p.val else s))
  ∧ (∀ (s : State) (p : Fin 2) (f : Fin 65) (o n : Nat), s.apertureOpen p f.val o n = true → s.apertureStatus f.val (s.apertureAddr o) n false = none →
  Machine.exec (.bar4Read p f o n) s = .next { s with hostif := { s.hostif with reads :=
    (if s.poisoned (s.apertureAddr o) n then (List.replicate n 0xFF, true) else (s.seen (s.apertureAddr o) n, false)) :: s.hostif.reads } })
  ∧ (∀ (s : State) (p : Fin 2) (f : Fin 65) (o : Nat) (d : List Byte) (e : Bool), s.apertureOpen p f.val o d.length = true →
  s.apertureStatus f.val (s.apertureAddr o) d.length true = none → Machine.exec (.bar4Write p f o d e) s = .next (s.writeP (s.apertureAddr o) d e))
  ∧ (∀ (s : State) (p : Fin 2) (f : Fin 65) (o : Nat) (d : List Byte) (e : Bool) (st : Byte), s.apertureOpen p f.val o d.length = true →
  s.apertureStatus f.val (s.apertureAddr o) d.length true = some st → Machine.exec (.bar4Write p f o d e) s =
  .next (s.refuse st (s.apertureAddr o) (s.aperturePart (s.apertureAddr o) d.length) none))

/-- EPOCH_PULSE in UNSET with TIDE_NEXT armed and SOURCE EPOCH sets the Tide to it and enters LOCKING; in LOCKED it rejects a
pulse beyond 1,000 ns and keeps the state, stays LOCKED within 50 ns and returns to LOCKING between; PULSE_ABSENCE and
HOLDOVER_EXPIRY enter HOLDOVER and UNLOCKED and report causes 0x0100 and 0x0101; TIDE_NEXT_WRITE arms the pair;
ALARM_CODE_SEND drives the code; SNAP copies the counters and the Tide. Each names what it may change. -/
def Obligations.TimeStateCommands : Prop :=
  (∀ (s : State) (x v : Nat), s.obs.state = .unset → s.obs.tideNext = some v → s.flag Reg.OBS_TIME_CTRL 0 = false →
    ∃ t, Machine.exec (.epochPulse x) s = .next t ∧ t.obs.state = .locking ∧ t.obs.tide = v % 2 ^ 64 ∧ t.obs.tideNext = none
      ∧ s.ChangesOnly t [.regs, .obs] ∧ s.RegsKept t [Reg.OBS_PTP_OFFSET])
  ∧ (∀ (s : State) (x : Nat), s.obs.state = .locked → s.obs.tideNext = none →
      let u := (s.tideTo x).ptpSample
      let e := u.pulseError.natAbs
      ∃ t, Machine.exec (.epochPulse x) s = .next t
        ∧ t.obs.state = (if 1000 < e then .locked else if e ≤ 50 then .locked else .locking)
        ∧ (e ≤ 1000 → t.obs.slew = u.pulseError ∧ t.obs.lastPulse = u.now) ∧ (1000 < e → t.obs.lastPulse = s.obs.lastPulse)
        ∧ s.ChangesOnly t [.regs, .obs] ∧ s.RegsKept t [Reg.OBS_PTP_OFFSET, Reg.OBS_PULSE_ERR, Reg.OBS_TIME_STATUS])
  ∧ (∀ s : State, s.obs.state = .locking ∨ s.obs.state = .locked → ∃ u : State,
      Machine.exec .pulseAbsence s = .next (u.raise
        { severity := .corrected, block := 0x01A, cause := 0x0100, detail0 := BitVec.ofNat 64 s.obs.lastPulse })
      ∧ u.obs.state = .holdover ∧ u.obs.tide = s.obs.tide ∧ s.ChangesOnly u [.obs])
  ∧ (∀ s : State, s.obs.state = .holdover → ∃ u : State,
      Machine.exec .holdoverExpiry s = .next (u.raise
        { severity := .contained, block := 0x01A, cause := 0x0101, detail0 := BitVec.ofNat 64 s.obs.lastPulse })
      ∧ u.obs.state = .unlocked ∧ u.obs.tide = s.obs.tide ∧ s.ChangesOnly u [.obs])
  ∧ (∀ (s : State) (hi : U32), s.obs.state ≠ .unset →
      ∃ t, Machine.exec (.tideNextWrite hi) s = .next t ∧ t.obs = { s.obs with tideNext := some (hi.toNat * 2 ^ 32 + s.rdN Reg.OBS_TIDE_NEXT_LO) }
        ∧ s.RegsKept t [Reg.OBS_TIDE_NEXT_HI] ∧ s.ChangesOnly t [.regs, .obs])
  ∧ (∀ s : State, s.pins.phase = .run →
      Machine.exec .alarmCodeSend s = .next { s with obs := { s.obs with alarms := s.alarmCode :: s.obs.alarms } })
  ∧ (∀ s : State, Machine.exec .snap s = .next { s with obs := { s.obs with snap := some { counters := s.obs.counters, tide := s.obs.tide } } })

/-- TRACE_RECORD_WRITE with no loss pending, the next position free and no trigger unit firing takes the oldest offered
record, writes its 32 bytes with the next SEQ at the position of WPOS and moves WPOS, SEQ and the count on; MARK offers a
record of the four MARK_DATA words; OBS_TRACE_TRIGGER in HW mode fires the software trigger on the record last written;
OBS_WIN_UNLOCK frees a held window; TRACE_RESET with EN 0 clears the writer and the trace region, and with EN 1 only sets
CFG_ERR; OBS_TRACE_RPOS_WRITE moves RPOS, or sets CFG_ERR for a position beyond the records written. -/
def Obligations.TraceCommands : Prop :=
  (∀ (s : State) (r : TraceRec) (rs : List TraceRec), s.obs.offers = r :: rs → s.obs.loss = none → s.traceBlock = none → s.firing r = [] →
    Machine.exec (.traceRecordWrite false) s = .next (State.tracePut
      { s with obs := { s.obs with offers := rs, seq := (s.obs.seq + 1) % 2 ^ 32 } } { r with trigger := false } s.obs.seq))
  ∧ (∀ s : State, s.traces 8 = true →
    Machine.exec .mark s = .next { s with obs := { s.obs with offers := s.obs.offers ++
      [{ type := 8, tide := s.obs.tide
         payload := payload [(4, s.rdN Reg.OBS_MARK_DATA), (4, s.rdN (Reg.OBS_MARK_DATA + 4)), (4, s.rdN (Reg.OBS_MARK_DATA + 8)),
           (4, s.rdN (Reg.OBS_MARK_DATA + 12))] }] } })
  ∧ (∀ (s : State) (p : Fin 2) (r : TraceRec) (q : Nat), s.obs.last = some (r, q) → s.fnMode 7 ≠ .hostAssist →
    Machine.exec (.obsTraceTrigger p) s = .next ((s.fireTrigger 8 s.traceLast q).decided 7))
  ∧ (∀ (s : State) (n : Fin 4), (s.obs.windows.get n.val).state = .locked → s.obs.loss = none → s.obs.lastEnd ≠ some (s.obs.windows.get n.val).stop →
    Machine.exec (.obsWinUnlock n) s = .next { s with obs := { s.obs with windows := s.obs.windows.set n.val {} } })
  ∧ (∀ (s : State) (r : Region), s.flag Reg.OBS_TRACE_CTRL 0 = false → s.regionOfKind 0x0A = some r →
    ∃ t, Machine.exec .traceReset s = .next t
      ∧ t.obs = { s.obs with offers := [], wpos := 0, rpos := 0, seq := 0, written := 0, last := none, windows := [], lastEnd := none, loss := none }
      ∧ (∀ a, r.start ≤ a → a < r.start + r.size → t.byte a = 0) ∧ s.BytesKept t r.start r.size ∧ s.ChangesOnly t [.obs, .mem, .tier])
  ∧ (∀ s : State, s.flag Reg.OBS_TRACE_CTRL 0 = true → Machine.exec .traceReset s = .next (s.setFlag Reg.OBS_STATUS 1 true))
  ∧ (∀ (s : State) (v : U32), v.toNat < s.traceM → s.traceFull = false → fwd s.traceM s.obs.rpos v.toNat ≤ fwd s.traceM s.obs.rpos s.obs.wpos →
      s.obs.windows = [] → s.obs.loss = none →
    Machine.exec (.obsTraceRposWrite v) s = .next { s with obs := { s.obs with rpos := v.toNat } })
  ∧ (∀ (s : State) (v : U32), s.traceM ≤ v.toNat → Machine.exec (.obsTraceRposWrite v) s = .next (s.setFlag Reg.OBS_STATUS 1 true))

/-- A token balance written waits for the step boundary and an admission balance is taken at once; a share other than 0 waits
for the boundary while ENABLE is taken at once and PARTITION only with no bitstream loaded; a share of 0 sets CFG_ERR; the
period is an expert field; the selected account's record is taken as a snapshot, an account above 1,024 sets CFG_ERR; a period
boundary refills when no step runs and is owed when one does; an interval of 1 ms closes. Each of the commands
TENANT_TOK_BALANCE_WRITE, TENANT_ADM_BALANCE_WRITE, TENANT_CFG_WRITE, TENANT_PERIOD_WRITE, EXPERT_FIELD_WRITE,
TENANT_SEL_WRITE, PERIOD_BOUNDARY, ACCOUNTING_INTERVAL_CLOSE has a clause whose conclusion is the next state it answers. -/
def Obligations.TenantCommands : Prop :=
  (∀ (s : State) (v : U32) (t : Nat), s.selTenant = some t →
  Machine.exec (.tenantTokBalanceWrite v) s = .next (s.setTenant t { s.tenantOf t with tokPending := some v.toInt })
  ∧ Machine.exec (.tenantAdmBalanceWrite v) s = .next (s.setTenant t { s.tenantOf t with adm := v.toInt }))
  ∧ (∀ (s : State) (v : U32) (t : Nat), s.selTenant = some t → v.toNat % 65536 ≠ 0 → s.struct.loaded.isSome = true →
  Machine.exec (.tenantCfgWrite v) s = .next (s.setTenant t { s.tenantOf t with sharePending := some (v.truncate 16), enable := v.getLsbD 19 }))
  ∧ (∀ (s : State) (v : U32) (t : Nat), s.selTenant = some t → v.toNat % 65536 = 0 → Machine.exec (.tenantCfgWrite v) s = .next (s.setFlag Reg.TENANT_STATUS 0 true))
  ∧ (∀ (s : State) (v : U32), Machine.exec (.tenantPeriodWrite v) s = Machine.exec (.expertFieldWrite Reg.TENANT_PERIOD v) s)
  ∧ (∀ (s : State) (v : U32), 1024 < v.toNat % 2048 → Machine.exec (.tenantSelWrite v) s = .next (s.setFlag Reg.TENANT_STATUS 0 true))
  ∧ (∀ (s : State) (v : U32), s.Inv → v.toNat % 2048 ≤ 1024 → v.getLsbD 16 = false → ∃ t, Machine.exec (.tenantSelWrite v) s = .next t
  ∧ t.rd Reg.TENANT_SEL = BitVec.ofNat 32 (v.toNat % 2048)
  ∧ t.tenant.snap = some { account := v.toNat % 2048, closed := false, isOpen := true, interval := s.tenant.interval
                           use := s.usageOf (v.toNat % 2048) false }
  ∧ s.RegsKept t [Reg.TENANT_SEL] ∧ s.ChangesOnly t [.regs, .tenant])
  ∧ (∀ s : State, s.nextPeriod ≤ s.now → s.herd.step = none → Machine.exec .periodBoundary s =
  .next (State.refill { s with tenant := { s.tenant with boundary := s.nextPeriod, period := s.tenant.periodNext.getD s.tenant.period, periodNext := none } }))
  ∧ (∀ (s : State) (x : Step), s.nextPeriod ≤ s.now → s.herd.step = some x → Machine.exec .periodBoundary s =
  .next { s with tenant := { s.tenant with boundary := s.nextPeriod, period := s.tenant.periodNext.getD s.tenant.period, periodNext := none, due := s.tenant.due + 1 } })
  ∧ (∀ s : State, Machine.exec .accountingIntervalClose s = .next s.closeInterval)

/-- The ring's tail moves to a position at most 1,024 below HEAD and otherwise CFG_ERR is set; INJECT raises 0x007F;
CLEAR_LOST zeroes the lost counts; PF0 fences or frees the selected tenant; with the sequencer IDLE and a cause waiting,
RECOVERY_START takes the oldest, at the next epoch and step 1; RECOVERY_STEP_DONE carries the current step out, outside
HOST_ASSIST mode; RECOVER carries out the firmware's order; RELEASE_ENTRY of a slot that holds the request starts an ENTRY
recovery, and of any other completes MALFORMED. Each of the commands FAULT_RING_TAIL_WRITE, FAULT_TENANT_FENCE_WRITE has a
clause whose conclusion is the next state it answers. -/
def Obligations.FaultAndRecoveryCommands : Prop :=
  (∀ (s : State) (v : U32), (s.fault.head + 2 ^ 32 - v.toNat) % 2 ^ 32 ≤ 1024 →
  Machine.exec (.faultRingTailWrite v) s = .next (State.driveAlert { s with fault := { s.fault with tail := v.toNat } }))
  ∧ (∀ (s : State) (v : U32), 1024 < (s.fault.head + 2 ^ 32 - v.toNat) % 2 ^ 32 → Machine.exec (.faultRingTailWrite v) s = .next (s.setFlag Reg.FAULT_STATUS 5 true))
  ∧ (∀ s : State, Machine.exec .inject s = .next (s.raise { severity := .corrected, block := 0x018, cause := 0x007F }))
  ∧ (∀ s : State, Machine.exec .clearLost s = .next { s with fault := { s.fault with lost := [] } })
  ∧ (∀ (s : State) (v : U32), let n := s.field Reg.FAULT_TENANT_SEL 0 10
  (v.getLsbD 0 = true → Machine.exec (.faultTenantFenceWrite v) s = .next (s.fenceTenant n 0))
  ∧ (v.getLsbD 0 = false → Machine.exec (.faultTenantFenceWrite v) s =
      .next { s with fault := { s.fault with fences := s.fault.fences.set n { s.fault.fences.get n with fenced := false } } }))
  ∧ (∀ (s : State) (c : RecoveryCause) (cs : List RecoveryCause), s.Inv → s.recovery.step = 0 → s.recovery.queued = c :: cs → s.alive = true → s.paused = false →
  ∃ t, Machine.exec .recoveryStart s = .next t ∧ t.rd Reg.FAULT_RECOVERY_EPOCH = s.rd Reg.FAULT_RECOVERY_EPOCH + 1 ∧ t.recovery.step = 1 ∧ t.recovery.cause = c
    ∧ t.recovery.queued = cs ∧ s.RegsKept t [Reg.FAULT_RECOVERY_EPOCH] ∧ s.ChangesOnly t [.regs, .fault])
  ∧ (∀ s : State, s.recovery.step ≠ 0 → s.fnMode 8 ≠ .hostAssist → s.paused = false → s.alive = true → Machine.exec .recoveryStepDone s = .next s.doStep)
  ∧ (∀ (s : State) (w : WinRef) (ts : List Nat), s.Runs w 0x16 → Machine.exec (.recover w ts) s = .next ((s.take w.key).recoverCmd (s.frontCmd w.key) (s.ref w) ts))
  ∧ (∀ (s : State) (w : WinRef), let c := s.frontCmd w.key
  let n := c.arg0.toNat
  let st : Byte := c.arg2.truncate 8
  s.Runs w 0x1C → n < (s.take w.key).herdSize → (s.entry n).state ≠ .idle → (s.entry n).requestId = c.arg1 → 0x10 ≤ st.toNat → st.toNat ≤ 0x1F →
  Machine.exec (.releaseEntry w) s = .next ((s.take w.key).causeRecovery { kind := .entry, entries := [(n, st, (s.ref w).1, (s.ref w).2)] }))

/-- A command that passes the checks of R469 has its opcode's effect: NOP and a reserved opcode complete OK and MALFORMED;
ADMIT admits a request that no check refuses, completing OK, and otherwise completes with the check's status; CANCEL ends an
active request PARTIAL and completes OK, or LATE when it is not live; RESTORE marks an offloaded entry, and is STALE_MAP on a
role that does not generate; MAP_INSTALL takes a well-formed newer map, and one no newer is STALE_MAP. A command that a check
of R469 fails completes with its status. That CANCEL of an unknown request is LATE is the model's choice (log entry 18). -/
def Obligations.RequestAndDecisionCommands : Prop :=
  (∀ (s : State) (w : WinRef), s.Runs w 0x00 → Machine.exec (.nop w) s = .next ((s.take w.key).complete (s.ref w) stOK))
  ∧ (∀ (s : State) (w : WinRef), s.canConsume w.key (s.frontCmd w.key) = true → 0x1C < (s.frontCmd w.key).opcode.toNat →
  Machine.exec (.nop w) s = .next ((s.take w.key).complete (s.ref w) stMALFORMED))
  ∧ (∀ (s : State) (w : WinRef) (st : Byte), s.canConsume w.key (s.frontCmd w.key) = true → (s.frontCmd w.key).opcode = 0x02 → s.cmdStatus w.key (s.frontCmd w.key) = some st →
  Machine.exec (.cancel w) s = .next ((s.take w.key).complete (s.ref w) st))
  ∧ (∀ (s : State) (w : WinRef) (h : Record) (f : Bool) (ts : List U32), let u := s.take w.key
  let c := s.frontCmd w.key
  s.Runs w 0x01 → Machine.exec (.admitCmd w h f ts) s = .next (match u.admitStatus c w.key h f ts with
    | some st => u.complete (s.ref w) st
    | none => (u.admitRun c w.key h ts).complete (s.ref w) stOK))
  ∧ (∀ (s : State) (w : WinRef) (i : Nat), let u := s.take w.key
  s.Runs w 0x02 → u.findRequest (s.frontCmd w.key).arg0 = some i → winFn w.key = 0 → (u.recordAt i).state = .active →
  Machine.exec (.cancel w) s = .next ((u.endRequest i stPARTIAL true).complete (s.ref w) stOK))
  ∧ (∀ (s : State) (w : WinRef), s.Runs w 0x02 → (s.take w.key).findRequest (s.frontCmd w.key).arg0 = none →
  Machine.exec (.cancel w) s = .next ((s.take w.key).complete (s.ref w) stLATE))
  ∧ (∀ (s : State) (w : WinRef), let u := s.take w.key
  let n := (s.frontCmd w.key).arg0.toNat
  s.Runs w 0x05 → n < u.herdSize → (u.entry n).state = .offloaded → (u.entry n).lowerPeers ≠ [] → (u.entry n).restoring = false → u.role.generates = true →
  Machine.exec (.restore w) s = .next ((u.setEntry n { u.entry n with restoring := true }).complete (s.ref w) stOK))
  ∧ (∀ (s : State) (w : WinRef), s.Runs w 0x05 → (s.take w.key).role.generates = false →
  Machine.exec (.restore w) s = .next ((s.take w.key).complete (s.ref w) stSTALE_MAP))
  ∧ (∀ (s : State) (w : WinRef) (bs : List Byte), let u := s.take w.key
  let m := PoolMap.parse (bs.take (s.frontCmd w.key).arg1.toNat)
  s.Runs w 0x08 → m.formed (s.frontCmd w.key).arg1.toNat = true → u.handoff.mapped = false →
  Machine.exec (.mapInstall w bs) s = .next ((u.installMap m).complete (s.ref w) stOK))
  ∧ (∀ (s : State) (w : WinRef) (bs : List Byte), let u := s.take w.key
  let m := PoolMap.parse (bs.take (s.frontCmd w.key).arg1.toNat)
  s.Runs w 0x08 → m.formed (s.frontCmd w.key).arg1.toNat = true → u.handoff.mapped = true → epochDiff m.epoch u.handoff.epoch ≤ 0 →
  Machine.exec (.mapInstall w bs) s = .next (u.complete (s.ref w) stSTALE_MAP))

/-- PREEMPT and RESUME become Herd orders and TREE_ATTACH an order of its tree, placed for the next step boundary; STEP_SUBMIT
waits for the boundary and ends the wait for the host's list; DECIDE of a slot no longer waiting is counted and completes
LATE, and one that waits takes the answer and completes OK; DECISION_TIMEOUT of an awaited decision slot, of the host's work
list, of a connection window or of a staged block takes the late-decision actions of R30. -/
def Obligations.OrderAndDecisionCommands : Prop :=
  (∀ (s : State) (w : WinRef), Machine.exec (.preempt w) s = .next (s.herdOrder w 0x03 .preempt) ∧ Machine.exec (.resume w) s = .next (s.herdOrder w 0x04 .resume))
  ∧ (∀ (s : State) (w : WinRef), s.Runs w 0x15 → Machine.exec (.treeAttach w) s =
  .next ((s.take w.key).placeOrder { kind := .attach, cmd := s.ref w, value := (s.frontCmd w.key).arg0, handle := (s.frontCmd w.key).arg1 }))
  ∧ (∀ (s : State) (w : WinRef), let u := s.take w.key
  s.Runs w 0x06 → Machine.exec (.stepSubmit w) s = .next (State.decided { u with herd := { u.herd with waitHost := false, submits := u.herd.submits ++ [((s.ref w).1, (s.ref w).2, (s.frontCmd w.key).arg0.toNat, (s.frontCmd w.key).arg1.toNat)] } } 0))
  ∧ (∀ (s : State) (w : WinRef), let u := s.take w.key
  s.Runs w 0x07 → (s.frontCmd w.key).arg1.toNat < 2 ^ 32 → u.waitingAt ((s.frontCmd w.key).arg1.truncate 32) = none →
  Machine.exec (.decideCmd w) s = .next ((u.count Reg.FAULT_LATE_DECISIONS 1).complete (s.ref w) stLATE))
  ∧ (∀ (s : State) (w : WinRef) (n a : Nat) (t : State), let u := s.take w.key
  s.Runs w 0x07 → (s.frontCmd w.key).arg1.toNat < 2 ^ 32 → u.waitingAt ((s.frontCmd w.key).arg1.truncate 32) = some n → (u.slot n).awaits = .decision →
  (u.slot n).fn.val = (s.frontCmd w.key).arg0.toNat % 16 → u.answerAt (u.slot n) (s.frontCmd w.key).arg2.toNat = some a → (u.endSlot n).answer (u.slot n) a = .ok t →
  Machine.exec (.decideCmd w) s = .next ((t.decided (u.slot n).fn.val).complete (s.ref w) stOK))
  ∧ (∀ (s : State) (n : Fin 65536), s.alive = true → (s.slot n.val).state = .waiting → (s.slot n.val).awaits = .decision →
  Machine.exec (.decisionTimeout (.slot n)) s = .next (s.decisionLate (s.slot n.val).fn.val ((s.slotRef n.val).zeroExtend 64)))
  ∧ (∀ s : State, s.alive = true → (s.herd.waitHost = true → Machine.exec (.decisionTimeout .workList) s = .next (s.drawn.decisionLate 0 s.freeNow))
  ∧ (∀ n : Fin 8192, s.windowWaits (s.netConn n.val) = true → Machine.exec (.decisionTimeout (.window n)) s = .next (s.drawn.decisionLate 6 s.freeNow))
  ∧ (s.fw.session.isSome = true → s.fnMode 9 = .hostAssist → Machine.exec (.decisionTimeout .block) s = .next (s.drawn.decisionLate 9 s.freeNow)))

/-- A command that passes the checks of R469 has its opcode's effect: WINDOW_OPEN opens a Strait or an RDMA window for a
function that may; WINDOW_REVOKE revokes an open one; CONNECT takes the lowest free connection (log entry 36), a STANDARD one
READY at once and a MULTIPATH one after its hello; CLOSE closes; ROUTE_SET flushes and sets the entry. -/
def Obligations.WindowPlanAndConnectionCommands : Prop :=
  (∀ (s : State) (w : WinRef), let u := s.take w.key
  let x := (s.frontCmd w.key).winArgs
  s.Runs w 0x09 → x.formed = true → u.mayOpen w.key (s.frontCmd w.key) x = true →
  Machine.exec (.windowOpen w) s = .next (if x.rdma then u.openRdma (s.ref w) x else u.openStrait (s.ref w) x))
  ∧ (∀ (s : State) (w : WinRef), let u := s.take w.key
  let i := (s.frontCmd w.key).arg1.toNat % 65536
  s.Runs w 0x0A → (s.frontCmd w.key).arg0.getLsbD 0 = false → i < 256 → (u.strait.windows.get i).state = .opened → winFn w.key = 0 →
  Machine.exec (.windowRevoke w) s = .next (u.revokeStrait i (some (s.ref w))))
  ∧ (∀ (s : State) (w : WinRef), let u := s.take w.key
  let i := (s.frontCmd w.key).arg1.toNat % 65536
  s.Runs w 0x0A → (s.frontCmd w.key).arg0.getLsbD 0 = true → i < 4096 → (u.rdmaWin i).state = .opened → winFn w.key = 0 →
  Machine.exec (.windowRevoke w) s = .next (u.revokeRdma i (some (s.ref w))))
  ∧ (∀ (s : State) (w : WinRef) (a : ConnAttr) (n : Nat), let u := s.take w.key
  s.Runs w 0x0B → a.formed = true → (a.ownAgents && u.agentsHave a) = false → u.net.conns.first (fun x => decide (x.state = .free)) 8192 = some n →
  a.multipath = false → ∃ conn : Conn, Machine.exec (.connect w a true) s = .next ((u.setNetConn n conn).complete (s.ref w) stOK (BitVec.ofNat 64 n))
    ∧ conn.state = .ready ∧ conn.attr = { a with paths := 1, tenant := (s.frontCmd w.key).tenantId } ∧ conn.creator = w.key)
  ∧ (∀ (s : State) (w : WinRef) (a : ConnAttr) (n : Nat), let u := s.take w.key
  s.Runs w 0x0B → a.formed = true → (a.ownAgents && u.agentsHave a) = false → u.net.conns.first (fun x => decide (x.state = .free)) 8192 = some n →
  a.multipath = true → ∃ conn : Conn, Machine.exec (.connect w a true) s = .next ((u.setNetConn n conn).netOut (.hello n))
    ∧ conn.state = .connecting ∧ conn.attr = { a with paths := u.rdN Reg.NET_PATHS, tenant := (s.frontCmd w.key).tenantId } ∧ conn.connectCmd = some (s.ref w))
  ∧ (∀ (s : State) (w : WinRef), s.Runs w 0x0C → (s.frontCmd w.key).arg0.toNat < 8192 →
  Machine.exec (.close w) s = .next ((s.take w.key).closeConn (s.frontCmd w.key).arg0.toNat (some (s.ref w))))
  ∧ (∀ (s : State) (w : WinRef) (r : Route), let i := (s.frontCmd w.key).arg0.toNat
  let u := (s.take w.key).flushRoute i
  s.Runs w 0x0D → i < 1024 → r.conn < 8192 →
  Machine.exec (.routeSet w r true) s = .next (State.complete { u with strait := { u.strait with routes := u.strait.routes.set i r } } (s.ref w) stOK))

/-- PLAN_LOAD of an image with no fault loads its regions and its plan and completes OK; PLAN_UNLOAD marks the plan and
settles it; REGION_LOAD writes the region's content and completes OK; MOVE enters the function's queue of descriptors. -/
def Obligations.PlanRegionAndMoveCommands : Prop :=
  (∀ (s : State) (w : WinRef) (p : PlanImage), let u := s.take w.key
  let c := s.frontCmd w.key
  let m := c.arg2.toNat
  let map := PlaceMap.parse p.mapBytes p.image
  s.Runs w 0x0E → m < 64 → u.planFault p m c.arg1.toNat = none → ∃ t : State, Machine.exec (.planLoad w p) s = .next (t.complete (s.ref w) stOK)
    ∧ t = { u.loadRegions map with tier := { (u.loadRegions map).tier with plans := (u.loadRegions map).tier.plans.set m { p.plan with
      loaded := true, loading := false, status := stOK, check := map.check, partition := map.partition, unload := none } } })
  ∧ (∀ (s : State) (w : WinRef), let u := s.take w.key
  let m := (s.frontCmd w.key).arg2.toNat
  s.Runs w 0x0F → m < 64 → (u.tier.plans.get m).loaded = true → (u.tier.plans.get m).unload = none →
  Machine.exec (.planUnload w) s = .next (State.settleUnload { u with tier := { u.tier with plans := u.tier.plans.set m { u.tier.plans.get m with unload := some (s.ref w) } } } m))
  ∧ (∀ (s : State) (w : WinRef) (b : List Byte) (r : Region), let u := s.take w.key
  let c := s.frontCmd w.key
  s.Runs w 0x10 → (u.regionList.find? fun r => (decide (r.kind = 1) || decide (r.kind = 3)) && decide (c.arg2.toNat < 64)
        && r.model == some (c.arg2.truncate 6) && decide (r.id.toNat = c.arg3.toNat)) = some r → u.sec.keyUnusable = 0 →
  Machine.exec (.regionLoad w b) s = .next ((u.write r.start (b.take r.size)).complete (s.ref w) stOK))
  ∧ (∀ (s : State) (w : WinRef) (d : IbexDesc), s.Runs w 0x14 → winFn w.key = 0 →
  Machine.exec (.move w d) s = .next ((s.take w.key).enqueue (192 + winPort w.key) { d with cmd := some (s.ref w), fn := some 0, account := 1024 }))

/-- A deadline that passes ends its active request TIMEOUT; a token of an unknown request counts late and one of a known
request is taken by its anchor; held tokens are written; an entry preempted too long fails with NO_PAGES; an idle device
passes its boundary. -/
def Obligations.AnchorAndBoundaryCommands : Prop :=
  (∀ (s : State) (i : Fin 65536), s.alive = true → (s.recordAt i.val).state = .active → (s.recordAt i.val).deadline ≠ 0 →
  Machine.exec (.deadlineExpiry i) s = .next (s.endRequest i.val stTIMEOUT))
  ∧ (∀ (s : State) (q : U64) (k : Nat) (x : U32), s.findRequest q = none → Machine.exec (.tokenArrival q k x) s =
  .next { s with anchor := { s.anchor with late := satAdd 32 s.anchor.late 1 } })
  ∧ (∀ (s : State) (q : U64) (k i : Nat) (x : U32), s.findRequest q = some i → Machine.exec (.tokenArrival q k x) s = .next (s.tokenIn i k x))
  ∧ (∀ (s : State) (i : Fin 65536), (s.recordAt i.val).state = .active → Machine.exec (.tokenHoldExpiry i) s = .next (s.flushTokens i.val))
  ∧ (∀ (s : State) (n : Fin 65536), s.alive = true → (s.entry n.val).state = .preempted →
  Machine.exec (.preemptMaxExpiry n) s = .next (s.failQuiet n.val stNO_PAGES))
  ∧ (∀ s : State, s.atBoundary = true → Machine.exec .idleBoundary s = .next s.boundary)

/-- A scrub read corrects one wrong symbol of the code and counts it, and poisons what two leave uncorrectable, whether or not
a region holds the unit; a quarantined page that passes its test is FREE and one that fails is retired; the audit samples,
records a mismatch that lasts with 0x0023 and recounts; the recount ends the hold; the region select takes its snapshot. -/
def Obligations.ScrubAuditAndRegionCommands : Prop :=
  (∀ (s : State) (x b r : Nat) (f : List (Nat × BitVec 4)), wrongSymbols f = 0 → Machine.exec (.patrolScrubRead (.tile x) f b r) s = .next s)
  ∧ (∀ (s : State) (x b r : Nat) (f : List (Nat × BitVec 4)), s.pins.resetN = true → addrFormed (poisonUnit x) = true → addrSpace (poisonUnit x) = 1 → wrongSymbols f = 1 →
  Machine.exec (.patrolScrubRead (.tile x) f b r) s = .next (s.count Reg.TIER_CE_TOTAL 1))
  ∧ (∀ (s : State) (l : Fin 640) (unit a b r : Nat) (f : List (Nat × BitVec 4)), s.pins.resetN = true → unit < 11718750 → s.addrOfChannel l.val (64 * unit) = some a →
  (wrongSymbols f = 1 → Machine.exec (.patrolScrubRead (.hbm l unit) f b r) s = .next (s.corrected l.val b r))
  ∧ (wrongSymbols f = 2 → Machine.exec (.patrolScrubRead (.hbm l unit) f b r) s = .next (s.uncorrectableAt a b r)))
  ∧ (∀ (s : State) (l : Fin 640) (unit b r : Nat) (f : List (Nat × BitVec 4)), s.pins.resetN = true → unit < 11718750 → s.addrOfChannel l.val (64 * unit) = none → wrongSymbols f = 2 →
  Machine.exec (.patrolScrubRead (.hbm l unit) f b r) s = .next (s.uncorrectableUnit l.val unit b r))
  ∧ (∀ (s : State) (p : U32) (f : List (Nat × Nat)), s.testable p.toNat = true → let u := s.write (s.pageAddr p.toNat) testPattern
  Machine.exec (.quarantineTest p [] []) s = .next (u.setPage p.toNat { u.page p.toNat with state := .free, qcause := 0, changed := u.now })
  ∧ (f ≠ [] → Machine.exec (.quarantineTest p [] f) s = .next (u.retirePage p.toNat f)))
  ∧ (∀ s : State, s.auditOn = true → Machine.exec .poolAuditSample s = .next { s with tier := { s.tier with suspect := s.poolOff } })
  ∧ (∀ s : State, s.auditOn = true → s.tier.suspect = true → s.poolOff = false →
  Machine.exec .poolAuditResample s = .next { s with tier := { s.tier with suspect := false } })
  ∧ (∀ s : State, s.auditOn = true → s.tier.suspect = true → s.poolOff = true → s.tier.recounting = false → ∃ u : State,
  Machine.exec .poolAuditResample s = .next (u.raise { severity := .deferred, block := 0x008, cause := 0x0023, detail0 := BitVec.ofNat 64 (s.tier.free + s.tier.alloc + s.tier.inFlight + s.tier.quar), detail1 := BitVec.ofNat 64 s.tier.total }).startRecount
  ∧ s.RegsKept u [Reg.TIER_POOL_AUDIT, Reg.FAULT_AUDIT] ∧ s.ChangesOnly u [.regs])
  ∧ (∀ s : State, s.tier.recounting = false → Machine.exec .recount s = .next s.startRecount)
  ∧ (∀ s : State, s.tier.recounting = true →
  Machine.exec (.recountDone none) s = .next (State.serveAll { s.recounted with tier := { s.recounted.tier with recounting := false, held := false } }))
  ∧ (∀ (s : State) (v : U32), s.Inv → ∃ t, Machine.exec (.tierRegionSelWrite v) s = .next t ∧ t.rd Reg.TIER_REGION_SEL = BitVec.ofNat 32 (v.toNat % 1024)
  ∧ t.tier = { s.tier with regionSnap := s.tier.regions.get (v.toNat % 1024) } ∧ s.RegsKept t [Reg.TIER_REGION_SEL] ∧ s.ChangesOnly t [.regs, .tier])

/-- On a live device with an ID, a message of kind QUERY, PARTIAL, ADMIT, PROMPT_TOKENS, REDIRECT, REGISTER, END and RELEASED
that passes the checks of R234 and R235 and is of the device's epoch is recorded in the trace and completes as its kind says:
a QUERY is answered with a PARTIAL, a PARTIAL joins its reduction, ADMIT and PROMPT_TOKENS admit an entry and its prompt, and
the anchor takes REDIRECT, REGISTER and RELEASED, an entry END. Each of the commands ADMIT_MESSAGE has a clause whose
conclusion is the next state it answers. -/
def Obligations.MessagesOfThisEpoch : Prop :=
  (∀ (s : State) (m : Msg), s.unassigned = false → s.alive = true → s.msgOk { m with kind := mQUERY } = true → epochDiff m.mapEpoch s.handoff.epoch = 0 →
    Machine.exec (.query m) s = .next ((s.msgTrace 1 { m with kind := mQUERY }).onQuery { m with kind := mQUERY }))
  ∧ (∀ (s : State) (m : Msg), s.unassigned = false → s.alive = true → s.msgOk { m with kind := mPARTIAL } = true → epochDiff m.mapEpoch s.handoff.epoch = 0 →
    Machine.exec (.partialMsg m) s = .next ((s.msgTrace 1 { m with kind := mPARTIAL }).onPartial { m with kind := mPARTIAL }))
  ∧ (∀ (s : State) (m : Msg), s.unassigned = false → s.alive = true → s.msgOk { m with kind := mADMIT } = true → epochDiff m.mapEpoch s.handoff.epoch = 0 →
    Machine.exec (.admitMessage m) s = .next ((s.msgTrace 1 { m with kind := mADMIT }).onAdmit { m with kind := mADMIT }))
  ∧ (∀ (s : State) (m : Msg), s.unassigned = false → s.alive = true → s.msgOk { m with kind := mPROMPT_TOKENS } = true → epochDiff m.mapEpoch s.handoff.epoch = 0 →
    Machine.exec (.promptTokens m) s = .next ((s.msgTrace 1 { m with kind := mPROMPT_TOKENS }).onPromptTokens { m with kind := mPROMPT_TOKENS }))
  ∧ (∀ (s : State) (m : Msg), s.unassigned = false → s.alive = true → s.msgOk { m with kind := mREDIRECT } = true → epochDiff m.mapEpoch s.handoff.epoch = 0 →
    Machine.exec (.redirect m) s = .next ((s.msgTrace 1 { m with kind := mREDIRECT }).anchorRedirect { m with kind := mREDIRECT }))
  ∧ (∀ (s : State) (m : Msg), s.unassigned = false → s.alive = true → s.msgOk { m with kind := mREGISTER } = true → epochDiff m.mapEpoch s.handoff.epoch = 0 →
    Machine.exec (.register m) s = .next ((s.msgTrace 1 { m with kind := mREGISTER }).anchorRegister { m with kind := mREGISTER }))
  ∧ (∀ (s : State) (m : Msg), s.unassigned = false → s.alive = true → s.msgOk { m with kind := mEND } = true → epochDiff m.mapEpoch s.handoff.epoch = 0 →
    Machine.exec (.endMsg m) s = .next ((s.msgTrace 1 { m with kind := mEND }).onEnd { m with kind := mEND }))
  ∧ (∀ (s : State) (m : Msg), s.unassigned = false → s.alive = true → s.msgOk { m with kind := mRELEASED } = true → epochDiff m.mapEpoch s.handoff.epoch = 0 →
    Machine.exec (.released m) s = .next ((s.msgTrace 1 { m with kind := mRELEASED }).anchorReleased { m with kind := mRELEASED }))

/-- On a live device with an ID, a message of kind OPEN, CREDIT_REQ, GRANT, REFS, SENT, COMMIT and REPLY that passes the
checks of R234 and R235 and is of the device's epoch is recorded in the trace and completes as its kind says: OPEN opens a
transfer at its receiver, CREDIT_REQ asks for pages, GRANT and REFS carry them, SENT and COMMIT end it, and a REPLY completes
the slot that awaits it. -/
def Obligations.TransferMessagesOfThisEpoch : Prop :=
  (∀ (s : State) (m : Msg), s.unassigned = false → s.alive = true → s.msgOk { m with kind := mOPEN } = true → epochDiff m.mapEpoch s.handoff.epoch = 0 →
    Machine.exec (.openMsg m) s = .next ((s.msgTrace 1 { m with kind := mOPEN }).onOpen { m with kind := mOPEN }))
  ∧ (∀ (s : State) (m : Msg), s.unassigned = false → s.alive = true → s.msgOk { m with kind := mCREDIT_REQ } = true → epochDiff m.mapEpoch s.handoff.epoch = 0 →
    Machine.exec (.creditReq m) s = .next ((s.msgTrace 1 { m with kind := mCREDIT_REQ }).onCreditReq { m with kind := mCREDIT_REQ }))
  ∧ (∀ (s : State) (m : Msg), s.unassigned = false → s.alive = true → s.msgOk { m with kind := mGRANT } = true → epochDiff m.mapEpoch s.handoff.epoch = 0 →
    Machine.exec (.grant m) s = .next ((s.msgTrace 1 { m with kind := mGRANT }).onGrant { m with kind := mGRANT }))
  ∧ (∀ (s : State) (m : Msg), s.unassigned = false → s.alive = true → s.msgOk { m with kind := mREFS } = true → epochDiff m.mapEpoch s.handoff.epoch = 0 →
    Machine.exec (.refs m) s = .next ((s.msgTrace 1 { m with kind := mREFS }).onRefs { m with kind := mREFS }))
  ∧ (∀ (s : State) (m : Msg), s.unassigned = false → s.alive = true → s.msgOk { m with kind := mSENT } = true → epochDiff m.mapEpoch s.handoff.epoch = 0 →
    Machine.exec (.sent m) s = .next ((s.msgTrace 1 { m with kind := mSENT }).onSent { m with kind := mSENT }))
  ∧ (∀ (s : State) (m : Msg), s.unassigned = false → s.alive = true → s.msgOk { m with kind := mCOMMIT } = true → epochDiff m.mapEpoch s.handoff.epoch = 0 →
    Machine.exec (.commit m) s = .next ((s.msgTrace 1 { m with kind := mCOMMIT }).onCommit { m with kind := mCOMMIT }))
  ∧ (∀ (s : State) (m : Msg), s.unassigned = false → s.alive = true → s.msgOk { m with kind := mREPLY } = true → epochDiff m.mapEpoch s.handoff.epoch = 0 →
    Machine.exec (.reply m) s = .next ((s.msgTrace 1 { m with kind := mREPLY }).onAnyReply { m with kind := mREPLY }))

/-- On a live device with an ID, a message of kind ABORT, KEEPALIVE, RESTORE_REQ, REPLICA_REQ and COVERED that passes the
checks of R234 and R235 and is of the device's epoch is recorded in the trace and completes as its kind says: ABORT ends a
transfer, a KEEPALIVE is only recorded, RESTORE_REQ and REPLICA_REQ start transfers, and COVERED tells the anchor of a
replica. -/
def Obligations.OtherMessagesOfThisEpoch : Prop :=
  (∀ (s : State) (m : Msg), s.unassigned = false → s.alive = true → s.msgOk { m with kind := mABORT } = true → epochDiff m.mapEpoch s.handoff.epoch = 0 →
    Machine.exec (.abort m) s = .next ((s.msgTrace 1 { m with kind := mABORT }).onAbort { m with kind := mABORT }))
  ∧ (∀ (s : State) (m : Msg), s.unassigned = false → s.alive = true → s.msgOk { m with kind := mKEEPALIVE } = true → epochDiff m.mapEpoch s.handoff.epoch = 0 →
    Machine.exec (.keepalive m) s = .next (s.msgTrace 1 { m with kind := mKEEPALIVE }))
  ∧ (∀ (s : State) (m : Msg), s.unassigned = false → s.alive = true → s.msgOk { m with kind := mRESTORE_REQ } = true → epochDiff m.mapEpoch s.handoff.epoch = 0 →
    Machine.exec (.restoreReq m) s = .next ((s.msgTrace 1 { m with kind := mRESTORE_REQ }).onRestoreReq { m with kind := mRESTORE_REQ }))
  ∧ (∀ (s : State) (m : Msg), s.unassigned = false → s.alive = true → s.msgOk { m with kind := mREPLICA_REQ } = true → epochDiff m.mapEpoch s.handoff.epoch = 0 →
    Machine.exec (.replicaReq m) s = .next ((s.msgTrace 1 { m with kind := mREPLICA_REQ }).onReplicaReq { m with kind := mREPLICA_REQ }))
  ∧ (∀ (s : State) (m : Msg), s.unassigned = false → s.alive = true → s.msgOk { m with kind := mCOVERED } = true → epochDiff m.mapEpoch s.handoff.epoch = 0 →
    Machine.exec (.covered m) s = .next ((s.msgTrace 1 { m with kind := mCOVERED }).anchorCovered { m with kind := mCOVERED }))

/-- For each of the twenty kinds: a well-formed message of a newer epoch is put behind the held ones (R265); one that fails
the checks is refused as malformed, a REPLY or PARTIAL only counted (R234); a device with no ID, or not alive, takes none
(R558). Each of the commands QUERY, ADMIT_MESSAGE, PROMPT_TOKENS, OPEN, CREDIT_REQ, GRANT, REFS, SENT, COMMIT, ABORT,
KEEPALIVE, REGISTER, REDIRECT, END, RELEASED, RESTORE_REQ, REPLICA_REQ, COVERED has a clause whose conclusion is the next
state it answers. -/
def Obligations.MessagesOfOtherEpochsAndMalformedOnes : Prop :=
  (∀ (s : State) (m : Msg), s.unassigned = false → s.alive = true → 0 < epochDiff m.mapEpoch s.handoff.epoch → ∀ x ∈ ([(.query, mQUERY), (.partialMsg, mPARTIAL), (.admitMessage, mADMIT), (.promptTokens, mPROMPT_TOKENS), (.openMsg, mOPEN), (.creditReq, mCREDIT_REQ), (.grant, mGRANT),
    (.refs, mREFS), (.sent, mSENT), (.commit, mCOMMIT), (.reply, mREPLY), (.abort, mABORT), (.keepalive, mKEEPALIVE), (.register, mREGISTER),
    (.redirect, mREDIRECT), (.endMsg, mEND), (.released, mRELEASED), (.restoreReq, mRESTORE_REQ), (.replicaReq, mREPLICA_REQ), (.covered, mCOVERED)] : List ((Msg → Instr) × Nat)),
    s.msgOk { m with kind := x.2 } = true → Machine.exec (x.1 m) s = .next { s with handoff := { s.handoff with heldMsgs := s.handoff.heldMsgs ++ [{ m with kind := x.2 }] } })
  ∧ (∀ (s : State) (m : Msg), s.unassigned = false → s.alive = true → ∀ x ∈ ([(.query, mQUERY), (.admitMessage, mADMIT), (.promptTokens, mPROMPT_TOKENS), (.openMsg, mOPEN), (.creditReq, mCREDIT_REQ), (.grant, mGRANT),
    (.refs, mREFS), (.sent, mSENT), (.commit, mCOMMIT), (.abort, mABORT), (.keepalive, mKEEPALIVE), (.register, mREGISTER),
    (.redirect, mREDIRECT), (.endMsg, mEND), (.released, mRELEASED), (.restoreReq, mRESTORE_REQ), (.replicaReq, mREPLICA_REQ), (.covered, mCOVERED)] : List ((Msg → Instr) × Nat)),
    s.msgOk { m with kind := x.2 } = false → Machine.exec (x.1 m) s = .next (s.malformedMsg { m with kind := x.2 }))
  ∧ (∀ (s : State) (m : Msg), s.unassigned = false → s.alive = true → ∀ x ∈ ([(.partialMsg, mPARTIAL), (.reply, mREPLY)] : List ((Msg → Instr) × Nat)),
    s.msgOk { m with kind := x.2 } = false → Machine.exec (x.1 m) s = .next (s.setFlag Reg.HANDOFF_STATUS 3 true))
  ∧ (∀ (s : State) (m : Msg), s.unassigned = true ∨ s.alive = false → ∀ x ∈ ([(.query, mQUERY), (.partialMsg, mPARTIAL), (.admitMessage, mADMIT), (.promptTokens, mPROMPT_TOKENS), (.openMsg, mOPEN), (.creditReq, mCREDIT_REQ), (.grant, mGRANT),
    (.refs, mREFS), (.sent, mSENT), (.commit, mCOMMIT), (.reply, mREPLY), (.abort, mABORT), (.keepalive, mKEEPALIVE), (.register, mREGISTER),
    (.redirect, mREDIRECT), (.endMsg, mEND), (.released, mRELEASED), (.restoreReq, mRESTORE_REQ), (.replicaReq, mREPLICA_REQ), (.covered, mCOVERED)] : List ((Msg → Instr) × Nat)), Machine.exec (x.1 m) s = .next s)

/-- At a boundary with a build the control path works first and then the machine, or the host's list, makes the step; RUN,
PAUSE and the single step are the bits of HERD_STEP_CTRL and the order for one step; CLEAR_MAX clears the maximum; a snapshot
of an entry is taken where it is selected, and a slot beyond the table sets CFG_ERR; a peer's weight is set and pinned at
EXPERT level, and otherwise the write sets CFG_ERR. -/
def Obligations.StepCommands : Prop :=
  (∀ (s : State) (n : Nat) (g : List SampleSupply), s.atBoundary = true → (s.boundary.supplyAll g).mayBuild = true → (s.boundary.supplyAll g).fnMode 0 ≠ .hostAssist →
  Machine.exec (.stepBoundary n g) s = .next ((s.boundary.supplyAll g).build n))
  ∧ (∀ (s : State) (n : Nat) (g : List SampleSupply), s.atBoundary = true → (s.boundary.supplyAll g).mayBuild = true → (s.boundary.supplyAll g).fnMode 0 = .hostAssist →
  Machine.exec (.stepBoundary n g) s = .next (s.boundary.supplyAll g).assistedBuild)
  ∧ (∀ (s : State) (n : Nat) (g : List SampleSupply), s.atBoundary = true → (s.boundary.supplyAll g).mayBuild = false →
  Machine.exec (.stepBoundary n g) s = .next (s.boundary.supplyAll g))
  ∧ (∀ (s : State) (b : Bool), Machine.exec (.stepRun b) s = .next (s.setFlag Reg.HERD_STEP_CTRL 0 b)
  ∧ Machine.exec (.stepPause b) s = .next (s.setFlag Reg.HERD_STEP_CTRL 1 b))
  ∧ (∀ s : State, s.flag Reg.HERD_STEP_CTRL 1 = true → Machine.exec .stepSingle s = .next { s with herd := { s.herd with single := true } })
  ∧ (∀ s : State, s.Inv → ∃ t : State, Machine.exec .clearMax s = .next t ∧ t.rd Reg.HERD_BUILD_MAX = 0 ∧ s.RegsKept t [Reg.HERD_BUILD_MAX] ∧ s.ChangesOnly t [.regs])
  ∧ (∀ (s : State) (n : Fin 65536), s.Inv → n.val < s.herdSize → ∃ t : State, Machine.exec (.herdEntrySelWrite n) s = .next t ∧ t.herd.snap = some (s.entry n.val)
  ∧ t.rd Reg.HERD_ENTRY_SEL = BitVec.ofNat 32 n.val ∧ s.RegsKept t [Reg.HERD_ENTRY_SEL] ∧ s.ChangesOnly t [.regs, .herd])
  ∧ (∀ (s : State) (n : Fin 65536), s.herdSize ≤ n.val → Machine.exec (.herdEntrySelWrite n) s = .next (s.setFlag Reg.HERD_STEP_STATUS 5 true))
  ∧ (∀ (s : State) (v : U32), let d := s.field Reg.HERD_PEER_SEL 0 16
  s.flag Reg.HERD_PROFILE 4 = true → (s.peer d).present = true ∨ s.peerCount < 512 →
  Machine.exec (.herdPeerWeightWrite v) s = .next (s.setPeer d { s.peer d with present := true, reduce := 255 - v.toNat % 256, pinned := v.getLsbD 9 }))
  ∧ (∀ (s : State) (v : U32), s.flag Reg.HERD_PROFILE 4 = false ∨ ((s.peer (s.field Reg.HERD_PEER_SEL 0 16)).present = false ∧ 512 ≤ s.peerCount) →
  Machine.exec (.herdPeerWeightWrite v) s = .next (s.setFlag Reg.HERD_STEP_STATUS 5 true))

/-- SEQUENCER_ISSUE_OP takes the next operation of a model's sequence in plan order once the operations it needs have
completed, binds it to the entries of the list and issues it by its kind, and does nothing when none is left; STEP_CLOSE
closes every entry and finishes the step once every operation has run, after it has asked an assisting host for the paths of
the step's trees. -/
def Obligations.StepOperations : Prop :=
  (∀ (s : State) (m : Fin 64) (st : Step) (op : SeqOp), let k : BitVec 6 := BitVec.ofNat 6 m.val
  let place := st.taken.get m.val
  let t : Taken := { model := k, place := place, op := op }
  let u := (s.modStep fun x => { x with taken := x.taken.set k.toNat (place + 1) }).bindAdapters t
  s.herd.step = some st → s.alive = true → (s.plan k).ops[place]? = some op → s.mayTake st t = true →
  Machine.exec (.sequencerIssueOp m) s = .next (if (u.boundTo k).isEmpty then u else match op.kind with
    | .matrix => u.issueMatrix t (u.boundTo k)
    | .project => u.issueProject t (u.boundTo k)
    | .pack => u.issuePack t (u.boundTo k)
    | .attention => u.issueAttention t st.number (u.boundTo k)
    | .sample => u.issueSample t (u.boundTo k)
    | .draft => u.issueDraft t (u.boundTo k)))
  ∧ (∀ (s : State) (m : Fin 64) (st : Step), s.herd.step = some st → (s.plan (BitVec.ofNat 6 m.val)).ops[st.taken.get m.val]? = none → Machine.exec (.sequencerIssueOp m) s = .next s)
  ∧ (∀ (s : State) (st : Step), s.herd.step = some st → s.alive = true → s.stepRan st = true → s.hostTrees st = [] →
  Machine.exec .stepClose s = .next ((st.entries.foldl (fun s e => s.closeEntry st e) s).finishStep st))
  ∧ (∀ (s : State) (st : Step), s.herd.step = some st → s.alive = true → s.stepRan st = true → s.hostTrees st ≠ [] → st.pathsAsked = false →
  Machine.exec .stepClose s = .next ((s.hostTrees st).foldl (fun s e => s.askPath st e) (s.modStep fun x => { x with pathsAsked := true })))

/-- A credit request that waited too long stalls its transfer and, at the holder, fails the attempt with NO_PAGES; a queued
request is served; KEEPALIVE goes to the peer until SENT; a silent holder ends the transfer TIMEOUT at its receiver; a message
held too long is refused NOT_READY; a 4-byte register write of an open port is the function's write, and an 8-byte one acts as
two, the lower address first. -/
def Obligations.HandoffTimerAndRegisterCommands : Prop :=
  (∀ (s : State) (id : U32), (s.transfer id.toNat).phase ≠ .closed → (s.transfer id.toNat).requests ≠ [] → (s.transfer id.toNat).kind ≠ .restore →
  let u := (s.setFlag Reg.HANDOFF_STATUS 2 true).setTransfer id.toNat { s.transfer id.toNat with stalled := true }
  Machine.exec (.creditWaitExpiry id) s = .next (if (s.transfer id.toNat).holder then u.failAttempt id.toNat stNO_PAGES else u))
  ∧ (∀ (s : State) (id : U32), s.alive = true → Machine.exec (.queuedCreditGrant id) s =
  .next (if (s.transfer id.toNat).kind = .restore then s.retryGets id.toNat else s.serveCredit id.toNat))
  ∧ (∀ (s : State) (id : U32), let t := s.transfer id.toNat
  t.holder = true → t.sent = false → t.redirecting = false → (t.phase = .opening ∨ t.phase = .sending) →
  Machine.exec (.keepaliveTimer id) s = .next (s.send { kind := mKEEPALIVE, dst := t.peer, requestId := t.requestId, handoffId := t.id }))
  ∧ (∀ (s : State) (id : U32), let t := s.transfer id.toNat
  t.phase = .granting → t.holder = false → Machine.exec (.receiverHandoffTimer id) s =
    .next ((if t.kind = .restore then s else s.sendAbort t.anchor t stTIMEOUT).closeReceiver id.toNat stTIMEOUT))
  ∧ (∀ (s : State) (i : Nat) (m : Msg), s.alive = true → s.handoff.heldMsgs[i]? = some m → Machine.exec (.heldMessageTimeout i) s =
  .next (State.refuseMsg { s with handoff := { s.handoff with heldMsgs := s.handoff.heldMsgs.eraseIdx i } } m stNOT_READY))
  ∧ (∀ (s : State) (p : Fin 2) (fn : Fin 65) (a : Nat) (v : U64) (e : WriteEnv), s.portOpen p = true → s.pins.resetN = true →
  (a % 4 = 0 → Machine.exec (.registerWrite p fn a 4 v e) s = .next (s.hostWrite e p fn a (v.truncate 32)))
  ∧ (a % 8 = 0 → Machine.exec (.registerWrite p fn a 8 v e) s =
    .next ((s.hostWrite e p fn a (v.truncate 32)).hostWrite e p fn (a + 4) (BitVec.ofNat 32 (v.toNat / 2 ^ 32)))))

/-- The operation next to begin in the Eland queue, of the command's kind, whose descriptor keeps the limits of R103 and whose
addresses are all reachable begins with the tiles of R123 waiting; a descriptor that breaks a limit completes it MALFORMED,
and one with DEP after an operation that completed MALFORMED, PRIVILEGE or FENCED takes that status. -/
def Obligations.ElandCommands : Prop :=
  (∀ (s : State) (i : Nat) (op : ElandOp), s.nextToBegin = some (i, op) → s.alive = true → op.desc.kind = 1 → op.desc.dep = false → s.allFenced = false → s.elandOk op.desc = true → s.elandReach op = none →
  Machine.exec .gemm s = .next (s.setOp i { op with begun := true, total := s.elandTiles op, waiting := List.range (s.elandTiles op), beganAt := s.now, draw := s.fresh }).drawn.elandGoesOn)
  ∧ (∀ (s : State) (i : Nat) (op : ElandOp), s.nextToBegin = some (i, op) → s.alive = true → op.desc.kind = 2 → op.desc.dep = false → s.allFenced = false → s.elandOk op.desc = true → s.elandReach op = none →
  Machine.exec .groupedGemm s = .next (s.setOp i { op with begun := true, total := s.elandTiles op, waiting := List.range (s.elandTiles op), beganAt := s.now, draw := s.fresh }).drawn.elandGoesOn)
  ∧ (∀ (s : State) (i : Nat) (op : ElandOp), s.nextToBegin = some (i, op) → s.alive = true → op.desc.kind = 3 → op.desc.dep = false → s.allFenced = false → s.elandOk op.desc = true → s.elandReach op = none →
  Machine.exec .attnFwd s = .next (s.setOp i { op with begun := true, total := s.elandTiles op, waiting := List.range (s.elandTiles op), beganAt := s.now, draw := s.fresh }).drawn.elandGoesOn)
  ∧ (∀ (s : State) (i : Nat) (op : ElandOp), s.nextToBegin = some (i, op) → s.alive = true → op.desc.kind = 4 → op.desc.dep = false → s.allFenced = false → s.elandOk op.desc = true → s.elandReach op = none →
  Machine.exec .attnTree s = .next (s.setOp i { op with begun := true, total := s.elandTiles op, waiting := List.range (s.elandTiles op), beganAt := s.now, draw := s.fresh }).drawn.elandGoesOn)
  ∧ (∀ (s : State) (i : Nat) (op : ElandOp), s.nextToBegin = some (i, op) → s.alive = true → op.desc.kind = 5 → op.desc.dep = false → s.allFenced = false → s.elandOk op.desc = true → s.elandReach op = none →
  Machine.exec .attnBwd s = .next (s.setOp i { op with begun := true, total := s.elandTiles op, waiting := List.range (s.elandTiles op), beganAt := s.now, draw := s.fresh }).drawn.elandGoesOn)
  ∧ (∀ (s : State) (i : Nat) (op : ElandOp), s.nextToBegin = some (i, op) → s.alive = true → op.desc.kind = 6 → op.desc.dep = false → s.allFenced = false → s.elandOk op.desc = true → s.elandReach op = none →
  Machine.exec .kvPack s = .next (s.setOp i { op with begun := true, total := s.elandTiles op, waiting := List.range (s.elandTiles op), beganAt := s.now, draw := s.fresh }).drawn.elandGoesOn)
  ∧ (∀ (s : State) (i : Nat) (op : ElandOp), s.nextToBegin = some (i, op) → s.alive = true → op.desc.kind = 7 → op.desc.dep = false → s.allFenced = false → s.elandOk op.desc = true → s.elandReach op = none →
  Machine.exec .distTable s = .next (s.setOp i { op with begun := true, total := s.elandTiles op, waiting := List.range (s.elandTiles op), beganAt := s.now, draw := s.fresh }).drawn.elandGoesOn)
  ∧ (∀ (s : State) (i : Nat) (op : ElandOp), s.nextToBegin = some (i, op) → s.alive = true → op.desc.kind = 8 → op.desc.dep = false → s.allFenced = false → s.elandOk op.desc = true → s.elandReach op = none →
  Machine.exec .sample s = .next (s.setOp i { op with begun := true, total := s.elandTiles op, waiting := List.range (s.elandTiles op), beganAt := s.now, draw := s.fresh }).drawn.elandGoesOn)
  ∧ (∀ (s : State) (i : Nat) (op : ElandOp), s.nextToBegin = some (i, op) → s.alive = true → op.desc.dep = false → s.allFenced = false → op.units = [] → s.elandOk op.desc = false →
  ∀ x ∈ ([(.gemm, .gemm), (.groupedGemm, .groupedGemm), (.attnFwd, .attnFwd), (.attnTree, .attnTree), (.attnBwd, .attnBwd), (.kvPack, .kvPack), (.distTable, .distTable), (.sample, .sample)] : List (Instr × ElandKind)), op.desc.kind.toNat = x.2.code → Machine.exec x.1 s = .next (s.refuseOp i op stMALFORMED).elandGoesOn)
  ∧ (∀ (s : State) (i : Nat) (op : ElandOp), s.nextToBegin = some (i, op) → s.alive = true → op.desc.dep = true → (s.eland.lastStatus = stMALFORMED ∨ s.eland.lastStatus = stPRIVILEGE ∨ s.eland.lastStatus = stFENCED) →
  ∀ x ∈ ([(.gemm, .gemm), (.groupedGemm, .groupedGemm), (.attnFwd, .attnFwd), (.attnTree, .attnTree), (.attnBwd, .attnBwd), (.kvPack, .kvPack), (.distTable, .distTable), (.sample, .sample)] : List (Instr × ElandKind)), op.desc.kind.toNat = x.2.code → Machine.exec x.1 s = .next (s.refuseOp i op s.eland.lastStatus).elandGoesOn)

/-- An operation enqueued joins the array's queue, or completes FENCED when every sub-array is fenced; a sub-array that ends
the tile it runs is charged the tile's cycles, and the tile commits when its check passes, is poisoned when an operand is, and
otherwise is replayed or moved; a write of ELAND_FENCED fences the sub-arrays named; HOLD is its bit and CLEAR_HWM zeroes the
high-water mark. -/
def Obligations.ElandTileAndControlCommands : Prop :=
  (∀ (s : State) (d : ElandDesc), s.alive = true → Machine.exec (.elandOpEnqueue d) s = .next (s.elandAdd { desc := d, source := .firmware }).elandGoesOn)
  ∧ (∀ (s : State) (d : ElandDesc), s.alive = false → s.allFenced = true → s.pins.resetN = true → Machine.exec (.elandOpEnqueue d) s = .next (State.fenceOps 1 (s.elandAdd { desc := d, source := .firmware })))
  ∧ (∀ (s : State) (quad sub : Fin 4) (run : TileRun) (r : RunTile) (i : Nat), let sa := 4 * quad.val + sub.val
  s.alive = true → s.saTile sa = some r →
  s.eland.queue.findIdx? (fun op => decide (op.id = r.op)) = some i →
  let op := s.eland.queue.getD i {}
  let p := s.tilePlace op r.tile
  let c := s.tileCycles op p
  let t := (s.count64 (Reg.ELAND_Q_BUSY_LO + 0x40000 * quad.val) c).chargeTile op p c
  Machine.exec (.outputTileDone quad sub r.tile run) s = .next (if s.tilePoison op p then t.tileDone i op r.tile sa run true
    else if s.runPasses op p run then t.tileDone i op r.tile sa run false else t.tileMismatch i op r.tile sa run))
  ∧ (∀ (s : State) (v : U32), Machine.exec (.elandFencedWrite v) s = .next (((List.range 16).filter fun k => v.getLsbD k).foldl State.fenceSa s).issueTiles)
  ∧ (∀ (s : State) (b : Bool), Machine.exec (.elandHold b) s = .next (if b = false ∧ s.alive = true then (s.setFlag Reg.ELAND_CTRL 0 b).elandGoesOn else s.setFlag Reg.ELAND_CTRL 0 b))
  ∧ (∀ s : State, s.Inv → ∃ t : State, Machine.exec .elandClearHwm s = .next t ∧ t.rd Reg.ELAND_QUEUE_HWM = 0 ∧ s.RegsKept t [Reg.ELAND_QUEUE_HWM] ∧ s.ChangesOnly t [.regs])

/-- A work unit of a reduction goes to the queue of the lane that serves its channel, with the spot check chosen there, or to
the array when no lane serves it; a lane that ends the unit at its head releases its partials, or keeps them for the check on
the next lane; a check with equal bits releases the unit, one that differs goes to arbitration, and the arbitration decides
it. -/
def Obligations.SpringbokCommands : Prop :=
  (∀ (s : State) (k head : Nat) (quad : Fin 4) (stack : Fin 5) (pc : Fin 32), let r := s.reduction k
  let lane := 32 * (5 * quad.val + stack.val) + pc.val
  let v := s.serving_ lane
  let u := s.newUnit k head lane
  let t := (s.setReduction k { r with todo := r.todo.erase (head, lane) }).drawn
  let w : State := { t with spring := { t.spring with nextUnit := t.spring.nextUnit + 1 } }
  s.alive = true → r.active = true → r.todo.contains (head, lane) = true → (s.laneActive v = true → (s.laneQueue v).length < 64) →
  Machine.exec (.laneUnitDispatch k head quad stack pc) s =
    .next (if s.laneActive v then (w.pickCheck quad.val).1.enqueueUnit v { u with checked := (w.pickCheck quad.val).2 } else w.elandUnits [u]))
  ∧ (∀ (s : State) (lane : Fin 640) (x : Option UnitResult) (u : LaneUnit) (q : List LaneUnit), let out := x.getD (s.unitRows u)
  let t := ((s.setLaneQueue lane.val q).startUnit lane.val).runUnit u lane.val
  s.laneQueue lane.val = u :: q → s.alive = true → (u.checked = false ∨ t.nextLane lane.val = none) →
  Machine.exec (.laneUnitDone lane x) s = .next (t.release u out.rows))
  ∧ (∀ (s : State) (lane : Fin 640) (x : Option UnitResult) (u : LaneUnit) (q : List LaneUnit) (b : Nat), let out := x.getD (s.unitRows u)
  let t := ((s.setLaneQueue lane.val q).startUnit lane.val).runUnit u lane.val
  let y : LaneUnit := { u with phase := .checking, primary := out, mainLane := lane.val, checkLane := b }
  s.laneQueue lane.val = u :: q → s.alive = true → u.checked = true → t.nextLane lane.val = some b →
  Machine.exec (.laneUnitDone lane x) s = .next { t.count Reg.SPRING_CHECKED 1 with spring := { t.spring with checks := t.spring.checks ++ [y] } })
  ∧ (∀ (s : State) (n : Nat) (x : Option UnitResult) (u : LaneUnit), let out := x.getD (s.unitRows u)
  let t : State := { s with spring := { s.spring with checks := s.spring.checks.filter fun y => !(y.id == n) } }
  s.spring.checks.find? (·.id == n) = some u → s.alive = true → u.phase = .checking →
  Machine.exec (.spotCheckResult n x) s = .next (if out = u.primary then (t.runUnit u u.checkLane).release u u.primary.rows else (t.runUnit u u.checkLane).checkDiffers u out))
  ∧ (∀ (s : State) (n : Nat) (x : Option UnitResult) (u : LaneUnit), let out := x.getD (s.unitRows u)
  let t : State := { s with spring := { s.spring with checks := s.spring.checks.filter fun y => !(y.id == n) } }
  s.spring.checks.find? (·.id == n) = some u → s.alive = true → u.phase = .arbitration →
  Machine.exec (.spotCheckResult n x) s = .next ((t.runUnit u u.arbLane).arbitrate u out))

/-- A home reducer that has every awaited partial writes the merged rows, or answers the query that asked for them, counts
them, and ends the layer's barrier with its last reduction; a write of SPRING_FENCED fences the lanes named; CLEAR_COUNTS
zeroes the counters. -/
def Obligations.ReducerAndLaneControlCommands : Prop :=
  (∀ (s : State) (home : Fin 4) (k : Nat), let r := s.reduction k
  let t := (s.setReduction k {}).count64 (Reg.SPRING_Q_MERGED_LO + 0x10 * home.val) r.parts.length
  let u := ((if r.merged.any fun x => x.2.poisoned then (t.writeMerged r).poisonWork r.slot else t.writeMerged r)).opDone r.seq
  s.alive = true → r.complete = true → r.slot % 4 = home.val → r.asker = none → Machine.exec (.reducerMergeComplete home k) s =
    .next (if u.spring.reductions.any fun x => x.2.active && x.2.asker.isNone && decide (x.2.layer = r.layer) then u else u.endBarrier r.layer))
  ∧ (∀ (s : State) (home : Fin 4) (k : Nat) (a : U16 × U32 × U64 × Nat), let r := s.reduction k
  s.alive = true → r.complete = true → r.slot % 4 = home.val → r.asker = some a → Machine.exec (.reducerMergeComplete home k) s =
    .next (((s.setReduction k {}).count64 (Reg.SPRING_Q_MERGED_LO + 0x10 * home.val) r.parts.length).answerQuery r a))
  ∧ (∀ (s : State) (k : Fin 20) (v : U32), Machine.exec (.springFencedWrite k v) s =
  .next (((List.range 32).filter fun j => v.getLsbD j).foldl (fun s j => s.fenceLane (32 * k.val + j)) s))
  ∧ (∀ s : State, s.Inv → ∃ t : State, Machine.exec .springClearCounts s = .next t ∧ t.rd Reg.SPRING_CHECKED = 0 ∧ t.rd Reg.SPRING_MISMATCH = 0 ∧ t.rd Reg.SPRING_POISON_UNITS = 0
  ∧ t.rd Reg.SPRING_LATE = 0 ∧ s.RegsKept t [Reg.SPRING_CHECKED, Reg.SPRING_MISMATCH, Reg.SPRING_POISON_UNITS, Reg.SPRING_LATE] ∧ s.ChangesOnly t [.regs])

/-- A descriptor of the command's operation at the front of a queue that can be accepted takes a mover and a completion slot
and, when its fields are well-formed, does its operation, whose first result is put into the slot; one whose fields are not
fails MALFORMED. -/
def Obligations.IbexCommands : Prop :=
  (∀ (s t : State) (q : Fin 256) (d : IbexDesc) (n : Nat), s.Accepts q.val d n t → d.op.toNat = 1 → d.formed = true → Machine.exec (.copy q) s = .next (State.started n (State.copyRun n t)))
  ∧ (∀ (s t : State) (q : Fin 256) (d : IbexDesc) (n : Nat), s.Accepts q.val d n t → d.op.toNat = 2 → d.formed = true → Machine.exec (.gather q) s = .next (State.started n (State.gatherRun n t)))
  ∧ (∀ (s t : State) (q : Fin 256) (d : IbexDesc) (n : Nat), s.Accepts q.val d n t → d.op.toNat = 3 → d.formed = true → Machine.exec (.scatter q) s = .next (State.started n (State.scatterRun n t)))
  ∧ (∀ (s t : State) (q : Fin 256) (d : IbexDesc) (n : Nat), s.Accepts q.val d n t → d.op.toNat = 4 → d.formed = true → Machine.exec (.pack q) s = .next (State.started n (State.packRun n t)))
  ∧ (∀ (s t : State) (q : Fin 256) (d : IbexDesc) (n : Nat), s.Accepts q.val d n t → d.op.toNat = 5 → d.formed = true → Machine.exec (.unpack q) s = .next (State.started n (State.unpackRun n t)))
  ∧ (∀ (s t : State) (q : Fin 256) (d : IbexDesc) (n : Nat), s.Accepts q.val d n t → d.op.toNat = 6 → d.formed = true → Machine.exec (.compact q) s = .next (State.started n (State.compactRun n t)))
  ∧ (∀ (s t : State) (q : Fin 256) (d : IbexDesc) (n : Nat), s.Accepts q.val d n t → d.op.toNat = 7 → d.formed = true → Machine.exec (.check q) s = .next (State.started n (State.checkRun n t)))
  ∧ (∀ (s t : State) (q : Fin 256) (d : IbexDesc) (n : Nat), s.Accepts q.val d n t → d.op.toNat = 8 → d.formed = true → Machine.exec (.remotePut q) s = .next (State.started n (State.remotePutRun n t)))
  ∧ (∀ (s t : State) (q : Fin 256) (d : IbexDesc) (n : Nat), s.Accepts q.val d n t → d.op.toNat = 9 → d.formed = true → Machine.exec (.remoteGet q) s = .next (State.started n (t.remotePages n 0x41 (t.slot n).desc.dst (t.slot n).desc.dstFmt false)))
  ∧ (∀ (s t : State) (q : Fin 256) (d : IbexDesc) (n : Nat), s.Accepts q.val d n t → d.op.toNat = 10 → d.formed = true → Machine.exec (.prefetch q) s = .next (State.started n (State.prefetchRun n t)))
  ∧ (∀ (s t : State) (q : Fin 256) (d : IbexDesc) (n : Nat), s.Accepts q.val d n t → d.formed = false → ∀ x ∈ ([(.copy, 1), (.gather, 2), (.scatter, 3), (.pack, 4), (.unpack, 5), (.compact, 6), (.check, 7), (.remotePut, 8), (.remoteGet, 9), (.prefetch, 10)] : List ((Fin 256 → Instr) × Nat)),
  d.op.toNat = x.2 → Machine.exec (x.1 q) s = .next (t.failDesc n stMALFORMED))

/-- A descriptor with no unit left and no reply due completes with its final status; the timer of a waiting slot ends it
TIMEOUT by what it awaits and is counted; the slot audit is silent while the slots add up and FATAL otherwise; HOLD is its
bit; CLEAR_HWM sets the mark to the busy slots and CLEAR_COUNTS zeroes the counters. -/
def Obligations.SlotCommands : Prop :=
  (∀ (s : State) (n : Fin 65536), let x := s.slot n.val
  s.alive = true → x.state = .waiting → x.awaits = .descriptor → x.left = 0 → x.replyDue = false →
  Machine.exec (.descriptorComplete n) s = .next (s.completeDesc n.val x.finalStatus))
  ∧ (∀ (s : State) (n : Fin 65536), let x := s.slot n.val
  let u := s.count Reg.IBEX_TIMEOUTS 1
  s.alive = true → x.state = .waiting →
  (x.awaits = .descriptor → Machine.exec (.slotTimerExpiry n) s = .next (u.completeDesc n.val stTIMEOUT))
  ∧ (x.awaits = .reply → Machine.exec (.slotTimerExpiry n) s = .next ((u.endSlot n.val).answered x stTIMEOUT 0 false))
  ∧ (x.awaits = .commit → Machine.exec (.slotTimerExpiry n) s = .next (u.failAttempt x.handoffId.toNat stTIMEOUT))
  ∧ (x.awaits = .peerPartial → Machine.exec (.slotTimerExpiry n) s = .next ((u.endSlot n.val).peerArrived x [] true true)))
  ∧ (∀ s : State, s.ibex.slotsFree + s.ibex.slotsBusy = 65536 → Machine.exec .slotAudit s = .next s)
  ∧ (∀ s : State, s.ibex.slotsFree + s.ibex.slotsBusy ≠ 65536 → Machine.exec .slotAudit s = .next ((s.setFlag Reg.IBEX_STATUS 3 true |>.setFlag Reg.FAULT_AUDIT 1 true).fatal { severity := .fatal, block := 0x00A, cause := 0x0028, detail0 := BitVec.ofNat 64 s.ibex.slotsFree, detail1 := BitVec.ofNat 64 s.ibex.slotsBusy }))
  ∧ (∀ (s : State) (b : Bool), Machine.exec (.ibexHold b) s = .next (s.setFlag Reg.IBEX_CTRL 0 b))
  ∧ (∀ s : State, s.Inv → ∃ t : State, Machine.exec .ibexClearHwm s = .next t ∧ t.rd Reg.IBEX_SLOTS_HWM = BitVec.ofNat 32 s.ibex.slotsBusy ∧ s.RegsKept t [Reg.IBEX_SLOTS_HWM] ∧ s.ChangesOnly t [.regs])
  ∧ (∀ s : State, s.Inv → ∃ t : State, Machine.exec .ibexClearCounts s = .next t ∧ t.rd Reg.IBEX_LATE = 0 ∧ t.rd Reg.IBEX_TIMEOUTS = 0 ∧ t.rd Reg.IBEX_CHECK_FAILS = 0
  ∧ t.rd Reg.IBEX_POISONED = 0 ∧ s.RegsKept t [Reg.IBEX_LATE, Reg.IBEX_TIMEOUTS, Reg.IBEX_CHECK_FAILS, Reg.IBEX_POISONED] ∧ s.ChangesOnly t [.regs])

/-- On a port that is UP a DATA flit in sequence is taken with its header fields, one with a bad CRC or out of sequence is
answered as bad, and a flit of another type gives its header only; a replay timeout replays; a retrain that completes
acknowledges, takes the grants and replays what stays, and a training that completes starts its numbers anew; one that times
out takes the port DOWN; a DOWN port retries. -/
def Obligations.StraitLinkCommands : Prop :=
  (∀ (s : State) (n : Fin 16) (b : List Byte), let f := Flit.ofBytes b
  s.pins.resetN = true → (s.sport n.val).state = .up → f.type = .data → f.crcOk = true → f.seq % 4096 = ((s.sport n.val).recvSeq + 1) % 4096 →
  Machine.exec (.dataFlitReceived n b) s = .next ((s.flitData n.val f).flitHeader n.val f))
  ∧ (∀ (s : State) (n : Fin 16) (b : List Byte), let f := Flit.ofBytes b
  s.pins.resetN = true → (s.sport n.val).state = .up → f.type ≠ .reserved →
  f.crcOk = false ∨ (f.type = .data ∧ f.seq % 4096 ≠ ((s.sport n.val).recvSeq + 1) % 4096) →
  Machine.exec (.dataFlitReceived n b) s = .next (s.flitBad n.val))
  ∧ (∀ (s : State) (n : Fin 16) (b : List Byte), let f := Flit.ofBytes b
  s.pins.resetN = true → (s.sport n.val).state = .up → f.type ≠ .reserved → f.type ≠ .data → f.crcOk = true →
  Machine.exec (.dataFlitReceived n b) s = .next (s.flitHeader n.val f))
  ∧ (∀ (s : State) (n : Fin 16), (s.sport n.val).state = .up → Machine.exec (.replayTimeout n) s = .next (s.replay n.val))
  ∧ (∀ (s : State) (n : Fin 16) (half : Bool) (ack : Fin 4096) (g : List Nat), let p := (s.sport n.val).acknowledge ack.val
  let a := s.setSport n.val { p with state := .up, half := half, replaysNow := 0, nakSent := false, credits := addByChannel [] ((g.zip (bufferedSlots p.buffer)).map fun x => x.1 - x.2) 32 }
  let b := if p.buffer.isEmpty then a else (a.setSport n.val { a.sport n.val with replays := satAdd 32 p.replays 1 }).straitOut (.replay n.val ((p.acked + 1) % 4096))
  s.pins.resetN = true → (s.sport n.val).state = .retraining →
  Machine.exec (.retrainComplete n half ack g) s = .next (b.setSport n.val (b.sport n.val).pump))
  ∧ (∀ (s : State) (n : Fin 16) (half : Bool) (ack : Fin 4096) (g : List Nat), let p := s.sport n.val
  let a := s.setSport n.val { p with state := .up, half := half, attempt := false, sendSeq := 0, acked := 0, recvSeq := 0, buffer := [], replaysNow := 0, nakSent := false, credits := addByChannel [] g 32, sentSlots := [], received := [], stream := {} }
  s.pins.resetN = true → p.state = .training →
  Machine.exec (.retrainComplete n half ack g) s = .next ((a.setSport n.val (a.sport n.val).pump).planeChanged n.val))
  ∧ (∀ (s : State) (n : Fin 16), let p := s.sport n.val
  (p.state = .retraining ∨ p.state = .training) →
  Machine.exec (.retrainTimeout n) s = .next (((s.setSport n.val { p with state := .down, buffer := [], backlog := [], replaysNow := 0, nakSent := false }).setFlag Reg.STRAIT_STATUS 1 true).planeChanged n.val))
  ∧ (∀ (s : State) (n : Fin 16), (s.sport n.val).state = .down → s.pins.resetN = true → Machine.exec (.retrainAttempt n) s = .next (s.startRetrain n.val))

/-- On a port that is UP with a credit the totals of the slots sent go out in an AUDIT; an AUDIT whose totals are those
received changes nothing; at the first channel that differs the port counts an error, takes the totals, LINK_AUDIT is recorded
and the link retrains. -/
def Obligations.StraitAuditCommands : Prop :=
  (∀ (s : State) (n : Fin 16), let p := (s.sport n.val).sendNow chCtl 2
  (s.sport n.val).state = .up → (s.sport n.val).canSend chCtl 2 false = true →
  Machine.exec (.auditSend n) s = .next ((s.setSport n.val p).straitOut (.audit n.val p.sentSlots)))
  ∧ (∀ (s : State) (n : Fin 16) (ts : List Nat), (s.sport n.val).state = .up →
  ((List.range 4).find? fun ch => decide (ts.getD ch 0 % 2 ^ 32 ≠ (s.sport n.val).received.get ch)) = none → Machine.exec (.audit n ts) s = .next s)
  ∧ (∀ (s : State) (n : Fin 16) (ts : List Nat) (ch : Nat), let p := s.sport n.val
  let d := (ts.getD ch 0 % 2 ^ 32 + 2 ^ 32 - p.received.get ch) % 2 ^ 32
  let a := (s.setSport n.val { p with auditErrs := satAdd 16 p.auditErrs 1, received := addByChannel [] (ts.take 4) 32 }).setFlag Reg.FAULT_AUDIT 2 true
  p.state = .up → ((List.range 4).find? fun ch => decide (ts.getD ch 0 % 2 ^ 32 ≠ p.received.get ch)) = some ch →
  Machine.exec (.audit n ts) s = .next ((a.raise (FaultInfo.onIslet { severity := .corrected, block := 0x00E, cause := 0x0030, unit := BitVec.ofNat 16 n.val, detail0 := BitVec.ofNat 64 ch, detail1 := BitVec.ofNat 64 d } (straitIslet n.val))).startRetrain n.val))

/-- A request takes its place in the issuer's order and is issued, or waits behind the issuer's held ones; fences order one
issuer; a response that finds its tag WAITING under its generation resolves it, any other is discarded and counted LATE; a
tag's timeout commits it and marks a peer after STRAIT_DEAD_COUNT; PING is answered by PONG, which clears a mark; LAST_GASP
marks its sender dead with PEER_GASP; a changed live mask pauses issuing and its end resumes it; a route is flushed; a revoked
window with nothing in flight is FREE and its command completes. Each of the commands STRAIT_REQUEST_ISSUE, FENCE, FENCE_DEST,
LIVE_MASK_CHANGE, ISSUE_RESUME, TAG_TIMEOUT, LOAD_DATA, STORE_ACK, ATOMIC_DATA, TILE_DATA, UNIT_ACK, PEER_PING_TIMER,
GATEWAY_FLUSH, REVOCATION_COMPLETE has a clause whose conclusion is the next state it answers. -/
def Obligations.StraitIssueAndResponseCommands : Prop :=
  (∀ (s t : State) (r : StraitHeld), let x := { r with order := s.strait.order }
  let u : State := { s with strait := { s.strait with order := s.strait.order + 1 } }
  s.alive = true → (s.strait.heldReqs.any fun y => decide (y.issuer = r.issuer)) = false → u.tryIssue x = some t →
  Machine.exec (.straitRequestIssue r) s = .next t.checkFences)
  ∧ (∀ (s : State) (r : StraitHeld), let x := { r with order := s.strait.order }
  let u : State := { s with strait := { s.strait with order := s.strait.order + 1 } }
  s.alive = true → (s.strait.heldReqs.any fun y => decide (y.issuer = r.issuer)) = true →
  Machine.exec (.straitRequestIssue r) s = .next { u with strait := { u.strait with heldReqs := s.strait.heldReqs ++ [x] } })
  ∧ (∀ (s : State) (i : Issuer) (d : U16), Machine.exec (.fence i) s = .next (s.fence i none) ∧ Machine.exec (.fenceDest i d) s = .next (s.fence i (some d)))
  ∧ (∀ (s : State) (d : U16), s.sameDomain d = true → s.alive = true → Machine.exec (.liveMaskChange d) s = .next (s.maskChanged d))
  ∧ (∀ (s : State) (d : U16), (s.speer d).paused = true → s.alive = true →
  (s.strait.tags.anyWhere fun _ t => decide (t.state = .waiting) && t.dst == d && !t.viaGateway) = false →
  Machine.exec (.issueResume d) s = .next (s.setSpeer d { s.speer d with paused := false }).pumpHeld)
  ∧ (∀ (s : State) (n : Fin 4096), let t := s.tag n.val
  let u := s.tagTimedOut n.val stTIMEOUT
  let p := u.speer t.dst
  let v := u.setSpeer t.dst { p with timeouts := p.timeouts + 1 }
  s.alive = true → t.state = .waiting → Machine.exec (.tagTimeout n) s = .next (if t.viaGateway then u.pumpHeld
    else if v.rdN Reg.STRAIT_DEAD_COUNT ≤ p.timeouts + 1 then v.markUnreachable t.dst else v.pumpHeld))
  ∧ (∀ (s : State) (r : StraitResp), let n := r.tag.toNat % 4096
  let t := s.tag n
  let u := (s.setSpeer t.dst { s.speer t.dst with timeouts := 0 }).tagDone n r.status r.data (r.sizeFlags.getLsbD 4)
  s.answers = true → t.state = .waiting → t.gen = r.tag.toNat / 4096 → t.op.answer = 0x90 → t.viaGateway = false → r.status ≠ stTARGET_DEAD →
  Machine.exec (.loadData r) s = .next u.pumpHeld)
  ∧ (∀ (s : State) (r : StraitResp), let t := s.tag (r.tag.toNat % 4096)
  s.answers = true → (t.state ≠ .waiting ∨ t.gen ≠ r.tag.toNat / 4096) → Machine.exec (.loadData r) s = .next (s.count Reg.STRAIT_LATE 1))
  ∧ (∀ (s : State) (r : StraitResp), let n := r.tag.toNat % 4096
  let t := s.tag n
  let u := (s.setSpeer t.dst { s.speer t.dst with timeouts := 0 }).tagDone n r.status r.data (r.sizeFlags.getLsbD 4)
  s.answers = true → t.state = .waiting → t.gen = r.tag.toNat / 4096 → t.op.answer = 0x91 → t.viaGateway = false → r.status ≠ stTARGET_DEAD →
  Machine.exec (.storeAck r) s = .next u.pumpHeld)
  ∧ (∀ (s : State) (r : StraitResp), let t := s.tag (r.tag.toNat % 4096)
  s.answers = true → (t.state ≠ .waiting ∨ t.gen ≠ r.tag.toNat / 4096) → Machine.exec (.storeAck r) s = .next (s.count Reg.STRAIT_LATE 1))
  ∧ (∀ (s : State) (r : StraitResp), let n := r.tag.toNat % 4096
  let t := s.tag n
  let u := (s.setSpeer t.dst { s.speer t.dst with timeouts := 0 }).tagDone n r.status r.data (r.sizeFlags.getLsbD 4)
  s.answers = true → t.state = .waiting → t.gen = r.tag.toNat / 4096 → t.op.answer = 0x92 → t.viaGateway = false → r.status ≠ stTARGET_DEAD →
  Machine.exec (.atomicData r) s = .next u.pumpHeld)
  ∧ (∀ (s : State) (r : StraitResp), let t := s.tag (r.tag.toNat % 4096)
  s.answers = true → (t.state ≠ .waiting ∨ t.gen ≠ r.tag.toNat / 4096) → Machine.exec (.atomicData r) s = .next (s.count Reg.STRAIT_LATE 1))
  ∧ (∀ (s : State) (u : MoverUnit) (k : Nat), s.answers = true → Machine.exec (.tileData u k) s = .next (s.tileCame u k).settleFailed
  ∧ Machine.exec (.unitAck u k) s = .next (s.unitAcked u.slot k u.status).settleFailed)
  ∧ (∀ (s : State) (d : U16), s.answers = true → s.livePlanes d ≠ [] → Machine.exec (.ping d) s = .next ((s.nextPlane d).2.onPlane (s.nextPlane d).1 chRsp 1 (.pong d)))
  ∧ (∀ (s : State) (d : U16), let u := s.setSpeer d { s.speer d with unreachable := false, timeouts := 0 }
  s.answers = true → (s.speer d).unreachable = true → (s.peerMap d).present = true →
  Machine.exec (.pong d) s = .next { u with handoff := { u.handoff with failed := u.handoff.failed.set d.toNat false } })
  ∧ (∀ (s : State) (d : U16), s.answers = true → (s.speer d).unreachable = true → (s.peerMap d).present = true → s.sameDomain d = true →
  Machine.exec (.peerPingTimer d) s = .next ((s.livePlanes d).foldl (fun s n => s.onPlane n chReq 1 (.ping d n)) s))
  ∧ (∀ (s : State) (d : U16) (c : Byte), let u := (s.setFlag Reg.STRAIT_STATUS 3 true).raise { severity := .corrected, block := 0x018, cause := 0x0049, detail0 := d.zeroExtend 64, detail1 := c.zeroExtend 64 }
  s.answers = true → Machine.exec (.lastGasp d c) s = .next ((u.markUnreachable d).peerDead d).settleFailed)
  ∧ (∀ (s : State) (r : Fin 1024), s.alive = true → Machine.exec (.gatewayFlush r) s = .next (s.flushRoute r.val))
  ∧ (∀ (s : State) (i : Fin 4096), let w := s.net.windows.get i.val
  w.state = .revoking → w.inflight = 0 → Machine.exec (.revocationComplete true i) s =
    .next (State.completeOpt { s with net := { s.net with windows := s.net.windows.set i.val { w with state := .free, revoke := none } } } w.revoke stOK))
  ∧ (∀ (s : State) (i : Fin 4096), let w := s.strait.windows.get (i.val % 256)
  w.state = .revoking → w.inflight = 0 → Machine.exec (.revocationComplete false i) s =
    .next (State.completeOpt { s with strait := { s.strait with windows := s.strait.windows.set (i.val % 256) { w with state := .free, revoke := none } } } w.revoke stOK))

/-- A request to this device's HBM that its window and its partition admit is executed on that memory and answered with its
response opcode, status and data: LOAD, STORE and the eight atomics; a unit of this epoch does what TILE_PUT, TILE_GET or
BYTE_PUT says and is answered, and one of a newer epoch is held. Each of the commands FETCH_ADD, SWAP, CAS, FETCH_AND,
FETCH_OR, FETCH_XOR, FETCH_MIN, FETCH_MAX has a clause whose conclusion is the next state it answers. -/
def Obligations.StraitTargetCommands : Prop :=
  (∀ (s : State) (r : StraitReq) (n : Nat) (w : StraitWin), let off := r.address.toNat % 2 ^ 44
  let x := s.runMemory .load off n r.data (r.sizeFlags.toNat / 16 % 2 = 1)
  s.answers = true → r.address.extractLsb' 48 16 = s.devId → r.address.toNat / 2 ^ 44 % 16 = 0 → sizeOfCode (r.sizeFlags.toNat % 16) = some n →
  spaceAllows 0 n (StraitOp.access .load) = true → off % n = 0 → s.windowCheck r.src r.key (StraitOp.access .load) 0 off n = .ok w → s.memoryStatus w 0 off n (StraitOp.access .load != .load) = none →
  Machine.exec (.load r) s = .next (x.state.sendResp { opcode := StraitOp.answer .load, sizeFlags := BitVec.ofNat 8 (r.sizeFlags.toNat % 16 + (if x.poison then 16 else 0)), src := s.devId, tag := r.tag, status := x.status, dst := r.src, data := x.data }))
  ∧ (∀ (s : State) (r : StraitReq) (env : WriteEnv) (n : Nat) (w : StraitWin), let off := r.address.toNat % 2 ^ 44
  let x := s.runMemory .store off n r.data (r.sizeFlags.toNat / 16 % 2 = 1)
  s.answers = true → r.address.extractLsb' 48 16 = s.devId → r.address.toNat / 2 ^ 44 % 16 = 0 → sizeOfCode (r.sizeFlags.toNat % 16) = some n →
  spaceAllows 0 n (StraitOp.access .store) = true → off % n = 0 → s.windowCheck r.src r.key (StraitOp.access .store) 0 off n = .ok w → s.memoryStatus w 0 off n (StraitOp.access .store != .load) = none →
  Machine.exec (.store r env) s = .next (x.state.sendResp { opcode := StraitOp.answer .store, sizeFlags := BitVec.ofNat 8 (r.sizeFlags.toNat % 16 + (if x.poison then 16 else 0)), src := s.devId, tag := r.tag, status := x.status, dst := r.src, data := x.data }))
  ∧ (∀ (s : State) (r : StraitReq) (n : Nat) (w : StraitWin), let off := r.address.toNat % 2 ^ 44
  let x := s.runMemory .fetchAdd off n r.data (r.sizeFlags.toNat / 16 % 2 = 1)
  s.answers = true → r.address.extractLsb' 48 16 = s.devId → r.address.toNat / 2 ^ 44 % 16 = 0 → sizeOfCode (r.sizeFlags.toNat % 16) = some n →
  spaceAllows 0 n (StraitOp.access .fetchAdd) = true → off % n = 0 → s.windowCheck r.src r.key (StraitOp.access .fetchAdd) 0 off n = .ok w → s.memoryStatus w 0 off n (StraitOp.access .fetchAdd != .load) = none →
  Machine.exec (.fetchAdd (.strait r)) s = .next (x.state.sendResp { opcode := StraitOp.answer .fetchAdd, sizeFlags := BitVec.ofNat 8 (r.sizeFlags.toNat % 16 + (if x.poison then 16 else 0)), src := s.devId, tag := r.tag, status := x.status, dst := r.src, data := x.data }))
  ∧ (∀ (s : State) (r : StraitReq) (n : Nat) (w : StraitWin), let off := r.address.toNat % 2 ^ 44
  let x := s.runMemory .swap off n r.data (r.sizeFlags.toNat / 16 % 2 = 1)
  s.answers = true → r.address.extractLsb' 48 16 = s.devId → r.address.toNat / 2 ^ 44 % 16 = 0 → sizeOfCode (r.sizeFlags.toNat % 16) = some n →
  spaceAllows 0 n (StraitOp.access .swap) = true → off % n = 0 → s.windowCheck r.src r.key (StraitOp.access .swap) 0 off n = .ok w → s.memoryStatus w 0 off n (StraitOp.access .swap != .load) = none →
  Machine.exec (.swap r) s = .next (x.state.sendResp { opcode := StraitOp.answer .swap, sizeFlags := BitVec.ofNat 8 (r.sizeFlags.toNat % 16 + (if x.poison then 16 else 0)), src := s.devId, tag := r.tag, status := x.status, dst := r.src, data := x.data }))
  ∧ (∀ (s : State) (r : StraitReq) (n : Nat) (w : StraitWin), let off := r.address.toNat % 2 ^ 44
  let x := s.runMemory .cas off n r.data (r.sizeFlags.toNat / 16 % 2 = 1)
  s.answers = true → r.address.extractLsb' 48 16 = s.devId → r.address.toNat / 2 ^ 44 % 16 = 0 → sizeOfCode (r.sizeFlags.toNat % 16) = some n →
  spaceAllows 0 n (StraitOp.access .cas) = true → off % n = 0 → s.windowCheck r.src r.key (StraitOp.access .cas) 0 off n = .ok w → s.memoryStatus w 0 off n (StraitOp.access .cas != .load) = none →
  Machine.exec (.cas r) s = .next (x.state.sendResp { opcode := StraitOp.answer .cas, sizeFlags := BitVec.ofNat 8 (r.sizeFlags.toNat % 16 + (if x.poison then 16 else 0)), src := s.devId, tag := r.tag, status := x.status, dst := r.src, data := x.data }))
  ∧ (∀ (s : State) (r : StraitReq) (n : Nat) (w : StraitWin), let off := r.address.toNat % 2 ^ 44
  let x := s.runMemory .fetchAnd off n r.data (r.sizeFlags.toNat / 16 % 2 = 1)
  s.answers = true → r.address.extractLsb' 48 16 = s.devId → r.address.toNat / 2 ^ 44 % 16 = 0 → sizeOfCode (r.sizeFlags.toNat % 16) = some n →
  spaceAllows 0 n (StraitOp.access .fetchAnd) = true → off % n = 0 → s.windowCheck r.src r.key (StraitOp.access .fetchAnd) 0 off n = .ok w → s.memoryStatus w 0 off n (StraitOp.access .fetchAnd != .load) = none →
  Machine.exec (.fetchAnd r) s = .next (x.state.sendResp { opcode := StraitOp.answer .fetchAnd, sizeFlags := BitVec.ofNat 8 (r.sizeFlags.toNat % 16 + (if x.poison then 16 else 0)), src := s.devId, tag := r.tag, status := x.status, dst := r.src, data := x.data }))
  ∧ (∀ (s : State) (r : StraitReq) (n : Nat) (w : StraitWin), let off := r.address.toNat % 2 ^ 44
  let x := s.runMemory .fetchOr off n r.data (r.sizeFlags.toNat / 16 % 2 = 1)
  s.answers = true → r.address.extractLsb' 48 16 = s.devId → r.address.toNat / 2 ^ 44 % 16 = 0 → sizeOfCode (r.sizeFlags.toNat % 16) = some n →
  spaceAllows 0 n (StraitOp.access .fetchOr) = true → off % n = 0 → s.windowCheck r.src r.key (StraitOp.access .fetchOr) 0 off n = .ok w → s.memoryStatus w 0 off n (StraitOp.access .fetchOr != .load) = none →
  Machine.exec (.fetchOr r) s = .next (x.state.sendResp { opcode := StraitOp.answer .fetchOr, sizeFlags := BitVec.ofNat 8 (r.sizeFlags.toNat % 16 + (if x.poison then 16 else 0)), src := s.devId, tag := r.tag, status := x.status, dst := r.src, data := x.data }))
  ∧ (∀ (s : State) (r : StraitReq) (n : Nat) (w : StraitWin), let off := r.address.toNat % 2 ^ 44
  let x := s.runMemory .fetchXor off n r.data (r.sizeFlags.toNat / 16 % 2 = 1)
  s.answers = true → r.address.extractLsb' 48 16 = s.devId → r.address.toNat / 2 ^ 44 % 16 = 0 → sizeOfCode (r.sizeFlags.toNat % 16) = some n →
  spaceAllows 0 n (StraitOp.access .fetchXor) = true → off % n = 0 → s.windowCheck r.src r.key (StraitOp.access .fetchXor) 0 off n = .ok w → s.memoryStatus w 0 off n (StraitOp.access .fetchXor != .load) = none →
  Machine.exec (.fetchXor r) s = .next (x.state.sendResp { opcode := StraitOp.answer .fetchXor, sizeFlags := BitVec.ofNat 8 (r.sizeFlags.toNat % 16 + (if x.poison then 16 else 0)), src := s.devId, tag := r.tag, status := x.status, dst := r.src, data := x.data }))
  ∧ (∀ (s : State) (r : StraitReq) (n : Nat) (w : StraitWin), let off := r.address.toNat % 2 ^ 44
  let x := s.runMemory .fetchMin off n r.data (r.sizeFlags.toNat / 16 % 2 = 1)
  s.answers = true → r.address.extractLsb' 48 16 = s.devId → r.address.toNat / 2 ^ 44 % 16 = 0 → sizeOfCode (r.sizeFlags.toNat % 16) = some n →
  spaceAllows 0 n (StraitOp.access .fetchMin) = true → off % n = 0 → s.windowCheck r.src r.key (StraitOp.access .fetchMin) 0 off n = .ok w → s.memoryStatus w 0 off n (StraitOp.access .fetchMin != .load) = none →
  Machine.exec (.fetchMin r) s = .next (x.state.sendResp { opcode := StraitOp.answer .fetchMin, sizeFlags := BitVec.ofNat 8 (r.sizeFlags.toNat % 16 + (if x.poison then 16 else 0)), src := s.devId, tag := r.tag, status := x.status, dst := r.src, data := x.data }))
  ∧ (∀ (s : State) (r : StraitReq) (n : Nat) (w : StraitWin), let off := r.address.toNat % 2 ^ 44
  let x := s.runMemory .fetchMax off n r.data (r.sizeFlags.toNat / 16 % 2 = 1)
  s.answers = true → r.address.extractLsb' 48 16 = s.devId → r.address.toNat / 2 ^ 44 % 16 = 0 → sizeOfCode (r.sizeFlags.toNat % 16) = some n →
  spaceAllows 0 n (StraitOp.access .fetchMax) = true → off % n = 0 → s.windowCheck r.src r.key (StraitOp.access .fetchMax) 0 off n = .ok w → s.memoryStatus w 0 off n (StraitOp.access .fetchMax != .load) = none →
  Machine.exec (.fetchMax r) s = .next (x.state.sendResp { opcode := StraitOp.answer .fetchMax, sizeFlags := BitVec.ofNat 8 (r.sizeFlags.toNat % 16 + (if x.poison then 16 else 0)), src := s.devId, tag := r.tag, status := x.status, dst := r.src, data := x.data }))
  ∧ (∀ (s t : State) (u a : MoverUnit), let x := { u with opcode := 0x40 }
  s.answers = true → u.target.extractLsb' 48 16 = s.devId → epochDiff u.epoch s.handoff.epoch = 0 → s.putUnit x = .answer t a →
  Machine.exec (.tilePut u) s = .next (t.answerUnit a))
  ∧ (∀ (s : State) (u : MoverUnit), s.answers = true → u.target.extractLsb' 48 16 = s.devId → 0 < epochDiff u.epoch s.handoff.epoch →
  Machine.exec (.tilePut u) s = .next { s with handoff := { s.handoff with heldUnits := s.handoff.heldUnits ++ [({ u with opcode := 0x40 }, none)] } })
  ∧ (∀ (s t : State) (u a : MoverUnit), let x := { u with opcode := 0x41 }
  s.answers = true → u.target.extractLsb' 48 16 = s.devId → epochDiff u.epoch s.handoff.epoch = 0 → s.getUnit x = .answer t a →
  Machine.exec (.tileGet u) s = .next (t.answerUnit a))
  ∧ (∀ (s : State) (u : MoverUnit), s.answers = true → u.target.extractLsb' 48 16 = s.devId → 0 < epochDiff u.epoch s.handoff.epoch →
  Machine.exec (.tileGet u) s = .next { s with handoff := { s.handoff with heldUnits := s.handoff.heldUnits ++ [({ u with opcode := 0x41 }, none)] } })
  ∧ (∀ (s t : State) (u a : MoverUnit), let x := { u with opcode := 0x42 }
  s.answers = true → u.target.extractLsb' 48 16 = s.devId → epochDiff u.epoch s.handoff.epoch = 0 → s.bytesUnit x = .answer t a →
  Machine.exec (.bytePut u) s = .next (t.answerUnit a))
  ∧ (∀ (s : State) (u : MoverUnit), s.answers = true → u.target.extractLsb' 48 16 = s.devId → 0 < epochDiff u.epoch s.handoff.epoch →
  Machine.exec (.bytePut u) s = .next { s with handoff := { s.handoff with heldUnits := s.handoff.heldUnits ++ [({ u with opcode := 0x42 }, none)] } })

/-- A well-formed new packet on a READY multipath connection is taken (a MESSAGE one after its policer), one for a connection
that is not READY is dropped and counted; a SEND or an atomic on a STATE connection is malformed; a response that an operation
awaits is joined and, once whole, delivered; a duplicate response or one nothing awaits is counted; acknowledgements and
credits bring the cumulative counts forward and let waiting packets go; the retransmission timer sends again and avoids the
path; unused credits go back, and counts that differ are resynchronised with CREDIT_RESYNC; MP_HELLO makes a connection READY
and completes its command; the standard verbs read, write and swap through their window; PTP, PFC and link changes reach their
port. Each of the commands MP_WRITE, MP_SEND, MP_READ_REQ, MP_ATOMIC, MP_READ_RESP, MP_ATOMIC_RESP, MP_ACK, MP_CREDIT,
RETRANSMIT_TIMEOUT, CREDIT_RETURN, MP_HELLO_TIMER, CONNECT_TIMEOUT, CLOSING_RESOLVED, RDMA_WRITE, RDMA_READ, CMP_SWAP,
FETCH_ADD, PTP_MESSAGE, PFC_FRAME, ETHERNET_LINK_CHANGE, CREDIT_GRANT_TICK, HELD_PACKET_RELEASE has a clause whose conclusion
is the next state it answers. -/
def Obligations.NetworkCommands : Prop :=
  (∀ (s : State) (p : MpPacket), let x := { p with op := 0xC0 }
  let n := p.conn
  let m := s.recvMsg n p.msn
  s.answers = true → (s.netConn n).state = .ready → x.srcOk = true → (s.netConn n).attr.multipath = true → x.formed (s.netConn n) = true → (s.netConn n).attr.message = false →
  ((msnBelow p.msn (s.netConn n).cumMsn && !m.known) || (m.known && m.bits.contains (x.index (s.netConn n)))) = false →
  ((s.netConn n).heldPkts.any fun q => q.msn == p.msn && q.offset == p.offset) = false → m.fits x = true → (!m.known && decide (256 ≤ (s.netConn n).incomplete)) = false →
  Machine.exec (.mpWrite p) s = .next (s.statePacket x))
  ∧ (∀ (s t : State) (p : MpPacket), let x := { p with op := 0xC0 }
  let n := p.conn
  let m := t.recvMsg n p.msn
  s.answers = true → (s.netConn n).state = .ready → x.srcOk = true → (s.netConn n).attr.multipath = true → x.formed (s.netConn n) = true → (s.netConn n).attr.message = true →
  s.police (s.netConn n).attr.tenant.toNat x.frameLen = (true, t) →
  ((msnBelow p.msn (s.netConn n).cumMsn && !m.known) || (m.known && m.bits.contains (x.index (s.netConn n)))) = false →
  ((s.netConn n).heldPkts.any fun q => q.msn == p.msn && q.offset == p.offset) = false → m.fits x = true → (!m.known && decide (256 ≤ (s.netConn n).incomplete)) = false →
  Machine.exec (.mpWrite p) s = .next (t.messagePacket x))
  ∧ (∀ (s : State) (p : MpPacket), s.answers = true → (s.netConn p.conn).state ≠ .ready → Machine.exec (.mpWrite p) s = .next (s.bump Reg.NET_DROPPED 16 16 1))
  ∧ (∀ (s : State) (p : MpPacket), s.answers = true → (s.netConn p.conn).state = .ready → p.srcOk = true → (s.netConn p.conn).attr.multipath = true →
  (s.netConn p.conn).attr.message = false → Machine.exec (.mpSend p) s = .next s.netMalformed)
  ∧ (∀ (s t : State) (p : MpPacket), let x := { p with op := 0xC1 }
  let n := p.conn
  let m := t.recvMsg n p.msn
  s.answers = true → (s.netConn n).state = .ready → x.srcOk = true → (s.netConn n).attr.multipath = true → x.formed (s.netConn n) = true → (s.netConn n).attr.message = true →
  s.police (s.netConn n).attr.tenant.toNat x.frameLen = (true, t) →
  ((msnBelow p.msn (s.netConn n).cumMsn && !m.known) || (m.known && m.bits.contains (x.index (s.netConn n)))) = false →
  ((s.netConn n).heldPkts.any fun q => q.msn == p.msn && q.offset == p.offset) = false → m.fits x = true → (!m.known && decide (256 ≤ (s.netConn n).incomplete)) = false →
  Machine.exec (.mpSend p) s = .next (t.messagePacket x))
  ∧ (∀ (s : State) (p : MpPacket), s.answers = true → (s.netConn p.conn).state ≠ .ready → Machine.exec (.mpSend p) s = .next (s.bump Reg.NET_DROPPED 16 16 1))
  ∧ (∀ (s : State) (p : MpPacket), let x := { p with op := 0xC2 }
  let n := p.conn
  let m := s.recvMsg n p.msn
  s.answers = true → (s.netConn n).state = .ready → x.srcOk = true → (s.netConn n).attr.multipath = true → x.formed (s.netConn n) = true → (s.netConn n).attr.message = false →
  ((msnBelow p.msn (s.netConn n).cumMsn && !m.known) || (m.known && m.bits.contains (x.index (s.netConn n)))) = false →
  ((s.netConn n).heldPkts.any fun q => q.msn == p.msn && q.offset == p.offset) = false → m.fits x = true → (!m.known && decide (256 ≤ (s.netConn n).incomplete)) = false →
  Machine.exec (.mpReadReq p) s = .next (s.statePacket x))
  ∧ (∀ (s t : State) (p : MpPacket), let x := { p with op := 0xC2 }
  let n := p.conn
  let m := t.recvMsg n p.msn
  s.answers = true → (s.netConn n).state = .ready → x.srcOk = true → (s.netConn n).attr.multipath = true → x.formed (s.netConn n) = true → (s.netConn n).attr.message = true →
  s.police (s.netConn n).attr.tenant.toNat x.frameLen = (true, t) →
  ((msnBelow p.msn (s.netConn n).cumMsn && !m.known) || (m.known && m.bits.contains (x.index (s.netConn n)))) = false →
  ((s.netConn n).heldPkts.any fun q => q.msn == p.msn && q.offset == p.offset) = false → m.fits x = true → (!m.known && decide (256 ≤ (s.netConn n).incomplete)) = false →
  Machine.exec (.mpReadReq p) s = .next (t.messagePacket x))
  ∧ (∀ (s : State) (p : MpPacket), s.answers = true → (s.netConn p.conn).state ≠ .ready → Machine.exec (.mpReadReq p) s = .next (s.bump Reg.NET_DROPPED 16 16 1))
  ∧ (∀ (s : State) (p : MpPacket), s.answers = true → (s.netConn p.conn).state = .ready → p.srcOk = true → (s.netConn p.conn).attr.multipath = true →
  (s.netConn p.conn).attr.message = false → Machine.exec (.mpAtomic p) s = .next s.netMalformed)
  ∧ (∀ (s t : State) (p : MpPacket), let x := { p with op := 0xC4 }
  let n := p.conn
  let m := t.recvMsg n p.msn
  s.answers = true → (s.netConn n).state = .ready → x.srcOk = true → (s.netConn n).attr.multipath = true → x.formed (s.netConn n) = true → (s.netConn n).attr.message = true →
  s.police (s.netConn n).attr.tenant.toNat x.frameLen = (true, t) →
  ((msnBelow p.msn (s.netConn n).cumMsn && !m.known) || (m.known && m.bits.contains (x.index (s.netConn n)))) = false →
  ((s.netConn n).heldPkts.any fun q => q.msn == p.msn && q.offset == p.offset) = false → m.fits x = true → (!m.known && decide (256 ≤ (s.netConn n).incomplete)) = false →
  Machine.exec (.mpAtomic p) s = .next (t.messagePacket x))
  ∧ (∀ (s : State) (p : MpPacket), s.answers = true → (s.netConn p.conn).state ≠ .ready → Machine.exec (.mpAtomic p) s = .next (s.bump Reg.NET_DROPPED 16 16 1))
  ∧ (∀ (s : State) (p : MpPacket), let x := { p with op := 0xC3 }
  let n := p.conn
  let a := s.netConn n
  let u := s.setNetConn n { a with rConsumed := (a.rConsumed + 1) % 2 ^ 32 }
  s.answers = true → a.listens = true → x.srcOk = true → a.attr.multipath = true → x.formed a = true → a.attr.message = false → (a.resps.get p.msn).bits.contains (x.index a) = false →
  u.awaits n p.msn 0xC3 = none →
  Machine.exec (.mpReadResp p) s = .next (((((u.count Reg.NET_LATE 1).forgetOut n p.msn).grantCredits).sendWaiting n)))
  ∧ (∀ (s : State) (p : MpPacket), let x := { p with op := 0xC3 }
  s.answers = true → (s.netConn p.conn).listens = true → x.srcOk = true → (s.netConn p.conn).attr.multipath = true → x.formed (s.netConn p.conn) = true →
  ((s.netConn p.conn).resps.get p.msn).bits.contains (x.index (s.netConn p.conn)) = true → Machine.exec (.mpReadResp p) s = .next (s.count Reg.NET_DUP 1))
  ∧ (∀ (s : State) (p : MpPacket), let x := { p with op := 0xC5 }
  let n := p.conn
  let a := s.netConn n
  s.answers = true → a.listens = true → x.srcOk = true → a.attr.multipath = true → x.formed a = true → (a.resps.get p.msn).bits.contains (x.index a) = false →
  s.awaits n p.msn 0xC5 = none →
  Machine.exec (.mpAtomicResp p) s = .next (((((s.count Reg.NET_LATE 1).forgetOut n p.msn).grantCredits).sendWaiting n)))
  ∧ (∀ (s : State) (p : MpPacket), let x := { p with op := 0xC5 }
  s.answers = true → (s.netConn p.conn).listens = true → x.srcOk = true → (s.netConn p.conn).attr.multipath = true → x.formed (s.netConn p.conn) = true →
  ((s.netConn p.conn).resps.get p.msn).bits.contains (x.index (s.netConn p.conn)) = true → Machine.exec (.mpAtomicResp p) s = .next (s.count Reg.NET_DUP 1))
  ∧ (∀ (s : State) (p : MpAckPkt), let n := p.conn
  let a := s.netConn n
  let b := { a with peerCum := newer a.peerCum p.cumMsn }
  let d := if b.attr.message then b else { b with granted := newer b.granted p.granted, seenConsumed := newer b.seenConsumed p.consumed }
  s.answers = true → a.listens = true → p.srcOk = true → a.attr.multipath = true → readable p.level.toNat = true → 1 ≤ p.entries.length → p.entries.length ≤ 4 →
  Machine.exec (.mpAck p) s = .next ((((((p.entries.foldl (fun s e => s.ackEntry n e) (s.setNetConn n d)).settleOut n).fastRetransmit n).sendWaiting n).settleFailed).pumpHeld))
  ∧ (∀ (s : State) (p : MpCreditPkt), let n := p.conn
  let a := s.netConn n
  s.answers = true → a.listens = true → p.srcOk = true → a.attr.multipath = true → a.attr.message = false → readable p.level.toNat = true →
  (p.kind = 0 → Machine.exec (.mpCredit p) s = .next ((s.setNetConn n { a with granted := newer a.granted p.granted, seenConsumed := newer a.seenConsumed p.consumed, seenReturned := newer a.seenReturned p.returned }).sendWaiting n))
  ∧ (p.kind = 1 → Machine.exec (.mpCredit p) s = .next (s.setNetConn n { a with rReturned := newer a.rReturned p.returned, rDemand := p.demand })))
  ∧ (∀ (s : State) (n : Fin 8192) (m i : Nat) (p : SentPacket), let a := s.netConn n.val
  let others := (s.livePaths a).filter fun x => decide (x ≠ p.path)
  let b := if others.isEmpty then a else { a with avoided := (p.path, s.now + 1000000) :: a.avoided.filter fun y => decide (s.now < y.2) && decide (y.1 ≠ p.path) }
  let d := if s.windowed b then { b with window := s.clampWindow (s.rdN Reg.SHAPE_WIN_MIN) } else b
  (a.unacked.find? fun p => p.msn == m && p.index == i) = some p → s.answers = true → a.listens = true →
  Machine.exec (.retransmitTimeout n m i) s = .next ((s.setNetConn n.val d).retransmit n.val p).settleFailed)
  ∧ (∀ (s : State) (n : Fin 8192), let a := s.netConn n.val
  let b := { a with returned := (a.returned + a.held) % 2 ^ 32 }
  a.state = .ready → a.attr.message = false → a.attr.multipath = true → a.held ≠ 0 → s.answers = true →
  Machine.exec (.creditReturn n) s = .next ((s.setNetConn n.val b).netOut (.credit n.val 1 b.granted b.used b.returned b.demand)))
  ∧ (∀ (s : State) (n : Fin 8192), let a := s.netConn n.val
  let t := ((s.setNetConn n.val { a with used := a.seenConsumed, returned := a.seenReturned }).setFlag Reg.NET_STATUS 2 true).setFlag Reg.FAULT_AUDIT 3 true
  a.state = .ready → a.attr.message = false → a.attr.multipath = true → ¬ (a.used = a.seenConsumed ∧ a.returned = a.seenReturned) → s.answers = true →
  Machine.exec (.creditResync n) s = .next ((t.raise { severity := .corrected, block := 0x010, cause := 0x0039, unit := BitVec.ofNat 16 n.val, detail0 := a.attr.peer.zeroExtend 64 }).sendWaiting n.val))
  ∧ (∀ (s : State) (p : MpHelloPkt), let n := p.conn
  let a := s.netConn n
  s.answers = true → a.attr.multipath = true → a.state = .connecting → p.srcOk = true → p.message = a.attr.message →
  (if a.attr.message then a.attr.spaceKey == p.spaceKey else a.attr.spaceKey.toNat / 2 ^ 29 == p.spaceKey.toNat / 2 ^ 29) = true →
  Machine.exec (.mpHello p) s = .next (((s.setNetConn n { a with state := .ready, connectCmd := none }).netOut (.hello n)).completeOpt a.connectCmd stOK (BitVec.ofNat 64 n)))
  ∧ (∀ (s : State) (n : Fin 8192), let a := s.netConn n.val
  (a.state = .connecting → s.answers = true → Machine.exec (.mpHelloTimer n) s = .next (s.netOut (.hello n.val)))
  ∧ (a.state = .connecting → s.alive = true → Machine.exec (.connectTimeout n) s = .next ((s.setNetConn n.val {}).completeOpt a.connectCmd stTIMEOUT))
  ∧ (a.state = .closing → a.out = [] → s.alive = true → Machine.exec (.closingResolved n) s = .next (a.closeCmds.foldl (fun s x => s.complete x stOK) (s.freeConn n.val))))
  ∧ (∀ (s t : State) (p : RocePkt), let a := s.netConn p.conn
  let u := t.chargeRx a 0 p.payload.length
  s.answers = true → a.state = .ready → p.srcOk = true → a.attr.multipath = false → p.supported = true → p.payload.length ≤ a.attr.mtu →
  s.police a.attr.tenant.toNat p.frameLen = (true, t) →
  Machine.exec (.send p) s = .next (u.netOut (.roceAck p.conn p.psn stOK)))
  ∧ (∀ (s t : State) (p : RocePkt) (w d : Nat), let a := s.netConn p.conn
  let u := t.chargeRx a 0 p.payload.length
  s.answers = true → a.state = .ready → p.srcOk = true → a.attr.multipath = false → p.supported = true → p.payload.length ≤ a.attr.mtu →
  s.police a.attr.tenant.toNat p.frameLen = (true, t) →
  u.rdmaCheck a p.key .store p.target p.payload.length = .ok (w, d) →
  Machine.exec (.rdmaWrite p) s = .next ((u.writeP d p.payload false).netOut (.roceAck p.conn p.psn stOK)))
  ∧ (∀ (s t : State) (p : RocePkt) (w d : Nat), let a := s.netConn p.conn
  let u := t.chargeRx a 0 p.payload.length
  s.answers = true → a.state = .ready → p.srcOk = true → a.attr.multipath = false → p.supported = true → p.payload.length ≤ a.attr.mtu →
  s.police a.attr.tenant.toNat p.frameLen = (true, t) →
  u.rdmaCheck a p.key .load p.target p.length = .ok (w, d) → let v := u.tally a.attr.tenant.toNat fun x => { x with netTx := x.netTx + p.length }
  Machine.exec (.rdmaRead p) s = .next (v.netOut (.readResp p.conn p.psn (v.poisoned d p.length) (v.seen d p.length))))
  ∧ (∀ (s t : State) (p : RocePkt) (w d : Nat), let a := s.netConn p.conn
  let u := t.chargeRx a 0 p.payload.length
  let r := u.runMemory .cas d 8 p.payload false
  s.answers = true → a.state = .ready → p.srcOk = true → a.attr.multipath = false → p.supported = true → p.payload.length ≤ a.attr.mtu →
  s.police a.attr.tenant.toNat p.frameLen = (true, t) →
  p.target % 8 = 0 → u.rdmaCheck a p.key .atomic p.target 8 = .ok (w, d) →
  Machine.exec (.cmpSwap p) s = .next ((r.state.tally a.attr.tenant.toNat fun x => { x with netTx := x.netTx + 8 }).netOut (.atomicResp p.conn p.psn r.data)))
  ∧ (∀ (s t : State) (p : RocePkt) (w d : Nat), let a := s.netConn p.conn
  let u := t.chargeRx a 0 p.payload.length
  let r := u.runMemory .fetchAdd d 8 p.payload false
  s.answers = true → a.state = .ready → p.srcOk = true → a.attr.multipath = false → p.supported = true → p.payload.length ≤ a.attr.mtu →
  s.police a.attr.tenant.toNat p.frameLen = (true, t) →
  p.target % 8 = 0 → u.rdmaCheck a p.key .atomic p.target 8 = .ok (w, d) →
  Machine.exec (.fetchAdd (.roce p)) s = .next ((r.state.tally a.attr.tenant.toNat fun x => { x with netTx := x.netTx + 8 }).netOut (.atomicResp p.conn p.psn r.data)))
  ∧ (∀ (s : State) (n : Fin 16) (x : Int), s.alive = true → s.flag Reg.OBS_TIME_CTRL 2 = true → s.field Reg.OBS_TIME_CTRL 4 4 = n.val → (s.net.ports.get n.val).allocated = true →
  Machine.exec (.ptpMessage n x) s = .next { s with obs := { s.obs with ptpClock := some x } })
  ∧ (∀ (s : State) (n : Fin 16) (k b : Byte), let a := s.net.ports.get n.val
  let m : Byte := if s.flag Reg.NET_CTRL 1 then BitVec.ofNat 8 (s.field Reg.NET_CTRL 2 8) &&& k else 0
  a.allocated = true → s.alive = true →
  Machine.exec (.pfcFrame n k b) s = .next (s.setEthPort n.val { a with pfcRx := satAdd 16 a.pfcRx 1, paused := (a.paused &&& ~~~m) ||| (b &&& m) }))
  ∧ (∀ (s : State) (n : Fin 16) (up : Option Bool), let a := s.net.ports.get n.val
  a.allocated = true → s.alive = true → Machine.exec (.ethernetLinkChange n up) s =
    .next (s.setEthPort n.val { a with state := (match up with | some true => .up | some false => .down | none => .training), paused := 0 }))
  ∧ (∀ s : State, s.answers = true → Machine.exec .creditGrantTick s = .next s.grantCredits)
  ∧ (∀ (s : State) (n : Fin 8192) (p : MpPacket), let a := s.netConn n.val
  let t := s.setNetConn n.val { a with heldPkts := a.heldPkts.filter fun q => !(q.msn == p.msn && q.offset == p.offset) }
  (a.heldPkts.find? fun p => !s.overlapsEarlier p) = some p → a.state = .ready → s.answers = true →
  Machine.exec (.heldPacketRelease n) s = .next (State.windowPacket { t with net := { t.net with holdBytes := t.net.holdBytes - p.payload.length } } p))
  ∧ (∀ (s : State) (p : MpPacket) (y : OutMsg), let x := { p with op := 0xC3 }
  let n := p.conn
  let a := s.netConn n
  let m := (a.resps.get p.msn).join x (x.index a) stOK true
  let v := (s.setNetConn n { a with resps := a.resps.set p.msn m }).chargeRx a 0 p.payload.length
  s.answers = true → a.listens = true → x.srcOk = true → a.attr.multipath = true → x.formed a = true → a.attr.message = true → (a.resps.get p.msn).bits.contains (x.index a) = false →
  s.awaits n p.msn 0xC3 = some y → (a.resps.get p.msn).fits x = true →
  Machine.exec (.mpReadResp p) s = .next (if m.bytes = m.total then State.pumpHeld ((((v.deliverResp n p.msn y.item m.whole m.poison).grantCredits).sendWaiting n).settleFailed) else v.grantCredits))
  ∧ (∀ (s : State) (p : MpPacket) (y : OutMsg), let x := { p with op := 0xC5 }
  let n := p.conn
  let a := s.netConn n
  let m := (a.resps.get p.msn).join x (x.index a) stOK true
  let v := (s.setNetConn n { a with resps := a.resps.set p.msn m }).chargeRx a 0 p.payload.length
  s.answers = true → a.listens = true → x.srcOk = true → a.attr.multipath = true → x.formed a = true → a.attr.message = true → (a.resps.get p.msn).bits.contains (x.index a) = false →
  s.awaits n p.msn 0xC5 = some y → (a.resps.get p.msn).fits x = true →
  Machine.exec (.mpAtomicResp p) s = .next (State.pumpHeld ((((v.deliverResp n p.msn y.item m.whole m.poison).grantCredits).sendWaiting n).settleFailed)))

/-- INDEX_REGISTER, MUTATE and SEARCH that pass their checks register the index, queue the records and admit the batch with
its snapshot; INSERT appends the entry, its item and the next sequence number, or answers MALFORMED to a reserved OP; DELETE
logs the slot, marks the entry a tombstone and commits; a batch begins with its DIST_TABLE, marks the queries without a table,
scans the coarse segments, then the lists, and widens; a compaction copies what is not gone and replaces the directory entry;
old segments whose batches have completed are free. Each of the commands BATCH_BEGIN, BATCH_TABLES_DONE, COARSE_PASS_DONE,
LIST_SCAN_DONE, WIDEN_ROUND_DONE, COMPACTION_DONE, OLD_SEGMENTS_FREED has a clause whose conclusion is the next state it
answers. -/
def Obligations.ChamoisCommands : Prop :=
  (∀ (s : State) (w : WinRef), let u := s.take w.key
  let c := s.frontCmd w.key
  let i := c.arg0.toNat % 16
  let h := u.readHeader c.arg1.toNat
  let v := u.setIndex i { registered := true, header := h, usedSegs := u.framesUsed h }
  s.Runs w 0x11 → u.chamEnabled = true → c.arg0.toNat < 16 → addrFormed c.arg1.toNat = true → u.registerStatus h c.part = none → (u.index i).jobs = [] →
  (u.cham.batches.any fun b => b.header.index == i) = false → Machine.exec (.indexRegister w) s = .next ((v.retire i).complete (s.ref w) stOK))
  ∧ (∀ (s : State) (w : WinRef), let u := s.take w.key
  let c := s.frontCmd w.key
  let x := u.index c.arg0.toNat
  s.Runs w 0x12 → u.chamEnabled = true → c.arg0.toNat < 16 → x.registered = true → 1 ≤ c.arg2.toNat → c.arg2.toNat ≤ 4096 → (u.tenantOf c.tenantId.toNat).enable = true →
  x.header.partition = c.part → u.fnAccess (winFn w.key) c.arg1.toNat (c.arg2.toNat * recordSize x.header.m) c.part true = none →
  Machine.exec (.mutate w) s = .next (u.setIndex c.arg0.toNat { x with jobs := x.jobs ++ [{ cmd := s.ref w, addr := c.arg1.toNat, count := c.arg2.toNat }] }))
  ∧ (∀ (s t : State) (k : Fin 16) (a g slot : Nat), let i := k.val
  let h := (s.index i).header
  let l := s.loadLE (a + 4) 4
  let len := s.loadLE (a + 0x1C) 4
  let seq := t.committed i + 1
  let item : ItemEntry := { id := BitVec.ofNat 64 (t.loadLE (a + 8) 8), seg := g, pos := t.segCount (h.segAt g), used := true, holder := t.loadLE (a + 0x28) 2, prefixLen := len, tokenCrc := t.loadLE (a + 0x20) 8 }
  s.nextRecord i = some a → s.loadLE a 1 = 1 → s.alive = true → l < h.nlist → (h.kind = 1 → len % 64 = 0 ∧ 64 ≤ len ∧ len ≤ 1048576) →
  (s.index i).compacting.contains l = false → s.freeItem h 0 h.itemCap = some slot → s.tailSeg i l = some (g, t) →
  Machine.exec (.insert k) s = .next (((((t.append h l g { code := t.bytes (a + 0x30) h.m, slot := slot, seq := seq }).putItem h slot item).commit i seq).retire i).recordDone i a stOK seq (some slot)))
  ∧ (∀ (s : State) (k : Fin 16) (a : Nat), s.nextRecord k.val = some a → s.loadLE a 1 ≠ 1 → s.loadLE a 1 ≠ 2 → s.alive = true →
  Machine.exec (.insert k) s = .next (s.recordDone k.val a stMALFORMED 0 none))
  ∧ (∀ (s : State) (j : Fin 16) (a k : Nat), let i := j.val
  let h := (s.index i).header
  let slot := s.loadLE (a + 4) 4
  let x := s.item h slot
  let g := h.segAt x.seg
  let seq := s.committed i + 1
  let t := s.write (h.dellog + 16 * k) (packBytes [(4, slot), (4, 0), (8, seq)])
  let t2 := t.putEntry h g x.pos { t.segEntry h g x.seg x.pos with tombstone := true }
  let t3 := ((t2.putItem h slot { x with deleted := true }).commit i seq).retire i
  s.nextRecord i = some a → s.loadLE a 1 = 2 → s.alive = true → slot < h.itemCap → x.used = true → (s.index i).compacting.contains (s.loadLE (g + 4) 4) = false →
  x.deleted = false → s.freeDel i = some k →
  Machine.exec (.delete j) s = .next ((t3.compactIfDue i (s.loadLE (g + 4) 4)).recordDone i a stOK seq none))
  ∧ (∀ (s : State) (w : WinRef), let u := s.take w.key
  let c := s.frontCmd w.key
  let b := u.readBatch c.arg0.toNat
  let x := u.index b.index
  let t := u.write (b.addr + 0x10) (leBytes 8 (u.committed b.index))
  s.Runs w 0x13 → u.chamEnabled = true → (u.tenantOf c.tenantId.toNat).enable = true → (u.tenantOf c.tenantId.toNat).partition.val = c.part →
  u.fnAccess (winFn w.key) b.addr 64 c.part true = none → b.index < 16 → x.registered = true →
  b.partition = x.header.partition → b.partition = c.part → u.batchRanges b x.header = true →
  ((u.batchReach b x.header).findSome? fun r => (u.fnAccess (winFn w.key) r.1 r.2.1 c.part r.2.2).map fun st => (st, r.1)) = none → u.fnMode 5 ≠ .hostAssist → u.cham.batches.length < 16 →
  Machine.exec (.search w) s = .next { t with cham := { t.cham with batches := t.cham.batches ++ [{ number := t.cham.nextBatch, header := b, tenant := c.tenantId, snapshot := u.committed b.index, queries := List.replicate b.queries {}, cmd := s.ref w }], nextBatch := t.cham.nextBatch + 1 } })
  ∧ (∀ (s : State) (b : Batch), let h := (s.index b.header.index).header
  s.runBatch = some b → b.phase = .queued → s.flag Reg.CHAM_CTRL 0 = false → s.alive = true → ∃ d : ElandDesc,
  Machine.exec .batchBegin s = .next ((s.setBatch { b with phase := .tables, mult := s.rdN Reg.CHAM_WIDEN_MULT }).elandAdd { desc := d, source := .chamois, tenant := some b.tenant })
  ∧ d.kind = 7 ∧ d.m = BitVec.ofNat 32 b.header.queries ∧ d.n = 256 ∧ d.k = BitVec.ofNat 32 h.dim ∧ d.g = BitVec.ofNat 16 h.m ∧ d.aAddr = BitVec.ofNat 64 b.header.queryAddr
  ∧ d.bAddr = BitVec.ofNat 64 h.codebook ∧ d.cAddr = BitVec.ofNat 64 h.tables ∧ d.serial = BitVec.ofNat 32 b.number)
  ∧ (∀ (s : State) (b : Batch) (c : ElandCompletion), let h := (s.index b.header.index).header
  let ran := c.status == stOK || c.status == stPOISON
  let qs := b.queries.zipIdx.map fun x => { x.1 with poison := !ran || s.tableBad h x.2 }
  let t := if qs.any QueryState.poison then s.setFlag Reg.CHAM_STATUS 4 true else s
  s.runBatch = some b → (s.eland.completions.find? fun c => decide (c.source = .chamois) && c.serial == BitVec.ofNat 32 b.number) = some c → b.phase = .tables → s.alive = true →
  Machine.exec .batchTablesDone s = .next (t.setBatch { b with phase := .coarse, queries := qs }))
  ∧ (∀ (s : State) (b : Batch), s.runBatch = some b → b.phase = .coarse → s.alive = true → ∃ (t : State) (qs : List QueryState),
  Machine.exec .coarsePassDone s = .next (t.setBatch { b with phase := .scan, queries := qs }) ∧ qs.length = b.queries.length
  ∧ ∀ q ∈ b.queries, q.poison = true → q ∈ qs)
  ∧ (∀ (s : State) (b : Batch), let d := s.readLists b ((b.queries.filter fun x => !x.poison).flatMap fun x => x.order.take x.probed)
  let r := s.scanRound d fun x => x.order.take x.probed
  s.runBatch = some b → b.phase = .scan → s.alive = true → Machine.exec .listScanDone s = .next (r.1.afterRound { d with queries := r.2 }))
  ∧ (∀ (s : State) (b : Batch), let more (x : QueryState) : Nat := if b.widens x then min x.order.length (2 * x.probed) else x.probed
  let d := s.readLists b ((b.queries.filter fun x => !x.poison).flatMap fun x => (x.order.take (more x)).drop x.probed)
  let r := s.scanRound d fun x => (x.order.take (more x)).drop x.probed
  s.runBatch = some b → b.phase = .widen → s.alive = true → Machine.exec .widenRoundDone s =
    .next (r.1.afterRound { d with queries := (d.queries.zip r.2).map fun x => { x.2 with probed := more x.1, widened := x.1.widened || d.widens x.1 } }))
  ∧ (∀ (s t : State) (k : Fin 16) (list : Nat) (segs : List Nat), let i := k.val
  let x := s.index i
  let h := x.header
  let es := s.listEntries h list
  let gone (e : ListEntry) : Bool := e.tombstone && !(s.delLog i).any fun d => d.1 == e.slot
  let t1 := (es.filter gone).foldl (fun s e => s.putItem h e.slot { s.item h e.slot with used := false, deleted := false }) t
  let t2 := t1.putDir h list { first := segs.headD noSeg, last := segs.getLastD noSeg, count := (es.filter fun e => !gone e).length }
  let y := t2.index i
  x.compacting.contains list = true → s.flag Reg.CHAM_CTRL 2 = false → s.alive = true → State.copyEntries i list (es.filter fun e => !gone e) 0 [] s = some (segs, t) →
  Machine.exec (.compactionDone k list) s = .next ((t2.setIndex i { y with compacting := y.compacting.filter fun l => l != list, oldSegs := y.oldSegs ++ [(s.listSegs h list, (t2.cham.batches.filter fun b => b.header.index == i).map Batch.number)] }).startCompactions i))
  ∧ (∀ (s : State) (k : Fin 16), let i := k.val
  let x := s.index i
  let done (o : List Nat × List Nat) : Bool := o.2.all fun n => !s.cham.batches.any fun b => b.number == n
  x.registered = true → Machine.exec (.oldSegmentsFreed k) s =
    .next (s.setIndex i { x with usedSegs := x.usedSegs.filter fun g => !((x.oldSegs.filter done).flatMap Prod.fst).contains g, oldSegs := x.oldSegs.filter fun o => !done o }))
end

