-- ==== Sys2Proof/Laws/Tab.lean ====
section
/-! SUPPORT. Laws of sparse tables: a value placed is read back, other keys are left alone, and the canonical form is kept. -/

namespace Sys2Proof.Machine

/-- Placing a value leaves every other key alone. -/
theorem Tab.look_place_ne {α : Type} [DecidableEq α] {d e v : α} {j k : Nat} (h : j ≠ k) (t : Tab α) :
    Tab.look e j (Tab.place d k v t) = Tab.look e j t := by
  induction t with
  | nil =>
    simp only [Tab.place]
    split <;> simp [Tab.look, Ne.symm h]
  | cons x t ih =>
    obtain ⟨i, w⟩ := x
    simp only [Tab.place]
    split
    · simp only [Tab.look, ih]
    · split
      · rename_i hik
        split <;> simp [Tab.look, hik, Ne.symm h]
      · split <;> simp [Tab.look, Ne.symm h]

/-- In a canonical table every key below the bound is unlisted. -/
theorem Tab.look_of_wfFrom {α : Type} [DecidableEq α] {d : Nat → α} {e : α} {k : Nat} :
    ∀ {lo : Nat} {t : Tab α}, Tab.wfFrom d lo t = true → k < lo → Tab.look e k t = e
  | _, [], _, _ => rfl
  | lo, (j, w) :: t, h, hk => by
    simp only [Tab.wfFrom, Bool.and_eq_true, decide_eq_true_eq] at h
    have : j ≠ k := by omega
    simp only [Tab.look, this, if_false]
    exact Tab.look_of_wfFrom h.2 (by omega)

/-- A value placed in a canonical table is read back. -/
theorem Tab.look_place {α : Type} [DecidableEq α] {d : Nat → α} {k : Nat} {v : α} :
    ∀ {lo : Nat} {t : Tab α}, Tab.wfFrom d lo t = true → Tab.look (d k) k (Tab.place (d k) k v t) = v
  | _, [], _ => by simp only [Tab.place]; split <;> simp_all [Tab.look]
  | lo, (j, w) :: t, h => by
    simp only [Tab.wfFrom, Bool.and_eq_true, decide_eq_true_eq] at h
    simp only [Tab.place]
    split
    · rename_i hj
      have : j ≠ k := by omega
      simp only [Tab.look, this, if_false]
      exact Tab.look_place h.2
    · split
      · rename_i hj hk
        split
        · rename_i hv
          rw [Tab.look_of_wfFrom h.2 (by omega), hv]
        · simp [Tab.look]
      · rename_i hj hk
        split
        · rename_i hv
          simp only [Tab.look, hk, if_false]
          rw [Tab.look_of_wfFrom h.2 (by omega), hv]
        · simp [Tab.look]

/-- The canonical form holds from any lower bound. -/
theorem Tab.wfFrom_mono {α : Type} [DecidableEq α] {d : Nat → α} {lo lo' : Nat} (hl : lo' ≤ lo) :
    ∀ {t : Tab α}, Tab.wfFrom d lo t = true → Tab.wfFrom d lo' t = true
  | [], _ => rfl
  | (j, w) :: t, h => by
    simp only [Tab.wfFrom, Bool.and_eq_true, decide_eq_true_eq] at h ⊢
    exact ⟨⟨by omega, h.1.2⟩, h.2⟩

/-- Placing a value keeps the canonical form. -/
theorem Tab.wfFrom_place {α : Type} [DecidableEq α] {d : Nat → α} {k : Nat} {v : α} :
    ∀ {lo : Nat} {t : Tab α}, lo ≤ k → Tab.wfFrom d lo t = true → Tab.wfFrom d lo (Tab.place (d k) k v t) = true
  | lo, [], hl, _ => by simp only [Tab.place]; split <;> simp_all [Tab.wfFrom]
  | lo, (j, w) :: t, hl, h => by
    simp only [Tab.wfFrom, Bool.and_eq_true, decide_eq_true_eq] at h
    simp only [Tab.place]
    split
    · simp only [Tab.wfFrom, Bool.and_eq_true, decide_eq_true_eq]
      exact ⟨h.1, Tab.wfFrom_place (by omega) h.2⟩
    · split
      · rename_i hj hk
        subst hk
        split
        · exact Tab.wfFrom_mono (by omega) h.2
        · rename_i hv
          simp only [Tab.wfFrom, Bool.and_eq_true, decide_eq_true_eq]
          exact ⟨⟨hl, hv⟩, h.2⟩
      · rename_i hj hk
        split
        · simp only [Tab.wfFrom, Bool.and_eq_true, decide_eq_true_eq]
          exact h
        · rename_i hv
          simp only [Tab.wfFrom, Bool.and_eq_true, decide_eq_true_eq]
          exact ⟨⟨hl, hv⟩, ⟨by omega, h.1.2⟩, h.2⟩

/-- Placing a value keeps the canonical form. -/
theorem Tab.wfBy_place {α : Type} [DecidableEq α] {d : Nat → α} {k : Nat} {v : α} {t : Tab α} (h : Tab.wfBy d t = true) :
    Tab.wfBy d (Tab.place (d k) k v t) = true := Tab.wfFrom_place (Nat.zero_le k) h

/-- Leaving entries out keeps the canonical form. -/
theorem Tab.wfFrom_filter {α : Type} [DecidableEq α] {d : Nat → α} (p : Nat × α → Bool) :
    ∀ {lo : Nat} {t : Tab α}, Tab.wfFrom d lo t = true → Tab.wfFrom d lo (t.filter p) = true
  | _, [], _ => rfl
  | lo, (j, w) :: t, h => by
    simp only [Tab.wfFrom, Bool.and_eq_true, decide_eq_true_eq] at h
    simp only [List.filter_cons]
    split
    · simp only [Tab.wfFrom, Bool.and_eq_true, decide_eq_true_eq]
      exact ⟨h.1, Tab.wfFrom_filter p h.2⟩
    · exact Tab.wfFrom_mono (by omega) (Tab.wfFrom_filter p h.2)

/-- A value placed is read back, when it is not the unlisted one, whatever the table. -/
theorem Tab.look_place_ne_default {α : Type} [DecidableEq α] {d v : α} {k : Nat} (hv : v ≠ d) (t : Tab α) :
    Tab.look d k (Tab.place d k v t) = v := by
  induction t with
  | nil => simp [Tab.place, hv, Tab.look]
  | cons x t ih =>
    obtain ⟨j, w⟩ := x
    simp only [Tab.place]
    split
    · rename_i hj
      have : j ≠ k := by omega
      simp [Tab.look, this, ih]
    · split
      · simp [hv, Tab.look]
      · simp [hv, Tab.look]

/-- Writing a table leaves every other key alone. -/
theorem Tab.get_set_ne {α : Type} [Inhabited α] [DecidableEq α] {j k : Nat} (h : j ≠ k) (t : Tab α) (v : α) :
    (t.set k v).get j = t.get j := Tab.look_place_ne h t

/-- What is written in a table is read back, when it is not the default. -/
theorem Tab.get_set_self {α : Type} [Inhabited α] [DecidableEq α] {v : α} (hv : v ≠ default) (t : Tab α) (k : Nat) :
    (t.set k v).get k = v := Tab.look_place_ne_default hv t

/-- What is written in a canonical table is read back. -/
theorem Tab.get_set_wf {α : Type} [Inhabited α] [DecidableEq α] {t : Tab α} (h : t.wf = true) (k : Nat) (v : α) :
    (t.set k v).get k = v := Tab.look_place (d := fun _ => default) (lo := 0) h

/-- Writing a table keeps its canonical form. -/
theorem Tab.wf_set {α : Type} [Inhabited α] [DecidableEq α] {t : Tab α} (h : t.wf = true) (k : Nat) (v : α) :
    (t.set k v).wf = true := Tab.wfBy_place (d := fun _ => default) h

end Sys2Proof.Machine
end

