-- ==== Sys2Proof/Laws/State.lean ====
section
/-! SUPPORT. What each update of a state leaves of its fields, and what a written register, byte or table entry reads as. -/

namespace Sys2Proof.Machine

/-! ### State.wr -/

@[simp] theorem State.wr_pending (s : State) (a : Nat) (v : U32) : (s.wr a v).pending = s.pending := rfl
@[simp] theorem State.wr_fresh (s : State) (a : Nat) (v : U32) : (s.wr a v).fresh = s.fresh := rfl
@[simp] theorem State.wr_order (s : State) (a : Nat) (v : U32) : (s.wr a v).order = s.order := rfl
@[simp] theorem State.wr_ready (s : State) (a : Nat) (v : U32) : (s.wr a v).ready = s.ready := rfl
@[simp] theorem State.wr_run (s : State) (a : Nat) (v : U32) : (s.wr a v).run = s.run := rfl
@[simp] theorem State.wr_latches (s : State) (a : Nat) (v : U32) : (s.wr a v).latches = s.latches := rfl
@[simp] theorem State.wr_staged (s : State) (a : Nat) (v : U32) : (s.wr a v).staged = s.staged := rfl
@[simp] theorem State.wr_mem (s : State) (a : Nat) (v : U32) : (s.wr a v).mem = s.mem := rfl
@[simp] theorem State.wr_hostif (s : State) (a : Nat) (v : U32) : (s.wr a v).hostif = s.hostif := rfl
@[simp] theorem State.wr_fault (s : State) (a : Nat) (v : U32) : (s.wr a v).fault = s.fault := rfl
@[simp] theorem State.wr_obs (s : State) (a : Nat) (v : U32) : (s.wr a v).obs = s.obs := rfl
@[simp] theorem State.wr_tenant (s : State) (a : Nat) (v : U32) : (s.wr a v).tenant = s.tenant := rfl
@[simp] theorem State.wr_tier (s : State) (a : Nat) (v : U32) : (s.wr a v).tier = s.tier := rfl
@[simp] theorem State.wr_herd (s : State) (a : Nat) (v : U32) : (s.wr a v).herd = s.herd := rfl
@[simp] theorem State.wr_anchor (s : State) (a : Nat) (v : U32) : (s.wr a v).anchor = s.anchor := rfl
@[simp] theorem State.wr_eland (s : State) (a : Nat) (v : U32) : (s.wr a v).eland = s.eland := rfl
@[simp] theorem State.wr_spring (s : State) (a : Nat) (v : U32) : (s.wr a v).spring = s.spring := rfl
@[simp] theorem State.wr_ibex (s : State) (a : Nat) (v : U32) : (s.wr a v).ibex = s.ibex := rfl
@[simp] theorem State.wr_handoff (s : State) (a : Nat) (v : U32) : (s.wr a v).handoff = s.handoff := rfl
@[simp] theorem State.wr_strait (s : State) (a : Nat) (v : U32) : (s.wr a v).strait = s.strait := rfl
@[simp] theorem State.wr_net (s : State) (a : Nat) (v : U32) : (s.wr a v).net = s.net := rfl
@[simp] theorem State.wr_cham (s : State) (a : Nat) (v : U32) : (s.wr a v).cham = s.cham := rfl
@[simp] theorem State.wr_health (s : State) (a : Nat) (v : U32) : (s.wr a v).health = s.health := rfl
@[simp] theorem State.wr_struct (s : State) (a : Nat) (v : U32) : (s.wr a v).struct = s.struct := rfl
@[simp] theorem State.wr_fw (s : State) (a : Nat) (v : U32) : (s.wr a v).fw = s.fw := rfl
@[simp] theorem State.wr_sec (s : State) (a : Nat) (v : U32) : (s.wr a v).sec = s.sec := rfl
@[simp] theorem State.wr_pwr (s : State) (a : Nat) (v : U32) : (s.wr a v).pwr = s.pwr := rfl
@[simp] theorem State.wr_pins (s : State) (a : Nat) (v : U32) : (s.wr a v).pins = s.pins := rfl

/-! ### State.setFlag -/

@[simp] theorem State.setFlag_pending (s : State) (a i : Nat) (b : Bool) : (s.setFlag a i b).pending = s.pending := rfl
@[simp] theorem State.setFlag_fresh (s : State) (a i : Nat) (b : Bool) : (s.setFlag a i b).fresh = s.fresh := rfl
@[simp] theorem State.setFlag_order (s : State) (a i : Nat) (b : Bool) : (s.setFlag a i b).order = s.order := rfl
@[simp] theorem State.setFlag_ready (s : State) (a i : Nat) (b : Bool) : (s.setFlag a i b).ready = s.ready := rfl
@[simp] theorem State.setFlag_run (s : State) (a i : Nat) (b : Bool) : (s.setFlag a i b).run = s.run := rfl
@[simp] theorem State.setFlag_latches (s : State) (a i : Nat) (b : Bool) : (s.setFlag a i b).latches = s.latches := rfl
@[simp] theorem State.setFlag_staged (s : State) (a i : Nat) (b : Bool) : (s.setFlag a i b).staged = s.staged := rfl
@[simp] theorem State.setFlag_mem (s : State) (a i : Nat) (b : Bool) : (s.setFlag a i b).mem = s.mem := rfl
@[simp] theorem State.setFlag_hostif (s : State) (a i : Nat) (b : Bool) : (s.setFlag a i b).hostif = s.hostif := rfl
@[simp] theorem State.setFlag_fault (s : State) (a i : Nat) (b : Bool) : (s.setFlag a i b).fault = s.fault := rfl
@[simp] theorem State.setFlag_obs (s : State) (a i : Nat) (b : Bool) : (s.setFlag a i b).obs = s.obs := rfl
@[simp] theorem State.setFlag_tenant (s : State) (a i : Nat) (b : Bool) : (s.setFlag a i b).tenant = s.tenant := rfl
@[simp] theorem State.setFlag_tier (s : State) (a i : Nat) (b : Bool) : (s.setFlag a i b).tier = s.tier := rfl
@[simp] theorem State.setFlag_herd (s : State) (a i : Nat) (b : Bool) : (s.setFlag a i b).herd = s.herd := rfl
@[simp] theorem State.setFlag_anchor (s : State) (a i : Nat) (b : Bool) : (s.setFlag a i b).anchor = s.anchor := rfl
@[simp] theorem State.setFlag_eland (s : State) (a i : Nat) (b : Bool) : (s.setFlag a i b).eland = s.eland := rfl
@[simp] theorem State.setFlag_spring (s : State) (a i : Nat) (b : Bool) : (s.setFlag a i b).spring = s.spring := rfl
@[simp] theorem State.setFlag_ibex (s : State) (a i : Nat) (b : Bool) : (s.setFlag a i b).ibex = s.ibex := rfl
@[simp] theorem State.setFlag_handoff (s : State) (a i : Nat) (b : Bool) : (s.setFlag a i b).handoff = s.handoff := rfl
@[simp] theorem State.setFlag_strait (s : State) (a i : Nat) (b : Bool) : (s.setFlag a i b).strait = s.strait := rfl
@[simp] theorem State.setFlag_net (s : State) (a i : Nat) (b : Bool) : (s.setFlag a i b).net = s.net := rfl
@[simp] theorem State.setFlag_cham (s : State) (a i : Nat) (b : Bool) : (s.setFlag a i b).cham = s.cham := rfl
@[simp] theorem State.setFlag_health (s : State) (a i : Nat) (b : Bool) : (s.setFlag a i b).health = s.health := rfl
@[simp] theorem State.setFlag_struct (s : State) (a i : Nat) (b : Bool) : (s.setFlag a i b).struct = s.struct := rfl
@[simp] theorem State.setFlag_fw (s : State) (a i : Nat) (b : Bool) : (s.setFlag a i b).fw = s.fw := rfl
@[simp] theorem State.setFlag_sec (s : State) (a i : Nat) (b : Bool) : (s.setFlag a i b).sec = s.sec := rfl
@[simp] theorem State.setFlag_pwr (s : State) (a i : Nat) (b : Bool) : (s.setFlag a i b).pwr = s.pwr := rfl
@[simp] theorem State.setFlag_pins (s : State) (a i : Nat) (b : Bool) : (s.setFlag a i b).pins = s.pins := rfl

/-! ### State.setField -/

@[simp] theorem State.setField_pending (s : State) (a lo w v : Nat) : (s.setField a lo w v).pending = s.pending := rfl
@[simp] theorem State.setField_fresh (s : State) (a lo w v : Nat) : (s.setField a lo w v).fresh = s.fresh := rfl
@[simp] theorem State.setField_order (s : State) (a lo w v : Nat) : (s.setField a lo w v).order = s.order := rfl
@[simp] theorem State.setField_ready (s : State) (a lo w v : Nat) : (s.setField a lo w v).ready = s.ready := rfl
@[simp] theorem State.setField_run (s : State) (a lo w v : Nat) : (s.setField a lo w v).run = s.run := rfl
@[simp] theorem State.setField_latches (s : State) (a lo w v : Nat) : (s.setField a lo w v).latches = s.latches := rfl
@[simp] theorem State.setField_staged (s : State) (a lo w v : Nat) : (s.setField a lo w v).staged = s.staged := rfl
@[simp] theorem State.setField_mem (s : State) (a lo w v : Nat) : (s.setField a lo w v).mem = s.mem := rfl
@[simp] theorem State.setField_hostif (s : State) (a lo w v : Nat) : (s.setField a lo w v).hostif = s.hostif := rfl
@[simp] theorem State.setField_fault (s : State) (a lo w v : Nat) : (s.setField a lo w v).fault = s.fault := rfl
@[simp] theorem State.setField_obs (s : State) (a lo w v : Nat) : (s.setField a lo w v).obs = s.obs := rfl
@[simp] theorem State.setField_tenant (s : State) (a lo w v : Nat) : (s.setField a lo w v).tenant = s.tenant := rfl
@[simp] theorem State.setField_tier (s : State) (a lo w v : Nat) : (s.setField a lo w v).tier = s.tier := rfl
@[simp] theorem State.setField_herd (s : State) (a lo w v : Nat) : (s.setField a lo w v).herd = s.herd := rfl
@[simp] theorem State.setField_anchor (s : State) (a lo w v : Nat) : (s.setField a lo w v).anchor = s.anchor := rfl
@[simp] theorem State.setField_eland (s : State) (a lo w v : Nat) : (s.setField a lo w v).eland = s.eland := rfl
@[simp] theorem State.setField_spring (s : State) (a lo w v : Nat) : (s.setField a lo w v).spring = s.spring := rfl
@[simp] theorem State.setField_ibex (s : State) (a lo w v : Nat) : (s.setField a lo w v).ibex = s.ibex := rfl
@[simp] theorem State.setField_handoff (s : State) (a lo w v : Nat) : (s.setField a lo w v).handoff = s.handoff := rfl
@[simp] theorem State.setField_strait (s : State) (a lo w v : Nat) : (s.setField a lo w v).strait = s.strait := rfl
@[simp] theorem State.setField_net (s : State) (a lo w v : Nat) : (s.setField a lo w v).net = s.net := rfl
@[simp] theorem State.setField_cham (s : State) (a lo w v : Nat) : (s.setField a lo w v).cham = s.cham := rfl
@[simp] theorem State.setField_health (s : State) (a lo w v : Nat) : (s.setField a lo w v).health = s.health := rfl
@[simp] theorem State.setField_struct (s : State) (a lo w v : Nat) : (s.setField a lo w v).struct = s.struct := rfl
@[simp] theorem State.setField_fw (s : State) (a lo w v : Nat) : (s.setField a lo w v).fw = s.fw := rfl
@[simp] theorem State.setField_sec (s : State) (a lo w v : Nat) : (s.setField a lo w v).sec = s.sec := rfl
@[simp] theorem State.setField_pwr (s : State) (a lo w v : Nat) : (s.setField a lo w v).pwr = s.pwr := rfl
@[simp] theorem State.setField_pins (s : State) (a lo w v : Nat) : (s.setField a lo w v).pins = s.pins := rfl

/-! ### State.bump -/

@[simp] theorem State.bump_pending (s : State) (a lo w n : Nat) : (s.bump a lo w n).pending = s.pending := rfl
@[simp] theorem State.bump_fresh (s : State) (a lo w n : Nat) : (s.bump a lo w n).fresh = s.fresh := rfl
@[simp] theorem State.bump_order (s : State) (a lo w n : Nat) : (s.bump a lo w n).order = s.order := rfl
@[simp] theorem State.bump_ready (s : State) (a lo w n : Nat) : (s.bump a lo w n).ready = s.ready := rfl
@[simp] theorem State.bump_run (s : State) (a lo w n : Nat) : (s.bump a lo w n).run = s.run := rfl
@[simp] theorem State.bump_latches (s : State) (a lo w n : Nat) : (s.bump a lo w n).latches = s.latches := rfl
@[simp] theorem State.bump_staged (s : State) (a lo w n : Nat) : (s.bump a lo w n).staged = s.staged := rfl
@[simp] theorem State.bump_mem (s : State) (a lo w n : Nat) : (s.bump a lo w n).mem = s.mem := rfl
@[simp] theorem State.bump_hostif (s : State) (a lo w n : Nat) : (s.bump a lo w n).hostif = s.hostif := rfl
@[simp] theorem State.bump_fault (s : State) (a lo w n : Nat) : (s.bump a lo w n).fault = s.fault := rfl
@[simp] theorem State.bump_obs (s : State) (a lo w n : Nat) : (s.bump a lo w n).obs = s.obs := rfl
@[simp] theorem State.bump_tenant (s : State) (a lo w n : Nat) : (s.bump a lo w n).tenant = s.tenant := rfl
@[simp] theorem State.bump_tier (s : State) (a lo w n : Nat) : (s.bump a lo w n).tier = s.tier := rfl
@[simp] theorem State.bump_herd (s : State) (a lo w n : Nat) : (s.bump a lo w n).herd = s.herd := rfl
@[simp] theorem State.bump_anchor (s : State) (a lo w n : Nat) : (s.bump a lo w n).anchor = s.anchor := rfl
@[simp] theorem State.bump_eland (s : State) (a lo w n : Nat) : (s.bump a lo w n).eland = s.eland := rfl
@[simp] theorem State.bump_spring (s : State) (a lo w n : Nat) : (s.bump a lo w n).spring = s.spring := rfl
@[simp] theorem State.bump_ibex (s : State) (a lo w n : Nat) : (s.bump a lo w n).ibex = s.ibex := rfl
@[simp] theorem State.bump_handoff (s : State) (a lo w n : Nat) : (s.bump a lo w n).handoff = s.handoff := rfl
@[simp] theorem State.bump_strait (s : State) (a lo w n : Nat) : (s.bump a lo w n).strait = s.strait := rfl
@[simp] theorem State.bump_net (s : State) (a lo w n : Nat) : (s.bump a lo w n).net = s.net := rfl
@[simp] theorem State.bump_cham (s : State) (a lo w n : Nat) : (s.bump a lo w n).cham = s.cham := rfl
@[simp] theorem State.bump_health (s : State) (a lo w n : Nat) : (s.bump a lo w n).health = s.health := rfl
@[simp] theorem State.bump_struct (s : State) (a lo w n : Nat) : (s.bump a lo w n).struct = s.struct := rfl
@[simp] theorem State.bump_fw (s : State) (a lo w n : Nat) : (s.bump a lo w n).fw = s.fw := rfl
@[simp] theorem State.bump_sec (s : State) (a lo w n : Nat) : (s.bump a lo w n).sec = s.sec := rfl
@[simp] theorem State.bump_pwr (s : State) (a lo w n : Nat) : (s.bump a lo w n).pwr = s.pwr := rfl
@[simp] theorem State.bump_pins (s : State) (a lo w n : Nat) : (s.bump a lo w n).pins = s.pins := rfl

/-! ### State.count -/

@[simp] theorem State.count_pending (s : State) (a n : Nat) : (s.count a n).pending = s.pending := rfl
@[simp] theorem State.count_fresh (s : State) (a n : Nat) : (s.count a n).fresh = s.fresh := rfl
@[simp] theorem State.count_order (s : State) (a n : Nat) : (s.count a n).order = s.order := rfl
@[simp] theorem State.count_ready (s : State) (a n : Nat) : (s.count a n).ready = s.ready := rfl
@[simp] theorem State.count_run (s : State) (a n : Nat) : (s.count a n).run = s.run := rfl
@[simp] theorem State.count_latches (s : State) (a n : Nat) : (s.count a n).latches = s.latches := rfl
@[simp] theorem State.count_staged (s : State) (a n : Nat) : (s.count a n).staged = s.staged := rfl
@[simp] theorem State.count_mem (s : State) (a n : Nat) : (s.count a n).mem = s.mem := rfl
@[simp] theorem State.count_hostif (s : State) (a n : Nat) : (s.count a n).hostif = s.hostif := rfl
@[simp] theorem State.count_fault (s : State) (a n : Nat) : (s.count a n).fault = s.fault := rfl
@[simp] theorem State.count_obs (s : State) (a n : Nat) : (s.count a n).obs = s.obs := rfl
@[simp] theorem State.count_tenant (s : State) (a n : Nat) : (s.count a n).tenant = s.tenant := rfl
@[simp] theorem State.count_tier (s : State) (a n : Nat) : (s.count a n).tier = s.tier := rfl
@[simp] theorem State.count_herd (s : State) (a n : Nat) : (s.count a n).herd = s.herd := rfl
@[simp] theorem State.count_anchor (s : State) (a n : Nat) : (s.count a n).anchor = s.anchor := rfl
@[simp] theorem State.count_eland (s : State) (a n : Nat) : (s.count a n).eland = s.eland := rfl
@[simp] theorem State.count_spring (s : State) (a n : Nat) : (s.count a n).spring = s.spring := rfl
@[simp] theorem State.count_ibex (s : State) (a n : Nat) : (s.count a n).ibex = s.ibex := rfl
@[simp] theorem State.count_handoff (s : State) (a n : Nat) : (s.count a n).handoff = s.handoff := rfl
@[simp] theorem State.count_strait (s : State) (a n : Nat) : (s.count a n).strait = s.strait := rfl
@[simp] theorem State.count_net (s : State) (a n : Nat) : (s.count a n).net = s.net := rfl
@[simp] theorem State.count_cham (s : State) (a n : Nat) : (s.count a n).cham = s.cham := rfl
@[simp] theorem State.count_health (s : State) (a n : Nat) : (s.count a n).health = s.health := rfl
@[simp] theorem State.count_struct (s : State) (a n : Nat) : (s.count a n).struct = s.struct := rfl
@[simp] theorem State.count_fw (s : State) (a n : Nat) : (s.count a n).fw = s.fw := rfl
@[simp] theorem State.count_sec (s : State) (a n : Nat) : (s.count a n).sec = s.sec := rfl
@[simp] theorem State.count_pwr (s : State) (a n : Nat) : (s.count a n).pwr = s.pwr := rfl
@[simp] theorem State.count_pins (s : State) (a n : Nat) : (s.count a n).pins = s.pins := rfl

/-! ### State.setByte -/

@[simp] theorem State.setByte_pending (s : State) (a : Nat) (b : Byte) : (s.setByte a b).pending = s.pending := rfl
@[simp] theorem State.setByte_fresh (s : State) (a : Nat) (b : Byte) : (s.setByte a b).fresh = s.fresh := rfl
@[simp] theorem State.setByte_order (s : State) (a : Nat) (b : Byte) : (s.setByte a b).order = s.order := rfl
@[simp] theorem State.setByte_ready (s : State) (a : Nat) (b : Byte) : (s.setByte a b).ready = s.ready := rfl
@[simp] theorem State.setByte_run (s : State) (a : Nat) (b : Byte) : (s.setByte a b).run = s.run := rfl
@[simp] theorem State.setByte_regs (s : State) (a : Nat) (b : Byte) : (s.setByte a b).regs = s.regs := rfl
@[simp] theorem State.setByte_latches (s : State) (a : Nat) (b : Byte) : (s.setByte a b).latches = s.latches := rfl
@[simp] theorem State.setByte_staged (s : State) (a : Nat) (b : Byte) : (s.setByte a b).staged = s.staged := rfl
@[simp] theorem State.setByte_hostif (s : State) (a : Nat) (b : Byte) : (s.setByte a b).hostif = s.hostif := rfl
@[simp] theorem State.setByte_fault (s : State) (a : Nat) (b : Byte) : (s.setByte a b).fault = s.fault := rfl
@[simp] theorem State.setByte_obs (s : State) (a : Nat) (b : Byte) : (s.setByte a b).obs = s.obs := rfl
@[simp] theorem State.setByte_tenant (s : State) (a : Nat) (b : Byte) : (s.setByte a b).tenant = s.tenant := rfl
@[simp] theorem State.setByte_tier (s : State) (a : Nat) (b : Byte) : (s.setByte a b).tier = s.tier := rfl
@[simp] theorem State.setByte_herd (s : State) (a : Nat) (b : Byte) : (s.setByte a b).herd = s.herd := rfl
@[simp] theorem State.setByte_anchor (s : State) (a : Nat) (b : Byte) : (s.setByte a b).anchor = s.anchor := rfl
@[simp] theorem State.setByte_eland (s : State) (a : Nat) (b : Byte) : (s.setByte a b).eland = s.eland := rfl
@[simp] theorem State.setByte_spring (s : State) (a : Nat) (b : Byte) : (s.setByte a b).spring = s.spring := rfl
@[simp] theorem State.setByte_ibex (s : State) (a : Nat) (b : Byte) : (s.setByte a b).ibex = s.ibex := rfl
@[simp] theorem State.setByte_handoff (s : State) (a : Nat) (b : Byte) : (s.setByte a b).handoff = s.handoff := rfl
@[simp] theorem State.setByte_strait (s : State) (a : Nat) (b : Byte) : (s.setByte a b).strait = s.strait := rfl
@[simp] theorem State.setByte_net (s : State) (a : Nat) (b : Byte) : (s.setByte a b).net = s.net := rfl
@[simp] theorem State.setByte_cham (s : State) (a : Nat) (b : Byte) : (s.setByte a b).cham = s.cham := rfl
@[simp] theorem State.setByte_health (s : State) (a : Nat) (b : Byte) : (s.setByte a b).health = s.health := rfl
@[simp] theorem State.setByte_struct (s : State) (a : Nat) (b : Byte) : (s.setByte a b).struct = s.struct := rfl
@[simp] theorem State.setByte_fw (s : State) (a : Nat) (b : Byte) : (s.setByte a b).fw = s.fw := rfl
@[simp] theorem State.setByte_sec (s : State) (a : Nat) (b : Byte) : (s.setByte a b).sec = s.sec := rfl
@[simp] theorem State.setByte_pwr (s : State) (a : Nat) (b : Byte) : (s.setByte a b).pwr = s.pwr := rfl
@[simp] theorem State.setByte_pins (s : State) (a : Nat) (b : Byte) : (s.setByte a b).pins = s.pins := rfl

/-! ### State.drawn -/

@[simp] theorem State.drawn_pending (s : State) : (s.drawn).pending = s.pending := rfl
@[simp] theorem State.drawn_order (s : State) : (s.drawn).order = s.order := rfl
@[simp] theorem State.drawn_ready (s : State) : (s.drawn).ready = s.ready := rfl
@[simp] theorem State.drawn_run (s : State) : (s.drawn).run = s.run := rfl
@[simp] theorem State.drawn_regs (s : State) : (s.drawn).regs = s.regs := rfl
@[simp] theorem State.drawn_latches (s : State) : (s.drawn).latches = s.latches := rfl
@[simp] theorem State.drawn_staged (s : State) : (s.drawn).staged = s.staged := rfl
@[simp] theorem State.drawn_mem (s : State) : (s.drawn).mem = s.mem := rfl
@[simp] theorem State.drawn_hostif (s : State) : (s.drawn).hostif = s.hostif := rfl
@[simp] theorem State.drawn_fault (s : State) : (s.drawn).fault = s.fault := rfl
@[simp] theorem State.drawn_obs (s : State) : (s.drawn).obs = s.obs := rfl
@[simp] theorem State.drawn_tenant (s : State) : (s.drawn).tenant = s.tenant := rfl
@[simp] theorem State.drawn_tier (s : State) : (s.drawn).tier = s.tier := rfl
@[simp] theorem State.drawn_herd (s : State) : (s.drawn).herd = s.herd := rfl
@[simp] theorem State.drawn_anchor (s : State) : (s.drawn).anchor = s.anchor := rfl
@[simp] theorem State.drawn_eland (s : State) : (s.drawn).eland = s.eland := rfl
@[simp] theorem State.drawn_spring (s : State) : (s.drawn).spring = s.spring := rfl
@[simp] theorem State.drawn_ibex (s : State) : (s.drawn).ibex = s.ibex := rfl
@[simp] theorem State.drawn_handoff (s : State) : (s.drawn).handoff = s.handoff := rfl
@[simp] theorem State.drawn_strait (s : State) : (s.drawn).strait = s.strait := rfl
@[simp] theorem State.drawn_net (s : State) : (s.drawn).net = s.net := rfl
@[simp] theorem State.drawn_cham (s : State) : (s.drawn).cham = s.cham := rfl
@[simp] theorem State.drawn_health (s : State) : (s.drawn).health = s.health := rfl
@[simp] theorem State.drawn_struct (s : State) : (s.drawn).struct = s.struct := rfl
@[simp] theorem State.drawn_fw (s : State) : (s.drawn).fw = s.fw := rfl
@[simp] theorem State.drawn_sec (s : State) : (s.drawn).sec = s.sec := rfl
@[simp] theorem State.drawn_pwr (s : State) : (s.drawn).pwr = s.pwr := rfl
@[simp] theorem State.drawn_pins (s : State) : (s.drawn).pins = s.pins := rfl

/-! ### State.drawN -/

@[simp] theorem State.drawN_pending (s : State) (n : Nat) : (s.drawN n).pending = s.pending := rfl
@[simp] theorem State.drawN_order (s : State) (n : Nat) : (s.drawN n).order = s.order := rfl
@[simp] theorem State.drawN_ready (s : State) (n : Nat) : (s.drawN n).ready = s.ready := rfl
@[simp] theorem State.drawN_run (s : State) (n : Nat) : (s.drawN n).run = s.run := rfl
@[simp] theorem State.drawN_regs (s : State) (n : Nat) : (s.drawN n).regs = s.regs := rfl
@[simp] theorem State.drawN_latches (s : State) (n : Nat) : (s.drawN n).latches = s.latches := rfl
@[simp] theorem State.drawN_staged (s : State) (n : Nat) : (s.drawN n).staged = s.staged := rfl
@[simp] theorem State.drawN_mem (s : State) (n : Nat) : (s.drawN n).mem = s.mem := rfl
@[simp] theorem State.drawN_hostif (s : State) (n : Nat) : (s.drawN n).hostif = s.hostif := rfl
@[simp] theorem State.drawN_fault (s : State) (n : Nat) : (s.drawN n).fault = s.fault := rfl
@[simp] theorem State.drawN_obs (s : State) (n : Nat) : (s.drawN n).obs = s.obs := rfl
@[simp] theorem State.drawN_tenant (s : State) (n : Nat) : (s.drawN n).tenant = s.tenant := rfl
@[simp] theorem State.drawN_tier (s : State) (n : Nat) : (s.drawN n).tier = s.tier := rfl
@[simp] theorem State.drawN_herd (s : State) (n : Nat) : (s.drawN n).herd = s.herd := rfl
@[simp] theorem State.drawN_anchor (s : State) (n : Nat) : (s.drawN n).anchor = s.anchor := rfl
@[simp] theorem State.drawN_eland (s : State) (n : Nat) : (s.drawN n).eland = s.eland := rfl
@[simp] theorem State.drawN_spring (s : State) (n : Nat) : (s.drawN n).spring = s.spring := rfl
@[simp] theorem State.drawN_ibex (s : State) (n : Nat) : (s.drawN n).ibex = s.ibex := rfl
@[simp] theorem State.drawN_handoff (s : State) (n : Nat) : (s.drawN n).handoff = s.handoff := rfl
@[simp] theorem State.drawN_strait (s : State) (n : Nat) : (s.drawN n).strait = s.strait := rfl
@[simp] theorem State.drawN_net (s : State) (n : Nat) : (s.drawN n).net = s.net := rfl
@[simp] theorem State.drawN_cham (s : State) (n : Nat) : (s.drawN n).cham = s.cham := rfl
@[simp] theorem State.drawN_health (s : State) (n : Nat) : (s.drawN n).health = s.health := rfl
@[simp] theorem State.drawN_struct (s : State) (n : Nat) : (s.drawN n).struct = s.struct := rfl
@[simp] theorem State.drawN_fw (s : State) (n : Nat) : (s.drawN n).fw = s.fw := rfl
@[simp] theorem State.drawN_sec (s : State) (n : Nat) : (s.drawN n).sec = s.sec := rfl
@[simp] theorem State.drawN_pwr (s : State) (n : Nat) : (s.drawN n).pwr = s.pwr := rfl
@[simp] theorem State.drawN_pins (s : State) (n : Nat) : (s.drawN n).pins = s.pins := rfl

/-! ### State.setReady -/

@[simp] theorem State.setReady_pending (s : State) (k : Nat) (b : Bool) : (s.setReady k b).pending = s.pending := rfl
@[simp] theorem State.setReady_fresh (s : State) (k : Nat) (b : Bool) : (s.setReady k b).fresh = s.fresh := rfl
@[simp] theorem State.setReady_order (s : State) (k : Nat) (b : Bool) : (s.setReady k b).order = s.order := rfl
@[simp] theorem State.setReady_run (s : State) (k : Nat) (b : Bool) : (s.setReady k b).run = s.run := rfl
@[simp] theorem State.setReady_regs (s : State) (k : Nat) (b : Bool) : (s.setReady k b).regs = s.regs := rfl
@[simp] theorem State.setReady_latches (s : State) (k : Nat) (b : Bool) : (s.setReady k b).latches = s.latches := rfl
@[simp] theorem State.setReady_staged (s : State) (k : Nat) (b : Bool) : (s.setReady k b).staged = s.staged := rfl
@[simp] theorem State.setReady_mem (s : State) (k : Nat) (b : Bool) : (s.setReady k b).mem = s.mem := rfl
@[simp] theorem State.setReady_hostif (s : State) (k : Nat) (b : Bool) : (s.setReady k b).hostif = s.hostif := rfl
@[simp] theorem State.setReady_fault (s : State) (k : Nat) (b : Bool) : (s.setReady k b).fault = s.fault := rfl
@[simp] theorem State.setReady_obs (s : State) (k : Nat) (b : Bool) : (s.setReady k b).obs = s.obs := rfl
@[simp] theorem State.setReady_tenant (s : State) (k : Nat) (b : Bool) : (s.setReady k b).tenant = s.tenant := rfl
@[simp] theorem State.setReady_tier (s : State) (k : Nat) (b : Bool) : (s.setReady k b).tier = s.tier := rfl
@[simp] theorem State.setReady_herd (s : State) (k : Nat) (b : Bool) : (s.setReady k b).herd = s.herd := rfl
@[simp] theorem State.setReady_anchor (s : State) (k : Nat) (b : Bool) : (s.setReady k b).anchor = s.anchor := rfl
@[simp] theorem State.setReady_eland (s : State) (k : Nat) (b : Bool) : (s.setReady k b).eland = s.eland := rfl
@[simp] theorem State.setReady_spring (s : State) (k : Nat) (b : Bool) : (s.setReady k b).spring = s.spring := rfl
@[simp] theorem State.setReady_ibex (s : State) (k : Nat) (b : Bool) : (s.setReady k b).ibex = s.ibex := rfl
@[simp] theorem State.setReady_handoff (s : State) (k : Nat) (b : Bool) : (s.setReady k b).handoff = s.handoff := rfl
@[simp] theorem State.setReady_strait (s : State) (k : Nat) (b : Bool) : (s.setReady k b).strait = s.strait := rfl
@[simp] theorem State.setReady_net (s : State) (k : Nat) (b : Bool) : (s.setReady k b).net = s.net := rfl
@[simp] theorem State.setReady_cham (s : State) (k : Nat) (b : Bool) : (s.setReady k b).cham = s.cham := rfl
@[simp] theorem State.setReady_health (s : State) (k : Nat) (b : Bool) : (s.setReady k b).health = s.health := rfl
@[simp] theorem State.setReady_struct (s : State) (k : Nat) (b : Bool) : (s.setReady k b).struct = s.struct := rfl
@[simp] theorem State.setReady_fw (s : State) (k : Nat) (b : Bool) : (s.setReady k b).fw = s.fw := rfl
@[simp] theorem State.setReady_sec (s : State) (k : Nat) (b : Bool) : (s.setReady k b).sec = s.sec := rfl
@[simp] theorem State.setReady_pwr (s : State) (k : Nat) (b : Bool) : (s.setReady k b).pwr = s.pwr := rfl
@[simp] theorem State.setReady_pins (s : State) (k : Nat) (b : Bool) : (s.setReady k b).pins = s.pins := rfl

/-! ### State.decided -/

@[simp] theorem State.decided_pending (s : State) (i : Nat) : (s.decided i).pending = s.pending := rfl
@[simp] theorem State.decided_fresh (s : State) (i : Nat) : (s.decided i).fresh = s.fresh := rfl
@[simp] theorem State.decided_order (s : State) (i : Nat) : (s.decided i).order = s.order := rfl
@[simp] theorem State.decided_ready (s : State) (i : Nat) : (s.decided i).ready = s.ready := rfl
@[simp] theorem State.decided_run (s : State) (i : Nat) : (s.decided i).run = s.run := rfl
@[simp] theorem State.decided_regs (s : State) (i : Nat) : (s.decided i).regs = s.regs := rfl
@[simp] theorem State.decided_latches (s : State) (i : Nat) : (s.decided i).latches = s.latches := rfl
@[simp] theorem State.decided_staged (s : State) (i : Nat) : (s.decided i).staged = s.staged := rfl
@[simp] theorem State.decided_mem (s : State) (i : Nat) : (s.decided i).mem = s.mem := rfl
@[simp] theorem State.decided_hostif (s : State) (i : Nat) : (s.decided i).hostif = s.hostif := rfl
@[simp] theorem State.decided_obs (s : State) (i : Nat) : (s.decided i).obs = s.obs := rfl
@[simp] theorem State.decided_tenant (s : State) (i : Nat) : (s.decided i).tenant = s.tenant := rfl
@[simp] theorem State.decided_tier (s : State) (i : Nat) : (s.decided i).tier = s.tier := rfl
@[simp] theorem State.decided_herd (s : State) (i : Nat) : (s.decided i).herd = s.herd := rfl
@[simp] theorem State.decided_anchor (s : State) (i : Nat) : (s.decided i).anchor = s.anchor := rfl
@[simp] theorem State.decided_eland (s : State) (i : Nat) : (s.decided i).eland = s.eland := rfl
@[simp] theorem State.decided_spring (s : State) (i : Nat) : (s.decided i).spring = s.spring := rfl
@[simp] theorem State.decided_ibex (s : State) (i : Nat) : (s.decided i).ibex = s.ibex := rfl
@[simp] theorem State.decided_handoff (s : State) (i : Nat) : (s.decided i).handoff = s.handoff := rfl
@[simp] theorem State.decided_strait (s : State) (i : Nat) : (s.decided i).strait = s.strait := rfl
@[simp] theorem State.decided_net (s : State) (i : Nat) : (s.decided i).net = s.net := rfl
@[simp] theorem State.decided_cham (s : State) (i : Nat) : (s.decided i).cham = s.cham := rfl
@[simp] theorem State.decided_health (s : State) (i : Nat) : (s.decided i).health = s.health := rfl
@[simp] theorem State.decided_struct (s : State) (i : Nat) : (s.decided i).struct = s.struct := rfl
@[simp] theorem State.decided_fw (s : State) (i : Nat) : (s.decided i).fw = s.fw := rfl
@[simp] theorem State.decided_sec (s : State) (i : Nat) : (s.decided i).sec = s.sec := rfl
@[simp] theorem State.decided_pwr (s : State) (i : Nat) : (s.decided i).pwr = s.pwr := rfl
@[simp] theorem State.decided_pins (s : State) (i : Nat) : (s.decided i).pins = s.pins := rfl

/-! ### State.obsCount -/

@[simp] theorem State.obsCount_pending (s : State) (i n : Nat) : (s.obsCount i n).pending = s.pending := rfl
@[simp] theorem State.obsCount_fresh (s : State) (i n : Nat) : (s.obsCount i n).fresh = s.fresh := rfl
@[simp] theorem State.obsCount_order (s : State) (i n : Nat) : (s.obsCount i n).order = s.order := rfl
@[simp] theorem State.obsCount_ready (s : State) (i n : Nat) : (s.obsCount i n).ready = s.ready := rfl
@[simp] theorem State.obsCount_run (s : State) (i n : Nat) : (s.obsCount i n).run = s.run := rfl
@[simp] theorem State.obsCount_regs (s : State) (i n : Nat) : (s.obsCount i n).regs = s.regs := rfl
@[simp] theorem State.obsCount_latches (s : State) (i n : Nat) : (s.obsCount i n).latches = s.latches := rfl
@[simp] theorem State.obsCount_staged (s : State) (i n : Nat) : (s.obsCount i n).staged = s.staged := rfl
@[simp] theorem State.obsCount_mem (s : State) (i n : Nat) : (s.obsCount i n).mem = s.mem := rfl
@[simp] theorem State.obsCount_hostif (s : State) (i n : Nat) : (s.obsCount i n).hostif = s.hostif := rfl
@[simp] theorem State.obsCount_fault (s : State) (i n : Nat) : (s.obsCount i n).fault = s.fault := rfl
@[simp] theorem State.obsCount_tenant (s : State) (i n : Nat) : (s.obsCount i n).tenant = s.tenant := rfl
@[simp] theorem State.obsCount_tier (s : State) (i n : Nat) : (s.obsCount i n).tier = s.tier := rfl
@[simp] theorem State.obsCount_herd (s : State) (i n : Nat) : (s.obsCount i n).herd = s.herd := rfl
@[simp] theorem State.obsCount_anchor (s : State) (i n : Nat) : (s.obsCount i n).anchor = s.anchor := rfl
@[simp] theorem State.obsCount_eland (s : State) (i n : Nat) : (s.obsCount i n).eland = s.eland := rfl
@[simp] theorem State.obsCount_spring (s : State) (i n : Nat) : (s.obsCount i n).spring = s.spring := rfl
@[simp] theorem State.obsCount_ibex (s : State) (i n : Nat) : (s.obsCount i n).ibex = s.ibex := rfl
@[simp] theorem State.obsCount_handoff (s : State) (i n : Nat) : (s.obsCount i n).handoff = s.handoff := rfl
@[simp] theorem State.obsCount_strait (s : State) (i n : Nat) : (s.obsCount i n).strait = s.strait := rfl
@[simp] theorem State.obsCount_net (s : State) (i n : Nat) : (s.obsCount i n).net = s.net := rfl
@[simp] theorem State.obsCount_cham (s : State) (i n : Nat) : (s.obsCount i n).cham = s.cham := rfl
@[simp] theorem State.obsCount_health (s : State) (i n : Nat) : (s.obsCount i n).health = s.health := rfl
@[simp] theorem State.obsCount_struct (s : State) (i n : Nat) : (s.obsCount i n).struct = s.struct := rfl
@[simp] theorem State.obsCount_fw (s : State) (i n : Nat) : (s.obsCount i n).fw = s.fw := rfl
@[simp] theorem State.obsCount_sec (s : State) (i n : Nat) : (s.obsCount i n).sec = s.sec := rfl
@[simp] theorem State.obsCount_pwr (s : State) (i n : Nat) : (s.obsCount i n).pwr = s.pwr := rfl
@[simp] theorem State.obsCount_pins (s : State) (i n : Nat) : (s.obsCount i n).pins = s.pins := rfl

/-! ### State.setTenant -/

@[simp] theorem State.setTenant_pending (s : State) (t : Nat) (e : Tenant) : (s.setTenant t e).pending = s.pending := rfl
@[simp] theorem State.setTenant_fresh (s : State) (t : Nat) (e : Tenant) : (s.setTenant t e).fresh = s.fresh := rfl
@[simp] theorem State.setTenant_order (s : State) (t : Nat) (e : Tenant) : (s.setTenant t e).order = s.order := rfl
@[simp] theorem State.setTenant_ready (s : State) (t : Nat) (e : Tenant) : (s.setTenant t e).ready = s.ready := rfl
@[simp] theorem State.setTenant_run (s : State) (t : Nat) (e : Tenant) : (s.setTenant t e).run = s.run := rfl
@[simp] theorem State.setTenant_regs (s : State) (t : Nat) (e : Tenant) : (s.setTenant t e).regs = s.regs := rfl
@[simp] theorem State.setTenant_latches (s : State) (t : Nat) (e : Tenant) : (s.setTenant t e).latches = s.latches := rfl
@[simp] theorem State.setTenant_staged (s : State) (t : Nat) (e : Tenant) : (s.setTenant t e).staged = s.staged := rfl
@[simp] theorem State.setTenant_mem (s : State) (t : Nat) (e : Tenant) : (s.setTenant t e).mem = s.mem := rfl
@[simp] theorem State.setTenant_hostif (s : State) (t : Nat) (e : Tenant) : (s.setTenant t e).hostif = s.hostif := rfl
@[simp] theorem State.setTenant_fault (s : State) (t : Nat) (e : Tenant) : (s.setTenant t e).fault = s.fault := rfl
@[simp] theorem State.setTenant_obs (s : State) (t : Nat) (e : Tenant) : (s.setTenant t e).obs = s.obs := rfl
@[simp] theorem State.setTenant_tier (s : State) (t : Nat) (e : Tenant) : (s.setTenant t e).tier = s.tier := rfl
@[simp] theorem State.setTenant_herd (s : State) (t : Nat) (e : Tenant) : (s.setTenant t e).herd = s.herd := rfl
@[simp] theorem State.setTenant_anchor (s : State) (t : Nat) (e : Tenant) : (s.setTenant t e).anchor = s.anchor := rfl
@[simp] theorem State.setTenant_eland (s : State) (t : Nat) (e : Tenant) : (s.setTenant t e).eland = s.eland := rfl
@[simp] theorem State.setTenant_spring (s : State) (t : Nat) (e : Tenant) : (s.setTenant t e).spring = s.spring := rfl
@[simp] theorem State.setTenant_ibex (s : State) (t : Nat) (e : Tenant) : (s.setTenant t e).ibex = s.ibex := rfl
@[simp] theorem State.setTenant_handoff (s : State) (t : Nat) (e : Tenant) : (s.setTenant t e).handoff = s.handoff := rfl
@[simp] theorem State.setTenant_strait (s : State) (t : Nat) (e : Tenant) : (s.setTenant t e).strait = s.strait := rfl
@[simp] theorem State.setTenant_net (s : State) (t : Nat) (e : Tenant) : (s.setTenant t e).net = s.net := rfl
@[simp] theorem State.setTenant_cham (s : State) (t : Nat) (e : Tenant) : (s.setTenant t e).cham = s.cham := rfl
@[simp] theorem State.setTenant_health (s : State) (t : Nat) (e : Tenant) : (s.setTenant t e).health = s.health := rfl
@[simp] theorem State.setTenant_struct (s : State) (t : Nat) (e : Tenant) : (s.setTenant t e).struct = s.struct := rfl
@[simp] theorem State.setTenant_fw (s : State) (t : Nat) (e : Tenant) : (s.setTenant t e).fw = s.fw := rfl
@[simp] theorem State.setTenant_sec (s : State) (t : Nat) (e : Tenant) : (s.setTenant t e).sec = s.sec := rfl
@[simp] theorem State.setTenant_pwr (s : State) (t : Nat) (e : Tenant) : (s.setTenant t e).pwr = s.pwr := rfl
@[simp] theorem State.setTenant_pins (s : State) (t : Nat) (e : Tenant) : (s.setTenant t e).pins = s.pins := rfl

/-! ### State.tally -/

@[simp] theorem State.tally_pending (s : State) (t : Nat) (f : Usage → Usage) : (s.tally t f).pending = s.pending := rfl
@[simp] theorem State.tally_fresh (s : State) (t : Nat) (f : Usage → Usage) : (s.tally t f).fresh = s.fresh := rfl
@[simp] theorem State.tally_order (s : State) (t : Nat) (f : Usage → Usage) : (s.tally t f).order = s.order := rfl
@[simp] theorem State.tally_ready (s : State) (t : Nat) (f : Usage → Usage) : (s.tally t f).ready = s.ready := rfl
@[simp] theorem State.tally_run (s : State) (t : Nat) (f : Usage → Usage) : (s.tally t f).run = s.run := rfl
@[simp] theorem State.tally_regs (s : State) (t : Nat) (f : Usage → Usage) : (s.tally t f).regs = s.regs := rfl
@[simp] theorem State.tally_latches (s : State) (t : Nat) (f : Usage → Usage) : (s.tally t f).latches = s.latches := rfl
@[simp] theorem State.tally_staged (s : State) (t : Nat) (f : Usage → Usage) : (s.tally t f).staged = s.staged := rfl
@[simp] theorem State.tally_mem (s : State) (t : Nat) (f : Usage → Usage) : (s.tally t f).mem = s.mem := rfl
@[simp] theorem State.tally_hostif (s : State) (t : Nat) (f : Usage → Usage) : (s.tally t f).hostif = s.hostif := rfl
@[simp] theorem State.tally_fault (s : State) (t : Nat) (f : Usage → Usage) : (s.tally t f).fault = s.fault := rfl
@[simp] theorem State.tally_obs (s : State) (t : Nat) (f : Usage → Usage) : (s.tally t f).obs = s.obs := rfl
@[simp] theorem State.tally_tier (s : State) (t : Nat) (f : Usage → Usage) : (s.tally t f).tier = s.tier := rfl
@[simp] theorem State.tally_herd (s : State) (t : Nat) (f : Usage → Usage) : (s.tally t f).herd = s.herd := rfl
@[simp] theorem State.tally_anchor (s : State) (t : Nat) (f : Usage → Usage) : (s.tally t f).anchor = s.anchor := rfl
@[simp] theorem State.tally_eland (s : State) (t : Nat) (f : Usage → Usage) : (s.tally t f).eland = s.eland := rfl
@[simp] theorem State.tally_spring (s : State) (t : Nat) (f : Usage → Usage) : (s.tally t f).spring = s.spring := rfl
@[simp] theorem State.tally_ibex (s : State) (t : Nat) (f : Usage → Usage) : (s.tally t f).ibex = s.ibex := rfl
@[simp] theorem State.tally_handoff (s : State) (t : Nat) (f : Usage → Usage) : (s.tally t f).handoff = s.handoff := rfl
@[simp] theorem State.tally_strait (s : State) (t : Nat) (f : Usage → Usage) : (s.tally t f).strait = s.strait := rfl
@[simp] theorem State.tally_net (s : State) (t : Nat) (f : Usage → Usage) : (s.tally t f).net = s.net := rfl
@[simp] theorem State.tally_cham (s : State) (t : Nat) (f : Usage → Usage) : (s.tally t f).cham = s.cham := rfl
@[simp] theorem State.tally_health (s : State) (t : Nat) (f : Usage → Usage) : (s.tally t f).health = s.health := rfl
@[simp] theorem State.tally_struct (s : State) (t : Nat) (f : Usage → Usage) : (s.tally t f).struct = s.struct := rfl
@[simp] theorem State.tally_fw (s : State) (t : Nat) (f : Usage → Usage) : (s.tally t f).fw = s.fw := rfl
@[simp] theorem State.tally_sec (s : State) (t : Nat) (f : Usage → Usage) : (s.tally t f).sec = s.sec := rfl
@[simp] theorem State.tally_pwr (s : State) (t : Nat) (f : Usage → Usage) : (s.tally t f).pwr = s.pwr := rfl
@[simp] theorem State.tally_pins (s : State) (t : Nat) (f : Usage → Usage) : (s.tally t f).pins = s.pins := rfl

/-! ### State.setRecord -/

@[simp] theorem State.setRecord_pending (s : State) (i : Nat) (r : Record) : (s.setRecord i r).pending = s.pending := rfl
@[simp] theorem State.setRecord_fresh (s : State) (i : Nat) (r : Record) : (s.setRecord i r).fresh = s.fresh := rfl
@[simp] theorem State.setRecord_order (s : State) (i : Nat) (r : Record) : (s.setRecord i r).order = s.order := rfl
@[simp] theorem State.setRecord_ready (s : State) (i : Nat) (r : Record) : (s.setRecord i r).ready = s.ready := rfl
@[simp] theorem State.setRecord_run (s : State) (i : Nat) (r : Record) : (s.setRecord i r).run = s.run := rfl
@[simp] theorem State.setRecord_regs (s : State) (i : Nat) (r : Record) : (s.setRecord i r).regs = s.regs := rfl
@[simp] theorem State.setRecord_latches (s : State) (i : Nat) (r : Record) : (s.setRecord i r).latches = s.latches := rfl
@[simp] theorem State.setRecord_staged (s : State) (i : Nat) (r : Record) : (s.setRecord i r).staged = s.staged := rfl
@[simp] theorem State.setRecord_mem (s : State) (i : Nat) (r : Record) : (s.setRecord i r).mem = s.mem := rfl
@[simp] theorem State.setRecord_hostif (s : State) (i : Nat) (r : Record) : (s.setRecord i r).hostif = s.hostif := rfl
@[simp] theorem State.setRecord_fault (s : State) (i : Nat) (r : Record) : (s.setRecord i r).fault = s.fault := rfl
@[simp] theorem State.setRecord_obs (s : State) (i : Nat) (r : Record) : (s.setRecord i r).obs = s.obs := rfl
@[simp] theorem State.setRecord_tenant (s : State) (i : Nat) (r : Record) : (s.setRecord i r).tenant = s.tenant := rfl
@[simp] theorem State.setRecord_tier (s : State) (i : Nat) (r : Record) : (s.setRecord i r).tier = s.tier := rfl
@[simp] theorem State.setRecord_herd (s : State) (i : Nat) (r : Record) : (s.setRecord i r).herd = s.herd := rfl
@[simp] theorem State.setRecord_eland (s : State) (i : Nat) (r : Record) : (s.setRecord i r).eland = s.eland := rfl
@[simp] theorem State.setRecord_spring (s : State) (i : Nat) (r : Record) : (s.setRecord i r).spring = s.spring := rfl
@[simp] theorem State.setRecord_ibex (s : State) (i : Nat) (r : Record) : (s.setRecord i r).ibex = s.ibex := rfl
@[simp] theorem State.setRecord_handoff (s : State) (i : Nat) (r : Record) : (s.setRecord i r).handoff = s.handoff := rfl
@[simp] theorem State.setRecord_strait (s : State) (i : Nat) (r : Record) : (s.setRecord i r).strait = s.strait := rfl
@[simp] theorem State.setRecord_net (s : State) (i : Nat) (r : Record) : (s.setRecord i r).net = s.net := rfl
@[simp] theorem State.setRecord_cham (s : State) (i : Nat) (r : Record) : (s.setRecord i r).cham = s.cham := rfl
@[simp] theorem State.setRecord_health (s : State) (i : Nat) (r : Record) : (s.setRecord i r).health = s.health := rfl
@[simp] theorem State.setRecord_struct (s : State) (i : Nat) (r : Record) : (s.setRecord i r).struct = s.struct := rfl
@[simp] theorem State.setRecord_fw (s : State) (i : Nat) (r : Record) : (s.setRecord i r).fw = s.fw := rfl
@[simp] theorem State.setRecord_sec (s : State) (i : Nat) (r : Record) : (s.setRecord i r).sec = s.sec := rfl
@[simp] theorem State.setRecord_pwr (s : State) (i : Nat) (r : Record) : (s.setRecord i r).pwr = s.pwr := rfl
@[simp] theorem State.setRecord_pins (s : State) (i : Nat) (r : Record) : (s.setRecord i r).pins = s.pins := rfl

/-! ### State.setWin -/

@[simp] theorem State.setWin_pending (s : State) (k : Nat) (w : HostWin) : (s.setWin k w).pending = s.pending := rfl
@[simp] theorem State.setWin_fresh (s : State) (k : Nat) (w : HostWin) : (s.setWin k w).fresh = s.fresh := rfl
@[simp] theorem State.setWin_order (s : State) (k : Nat) (w : HostWin) : (s.setWin k w).order = s.order := rfl
@[simp] theorem State.setWin_ready (s : State) (k : Nat) (w : HostWin) : (s.setWin k w).ready = s.ready := rfl
@[simp] theorem State.setWin_run (s : State) (k : Nat) (w : HostWin) : (s.setWin k w).run = s.run := rfl
@[simp] theorem State.setWin_regs (s : State) (k : Nat) (w : HostWin) : (s.setWin k w).regs = s.regs := rfl
@[simp] theorem State.setWin_latches (s : State) (k : Nat) (w : HostWin) : (s.setWin k w).latches = s.latches := rfl
@[simp] theorem State.setWin_staged (s : State) (k : Nat) (w : HostWin) : (s.setWin k w).staged = s.staged := rfl
@[simp] theorem State.setWin_mem (s : State) (k : Nat) (w : HostWin) : (s.setWin k w).mem = s.mem := rfl
@[simp] theorem State.setWin_fault (s : State) (k : Nat) (w : HostWin) : (s.setWin k w).fault = s.fault := rfl
@[simp] theorem State.setWin_obs (s : State) (k : Nat) (w : HostWin) : (s.setWin k w).obs = s.obs := rfl
@[simp] theorem State.setWin_tenant (s : State) (k : Nat) (w : HostWin) : (s.setWin k w).tenant = s.tenant := rfl
@[simp] theorem State.setWin_tier (s : State) (k : Nat) (w : HostWin) : (s.setWin k w).tier = s.tier := rfl
@[simp] theorem State.setWin_herd (s : State) (k : Nat) (w : HostWin) : (s.setWin k w).herd = s.herd := rfl
@[simp] theorem State.setWin_anchor (s : State) (k : Nat) (w : HostWin) : (s.setWin k w).anchor = s.anchor := rfl
@[simp] theorem State.setWin_eland (s : State) (k : Nat) (w : HostWin) : (s.setWin k w).eland = s.eland := rfl
@[simp] theorem State.setWin_spring (s : State) (k : Nat) (w : HostWin) : (s.setWin k w).spring = s.spring := rfl
@[simp] theorem State.setWin_ibex (s : State) (k : Nat) (w : HostWin) : (s.setWin k w).ibex = s.ibex := rfl
@[simp] theorem State.setWin_handoff (s : State) (k : Nat) (w : HostWin) : (s.setWin k w).handoff = s.handoff := rfl
@[simp] theorem State.setWin_strait (s : State) (k : Nat) (w : HostWin) : (s.setWin k w).strait = s.strait := rfl
@[simp] theorem State.setWin_net (s : State) (k : Nat) (w : HostWin) : (s.setWin k w).net = s.net := rfl
@[simp] theorem State.setWin_cham (s : State) (k : Nat) (w : HostWin) : (s.setWin k w).cham = s.cham := rfl
@[simp] theorem State.setWin_health (s : State) (k : Nat) (w : HostWin) : (s.setWin k w).health = s.health := rfl
@[simp] theorem State.setWin_struct (s : State) (k : Nat) (w : HostWin) : (s.setWin k w).struct = s.struct := rfl
@[simp] theorem State.setWin_fw (s : State) (k : Nat) (w : HostWin) : (s.setWin k w).fw = s.fw := rfl
@[simp] theorem State.setWin_sec (s : State) (k : Nat) (w : HostWin) : (s.setWin k w).sec = s.sec := rfl
@[simp] theorem State.setWin_pwr (s : State) (k : Nat) (w : HostWin) : (s.setWin k w).pwr = s.pwr := rfl
@[simp] theorem State.setWin_pins (s : State) (k : Nat) (w : HostWin) : (s.setWin k w).pins = s.pins := rfl

/-! ### State.raiseMsi -/

@[simp] theorem State.raiseMsi_pending (s : State) (p : Nat) (v : BitVec 11) : (s.raiseMsi p v).pending = s.pending := rfl
@[simp] theorem State.raiseMsi_fresh (s : State) (p : Nat) (v : BitVec 11) : (s.raiseMsi p v).fresh = s.fresh := rfl
@[simp] theorem State.raiseMsi_order (s : State) (p : Nat) (v : BitVec 11) : (s.raiseMsi p v).order = s.order := rfl
@[simp] theorem State.raiseMsi_ready (s : State) (p : Nat) (v : BitVec 11) : (s.raiseMsi p v).ready = s.ready := rfl
@[simp] theorem State.raiseMsi_run (s : State) (p : Nat) (v : BitVec 11) : (s.raiseMsi p v).run = s.run := rfl
@[simp] theorem State.raiseMsi_regs (s : State) (p : Nat) (v : BitVec 11) : (s.raiseMsi p v).regs = s.regs := rfl
@[simp] theorem State.raiseMsi_latches (s : State) (p : Nat) (v : BitVec 11) : (s.raiseMsi p v).latches = s.latches := rfl
@[simp] theorem State.raiseMsi_staged (s : State) (p : Nat) (v : BitVec 11) : (s.raiseMsi p v).staged = s.staged := rfl
@[simp] theorem State.raiseMsi_mem (s : State) (p : Nat) (v : BitVec 11) : (s.raiseMsi p v).mem = s.mem := rfl
@[simp] theorem State.raiseMsi_fault (s : State) (p : Nat) (v : BitVec 11) : (s.raiseMsi p v).fault = s.fault := rfl
@[simp] theorem State.raiseMsi_obs (s : State) (p : Nat) (v : BitVec 11) : (s.raiseMsi p v).obs = s.obs := rfl
@[simp] theorem State.raiseMsi_tenant (s : State) (p : Nat) (v : BitVec 11) : (s.raiseMsi p v).tenant = s.tenant := rfl
@[simp] theorem State.raiseMsi_tier (s : State) (p : Nat) (v : BitVec 11) : (s.raiseMsi p v).tier = s.tier := rfl
@[simp] theorem State.raiseMsi_herd (s : State) (p : Nat) (v : BitVec 11) : (s.raiseMsi p v).herd = s.herd := rfl
@[simp] theorem State.raiseMsi_anchor (s : State) (p : Nat) (v : BitVec 11) : (s.raiseMsi p v).anchor = s.anchor := rfl
@[simp] theorem State.raiseMsi_eland (s : State) (p : Nat) (v : BitVec 11) : (s.raiseMsi p v).eland = s.eland := rfl
@[simp] theorem State.raiseMsi_spring (s : State) (p : Nat) (v : BitVec 11) : (s.raiseMsi p v).spring = s.spring := rfl
@[simp] theorem State.raiseMsi_ibex (s : State) (p : Nat) (v : BitVec 11) : (s.raiseMsi p v).ibex = s.ibex := rfl
@[simp] theorem State.raiseMsi_handoff (s : State) (p : Nat) (v : BitVec 11) : (s.raiseMsi p v).handoff = s.handoff := rfl
@[simp] theorem State.raiseMsi_strait (s : State) (p : Nat) (v : BitVec 11) : (s.raiseMsi p v).strait = s.strait := rfl
@[simp] theorem State.raiseMsi_net (s : State) (p : Nat) (v : BitVec 11) : (s.raiseMsi p v).net = s.net := rfl
@[simp] theorem State.raiseMsi_cham (s : State) (p : Nat) (v : BitVec 11) : (s.raiseMsi p v).cham = s.cham := rfl
@[simp] theorem State.raiseMsi_health (s : State) (p : Nat) (v : BitVec 11) : (s.raiseMsi p v).health = s.health := rfl
@[simp] theorem State.raiseMsi_struct (s : State) (p : Nat) (v : BitVec 11) : (s.raiseMsi p v).struct = s.struct := rfl
@[simp] theorem State.raiseMsi_fw (s : State) (p : Nat) (v : BitVec 11) : (s.raiseMsi p v).fw = s.fw := rfl
@[simp] theorem State.raiseMsi_sec (s : State) (p : Nat) (v : BitVec 11) : (s.raiseMsi p v).sec = s.sec := rfl
@[simp] theorem State.raiseMsi_pwr (s : State) (p : Nat) (v : BitVec 11) : (s.raiseMsi p v).pwr = s.pwr := rfl
@[simp] theorem State.raiseMsi_pins (s : State) (p : Nat) (v : BitVec 11) : (s.raiseMsi p v).pins = s.pins := rfl

/-! ### State.setEntry -/

@[simp] theorem State.setEntry_pending (s : State) (n : Nat) (e : HerdEntry) : (s.setEntry n e).pending = s.pending := rfl
@[simp] theorem State.setEntry_fresh (s : State) (n : Nat) (e : HerdEntry) : (s.setEntry n e).fresh = s.fresh := rfl
@[simp] theorem State.setEntry_order (s : State) (n : Nat) (e : HerdEntry) : (s.setEntry n e).order = s.order := rfl
@[simp] theorem State.setEntry_ready (s : State) (n : Nat) (e : HerdEntry) : (s.setEntry n e).ready = s.ready := rfl
@[simp] theorem State.setEntry_run (s : State) (n : Nat) (e : HerdEntry) : (s.setEntry n e).run = s.run := rfl
@[simp] theorem State.setEntry_regs (s : State) (n : Nat) (e : HerdEntry) : (s.setEntry n e).regs = s.regs := rfl
@[simp] theorem State.setEntry_latches (s : State) (n : Nat) (e : HerdEntry) : (s.setEntry n e).latches = s.latches := rfl
@[simp] theorem State.setEntry_staged (s : State) (n : Nat) (e : HerdEntry) : (s.setEntry n e).staged = s.staged := rfl
@[simp] theorem State.setEntry_mem (s : State) (n : Nat) (e : HerdEntry) : (s.setEntry n e).mem = s.mem := rfl
@[simp] theorem State.setEntry_hostif (s : State) (n : Nat) (e : HerdEntry) : (s.setEntry n e).hostif = s.hostif := rfl
@[simp] theorem State.setEntry_fault (s : State) (n : Nat) (e : HerdEntry) : (s.setEntry n e).fault = s.fault := rfl
@[simp] theorem State.setEntry_obs (s : State) (n : Nat) (e : HerdEntry) : (s.setEntry n e).obs = s.obs := rfl
@[simp] theorem State.setEntry_tenant (s : State) (n : Nat) (e : HerdEntry) : (s.setEntry n e).tenant = s.tenant := rfl
@[simp] theorem State.setEntry_tier (s : State) (n : Nat) (e : HerdEntry) : (s.setEntry n e).tier = s.tier := rfl
@[simp] theorem State.setEntry_anchor (s : State) (n : Nat) (e : HerdEntry) : (s.setEntry n e).anchor = s.anchor := rfl
@[simp] theorem State.setEntry_eland (s : State) (n : Nat) (e : HerdEntry) : (s.setEntry n e).eland = s.eland := rfl
@[simp] theorem State.setEntry_spring (s : State) (n : Nat) (e : HerdEntry) : (s.setEntry n e).spring = s.spring := rfl
@[simp] theorem State.setEntry_ibex (s : State) (n : Nat) (e : HerdEntry) : (s.setEntry n e).ibex = s.ibex := rfl
@[simp] theorem State.setEntry_handoff (s : State) (n : Nat) (e : HerdEntry) : (s.setEntry n e).handoff = s.handoff := rfl
@[simp] theorem State.setEntry_strait (s : State) (n : Nat) (e : HerdEntry) : (s.setEntry n e).strait = s.strait := rfl
@[simp] theorem State.setEntry_net (s : State) (n : Nat) (e : HerdEntry) : (s.setEntry n e).net = s.net := rfl
@[simp] theorem State.setEntry_cham (s : State) (n : Nat) (e : HerdEntry) : (s.setEntry n e).cham = s.cham := rfl
@[simp] theorem State.setEntry_health (s : State) (n : Nat) (e : HerdEntry) : (s.setEntry n e).health = s.health := rfl
@[simp] theorem State.setEntry_struct (s : State) (n : Nat) (e : HerdEntry) : (s.setEntry n e).struct = s.struct := rfl
@[simp] theorem State.setEntry_fw (s : State) (n : Nat) (e : HerdEntry) : (s.setEntry n e).fw = s.fw := rfl
@[simp] theorem State.setEntry_sec (s : State) (n : Nat) (e : HerdEntry) : (s.setEntry n e).sec = s.sec := rfl
@[simp] theorem State.setEntry_pwr (s : State) (n : Nat) (e : HerdEntry) : (s.setEntry n e).pwr = s.pwr := rfl
@[simp] theorem State.setEntry_pins (s : State) (n : Nat) (e : HerdEntry) : (s.setEntry n e).pins = s.pins := rfl

/-! ### State.setTransfer -/

@[simp] theorem State.setTransfer_pending (s : State) (i : Nat) (t : Transfer) : (s.setTransfer i t).pending = s.pending := rfl
@[simp] theorem State.setTransfer_fresh (s : State) (i : Nat) (t : Transfer) : (s.setTransfer i t).fresh = s.fresh := rfl
@[simp] theorem State.setTransfer_order (s : State) (i : Nat) (t : Transfer) : (s.setTransfer i t).order = s.order := rfl
@[simp] theorem State.setTransfer_ready (s : State) (i : Nat) (t : Transfer) : (s.setTransfer i t).ready = s.ready := rfl
@[simp] theorem State.setTransfer_run (s : State) (i : Nat) (t : Transfer) : (s.setTransfer i t).run = s.run := rfl
@[simp] theorem State.setTransfer_regs (s : State) (i : Nat) (t : Transfer) : (s.setTransfer i t).regs = s.regs := rfl
@[simp] theorem State.setTransfer_latches (s : State) (i : Nat) (t : Transfer) : (s.setTransfer i t).latches = s.latches := rfl
@[simp] theorem State.setTransfer_staged (s : State) (i : Nat) (t : Transfer) : (s.setTransfer i t).staged = s.staged := rfl
@[simp] theorem State.setTransfer_mem (s : State) (i : Nat) (t : Transfer) : (s.setTransfer i t).mem = s.mem := rfl
@[simp] theorem State.setTransfer_hostif (s : State) (i : Nat) (t : Transfer) : (s.setTransfer i t).hostif = s.hostif := rfl
@[simp] theorem State.setTransfer_fault (s : State) (i : Nat) (t : Transfer) : (s.setTransfer i t).fault = s.fault := rfl
@[simp] theorem State.setTransfer_obs (s : State) (i : Nat) (t : Transfer) : (s.setTransfer i t).obs = s.obs := rfl
@[simp] theorem State.setTransfer_tenant (s : State) (i : Nat) (t : Transfer) : (s.setTransfer i t).tenant = s.tenant := rfl
@[simp] theorem State.setTransfer_tier (s : State) (i : Nat) (t : Transfer) : (s.setTransfer i t).tier = s.tier := rfl
@[simp] theorem State.setTransfer_herd (s : State) (i : Nat) (t : Transfer) : (s.setTransfer i t).herd = s.herd := rfl
@[simp] theorem State.setTransfer_anchor (s : State) (i : Nat) (t : Transfer) : (s.setTransfer i t).anchor = s.anchor := rfl
@[simp] theorem State.setTransfer_eland (s : State) (i : Nat) (t : Transfer) : (s.setTransfer i t).eland = s.eland := rfl
@[simp] theorem State.setTransfer_spring (s : State) (i : Nat) (t : Transfer) : (s.setTransfer i t).spring = s.spring := rfl
@[simp] theorem State.setTransfer_ibex (s : State) (i : Nat) (t : Transfer) : (s.setTransfer i t).ibex = s.ibex := rfl
@[simp] theorem State.setTransfer_strait (s : State) (i : Nat) (t : Transfer) : (s.setTransfer i t).strait = s.strait := rfl
@[simp] theorem State.setTransfer_net (s : State) (i : Nat) (t : Transfer) : (s.setTransfer i t).net = s.net := rfl
@[simp] theorem State.setTransfer_cham (s : State) (i : Nat) (t : Transfer) : (s.setTransfer i t).cham = s.cham := rfl
@[simp] theorem State.setTransfer_health (s : State) (i : Nat) (t : Transfer) : (s.setTransfer i t).health = s.health := rfl
@[simp] theorem State.setTransfer_struct (s : State) (i : Nat) (t : Transfer) : (s.setTransfer i t).struct = s.struct := rfl
@[simp] theorem State.setTransfer_fw (s : State) (i : Nat) (t : Transfer) : (s.setTransfer i t).fw = s.fw := rfl
@[simp] theorem State.setTransfer_sec (s : State) (i : Nat) (t : Transfer) : (s.setTransfer i t).sec = s.sec := rfl
@[simp] theorem State.setTransfer_pwr (s : State) (i : Nat) (t : Transfer) : (s.setTransfer i t).pwr = s.pwr := rfl
@[simp] theorem State.setTransfer_pins (s : State) (i : Nat) (t : Transfer) : (s.setTransfer i t).pins = s.pins := rfl

/-! ### State.setSlotAt -/

@[simp] theorem State.setSlotAt_pending (s : State) (n : Nat) (x : Slot) : (s.setSlotAt n x).pending = s.pending := rfl
@[simp] theorem State.setSlotAt_fresh (s : State) (n : Nat) (x : Slot) : (s.setSlotAt n x).fresh = s.fresh := rfl
@[simp] theorem State.setSlotAt_order (s : State) (n : Nat) (x : Slot) : (s.setSlotAt n x).order = s.order := rfl
@[simp] theorem State.setSlotAt_ready (s : State) (n : Nat) (x : Slot) : (s.setSlotAt n x).ready = s.ready := rfl
@[simp] theorem State.setSlotAt_run (s : State) (n : Nat) (x : Slot) : (s.setSlotAt n x).run = s.run := rfl
@[simp] theorem State.setSlotAt_regs (s : State) (n : Nat) (x : Slot) : (s.setSlotAt n x).regs = s.regs := rfl
@[simp] theorem State.setSlotAt_latches (s : State) (n : Nat) (x : Slot) : (s.setSlotAt n x).latches = s.latches := rfl
@[simp] theorem State.setSlotAt_staged (s : State) (n : Nat) (x : Slot) : (s.setSlotAt n x).staged = s.staged := rfl
@[simp] theorem State.setSlotAt_mem (s : State) (n : Nat) (x : Slot) : (s.setSlotAt n x).mem = s.mem := rfl
@[simp] theorem State.setSlotAt_hostif (s : State) (n : Nat) (x : Slot) : (s.setSlotAt n x).hostif = s.hostif := rfl
@[simp] theorem State.setSlotAt_fault (s : State) (n : Nat) (x : Slot) : (s.setSlotAt n x).fault = s.fault := rfl
@[simp] theorem State.setSlotAt_obs (s : State) (n : Nat) (x : Slot) : (s.setSlotAt n x).obs = s.obs := rfl
@[simp] theorem State.setSlotAt_tenant (s : State) (n : Nat) (x : Slot) : (s.setSlotAt n x).tenant = s.tenant := rfl
@[simp] theorem State.setSlotAt_tier (s : State) (n : Nat) (x : Slot) : (s.setSlotAt n x).tier = s.tier := rfl
@[simp] theorem State.setSlotAt_herd (s : State) (n : Nat) (x : Slot) : (s.setSlotAt n x).herd = s.herd := rfl
@[simp] theorem State.setSlotAt_anchor (s : State) (n : Nat) (x : Slot) : (s.setSlotAt n x).anchor = s.anchor := rfl
@[simp] theorem State.setSlotAt_eland (s : State) (n : Nat) (x : Slot) : (s.setSlotAt n x).eland = s.eland := rfl
@[simp] theorem State.setSlotAt_spring (s : State) (n : Nat) (x : Slot) : (s.setSlotAt n x).spring = s.spring := rfl
@[simp] theorem State.setSlotAt_handoff (s : State) (n : Nat) (x : Slot) : (s.setSlotAt n x).handoff = s.handoff := rfl
@[simp] theorem State.setSlotAt_strait (s : State) (n : Nat) (x : Slot) : (s.setSlotAt n x).strait = s.strait := rfl
@[simp] theorem State.setSlotAt_net (s : State) (n : Nat) (x : Slot) : (s.setSlotAt n x).net = s.net := rfl
@[simp] theorem State.setSlotAt_cham (s : State) (n : Nat) (x : Slot) : (s.setSlotAt n x).cham = s.cham := rfl
@[simp] theorem State.setSlotAt_health (s : State) (n : Nat) (x : Slot) : (s.setSlotAt n x).health = s.health := rfl
@[simp] theorem State.setSlotAt_struct (s : State) (n : Nat) (x : Slot) : (s.setSlotAt n x).struct = s.struct := rfl
@[simp] theorem State.setSlotAt_fw (s : State) (n : Nat) (x : Slot) : (s.setSlotAt n x).fw = s.fw := rfl
@[simp] theorem State.setSlotAt_sec (s : State) (n : Nat) (x : Slot) : (s.setSlotAt n x).sec = s.sec := rfl
@[simp] theorem State.setSlotAt_pwr (s : State) (n : Nat) (x : Slot) : (s.setSlotAt n x).pwr = s.pwr := rfl
@[simp] theorem State.setSlotAt_pins (s : State) (n : Nat) (x : Slot) : (s.setSlotAt n x).pins = s.pins := rfl

/-! ### State.setPage -/

@[simp] theorem State.setPage_pending (s : State) (p : Nat) (d : PageDesc) : (s.setPage p d).pending = s.pending := rfl
@[simp] theorem State.setPage_fresh (s : State) (p : Nat) (d : PageDesc) : (s.setPage p d).fresh = s.fresh := rfl
@[simp] theorem State.setPage_order (s : State) (p : Nat) (d : PageDesc) : (s.setPage p d).order = s.order := rfl
@[simp] theorem State.setPage_ready (s : State) (p : Nat) (d : PageDesc) : (s.setPage p d).ready = s.ready := rfl
@[simp] theorem State.setPage_run (s : State) (p : Nat) (d : PageDesc) : (s.setPage p d).run = s.run := rfl
@[simp] theorem State.setPage_regs (s : State) (p : Nat) (d : PageDesc) : (s.setPage p d).regs = s.regs := rfl
@[simp] theorem State.setPage_latches (s : State) (p : Nat) (d : PageDesc) : (s.setPage p d).latches = s.latches := rfl
@[simp] theorem State.setPage_staged (s : State) (p : Nat) (d : PageDesc) : (s.setPage p d).staged = s.staged := rfl
@[simp] theorem State.setPage_mem (s : State) (p : Nat) (d : PageDesc) : (s.setPage p d).mem = s.mem := rfl
@[simp] theorem State.setPage_hostif (s : State) (p : Nat) (d : PageDesc) : (s.setPage p d).hostif = s.hostif := rfl
@[simp] theorem State.setPage_fault (s : State) (p : Nat) (d : PageDesc) : (s.setPage p d).fault = s.fault := rfl
@[simp] theorem State.setPage_obs (s : State) (p : Nat) (d : PageDesc) : (s.setPage p d).obs = s.obs := rfl
@[simp] theorem State.setPage_tenant (s : State) (p : Nat) (d : PageDesc) : (s.setPage p d).tenant = s.tenant := rfl
@[simp] theorem State.setPage_herd (s : State) (p : Nat) (d : PageDesc) : (s.setPage p d).herd = s.herd := rfl
@[simp] theorem State.setPage_anchor (s : State) (p : Nat) (d : PageDesc) : (s.setPage p d).anchor = s.anchor := rfl
@[simp] theorem State.setPage_eland (s : State) (p : Nat) (d : PageDesc) : (s.setPage p d).eland = s.eland := rfl
@[simp] theorem State.setPage_spring (s : State) (p : Nat) (d : PageDesc) : (s.setPage p d).spring = s.spring := rfl
@[simp] theorem State.setPage_ibex (s : State) (p : Nat) (d : PageDesc) : (s.setPage p d).ibex = s.ibex := rfl
@[simp] theorem State.setPage_handoff (s : State) (p : Nat) (d : PageDesc) : (s.setPage p d).handoff = s.handoff := rfl
@[simp] theorem State.setPage_strait (s : State) (p : Nat) (d : PageDesc) : (s.setPage p d).strait = s.strait := rfl
@[simp] theorem State.setPage_net (s : State) (p : Nat) (d : PageDesc) : (s.setPage p d).net = s.net := rfl
@[simp] theorem State.setPage_cham (s : State) (p : Nat) (d : PageDesc) : (s.setPage p d).cham = s.cham := rfl
@[simp] theorem State.setPage_health (s : State) (p : Nat) (d : PageDesc) : (s.setPage p d).health = s.health := rfl
@[simp] theorem State.setPage_struct (s : State) (p : Nat) (d : PageDesc) : (s.setPage p d).struct = s.struct := rfl
@[simp] theorem State.setPage_fw (s : State) (p : Nat) (d : PageDesc) : (s.setPage p d).fw = s.fw := rfl
@[simp] theorem State.setPage_sec (s : State) (p : Nat) (d : PageDesc) : (s.setPage p d).sec = s.sec := rfl
@[simp] theorem State.setPage_pwr (s : State) (p : Nat) (d : PageDesc) : (s.setPage p d).pwr = s.pwr := rfl
@[simp] theorem State.setPage_pins (s : State) (p : Nat) (d : PageDesc) : (s.setPage p d).pins = s.pins := rfl

/-! ### State.setRoot -/

@[simp] theorem State.setRoot_pending (s : State) (i : Nat) (r : RootBlock) : (s.setRoot i r).pending = s.pending := rfl
@[simp] theorem State.setRoot_fresh (s : State) (i : Nat) (r : RootBlock) : (s.setRoot i r).fresh = s.fresh := rfl
@[simp] theorem State.setRoot_order (s : State) (i : Nat) (r : RootBlock) : (s.setRoot i r).order = s.order := rfl
@[simp] theorem State.setRoot_ready (s : State) (i : Nat) (r : RootBlock) : (s.setRoot i r).ready = s.ready := rfl
@[simp] theorem State.setRoot_run (s : State) (i : Nat) (r : RootBlock) : (s.setRoot i r).run = s.run := rfl
@[simp] theorem State.setRoot_regs (s : State) (i : Nat) (r : RootBlock) : (s.setRoot i r).regs = s.regs := rfl
@[simp] theorem State.setRoot_latches (s : State) (i : Nat) (r : RootBlock) : (s.setRoot i r).latches = s.latches := rfl
@[simp] theorem State.setRoot_staged (s : State) (i : Nat) (r : RootBlock) : (s.setRoot i r).staged = s.staged := rfl
@[simp] theorem State.setRoot_mem (s : State) (i : Nat) (r : RootBlock) : (s.setRoot i r).mem = s.mem := rfl
@[simp] theorem State.setRoot_hostif (s : State) (i : Nat) (r : RootBlock) : (s.setRoot i r).hostif = s.hostif := rfl
@[simp] theorem State.setRoot_fault (s : State) (i : Nat) (r : RootBlock) : (s.setRoot i r).fault = s.fault := rfl
@[simp] theorem State.setRoot_obs (s : State) (i : Nat) (r : RootBlock) : (s.setRoot i r).obs = s.obs := rfl
@[simp] theorem State.setRoot_tenant (s : State) (i : Nat) (r : RootBlock) : (s.setRoot i r).tenant = s.tenant := rfl
@[simp] theorem State.setRoot_herd (s : State) (i : Nat) (r : RootBlock) : (s.setRoot i r).herd = s.herd := rfl
@[simp] theorem State.setRoot_anchor (s : State) (i : Nat) (r : RootBlock) : (s.setRoot i r).anchor = s.anchor := rfl
@[simp] theorem State.setRoot_eland (s : State) (i : Nat) (r : RootBlock) : (s.setRoot i r).eland = s.eland := rfl
@[simp] theorem State.setRoot_spring (s : State) (i : Nat) (r : RootBlock) : (s.setRoot i r).spring = s.spring := rfl
@[simp] theorem State.setRoot_ibex (s : State) (i : Nat) (r : RootBlock) : (s.setRoot i r).ibex = s.ibex := rfl
@[simp] theorem State.setRoot_handoff (s : State) (i : Nat) (r : RootBlock) : (s.setRoot i r).handoff = s.handoff := rfl
@[simp] theorem State.setRoot_strait (s : State) (i : Nat) (r : RootBlock) : (s.setRoot i r).strait = s.strait := rfl
@[simp] theorem State.setRoot_net (s : State) (i : Nat) (r : RootBlock) : (s.setRoot i r).net = s.net := rfl
@[simp] theorem State.setRoot_cham (s : State) (i : Nat) (r : RootBlock) : (s.setRoot i r).cham = s.cham := rfl
@[simp] theorem State.setRoot_health (s : State) (i : Nat) (r : RootBlock) : (s.setRoot i r).health = s.health := rfl
@[simp] theorem State.setRoot_struct (s : State) (i : Nat) (r : RootBlock) : (s.setRoot i r).struct = s.struct := rfl
@[simp] theorem State.setRoot_fw (s : State) (i : Nat) (r : RootBlock) : (s.setRoot i r).fw = s.fw := rfl
@[simp] theorem State.setRoot_sec (s : State) (i : Nat) (r : RootBlock) : (s.setRoot i r).sec = s.sec := rfl
@[simp] theorem State.setRoot_pwr (s : State) (i : Nat) (r : RootBlock) : (s.setRoot i r).pwr = s.pwr := rfl
@[simp] theorem State.setRoot_pins (s : State) (i : Nat) (r : RootBlock) : (s.setRoot i r).pins = s.pins := rfl

/-! ### State.setSport -/

@[simp] theorem State.setSport_pending (s : State) (n : Nat) (p : StraitPort) : (s.setSport n p).pending = s.pending := rfl
@[simp] theorem State.setSport_fresh (s : State) (n : Nat) (p : StraitPort) : (s.setSport n p).fresh = s.fresh := rfl
@[simp] theorem State.setSport_order (s : State) (n : Nat) (p : StraitPort) : (s.setSport n p).order = s.order := rfl
@[simp] theorem State.setSport_ready (s : State) (n : Nat) (p : StraitPort) : (s.setSport n p).ready = s.ready := rfl
@[simp] theorem State.setSport_run (s : State) (n : Nat) (p : StraitPort) : (s.setSport n p).run = s.run := rfl
@[simp] theorem State.setSport_regs (s : State) (n : Nat) (p : StraitPort) : (s.setSport n p).regs = s.regs := rfl
@[simp] theorem State.setSport_latches (s : State) (n : Nat) (p : StraitPort) : (s.setSport n p).latches = s.latches := rfl
@[simp] theorem State.setSport_staged (s : State) (n : Nat) (p : StraitPort) : (s.setSport n p).staged = s.staged := rfl
@[simp] theorem State.setSport_mem (s : State) (n : Nat) (p : StraitPort) : (s.setSport n p).mem = s.mem := rfl
@[simp] theorem State.setSport_hostif (s : State) (n : Nat) (p : StraitPort) : (s.setSport n p).hostif = s.hostif := rfl
@[simp] theorem State.setSport_fault (s : State) (n : Nat) (p : StraitPort) : (s.setSport n p).fault = s.fault := rfl
@[simp] theorem State.setSport_obs (s : State) (n : Nat) (p : StraitPort) : (s.setSport n p).obs = s.obs := rfl
@[simp] theorem State.setSport_tenant (s : State) (n : Nat) (p : StraitPort) : (s.setSport n p).tenant = s.tenant := rfl
@[simp] theorem State.setSport_tier (s : State) (n : Nat) (p : StraitPort) : (s.setSport n p).tier = s.tier := rfl
@[simp] theorem State.setSport_herd (s : State) (n : Nat) (p : StraitPort) : (s.setSport n p).herd = s.herd := rfl
@[simp] theorem State.setSport_anchor (s : State) (n : Nat) (p : StraitPort) : (s.setSport n p).anchor = s.anchor := rfl
@[simp] theorem State.setSport_eland (s : State) (n : Nat) (p : StraitPort) : (s.setSport n p).eland = s.eland := rfl
@[simp] theorem State.setSport_spring (s : State) (n : Nat) (p : StraitPort) : (s.setSport n p).spring = s.spring := rfl
@[simp] theorem State.setSport_ibex (s : State) (n : Nat) (p : StraitPort) : (s.setSport n p).ibex = s.ibex := rfl
@[simp] theorem State.setSport_handoff (s : State) (n : Nat) (p : StraitPort) : (s.setSport n p).handoff = s.handoff := rfl
@[simp] theorem State.setSport_net (s : State) (n : Nat) (p : StraitPort) : (s.setSport n p).net = s.net := rfl
@[simp] theorem State.setSport_cham (s : State) (n : Nat) (p : StraitPort) : (s.setSport n p).cham = s.cham := rfl
@[simp] theorem State.setSport_health (s : State) (n : Nat) (p : StraitPort) : (s.setSport n p).health = s.health := rfl
@[simp] theorem State.setSport_struct (s : State) (n : Nat) (p : StraitPort) : (s.setSport n p).struct = s.struct := rfl
@[simp] theorem State.setSport_fw (s : State) (n : Nat) (p : StraitPort) : (s.setSport n p).fw = s.fw := rfl
@[simp] theorem State.setSport_sec (s : State) (n : Nat) (p : StraitPort) : (s.setSport n p).sec = s.sec := rfl
@[simp] theorem State.setSport_pwr (s : State) (n : Nat) (p : StraitPort) : (s.setSport n p).pwr = s.pwr := rfl
@[simp] theorem State.setSport_pins (s : State) (n : Nat) (p : StraitPort) : (s.setSport n p).pins = s.pins := rfl

/-! ### State.setNetConn -/

@[simp] theorem State.setNetConn_pending (s : State) (n : Nat) (c : Conn) : (s.setNetConn n c).pending = s.pending := rfl
@[simp] theorem State.setNetConn_fresh (s : State) (n : Nat) (c : Conn) : (s.setNetConn n c).fresh = s.fresh := rfl
@[simp] theorem State.setNetConn_order (s : State) (n : Nat) (c : Conn) : (s.setNetConn n c).order = s.order := rfl
@[simp] theorem State.setNetConn_ready (s : State) (n : Nat) (c : Conn) : (s.setNetConn n c).ready = s.ready := rfl
@[simp] theorem State.setNetConn_run (s : State) (n : Nat) (c : Conn) : (s.setNetConn n c).run = s.run := rfl
@[simp] theorem State.setNetConn_regs (s : State) (n : Nat) (c : Conn) : (s.setNetConn n c).regs = s.regs := rfl
@[simp] theorem State.setNetConn_latches (s : State) (n : Nat) (c : Conn) : (s.setNetConn n c).latches = s.latches := rfl
@[simp] theorem State.setNetConn_staged (s : State) (n : Nat) (c : Conn) : (s.setNetConn n c).staged = s.staged := rfl
@[simp] theorem State.setNetConn_mem (s : State) (n : Nat) (c : Conn) : (s.setNetConn n c).mem = s.mem := rfl
@[simp] theorem State.setNetConn_hostif (s : State) (n : Nat) (c : Conn) : (s.setNetConn n c).hostif = s.hostif := rfl
@[simp] theorem State.setNetConn_fault (s : State) (n : Nat) (c : Conn) : (s.setNetConn n c).fault = s.fault := rfl
@[simp] theorem State.setNetConn_obs (s : State) (n : Nat) (c : Conn) : (s.setNetConn n c).obs = s.obs := rfl
@[simp] theorem State.setNetConn_tenant (s : State) (n : Nat) (c : Conn) : (s.setNetConn n c).tenant = s.tenant := rfl
@[simp] theorem State.setNetConn_tier (s : State) (n : Nat) (c : Conn) : (s.setNetConn n c).tier = s.tier := rfl
@[simp] theorem State.setNetConn_herd (s : State) (n : Nat) (c : Conn) : (s.setNetConn n c).herd = s.herd := rfl
@[simp] theorem State.setNetConn_anchor (s : State) (n : Nat) (c : Conn) : (s.setNetConn n c).anchor = s.anchor := rfl
@[simp] theorem State.setNetConn_eland (s : State) (n : Nat) (c : Conn) : (s.setNetConn n c).eland = s.eland := rfl
@[simp] theorem State.setNetConn_spring (s : State) (n : Nat) (c : Conn) : (s.setNetConn n c).spring = s.spring := rfl
@[simp] theorem State.setNetConn_ibex (s : State) (n : Nat) (c : Conn) : (s.setNetConn n c).ibex = s.ibex := rfl
@[simp] theorem State.setNetConn_handoff (s : State) (n : Nat) (c : Conn) : (s.setNetConn n c).handoff = s.handoff := rfl
@[simp] theorem State.setNetConn_strait (s : State) (n : Nat) (c : Conn) : (s.setNetConn n c).strait = s.strait := rfl
@[simp] theorem State.setNetConn_cham (s : State) (n : Nat) (c : Conn) : (s.setNetConn n c).cham = s.cham := rfl
@[simp] theorem State.setNetConn_health (s : State) (n : Nat) (c : Conn) : (s.setNetConn n c).health = s.health := rfl
@[simp] theorem State.setNetConn_struct (s : State) (n : Nat) (c : Conn) : (s.setNetConn n c).struct = s.struct := rfl
@[simp] theorem State.setNetConn_fw (s : State) (n : Nat) (c : Conn) : (s.setNetConn n c).fw = s.fw := rfl
@[simp] theorem State.setNetConn_sec (s : State) (n : Nat) (c : Conn) : (s.setNetConn n c).sec = s.sec := rfl
@[simp] theorem State.setNetConn_pwr (s : State) (n : Nat) (c : Conn) : (s.setNetConn n c).pwr = s.pwr := rfl
@[simp] theorem State.setNetConn_pins (s : State) (n : Nat) (c : Conn) : (s.setNetConn n c).pins = s.pins := rfl

/-! ### State.setTag -/

@[simp] theorem State.setTag_pending (s : State) (n : Nat) (t : StraitTag) : (s.setTag n t).pending = s.pending := rfl
@[simp] theorem State.setTag_fresh (s : State) (n : Nat) (t : StraitTag) : (s.setTag n t).fresh = s.fresh := rfl
@[simp] theorem State.setTag_order (s : State) (n : Nat) (t : StraitTag) : (s.setTag n t).order = s.order := rfl
@[simp] theorem State.setTag_ready (s : State) (n : Nat) (t : StraitTag) : (s.setTag n t).ready = s.ready := rfl
@[simp] theorem State.setTag_run (s : State) (n : Nat) (t : StraitTag) : (s.setTag n t).run = s.run := rfl
@[simp] theorem State.setTag_regs (s : State) (n : Nat) (t : StraitTag) : (s.setTag n t).regs = s.regs := rfl
@[simp] theorem State.setTag_latches (s : State) (n : Nat) (t : StraitTag) : (s.setTag n t).latches = s.latches := rfl
@[simp] theorem State.setTag_staged (s : State) (n : Nat) (t : StraitTag) : (s.setTag n t).staged = s.staged := rfl
@[simp] theorem State.setTag_mem (s : State) (n : Nat) (t : StraitTag) : (s.setTag n t).mem = s.mem := rfl
@[simp] theorem State.setTag_hostif (s : State) (n : Nat) (t : StraitTag) : (s.setTag n t).hostif = s.hostif := rfl
@[simp] theorem State.setTag_fault (s : State) (n : Nat) (t : StraitTag) : (s.setTag n t).fault = s.fault := rfl
@[simp] theorem State.setTag_obs (s : State) (n : Nat) (t : StraitTag) : (s.setTag n t).obs = s.obs := rfl
@[simp] theorem State.setTag_tenant (s : State) (n : Nat) (t : StraitTag) : (s.setTag n t).tenant = s.tenant := rfl
@[simp] theorem State.setTag_tier (s : State) (n : Nat) (t : StraitTag) : (s.setTag n t).tier = s.tier := rfl
@[simp] theorem State.setTag_herd (s : State) (n : Nat) (t : StraitTag) : (s.setTag n t).herd = s.herd := rfl
@[simp] theorem State.setTag_anchor (s : State) (n : Nat) (t : StraitTag) : (s.setTag n t).anchor = s.anchor := rfl
@[simp] theorem State.setTag_eland (s : State) (n : Nat) (t : StraitTag) : (s.setTag n t).eland = s.eland := rfl
@[simp] theorem State.setTag_spring (s : State) (n : Nat) (t : StraitTag) : (s.setTag n t).spring = s.spring := rfl
@[simp] theorem State.setTag_ibex (s : State) (n : Nat) (t : StraitTag) : (s.setTag n t).ibex = s.ibex := rfl
@[simp] theorem State.setTag_handoff (s : State) (n : Nat) (t : StraitTag) : (s.setTag n t).handoff = s.handoff := rfl
@[simp] theorem State.setTag_net (s : State) (n : Nat) (t : StraitTag) : (s.setTag n t).net = s.net := rfl
@[simp] theorem State.setTag_cham (s : State) (n : Nat) (t : StraitTag) : (s.setTag n t).cham = s.cham := rfl
@[simp] theorem State.setTag_health (s : State) (n : Nat) (t : StraitTag) : (s.setTag n t).health = s.health := rfl
@[simp] theorem State.setTag_struct (s : State) (n : Nat) (t : StraitTag) : (s.setTag n t).struct = s.struct := rfl
@[simp] theorem State.setTag_fw (s : State) (n : Nat) (t : StraitTag) : (s.setTag n t).fw = s.fw := rfl
@[simp] theorem State.setTag_sec (s : State) (n : Nat) (t : StraitTag) : (s.setTag n t).sec = s.sec := rfl
@[simp] theorem State.setTag_pwr (s : State) (n : Nat) (t : StraitTag) : (s.setTag n t).pwr = s.pwr := rfl
@[simp] theorem State.setTag_pins (s : State) (n : Nat) (t : StraitTag) : (s.setTag n t).pins = s.pins := rfl

/-! ### State.setIndex -/

@[simp] theorem State.setIndex_pending (s : State) (i : Nat) (x : Index) : (s.setIndex i x).pending = s.pending := rfl
@[simp] theorem State.setIndex_fresh (s : State) (i : Nat) (x : Index) : (s.setIndex i x).fresh = s.fresh := rfl
@[simp] theorem State.setIndex_order (s : State) (i : Nat) (x : Index) : (s.setIndex i x).order = s.order := rfl
@[simp] theorem State.setIndex_ready (s : State) (i : Nat) (x : Index) : (s.setIndex i x).ready = s.ready := rfl
@[simp] theorem State.setIndex_run (s : State) (i : Nat) (x : Index) : (s.setIndex i x).run = s.run := rfl
@[simp] theorem State.setIndex_regs (s : State) (i : Nat) (x : Index) : (s.setIndex i x).regs = s.regs := rfl
@[simp] theorem State.setIndex_latches (s : State) (i : Nat) (x : Index) : (s.setIndex i x).latches = s.latches := rfl
@[simp] theorem State.setIndex_staged (s : State) (i : Nat) (x : Index) : (s.setIndex i x).staged = s.staged := rfl
@[simp] theorem State.setIndex_mem (s : State) (i : Nat) (x : Index) : (s.setIndex i x).mem = s.mem := rfl
@[simp] theorem State.setIndex_hostif (s : State) (i : Nat) (x : Index) : (s.setIndex i x).hostif = s.hostif := rfl
@[simp] theorem State.setIndex_fault (s : State) (i : Nat) (x : Index) : (s.setIndex i x).fault = s.fault := rfl
@[simp] theorem State.setIndex_obs (s : State) (i : Nat) (x : Index) : (s.setIndex i x).obs = s.obs := rfl
@[simp] theorem State.setIndex_tenant (s : State) (i : Nat) (x : Index) : (s.setIndex i x).tenant = s.tenant := rfl
@[simp] theorem State.setIndex_tier (s : State) (i : Nat) (x : Index) : (s.setIndex i x).tier = s.tier := rfl
@[simp] theorem State.setIndex_herd (s : State) (i : Nat) (x : Index) : (s.setIndex i x).herd = s.herd := rfl
@[simp] theorem State.setIndex_anchor (s : State) (i : Nat) (x : Index) : (s.setIndex i x).anchor = s.anchor := rfl
@[simp] theorem State.setIndex_eland (s : State) (i : Nat) (x : Index) : (s.setIndex i x).eland = s.eland := rfl
@[simp] theorem State.setIndex_spring (s : State) (i : Nat) (x : Index) : (s.setIndex i x).spring = s.spring := rfl
@[simp] theorem State.setIndex_ibex (s : State) (i : Nat) (x : Index) : (s.setIndex i x).ibex = s.ibex := rfl
@[simp] theorem State.setIndex_handoff (s : State) (i : Nat) (x : Index) : (s.setIndex i x).handoff = s.handoff := rfl
@[simp] theorem State.setIndex_strait (s : State) (i : Nat) (x : Index) : (s.setIndex i x).strait = s.strait := rfl
@[simp] theorem State.setIndex_net (s : State) (i : Nat) (x : Index) : (s.setIndex i x).net = s.net := rfl
@[simp] theorem State.setIndex_health (s : State) (i : Nat) (x : Index) : (s.setIndex i x).health = s.health := rfl
@[simp] theorem State.setIndex_struct (s : State) (i : Nat) (x : Index) : (s.setIndex i x).struct = s.struct := rfl
@[simp] theorem State.setIndex_fw (s : State) (i : Nat) (x : Index) : (s.setIndex i x).fw = s.fw := rfl
@[simp] theorem State.setIndex_sec (s : State) (i : Nat) (x : Index) : (s.setIndex i x).sec = s.sec := rfl
@[simp] theorem State.setIndex_pwr (s : State) (i : Nat) (x : Index) : (s.setIndex i x).pwr = s.pwr := rfl
@[simp] theorem State.setIndex_pins (s : State) (i : Nat) (x : Index) : (s.setIndex i x).pins = s.pins := rfl

/-! ### State.setIslet -/

@[simp] theorem State.setIslet_pending (s : State) (i : Nat) (h : IsletHealth) : (s.setIslet i h).pending = s.pending := rfl
@[simp] theorem State.setIslet_fresh (s : State) (i : Nat) (h : IsletHealth) : (s.setIslet i h).fresh = s.fresh := rfl
@[simp] theorem State.setIslet_order (s : State) (i : Nat) (h : IsletHealth) : (s.setIslet i h).order = s.order := rfl
@[simp] theorem State.setIslet_ready (s : State) (i : Nat) (h : IsletHealth) : (s.setIslet i h).ready = s.ready := rfl
@[simp] theorem State.setIslet_run (s : State) (i : Nat) (h : IsletHealth) : (s.setIslet i h).run = s.run := rfl
@[simp] theorem State.setIslet_regs (s : State) (i : Nat) (h : IsletHealth) : (s.setIslet i h).regs = s.regs := rfl
@[simp] theorem State.setIslet_latches (s : State) (i : Nat) (h : IsletHealth) : (s.setIslet i h).latches = s.latches := rfl
@[simp] theorem State.setIslet_staged (s : State) (i : Nat) (h : IsletHealth) : (s.setIslet i h).staged = s.staged := rfl
@[simp] theorem State.setIslet_mem (s : State) (i : Nat) (h : IsletHealth) : (s.setIslet i h).mem = s.mem := rfl
@[simp] theorem State.setIslet_hostif (s : State) (i : Nat) (h : IsletHealth) : (s.setIslet i h).hostif = s.hostif := rfl
@[simp] theorem State.setIslet_fault (s : State) (i : Nat) (h : IsletHealth) : (s.setIslet i h).fault = s.fault := rfl
@[simp] theorem State.setIslet_obs (s : State) (i : Nat) (h : IsletHealth) : (s.setIslet i h).obs = s.obs := rfl
@[simp] theorem State.setIslet_tenant (s : State) (i : Nat) (h : IsletHealth) : (s.setIslet i h).tenant = s.tenant := rfl
@[simp] theorem State.setIslet_tier (s : State) (i : Nat) (h : IsletHealth) : (s.setIslet i h).tier = s.tier := rfl
@[simp] theorem State.setIslet_herd (s : State) (i : Nat) (h : IsletHealth) : (s.setIslet i h).herd = s.herd := rfl
@[simp] theorem State.setIslet_anchor (s : State) (i : Nat) (h : IsletHealth) : (s.setIslet i h).anchor = s.anchor := rfl
@[simp] theorem State.setIslet_eland (s : State) (i : Nat) (h : IsletHealth) : (s.setIslet i h).eland = s.eland := rfl
@[simp] theorem State.setIslet_spring (s : State) (i : Nat) (h : IsletHealth) : (s.setIslet i h).spring = s.spring := rfl
@[simp] theorem State.setIslet_ibex (s : State) (i : Nat) (h : IsletHealth) : (s.setIslet i h).ibex = s.ibex := rfl
@[simp] theorem State.setIslet_handoff (s : State) (i : Nat) (h : IsletHealth) : (s.setIslet i h).handoff = s.handoff := rfl
@[simp] theorem State.setIslet_strait (s : State) (i : Nat) (h : IsletHealth) : (s.setIslet i h).strait = s.strait := rfl
@[simp] theorem State.setIslet_net (s : State) (i : Nat) (h : IsletHealth) : (s.setIslet i h).net = s.net := rfl
@[simp] theorem State.setIslet_cham (s : State) (i : Nat) (h : IsletHealth) : (s.setIslet i h).cham = s.cham := rfl
@[simp] theorem State.setIslet_struct (s : State) (i : Nat) (h : IsletHealth) : (s.setIslet i h).struct = s.struct := rfl
@[simp] theorem State.setIslet_fw (s : State) (i : Nat) (h : IsletHealth) : (s.setIslet i h).fw = s.fw := rfl
@[simp] theorem State.setIslet_sec (s : State) (i : Nat) (h : IsletHealth) : (s.setIslet i h).sec = s.sec := rfl
@[simp] theorem State.setIslet_pwr (s : State) (i : Nat) (h : IsletHealth) : (s.setIslet i h).pwr = s.pwr := rfl
@[simp] theorem State.setIslet_pins (s : State) (i : Nat) (h : IsletHealth) : (s.setIslet i h).pins = s.pins := rfl

/-! ### State.setRecovery -/

@[simp] theorem State.setRecovery_pending (s : State) (r : Recovery) : (s.setRecovery r).pending = s.pending := rfl
@[simp] theorem State.setRecovery_fresh (s : State) (r : Recovery) : (s.setRecovery r).fresh = s.fresh := rfl
@[simp] theorem State.setRecovery_order (s : State) (r : Recovery) : (s.setRecovery r).order = s.order := rfl
@[simp] theorem State.setRecovery_ready (s : State) (r : Recovery) : (s.setRecovery r).ready = s.ready := rfl
@[simp] theorem State.setRecovery_run (s : State) (r : Recovery) : (s.setRecovery r).run = s.run := rfl
@[simp] theorem State.setRecovery_regs (s : State) (r : Recovery) : (s.setRecovery r).regs = s.regs := rfl
@[simp] theorem State.setRecovery_latches (s : State) (r : Recovery) : (s.setRecovery r).latches = s.latches := rfl
@[simp] theorem State.setRecovery_staged (s : State) (r : Recovery) : (s.setRecovery r).staged = s.staged := rfl
@[simp] theorem State.setRecovery_mem (s : State) (r : Recovery) : (s.setRecovery r).mem = s.mem := rfl
@[simp] theorem State.setRecovery_hostif (s : State) (r : Recovery) : (s.setRecovery r).hostif = s.hostif := rfl
@[simp] theorem State.setRecovery_obs (s : State) (r : Recovery) : (s.setRecovery r).obs = s.obs := rfl
@[simp] theorem State.setRecovery_tenant (s : State) (r : Recovery) : (s.setRecovery r).tenant = s.tenant := rfl
@[simp] theorem State.setRecovery_tier (s : State) (r : Recovery) : (s.setRecovery r).tier = s.tier := rfl
@[simp] theorem State.setRecovery_herd (s : State) (r : Recovery) : (s.setRecovery r).herd = s.herd := rfl
@[simp] theorem State.setRecovery_anchor (s : State) (r : Recovery) : (s.setRecovery r).anchor = s.anchor := rfl
@[simp] theorem State.setRecovery_eland (s : State) (r : Recovery) : (s.setRecovery r).eland = s.eland := rfl
@[simp] theorem State.setRecovery_spring (s : State) (r : Recovery) : (s.setRecovery r).spring = s.spring := rfl
@[simp] theorem State.setRecovery_ibex (s : State) (r : Recovery) : (s.setRecovery r).ibex = s.ibex := rfl
@[simp] theorem State.setRecovery_handoff (s : State) (r : Recovery) : (s.setRecovery r).handoff = s.handoff := rfl
@[simp] theorem State.setRecovery_strait (s : State) (r : Recovery) : (s.setRecovery r).strait = s.strait := rfl
@[simp] theorem State.setRecovery_net (s : State) (r : Recovery) : (s.setRecovery r).net = s.net := rfl
@[simp] theorem State.setRecovery_cham (s : State) (r : Recovery) : (s.setRecovery r).cham = s.cham := rfl
@[simp] theorem State.setRecovery_health (s : State) (r : Recovery) : (s.setRecovery r).health = s.health := rfl
@[simp] theorem State.setRecovery_struct (s : State) (r : Recovery) : (s.setRecovery r).struct = s.struct := rfl
@[simp] theorem State.setRecovery_fw (s : State) (r : Recovery) : (s.setRecovery r).fw = s.fw := rfl
@[simp] theorem State.setRecovery_sec (s : State) (r : Recovery) : (s.setRecovery r).sec = s.sec := rfl
@[simp] theorem State.setRecovery_pwr (s : State) (r : Recovery) : (s.setRecovery r).pwr = s.pwr := rfl
@[simp] theorem State.setRecovery_pins (s : State) (r : Recovery) : (s.setRecovery r).pins = s.pins := rfl

/-! ### Registers -/

theorem State.Inv.regs {s : State} (h : s.Inv) : Tab.wfBy resetOf s.regs = true := h.2

/-- A register reads as it was written. -/
theorem State.rd_wr {s : State} (h : s.Inv) (a : Nat) (v : U32) : (s.wr a v).rd a = v := Tab.look_place (lo := 0) h.2

/-- Writing a register leaves the others. -/
theorem State.rd_wr_ne {a b : Nat} (h : b ≠ a) (s : State) (v : U32) : (s.wr a v).rd b = s.rd b := Tab.look_place_ne h _

theorem State.rdN_wr {s : State} (h : s.Inv) (a : Nat) (v : U32) : (s.wr a v).rdN a = v.toNat := by
  unfold State.rdN; rw [State.rd_wr h]

theorem State.rdN_wr_ne {a b : Nat} (h : b ≠ a) (s : State) (v : U32) : (s.wr a v).rdN b = s.rdN b := by
  unfold State.rdN; rw [State.rd_wr_ne h]

theorem State.Inv_wr {s : State} (h : s.Inv) (a : Nat) (v : U32) : (s.wr a v).Inv := ⟨h.1, Tab.wfBy_place h.2⟩

theorem State.rd_setFlag_ne {a b : Nat} (h : b ≠ a) (s : State) (i : Nat) (x : Bool) : (s.setFlag a i x).rd b = s.rd b := State.rd_wr_ne h s _

theorem State.rd_count_ne {a b : Nat} (h : b ≠ a) (s : State) (n : Nat) : (s.count a n).rd b = s.rd b := State.rd_wr_ne h s _

theorem State.rd_setField_ne {a b : Nat} (h : b ≠ a) (s : State) (l w v : Nat) : (s.setField a l w v).rd b = s.rd b := State.rd_wr_ne h s _

theorem State.rd_bump_ne {a b : Nat} (h : b ≠ a) (s : State) (l w n : Nat) : (s.bump a l w n).rd b = s.rd b := State.rd_wr_ne h s _

/-! ### Memory -/

/-- A byte reads as it was written. -/
theorem State.byte_setByte {s : State} (h : s.Inv) (a : Nat) (b : Byte) : (s.setByte a b).byte a = b :=
  Tab.look_place (d := fun _ => (0 : Byte)) (lo := 0) h.1

/-- Writing a byte leaves the others. -/
theorem State.byte_setByte_ne {a c : Nat} (h : c ≠ a) (s : State) (b : Byte) : (s.setByte a b).byte c = s.byte c := Tab.look_place_ne h _

/-- Writing bytes leaves those outside the stretch written. -/
theorem State.byte_setBytes_ne : ∀ (bs : List Byte) (s : State) (a c : Nat), c < a ∨ a + bs.length ≤ c → (s.setBytes a bs).byte c = s.byte c
  | [], _, _, _, _ => rfl
  | b :: bs, s, a, c, h => by
    rw [State.setBytes, State.byte_setBytes_ne bs _ _ _ (by simp only [List.length_cons] at h; omega),
      State.byte_setByte_ne (by simp only [List.length_cons] at h; omega)]

end Sys2Proof.Machine
end

