-- ==== Sys2Proof/Laws/Frames.lean ====
section
/-! SUPPORT. How frames are put together: what leaves a part of the state leaves it through a chain of operations. -/

namespace Sys2Proof.Machine

theorem State.Kept.refl (s : State) (p : Part) : s.Kept s p := by cases p <;> rfl

theorem State.Kept.trans {s t u : State} {p : Part} (h : s.Kept t p) (k : t.Kept u p) : s.Kept u p := by
  cases p <;> exact Eq.trans k h

theorem State.ChangesOnly.refl (s : State) (l : List Part) : s.ChangesOnly s l := fun p _ => .refl s p

theorem State.ChangesOnly.trans {s t u : State} {l : List Part} (h : s.ChangesOnly t l) (k : t.ChangesOnly u l) : s.ChangesOnly u l :=
  fun p n => (h p n).trans (k p n)

theorem State.ChangesOnly.mono {s t : State} {l m : List Part} (h : s.ChangesOnly t l) (k : ∀ p, p ∈ l → p ∈ m) : s.ChangesOnly t m :=
  fun p n => h p fun i => n (k p i)

theorem State.RegsKept.refl (s : State) (l : List Nat) : s.RegsKept s l := fun _ _ => rfl

theorem State.RegsKept.trans {s t u : State} {l : List Nat} (h : s.RegsKept t l) (k : t.RegsKept u l) : s.RegsKept u l :=
  fun a n => (k a n).trans (h a n)

theorem State.RegsKept.mono {s t : State} {l m : List Nat} (h : s.RegsKept t l) (k : ∀ a, a ∈ l → a ∈ m) : s.RegsKept t m :=
  fun a n => h a fun i => n (k a i)

theorem State.regsKept_wr (s : State) (a : Nat) (v : U32) : s.RegsKept (s.wr a v) [a] :=
  fun b n => State.rd_wr_ne (by simpa using n) s v

theorem State.regsKept_of_regs {s t : State} (h : t.regs = s.regs) (l : List Nat) : s.RegsKept t l := fun a _ => by
  unfold State.rd; rw [h]

theorem State.changes_wr (s : State) (a : Nat) (v : U32) : s.ChangesOnly (s.wr a v) [.regs] := by
  intro p h; cases p <;> first | rfl | exact absurd (by decide) h

end Sys2Proof.Machine
end

