-- ==== Sys2Proof/Laws/Host.lean ====
section
/-! SUPPORT. What taking a command off a window does: it runs, or it completes with the status of the check that it fails. -/

namespace Sys2Proof.Machine

/-- A command that runs has its opcode's own effect. -/
theorem State.hostCmd_runs {s : State} {w : WinRef} {op : Byte} {run : HostCmd → CmdRef → State → State} (h : s.Runs w op) :
    s.hostCmd w op run = run (s.frontCmd w.key) (s.ref w) (s.take w.key) := by
  obtain ⟨h1, h2, h3⟩ := h
  simp only [State.hostCmd, h1, h2, h3, beq_self_eq_true, Bool.and_self, if_true]
  rfl

/-- A command that fails a check completes with the check's status. -/
theorem State.hostCmd_fails {s : State} {w : WinRef} {op st : Byte} {run : HostCmd → CmdRef → State → State}
    (h1 : s.canConsume w.key (s.frontCmd w.key) = true) (h2 : (s.frontCmd w.key).opcode = op)
    (h3 : s.cmdStatus w.key (s.frontCmd w.key) = some st) :
    s.hostCmd w op run = (s.take w.key).complete (s.ref w) st := by
  simp only [State.hostCmd, h1, h2, h3, beq_self_eq_true, Bool.and_self, if_true]
  rfl

/-- Where no such command may be consumed, nothing happens. -/
theorem State.hostCmd_idle {s : State} {w : WinRef} {op : Byte} {run : HostCmd → CmdRef → State → State}
    (h : s.canConsume w.key (s.frontCmd w.key) = false ∨ (s.frontCmd w.key).opcode ≠ op) : s.hostCmd w op run = s := by
  have e : (s.canConsume w.key (s.frontCmd w.key) && (s.frontCmd w.key).opcode == op) = false := by
    rcases h with h | h
    · simp [h]
    · simp [h]
  simp only [State.hostCmd, e, Bool.false_eq_true, if_false]

end Sys2Proof.Machine
end

