-- ==== Sys2Proof/Laws/Keeps.lean ====
section
/-! SUPPORT. What every operation keeps of a state: the waiting commands, the fuses, and the canonical forms of memory and
registers; and the ways in which an operation is put together from others that keep it. -/

namespace Sys2Proof.Machine

/-- What every operation keeps. -/
structure State.Keeps (r s : State) : Prop where
  queue : s.pending = r.pending
  fuses : r.FusesKept s
  forms : r.Inv → s.Inv

theorem State.FusesKept.refl (s : State) : s.FusesKept s := ⟨rfl, id, id, Nat.le_refl _⟩

theorem State.Keeps.refl (s : State) : s.Keeps s := ⟨rfl, .refl s, id⟩

/-- A state that differs in other fields alone. -/
theorem State.keeps_mk {r s : State} {fresh : Nat} {ready : Tab Bool} {run : Bool} {latches : Tab (Option U32)} {staged : List (Nat × U32)} {hostif : HostIf} {fault : FaultSt} {obs : ObsSt} {tenant : TenantSt} {tier : TierSt} {herd : HerdSt} {anchor : AnchorSt} {eland : ElandSt} {spring : SpringSt} {ibex : IbexSt} {handoff : HandoffSt} {strait : StraitSt} {net : NetSt} {cham : ChamSt} {health : HealthSt} {struct : StructSt} {pwr : PwrSt} {pins : PinSt} :
    r.Keeps ⟨s.pending, fresh, s.order, ready, run, s.regs, latches, staged, s.mem, hostif, fault, obs, tenant, tier, herd, anchor, eland, spring, ibex, handoff, strait, net, cham, health, struct, s.fw, s.sec, pwr, pins⟩ ↔ r.Keeps s := ⟨fun h => ⟨h.1, h.2, h.3⟩, fun h => ⟨h.1, h.2, h.3⟩⟩

/-- A state that differs in other fields, the security and firmware blocks among them, whose fuses are as they were. -/
theorem State.keeps_mk_fuses {r s : State} {fresh : Nat} {ready : Tab Bool} {run : Bool} {latches : Tab (Option U32)} {staged : List (Nat × U32)} {hostif : HostIf} {fault : FaultSt} {obs : ObsSt} {tenant : TenantSt} {tier : TierSt} {herd : HerdSt} {anchor : AnchorSt} {eland : ElandSt} {spring : SpringSt} {ibex : IbexSt} {handoff : HandoffSt} {strait : StraitSt} {net : NetSt} {cham : ChamSt} {health : HealthSt} {struct : StructSt} {fw : FwSt} {sec : SecSt} {pwr : PwrSt} {pins : PinSt}
    (ho : sec.novuoRevoke = s.sec.novuoRevoke) (hm : sec.macBase = s.sec.macBase) (he : sec.ecoef = s.sec.ecoef)
    (hw : sec.staticMw = s.sec.staticMw) (hi : sec.dieId = s.sec.dieId) (hb : sec.birth = s.sec.birth) (hc : sec.coef = s.sec.coef)
    (ht : sec.testDate = s.sec.testDate) (hd : sec.debugLock = s.sec.debugLock) (hl : sec.mldsaReq = s.sec.mldsaReq) (hv : fw.svn = s.fw.svn) :
    r.Keeps ⟨s.pending, fresh, s.order, ready, run, s.regs, latches, staged, s.mem, hostif, fault, obs, tenant, tier, herd, anchor, eland, spring, ibex, handoff, strait, net, cham, health, struct, fw, sec, pwr, pins⟩ ↔ r.Keeps s := by
  constructor
  · intro h
    refine ⟨h.1, ?_, h.3⟩
    have := h.2
    simpa only [State.FusesKept, State.madeFuses, ho, hm, he, hw, hi, hb, hc, ht, hd, hl, hv] using this
  · intro h
    refine ⟨h.1, ?_, h.3⟩
    have := h.2
    simpa only [State.FusesKept, State.madeFuses, ho, hm, he, hw, hi, hb, hc, ht, hd, hl, hv] using this

theorem State.Keeps.foldl {α : Type} {r : State} {f : State → α → State} {l : List α} {s : State} (h : r.Keeps s)
    (hf : ∀ s a, r.Keeps s → r.Keeps (f s a)) : r.Keeps (l.foldl f s) := by
  induction l generalizing s with
  | nil => exact h
  | cons a l ih => exact ih (hf s a h)

/-- A fold whose accumulator starts with the state. -/
theorem State.Keeps.foldl_fst {α β : Type} {r : State} {f : State × β → α → State × β} {l : List α} {x : State × β} (h : r.Keeps x.1)
    (hf : ∀ x a, r.Keeps x.1 → r.Keeps (f x a).1) : r.Keeps (l.foldl f x).1 := by
  induction l generalizing x with
  | nil => exact h
  | cons a l ih => exact ih (hf x a h)

theorem State.Keeps.fst {β : Type} {r t : State} {p : State × β} {b : β} (e : p = (t, b)) (h : r.Keeps p.1) : r.Keeps t := by
  subst e; exact h

theorem State.Keeps.snd {β : Type} {r t : State} {p : β × State} {b : β} (e : p = (b, t)) (h : r.Keeps p.2) : r.Keeps t := by
  subst e; exact h

/-- An optional state keeps what its state keeps. -/
structure State.KeepsSome (r : State) (o : Option State) : Prop where
  keeps : ∀ t, o = some t → r.Keeps t

/-- An optional pair keeps what its state keeps. -/
structure State.KeepsPair {α : Type} (r : State) (o : Option (α × State)) : Prop where
  keeps : ∀ a t, o = some (a, t) → r.Keeps t

/-- An answer that may be an error keeps what its state keeps. -/
structure State.KeepsOk (r : State) (o : Except Byte State) : Prop where
  keeps : ∀ t, o = .ok t → r.Keeps t

/-- An outcome keeps what its state keeps. -/
structure State.KeepsNext (r : State) (o : Host.Outcome State Fault Refusal) : Prop where
  keeps : ∀ t, o = .next t → r.Keeps t

theorem State.Keeps.some {r t : State} {o : Option State} (e : o = .some t) (h : r.KeepsSome o) : r.Keeps t := h.keeps t e

theorem State.Keeps.pair {α : Type} {r t : State} {a : α} {o : Option (α × State)} (e : o = .some (a, t)) (h : r.KeepsPair o) : r.Keeps t := h.keeps a t e

theorem State.Keeps.ok {r t : State} {o : Except Byte State} (e : o = .ok t) (h : r.KeepsOk o) : r.Keeps t := h.keeps t e

theorem State.KeepsSome.none (r : State) : r.KeepsSome none := ⟨fun _ e => by cases e⟩

theorem State.KeepsSome.some {r s : State} (h : r.Keeps s) : r.KeepsSome (some s) := ⟨fun _ e => by cases e; exact h⟩

theorem State.KeepsPair.none {α : Type} {r : State} : r.KeepsPair (none : Option (α × State)) := ⟨fun _ _ e => by cases e⟩

theorem State.KeepsPair.some {α : Type} {r s : State} {a : α} (h : r.Keeps s) : r.KeepsPair (some (a, s)) := ⟨fun _ _ e => by cases e; exact h⟩

theorem State.KeepsOk.error {r : State} {b : Byte} : r.KeepsOk (.error b) := ⟨fun _ e => by cases e⟩

theorem State.KeepsOk.ok {r s : State} (h : r.Keeps s) : r.KeepsOk (.ok s) := ⟨fun _ e => by cases e; exact h⟩

theorem State.KeepsNext.next {r s : State} (h : r.Keeps s) : r.KeepsNext (.next s) := ⟨fun _ e => by cases e; exact h⟩

theorem State.KeepsSome.map {α : Type} {r : State} {o : Option α} {f : α → State} (h : ∀ a, r.Keeps (f a)) : r.KeepsSome (o.map f) := by
  cases o with
  | none => exact .none r
  | some a => exact .some (h a)

theorem State.KeepsPair.map {α β : Type} {r : State} {o : Option α} {f : α → β × State} (h : ∀ a, r.Keeps (f a).2) :
    r.KeepsPair (o.map f) := by
  cases o with
  | none => exact .none
  | some a => exact .some (h a)

/-- A state mapped on keeps what the state keeps. -/
theorem State.KeepsSome.map_state {r : State} {o : Option State} {f : State → State} (ho : r.KeepsSome o)
    (h : ∀ t, r.Keeps t → r.Keeps (f t)) : r.KeepsSome (o.map f) := by
  cases o with
  | none => exact .none r
  | some t => exact .some (h t (ho.keeps t rfl))

/-- A state paired with a value keeps what the state keeps. -/
theorem State.KeepsPair.map_state {β : Type} {r : State} {o : Option State} {f : State → β × State} (ho : r.KeepsSome o)
    (h : ∀ t, r.Keeps t → r.Keeps (f t).2) : r.KeepsPair (o.map f) := by
  cases o with
  | none => exact .none
  | some t => exact .some (h t (ho.keeps t rfl))

/-- A pair mapped on keeps what the pair keeps. -/
theorem State.KeepsPair.map_pair {α β : Type} {r : State} {o : Option (α × State)} {f : α × State → β × State} (ho : r.KeepsPair o)
    (h : ∀ a t, r.Keeps t → r.Keeps (f (a, t)).2) : r.KeepsPair (o.map f) := by
  match o, ho with
  | .none, _ => exact .none
  | .some (a, t), ho => exact .some (h a t (ho.keeps a t rfl))

/-! ### Choices -/

theorem State.Keeps.ite {r s t : State} {c : Prop} [Decidable c] (hs : r.Keeps s) (ht : r.Keeps t) : r.Keeps (if c then s else t) := by
  split
  · exact hs
  · exact ht

theorem State.KeepsSome.ite {r : State} {o p : Option State} {c : Prop} [Decidable c] (ho : r.KeepsSome o) (hp : r.KeepsSome p) :
    r.KeepsSome (if c then o else p) := by
  split
  · exact ho
  · exact hp

theorem State.KeepsSome.or {r : State} {o p : Option State} (ho : r.KeepsSome o) (hp : r.KeepsSome p) : r.KeepsSome (o.or p) := by
  cases o with
  | none => exact hp
  | some s => exact ho

theorem State.KeepsSome.map_pair {α : Type} {r : State} {o : Option (α × State)} {f : α × State → State} (ho : r.KeepsPair o)
    (h : ∀ a t, r.Keeps t → r.Keeps (f (a, t))) : r.KeepsSome (o.map f) := by
  match o, ho with
  | .none, _ => exact .none r
  | .some (a, t), ho => exact .some (h a t (ho.keeps a t rfl))

/-! ### The operations that write memory and registers -/

theorem State.wr_keeps {r s : State} {a : Nat} {v : U32} (h : r.Keeps s) : r.Keeps (s.wr a v) :=
  ⟨h.1, h.2, fun i => ⟨(h.3 i).1, Tab.wfBy_place (h.3 i).2⟩⟩

theorem State.setByte_keeps {r s : State} {a : Nat} {b : Byte} (h : r.Keeps s) : r.Keeps (s.setByte a b) :=
  ⟨h.1, h.2, fun i => ⟨Tab.wfBy_place (d := fun _ => (0 : Byte)) (h.3 i).1, (h.3 i).2⟩⟩

theorem State.setBytes_keeps {r : State} : ∀ {bs : List Byte} {a : Nat} {s : State}, r.Keeps s → r.Keeps (s.setBytes a bs)
  | [], _, _, h => h
  | _ :: bs, _, _, h => State.setBytes_keeps (bs := bs) (State.setByte_keeps h)

end Sys2Proof.Machine
end

