-- ==== Sys2Proof/Laws/KeepsOps.lean ====
section
/-! SUPPORT. Every operation of Machine/Ops.lean keeps the queue, the fuses and the canonical forms. -/

namespace Sys2Proof.Machine

theorem State.offer_keeps {r : State} {a0 : State} {a1 : ℕ} {a2 : List (ℕ × ℕ)} {a3 : optParam Byte 0} (h0 : r.Keeps a0) : r.Keeps (State.offer a0 a1 a2 a3) := by
  unfold State.offer
  try dsimp only
  repeat' first
    | with_reducible assumption
    | with_reducible exact State.Keeps.refl _
    | with_reducible apply State.KeepsNext.next
    | with_reducible apply State.KeepsSome.none
    | with_reducible apply State.KeepsSome.some
    | with_reducible apply State.KeepsPair.none
    | with_reducible apply State.KeepsPair.some
    | with_reducible apply State.KeepsOk.error
    | with_reducible apply State.KeepsOk.ok
    | with_reducible apply State.Keeps.foldl
    | with_reducible apply State.Keeps.foldl_fst
    | (with_reducible refine State.Keeps.some (by assumption) ?_)
    | (with_reducible refine State.Keeps.pair (by assumption) ?_)
    | (with_reducible refine State.Keeps.ok (by assumption) ?_)
    | (with_reducible refine State.Keeps.fst (by assumption) ?_)
    | (with_reducible refine State.Keeps.snd (by assumption) ?_)
    | intro _
    | simp only [↓State.keeps_mk]
    | simp only [↓State.keeps_mk_fuses]
    | split

theorem State.setField_keeps {r : State} {a0 : State} {a1 : ℕ} {a2 : ℕ} {a3 : ℕ} {a4 : ℕ} (h0 : r.Keeps a0) : r.Keeps (State.setField a0 a1 a2 a3 a4) := by
  unfold State.setField
  try dsimp only
  repeat' first
    | with_reducible assumption
    | with_reducible exact State.Keeps.refl _
    | with_reducible apply State.wr_keeps

theorem State.bump_keeps {r : State} {a0 : State} {a1 : ℕ} {a2 : ℕ} {a3 : ℕ} {a4 : ℕ} (h0 : r.Keeps a0) : r.Keeps (State.bump a0 a1 a2 a3 a4) := by
  unfold State.bump
  try dsimp only
  repeat' first
    | with_reducible assumption
    | with_reducible exact State.Keeps.refl _
    | with_reducible apply State.setField_keeps

theorem State.obsCount_keeps {r : State} {a0 : State} {a1 : ℕ} {a2 : ℕ} (h0 : r.Keeps a0) : r.Keeps (State.obsCount a0 a1 a2) := by
  unfold State.obsCount
  try dsimp only
  repeat' first
    | with_reducible assumption
    | with_reducible exact State.Keeps.refl _
    | with_reducible apply State.KeepsNext.next
    | with_reducible apply State.KeepsSome.none
    | with_reducible apply State.KeepsSome.some
    | with_reducible apply State.KeepsPair.none
    | with_reducible apply State.KeepsPair.some
    | with_reducible apply State.KeepsOk.error
    | with_reducible apply State.KeepsOk.ok
    | with_reducible apply State.Keeps.foldl
    | with_reducible apply State.Keeps.foldl_fst
    | (with_reducible refine State.Keeps.some (by assumption) ?_)
    | (with_reducible refine State.Keeps.pair (by assumption) ?_)
    | (with_reducible refine State.Keeps.ok (by assumption) ?_)
    | (with_reducible refine State.Keeps.fst (by assumption) ?_)
    | (with_reducible refine State.Keeps.snd (by assumption) ?_)
    | intro _
    | simp only [↓State.keeps_mk]

theorem State.drawn_keeps {r : State} {a0 : State} (h0 : r.Keeps a0) : r.Keeps (State.drawn a0) := by
  unfold State.drawn
  try dsimp only
  repeat' first
    | with_reducible assumption
    | with_reducible exact State.Keeps.refl _
    | with_reducible apply State.KeepsNext.next
    | with_reducible apply State.KeepsSome.none
    | with_reducible apply State.KeepsSome.some
    | with_reducible apply State.KeepsPair.none
    | with_reducible apply State.KeepsPair.some
    | with_reducible apply State.KeepsOk.error
    | with_reducible apply State.KeepsOk.ok
    | with_reducible apply State.Keeps.foldl
    | with_reducible apply State.Keeps.foldl_fst
    | (with_reducible refine State.Keeps.some (by assumption) ?_)
    | (with_reducible refine State.Keeps.pair (by assumption) ?_)
    | (with_reducible refine State.Keeps.ok (by assumption) ?_)
    | (with_reducible refine State.Keeps.fst (by assumption) ?_)
    | (with_reducible refine State.Keeps.snd (by assumption) ?_)
    | intro _
    | simp only [↓State.keeps_mk]

theorem State.count_keeps {r : State} {a0 : State} {a1 : ℕ} {a2 : ℕ} (h0 : r.Keeps a0) : r.Keeps (State.count a0 a1 a2) := by
  unfold State.count
  try dsimp only
  repeat' first
    | with_reducible assumption
    | with_reducible exact State.Keeps.refl _
    | with_reducible apply State.wr_keeps

theorem State.setFlag_keeps {r : State} {a0 : State} {a1 : ℕ} {a2 : ℕ} {a3 : Bool} (h0 : r.Keeps a0) : r.Keeps (State.setFlag a0 a1 a2 a3) := by
  unfold State.setFlag
  try dsimp only
  repeat' first
    | with_reducible assumption
    | with_reducible exact State.Keeps.refl _
    | with_reducible apply State.wr_keeps

theorem State.count64_keeps {r : State} {a0 : State} {a1 : ℕ} {a2 : ℕ} (h0 : r.Keeps a0) : r.Keeps (State.count64 a0 a1 a2) := by
  unfold State.count64
  try dsimp only
  repeat' first
    | with_reducible assumption
    | with_reducible exact State.Keeps.refl _
    | with_reducible apply State.wr_keeps

theorem State.decided_keeps {r : State} {a0 : State} {a1 : ℕ} (h0 : r.Keeps a0) : r.Keeps (State.decided a0 a1) := by
  unfold State.decided
  try dsimp only
  repeat' first
    | with_reducible assumption
    | with_reducible exact State.Keeps.refl _
    | with_reducible apply State.KeepsNext.next
    | with_reducible apply State.KeepsSome.none
    | with_reducible apply State.KeepsSome.some
    | with_reducible apply State.KeepsPair.none
    | with_reducible apply State.KeepsPair.some
    | with_reducible apply State.KeepsOk.error
    | with_reducible apply State.KeepsOk.ok
    | with_reducible apply State.Keeps.foldl
    | with_reducible apply State.Keeps.foldl_fst
    | (with_reducible refine State.Keeps.some (by assumption) ?_)
    | (with_reducible refine State.Keeps.pair (by assumption) ?_)
    | (with_reducible refine State.Keeps.ok (by assumption) ?_)
    | (with_reducible refine State.Keeps.fst (by assumption) ?_)
    | (with_reducible refine State.Keeps.snd (by assumption) ?_)
    | intro _
    | simp only [↓State.keeps_mk]

theorem State.setReady_keeps {r : State} {a0 : State} {a1 : ℕ} {a2 : Bool} (h0 : r.Keeps a0) : r.Keeps (State.setReady a0 a1 a2) := by
  unfold State.setReady
  try dsimp only
  repeat' first
    | with_reducible assumption
    | with_reducible exact State.Keeps.refl _
    | with_reducible apply State.KeepsNext.next
    | with_reducible apply State.KeepsSome.none
    | with_reducible apply State.KeepsSome.some
    | with_reducible apply State.KeepsPair.none
    | with_reducible apply State.KeepsPair.some
    | with_reducible apply State.KeepsOk.error
    | with_reducible apply State.KeepsOk.ok
    | with_reducible apply State.Keeps.foldl
    | with_reducible apply State.Keeps.foldl_fst
    | (with_reducible refine State.Keeps.some (by assumption) ?_)
    | (with_reducible refine State.Keeps.pair (by assumption) ?_)
    | (with_reducible refine State.Keeps.ok (by assumption) ?_)
    | (with_reducible refine State.Keeps.fst (by assumption) ?_)
    | (with_reducible refine State.Keeps.snd (by assumption) ?_)
    | intro _
    | simp only [↓State.keeps_mk]

theorem State.drawN_keeps {r : State} {a0 : State} {a1 : ℕ} (h0 : r.Keeps a0) : r.Keeps (State.drawN a0 a1) := by
  unfold State.drawN
  try dsimp only
  repeat' first
    | with_reducible assumption
    | with_reducible exact State.Keeps.refl _
    | with_reducible apply State.KeepsNext.next
    | with_reducible apply State.KeepsSome.none
    | with_reducible apply State.KeepsSome.some
    | with_reducible apply State.KeepsPair.none
    | with_reducible apply State.KeepsPair.some
    | with_reducible apply State.KeepsOk.error
    | with_reducible apply State.KeepsOk.ok
    | with_reducible apply State.Keeps.foldl
    | with_reducible apply State.Keeps.foldl_fst
    | (with_reducible refine State.Keeps.some (by assumption) ?_)
    | (with_reducible refine State.Keeps.pair (by assumption) ?_)
    | (with_reducible refine State.Keeps.ok (by assumption) ?_)
    | (with_reducible refine State.Keeps.fst (by assumption) ?_)
    | (with_reducible refine State.Keeps.snd (by assumption) ?_)
    | intro _
    | simp only [↓State.keeps_mk]

theorem State.storeLE_keeps {r : State} {a0 : State} {a1 : ℕ} {a2 : ℕ} {a3 : ℕ} (h0 : r.Keeps a0) : r.Keeps (State.storeLE a0 a1 a2 a3) := by
  unfold State.storeLE
  try dsimp only
  repeat' first
    | with_reducible assumption
    | with_reducible exact State.Keeps.refl _
    | with_reducible apply State.setBytes_keeps

end Sys2Proof.Machine
end

