-- ==== Sys2Proof/Laws/KeepsHostOps.lean ====
section
/-! SUPPORT. Every operation of Machine/HostOps.lean keeps the queue, the fuses and the canonical forms. -/

namespace Sys2Proof.Machine

theorem State.setRecord_keeps {r : State} {a0 : State} {a1 : ℕ} {a2 : Record} (h0 : r.Keeps a0) : r.Keeps (State.setRecord a0 a1 a2) := by
  unfold State.setRecord
  try dsimp only
  repeat' first
    | with_reducible assumption
    | with_reducible exact State.Keeps.refl _
    | with_reducible apply State.KeepsNext.next
    | with_reducible apply State.KeepsSome.none
    | with_reducible apply State.KeepsSome.some
    | with_reducible apply State.KeepsPair.none
    | with_reducible apply State.KeepsPair.some
    | with_reducible apply State.KeepsOk.error
    | with_reducible apply State.KeepsOk.ok
    | with_reducible apply State.Keeps.foldl
    | with_reducible apply State.Keeps.foldl_fst
    | (with_reducible refine State.Keeps.some (by assumption) ?_)
    | (with_reducible refine State.Keeps.pair (by assumption) ?_)
    | (with_reducible refine State.Keeps.ok (by assumption) ?_)
    | (with_reducible refine State.Keeps.fst (by assumption) ?_)
    | (with_reducible refine State.Keeps.snd (by assumption) ?_)
    | intro _
    | simp only [↓State.keeps_mk]

theorem State.setWin_keeps {r : State} {a0 : State} {a1 : ℕ} {a2 : HostWin} (h0 : r.Keeps a0) : r.Keeps (State.setWin a0 a1 a2) := by
  unfold State.setWin
  try dsimp only
  repeat' first
    | with_reducible assumption
    | with_reducible exact State.Keeps.refl _
    | with_reducible apply State.KeepsNext.next
    | with_reducible apply State.KeepsSome.none
    | with_reducible apply State.KeepsSome.some
    | with_reducible apply State.KeepsPair.none
    | with_reducible apply State.KeepsPair.some
    | with_reducible apply State.KeepsOk.error
    | with_reducible apply State.KeepsOk.ok
    | with_reducible apply State.Keeps.foldl
    | with_reducible apply State.Keeps.foldl_fst
    | (with_reducible refine State.Keeps.some (by assumption) ?_)
    | (with_reducible refine State.Keeps.pair (by assumption) ?_)
    | (with_reducible refine State.Keeps.ok (by assumption) ?_)
    | (with_reducible refine State.Keeps.fst (by assumption) ?_)
    | (with_reducible refine State.Keeps.snd (by assumption) ?_)
    | intro _
    | simp only [↓State.keeps_mk]

theorem State.take_keeps {r : State} {a0 : State} {a1 : ℕ} (h0 : r.Keeps a0) : r.Keeps (State.take a0 a1) := by
  unfold State.take
  try dsimp only
  repeat' first
    | with_reducible assumption
    | with_reducible exact State.Keeps.refl _
    | with_reducible apply State.setWin_keeps
    | with_reducible apply State.KeepsNext.next
    | with_reducible apply State.KeepsSome.none
    | with_reducible apply State.KeepsSome.some
    | with_reducible apply State.KeepsPair.none
    | with_reducible apply State.KeepsPair.some
    | with_reducible apply State.KeepsOk.error
    | with_reducible apply State.KeepsOk.ok
    | with_reducible apply State.Keeps.foldl
    | with_reducible apply State.Keeps.foldl_fst
    | (with_reducible refine State.Keeps.some (by assumption) ?_)
    | (with_reducible refine State.Keeps.pair (by assumption) ?_)
    | (with_reducible refine State.Keeps.ok (by assumption) ?_)
    | (with_reducible refine State.Keeps.fst (by assumption) ?_)
    | (with_reducible refine State.Keeps.snd (by assumption) ?_)
    | intro _
    | simp only [↓State.keeps_mk]

theorem State.tally_keeps {r : State} {a0 : State} {a1 : ℕ} {a2 : Usage → Usage} (h0 : r.Keeps a0) : r.Keeps (State.tally a0 a1 a2) := by
  unfold State.tally
  try dsimp only
  repeat' first
    | with_reducible assumption
    | with_reducible exact State.Keeps.refl _
    | with_reducible apply State.KeepsNext.next
    | with_reducible apply State.KeepsSome.none
    | with_reducible apply State.KeepsSome.some
    | with_reducible apply State.KeepsPair.none
    | with_reducible apply State.KeepsPair.some
    | with_reducible apply State.KeepsOk.error
    | with_reducible apply State.KeepsOk.ok
    | with_reducible apply State.Keeps.foldl
    | with_reducible apply State.Keeps.foldl_fst
    | (with_reducible refine State.Keeps.some (by assumption) ?_)
    | (with_reducible refine State.Keeps.pair (by assumption) ?_)
    | (with_reducible refine State.Keeps.ok (by assumption) ?_)
    | (with_reducible refine State.Keeps.fst (by assumption) ?_)
    | (with_reducible refine State.Keeps.snd (by assumption) ?_)
    | intro _
    | simp only [↓State.keeps_mk]

theorem State.setTenant_keeps {r : State} {a0 : State} {a1 : ℕ} {a2 : Tenant} (h0 : r.Keeps a0) : r.Keeps (State.setTenant a0 a1 a2) := by
  unfold State.setTenant
  try dsimp only
  repeat' first
    | with_reducible assumption
    | with_reducible exact State.Keeps.refl _
    | with_reducible apply State.KeepsNext.next
    | with_reducible apply State.KeepsSome.none
    | with_reducible apply State.KeepsSome.some
    | with_reducible apply State.KeepsPair.none
    | with_reducible apply State.KeepsPair.some
    | with_reducible apply State.KeepsOk.error
    | with_reducible apply State.KeepsOk.ok
    | with_reducible apply State.Keeps.foldl
    | with_reducible apply State.Keeps.foldl_fst
    | (with_reducible refine State.Keeps.some (by assumption) ?_)
    | (with_reducible refine State.Keeps.pair (by assumption) ?_)
    | (with_reducible refine State.Keeps.ok (by assumption) ?_)
    | (with_reducible refine State.Keeps.fst (by assumption) ?_)
    | (with_reducible refine State.Keeps.snd (by assumption) ?_)
    | intro _
    | simp only [↓State.keeps_mk]

theorem State.chargeAdm_keeps {r : State} {a0 : State} {a1 : ℕ} {a2 : ℕ} (h0 : r.Keeps a0) : r.Keeps (State.chargeAdm a0 a1 a2) := by
  unfold State.chargeAdm
  try dsimp only
  repeat' first
    | with_reducible assumption
    | with_reducible exact State.Keeps.refl _
    | with_reducible apply State.setTenant_keeps

theorem State.reported_keeps {r : State} {a0 : State} {a1 : HostRec} (h0 : r.Keeps a0) : r.Keeps (State.reported a0 a1) := by
  unfold State.reported
  try dsimp only
  repeat' first
    | with_reducible assumption
    | with_reducible exact State.Keeps.refl _
    | with_reducible apply State.setRecord_keeps
    | with_reducible apply State.tally_keeps
    | with_reducible apply State.chargeAdm_keeps
    | with_reducible apply State.obsCount_keeps
    | with_reducible apply State.KeepsNext.next
    | with_reducible apply State.KeepsSome.none
    | with_reducible apply State.KeepsSome.some
    | with_reducible apply State.KeepsPair.none
    | with_reducible apply State.KeepsPair.some
    | with_reducible apply State.KeepsOk.error
    | with_reducible apply State.KeepsOk.ok
    | with_reducible apply State.Keeps.foldl
    | with_reducible apply State.Keeps.foldl_fst
    | (with_reducible refine State.Keeps.some (by assumption) ?_)
    | (with_reducible refine State.Keeps.pair (by assumption) ?_)
    | (with_reducible refine State.Keeps.ok (by assumption) ?_)
    | (with_reducible refine State.Keeps.fst (by assumption) ?_)
    | (with_reducible refine State.Keeps.snd (by assumption) ?_)
    | intro _
    | simp only [↓State.keeps_mk]
    | simp only [↓State.keeps_mk_fuses]
    | split

theorem State.raiseMsi_keeps {r : State} {a0 : State} {a1 : ℕ} {a2 : BitVec 11} (h0 : r.Keeps a0) : r.Keeps (State.raiseMsi a0 a1 a2) := by
  unfold State.raiseMsi
  try dsimp only
  repeat' first
    | with_reducible assumption
    | with_reducible exact State.Keeps.refl _
    | with_reducible apply State.KeepsNext.next
    | with_reducible apply State.KeepsSome.none
    | with_reducible apply State.KeepsSome.some
    | with_reducible apply State.KeepsPair.none
    | with_reducible apply State.KeepsPair.some
    | with_reducible apply State.KeepsOk.error
    | with_reducible apply State.KeepsOk.ok
    | with_reducible apply State.Keeps.foldl
    | with_reducible apply State.Keeps.foldl_fst
    | (with_reducible refine State.Keeps.some (by assumption) ?_)
    | (with_reducible refine State.Keeps.pair (by assumption) ?_)
    | (with_reducible refine State.Keeps.ok (by assumption) ?_)
    | (with_reducible refine State.Keeps.fst (by assumption) ?_)
    | (with_reducible refine State.Keeps.snd (by assumption) ?_)
    | intro _
    | simp only [↓State.keeps_mk]

theorem State.ringWrite_keeps {r : State} {a0 : State} {a1 : ℕ} {a2 : HostRec} (h0 : r.Keeps a0) : r.Keeps (State.ringWrite a0 a1 a2) := by
  unfold State.ringWrite
  try dsimp only
  repeat' first
    | with_reducible assumption
    | with_reducible exact State.Keeps.refl _
    | with_reducible apply State.reported_keeps
    | with_reducible apply State.raiseMsi_keeps
    | with_reducible apply State.setWin_keeps
    | with_reducible apply State.KeepsNext.next
    | with_reducible apply State.KeepsSome.none
    | with_reducible apply State.KeepsSome.some
    | with_reducible apply State.KeepsPair.none
    | with_reducible apply State.KeepsPair.some
    | with_reducible apply State.KeepsOk.error
    | with_reducible apply State.KeepsOk.ok
    | with_reducible apply State.Keeps.foldl
    | with_reducible apply State.Keeps.foldl_fst
    | (with_reducible refine State.Keeps.some (by assumption) ?_)
    | (with_reducible refine State.Keeps.pair (by assumption) ?_)
    | (with_reducible refine State.Keeps.ok (by assumption) ?_)
    | (with_reducible refine State.Keeps.fst (by assumption) ?_)
    | (with_reducible refine State.Keeps.snd (by assumption) ?_)
    | intro _
    | simp only [↓State.keeps_mk]
    | simp only [↓State.keeps_mk_fuses]
    | split

theorem State.putRec_keeps {r : State} {a0 : State} {a1 : ℕ} {a2 : HostRec} (h0 : r.Keeps a0) : r.Keeps (State.putRec a0 a1 a2) := by
  unfold State.putRec
  try dsimp only
  repeat' first
    | with_reducible assumption
    | with_reducible exact State.Keeps.refl _
    | with_reducible apply State.bump_keeps
    | with_reducible apply State.setWin_keeps
    | with_reducible apply State.ringWrite_keeps
    | with_reducible apply State.KeepsNext.next
    | with_reducible apply State.KeepsSome.none
    | with_reducible apply State.KeepsSome.some
    | with_reducible apply State.KeepsPair.none
    | with_reducible apply State.KeepsPair.some
    | with_reducible apply State.KeepsOk.error
    | with_reducible apply State.KeepsOk.ok
    | with_reducible apply State.Keeps.foldl
    | with_reducible apply State.Keeps.foldl_fst
    | (with_reducible refine State.Keeps.some (by assumption) ?_)
    | (with_reducible refine State.Keeps.pair (by assumption) ?_)
    | (with_reducible refine State.Keeps.ok (by assumption) ?_)
    | (with_reducible refine State.Keeps.fst (by assumption) ?_)
    | (with_reducible refine State.Keeps.snd (by assumption) ?_)
    | intro _
    | simp only [↓State.keeps_mk]
    | simp only [↓State.keeps_mk_fuses]
    | split

theorem State.complete_keeps {r : State} {a0 : State} {a1 : CmdRef} {a2 : Byte} {a3 : optParam U64 0} {a4 : optParam U64 0} (h0 : r.Keeps a0) : r.Keeps (State.complete a0 a1 a2 a3 a4) := by
  unfold State.complete
  try dsimp only
  repeat' first
    | with_reducible assumption
    | with_reducible exact State.Keeps.refl _
    | with_reducible apply State.bump_keeps
    | with_reducible apply State.setWin_keeps
    | with_reducible apply State.putRec_keeps
    | with_reducible apply State.offer_keeps
    | with_reducible apply State.KeepsNext.next
    | with_reducible apply State.KeepsSome.none
    | with_reducible apply State.KeepsSome.some
    | with_reducible apply State.KeepsPair.none
    | with_reducible apply State.KeepsPair.some
    | with_reducible apply State.KeepsOk.error
    | with_reducible apply State.KeepsOk.ok
    | with_reducible apply State.Keeps.foldl
    | with_reducible apply State.Keeps.foldl_fst
    | (with_reducible refine State.Keeps.some (by assumption) ?_)
    | (with_reducible refine State.Keeps.pair (by assumption) ?_)
    | (with_reducible refine State.Keeps.ok (by assumption) ?_)
    | (with_reducible refine State.Keeps.fst (by assumption) ?_)
    | (with_reducible refine State.Keeps.snd (by assumption) ?_)
    | intro _
    | simp only [↓State.keeps_mk]
    | simp only [↓State.keeps_mk_fuses]
    | split

theorem State.hostCmd_keeps {r : State} {a0 : State} {a1 : WinRef} {a2 : Byte} {a3 : HostCmd → CmdRef → State → State} (h0 : r.Keeps a0) (h3 : ∀ c k x, r.Keeps x → r.Keeps (a3 c k x)) : r.Keeps (State.hostCmd a0 a1 a2 a3) := by
  unfold State.hostCmd
  try dsimp only
  repeat' first
    | with_reducible assumption
    | with_reducible exact State.Keeps.refl _
    | with_reducible apply State.complete_keeps
    | with_reducible apply State.take_keeps
    | with_reducible apply State.KeepsNext.next
    | with_reducible apply State.KeepsSome.none
    | with_reducible apply State.KeepsSome.some
    | with_reducible apply State.KeepsPair.none
    | with_reducible apply State.KeepsPair.some
    | with_reducible apply State.KeepsOk.error
    | with_reducible apply State.KeepsOk.ok
    | with_reducible apply State.Keeps.foldl
    | with_reducible apply State.Keeps.foldl_fst
    | (with_reducible refine State.Keeps.some (by assumption) ?_)
    | (with_reducible refine State.Keeps.pair (by assumption) ?_)
    | (with_reducible refine State.Keeps.ok (by assumption) ?_)
    | (with_reducible refine State.Keeps.fst (by assumption) ?_)
    | (with_reducible refine State.Keeps.snd (by assumption) ?_)
    | apply h3
    | intro _
    | simp only [↓State.keeps_mk]
    | simp only [↓State.keeps_mk_fuses]
    | split

theorem State.spend_keeps {r : State} {a0 : State} {a1 : ℕ} (h0 : r.Keeps a0) : r.Keeps (State.spend a0 a1) := by
  unfold State.spend
  try dsimp only
  repeat' first
    | with_reducible assumption
    | with_reducible exact State.Keeps.refl _
    | with_reducible apply State.KeepsNext.next
    | with_reducible apply State.KeepsSome.none
    | with_reducible apply State.KeepsSome.some
    | with_reducible apply State.KeepsPair.none
    | with_reducible apply State.KeepsPair.some
    | with_reducible apply State.KeepsOk.error
    | with_reducible apply State.KeepsOk.ok
    | with_reducible apply State.KeepsSome.map_state
    | with_reducible apply State.KeepsSome.map_pair
    | with_reducible apply State.KeepsSome.map
    | with_reducible apply State.KeepsPair.map_state
    | with_reducible apply State.KeepsPair.map_pair
    | with_reducible apply State.KeepsPair.map
    | with_reducible apply State.Keeps.foldl
    | with_reducible apply State.Keeps.foldl_fst
    | (with_reducible refine State.Keeps.some (by assumption) ?_)
    | (with_reducible refine State.Keeps.pair (by assumption) ?_)
    | (with_reducible refine State.Keeps.ok (by assumption) ?_)
    | (with_reducible refine State.Keeps.fst (by assumption) ?_)
    | (with_reducible refine State.Keeps.snd (by assumption) ?_)
    | with_reducible apply State.Keeps.ite
    | with_reducible apply State.KeepsSome.ite
    | with_reducible apply State.KeepsSome.or
    | intro _
    | simp only [↓State.keeps_mk]

theorem State.completeOpt_keeps {r : State} {a0 : State} {a1 : Option CmdRef} {a2 : Byte} {a3 : optParam U64 0} {a4 : optParam U64 0} (h0 : r.Keeps a0) : r.Keeps (State.completeOpt a0 a1 a2 a3 a4) := by
  unfold State.completeOpt
  try dsimp only
  repeat' first
    | with_reducible assumption
    | with_reducible exact State.Keeps.refl _
    | with_reducible apply State.complete_keeps
    | with_reducible apply State.KeepsNext.next
    | with_reducible apply State.KeepsSome.none
    | with_reducible apply State.KeepsSome.some
    | with_reducible apply State.KeepsPair.none
    | with_reducible apply State.KeepsPair.some
    | with_reducible apply State.KeepsOk.error
    | with_reducible apply State.KeepsOk.ok
    | with_reducible apply State.Keeps.foldl
    | with_reducible apply State.Keeps.foldl_fst
    | (with_reducible refine State.Keeps.some (by assumption) ?_)
    | (with_reducible refine State.Keeps.pair (by assumption) ?_)
    | (with_reducible refine State.Keeps.ok (by assumption) ?_)
    | (with_reducible refine State.Keeps.fst (by assumption) ?_)
    | (with_reducible refine State.Keeps.snd (by assumption) ?_)
    | intro _
    | simp only [↓State.keeps_mk]
    | simp only [↓State.keeps_mk_fuses]
    | split

theorem State.drainWaiting_keeps {r : State} {a0 : ℕ} {a1 : ℕ} {a2 : State} (h2 : r.Keeps a2) : r.Keeps (State.drainWaiting a0 a1 a2) := by
  induction a0 generalizing a1 a2 with
  | zero =>
    unfold State.drainWaiting
    try dsimp only
    repeat' first
      | with_reducible assumption
  | succ n ih =>
    unfold State.drainWaiting
    try dsimp only
    repeat' first
      | with_reducible apply ih
      | with_reducible assumption
      | with_reducible exact State.Keeps.refl _
      | with_reducible apply State.setWin_keeps
      | with_reducible apply State.ringWrite_keeps
      | with_reducible apply State.KeepsNext.next
      | with_reducible apply State.KeepsSome.none
      | with_reducible apply State.KeepsSome.some
      | with_reducible apply State.KeepsPair.none
      | with_reducible apply State.KeepsPair.some
      | with_reducible apply State.KeepsOk.error
      | with_reducible apply State.KeepsOk.ok
      | with_reducible apply State.Keeps.foldl
      | with_reducible apply State.Keeps.foldl_fst
      | (with_reducible refine State.Keeps.some (by assumption) ?_)
      | (with_reducible refine State.Keeps.pair (by assumption) ?_)
      | (with_reducible refine State.Keeps.ok (by assumption) ?_)
      | (with_reducible refine State.Keeps.fst (by assumption) ?_)
      | (with_reducible refine State.Keeps.snd (by assumption) ?_)
      | intro _
      | simp only [↓State.keeps_mk]
      | simp only [↓State.keeps_mk_fuses]
      | split

theorem State.takeReserved_keeps {r : State} {a0 : State} {a1 : WinRef} (h0 : r.Keeps a0) : r.Keeps (State.takeReserved a0 a1) := by
  unfold State.takeReserved
  try dsimp only
  repeat' first
    | with_reducible assumption
    | with_reducible exact State.Keeps.refl _
    | with_reducible apply State.complete_keeps
    | with_reducible apply State.take_keeps
    | with_reducible apply State.KeepsNext.next
    | with_reducible apply State.KeepsSome.none
    | with_reducible apply State.KeepsSome.some
    | with_reducible apply State.KeepsPair.none
    | with_reducible apply State.KeepsPair.some
    | with_reducible apply State.KeepsOk.error
    | with_reducible apply State.KeepsOk.ok
    | with_reducible apply State.Keeps.foldl
    | with_reducible apply State.Keeps.foldl_fst
    | (with_reducible refine State.Keeps.some (by assumption) ?_)
    | (with_reducible refine State.Keeps.pair (by assumption) ?_)
    | (with_reducible refine State.Keeps.ok (by assumption) ?_)
    | (with_reducible refine State.Keeps.fst (by assumption) ?_)
    | (with_reducible refine State.Keeps.snd (by assumption) ?_)
    | intro _
    | simp only [↓State.keeps_mk]
    | simp only [↓State.keeps_mk_fuses]
    | split

end Sys2Proof.Machine
end

