-- ==== Sys2Proof/Laws/KeepsMsgOps.lean ====
section
/-! SUPPORT. Every operation of Machine/MsgOps.lean keeps the queue, the fuses and the canonical forms. -/

namespace Sys2Proof.Machine

theorem State.msgTrace_keeps {r : State} {a0 : State} {a1 : ℕ} {a2 : Msg} (h0 : r.Keeps a0) : r.Keeps (State.msgTrace a0 a1 a2) := by
  unfold State.msgTrace
  try dsimp only
  repeat' first
    | with_reducible assumption
    | with_reducible exact State.Keeps.refl _
    | with_reducible apply State.offer_keeps

theorem State.send_keeps {r : State} {a0 : State} {a1 : Msg} (h0 : r.Keeps a0) : r.Keeps (State.send a0 a1) := by
  unfold State.send
  try dsimp only
  repeat' first
    | with_reducible assumption
    | with_reducible exact State.Keeps.refl _
    | with_reducible apply State.msgTrace_keeps
    | with_reducible apply State.KeepsNext.next
    | with_reducible apply State.KeepsSome.none
    | with_reducible apply State.KeepsSome.some
    | with_reducible apply State.KeepsPair.none
    | with_reducible apply State.KeepsPair.some
    | with_reducible apply State.KeepsOk.error
    | with_reducible apply State.KeepsOk.ok
    | with_reducible apply State.Keeps.foldl
    | with_reducible apply State.Keeps.foldl_fst
    | (with_reducible refine State.Keeps.some (by assumption) ?_)
    | (with_reducible refine State.Keeps.pair (by assumption) ?_)
    | (with_reducible refine State.Keeps.ok (by assumption) ?_)
    | (with_reducible refine State.Keeps.fst (by assumption) ?_)
    | (with_reducible refine State.Keeps.snd (by assumption) ?_)
    | intro _
    | simp only [↓State.keeps_mk]
    | simp only [↓State.keeps_mk_fuses]
    | split

theorem State.setSlotAt_keeps {r : State} {a0 : State} {a1 : ℕ} {a2 : Slot} (h0 : r.Keeps a0) : r.Keeps (State.setSlotAt a0 a1 a2) := by
  unfold State.setSlotAt
  try dsimp only
  repeat' first
    | with_reducible assumption
    | with_reducible exact State.Keeps.refl _
    | with_reducible apply State.KeepsNext.next
    | with_reducible apply State.KeepsSome.none
    | with_reducible apply State.KeepsSome.some
    | with_reducible apply State.KeepsPair.none
    | with_reducible apply State.KeepsPair.some
    | with_reducible apply State.KeepsOk.error
    | with_reducible apply State.KeepsOk.ok
    | with_reducible apply State.Keeps.foldl
    | with_reducible apply State.Keeps.foldl_fst
    | (with_reducible refine State.Keeps.some (by assumption) ?_)
    | (with_reducible refine State.Keeps.pair (by assumption) ?_)
    | (with_reducible refine State.Keeps.ok (by assumption) ?_)
    | (with_reducible refine State.Keeps.fst (by assumption) ?_)
    | (with_reducible refine State.Keeps.snd (by assumption) ?_)
    | intro _
    | simp only [↓State.keeps_mk]

theorem State.claim_keeps {r : State} {a0 : State} {a1 : Slot} (h0 : r.Keeps a0) : r.KeepsPair (State.claim a0 a1) := by
  unfold State.claim
  split
  · exact .none
  · apply State.KeepsPair.some
    split
    · apply State.wr_keeps
      simp only [↓State.keeps_mk]
      exact State.setSlotAt_keeps h0
    · simp only [↓State.keeps_mk]
      exact State.setSlotAt_keeps h0

theorem State.postDecision_keeps {r : State} {a0 : State} {a1 : ℕ} (h0 : r.Keeps a0) : r.Keeps (State.postDecision a0 a1) := by
  unfold State.postDecision
  try dsimp only
  repeat' first
    | with_reducible assumption
    | with_reducible exact State.Keeps.refl _
    | with_reducible apply State.setSlotAt_keeps
    | with_reducible apply State.setBytes_keeps
    | with_reducible apply State.putRec_keeps
    | with_reducible apply State.KeepsNext.next
    | with_reducible apply State.KeepsSome.none
    | with_reducible apply State.KeepsSome.some
    | with_reducible apply State.KeepsPair.none
    | with_reducible apply State.KeepsPair.some
    | with_reducible apply State.KeepsOk.error
    | with_reducible apply State.KeepsOk.ok
    | with_reducible apply State.Keeps.foldl
    | with_reducible apply State.Keeps.foldl_fst
    | (with_reducible refine State.Keeps.some (by assumption) ?_)
    | (with_reducible refine State.Keeps.pair (by assumption) ?_)
    | (with_reducible refine State.Keeps.ok (by assumption) ?_)
    | (with_reducible refine State.Keeps.fst (by assumption) ?_)
    | (with_reducible refine State.Keeps.snd (by assumption) ?_)
    | intro _
    | simp only [↓State.keeps_mk]
    | simp only [↓State.keeps_mk_fuses]
    | split

theorem State.begun_keeps {r : State} {a0 : State} {a1 : ℕ} (h0 : r.Keeps a0) : r.Keeps (State.begun a0 a1) := by
  unfold State.begun
  try dsimp only
  repeat' first
    | with_reducible assumption
    | with_reducible exact State.Keeps.refl _
    | with_reducible apply State.postDecision_keeps
    | with_reducible apply State.send_keeps
    | with_reducible apply State.KeepsNext.next
    | with_reducible apply State.KeepsSome.none
    | with_reducible apply State.KeepsSome.some
    | with_reducible apply State.KeepsPair.none
    | with_reducible apply State.KeepsPair.some
    | with_reducible apply State.KeepsOk.error
    | with_reducible apply State.KeepsOk.ok
    | with_reducible apply State.Keeps.foldl
    | with_reducible apply State.Keeps.foldl_fst
    | (with_reducible refine State.Keeps.some (by assumption) ?_)
    | (with_reducible refine State.Keeps.pair (by assumption) ?_)
    | (with_reducible refine State.Keeps.ok (by assumption) ?_)
    | (with_reducible refine State.Keeps.fst (by assumption) ?_)
    | (with_reducible refine State.Keeps.snd (by assumption) ?_)
    | intro _
    | simp only [↓State.keeps_mk]
    | simp only [↓State.keeps_mk_fuses]
    | split

theorem State.await_keeps {r : State} {a0 : State} {a1 : Slot} (h0 : r.Keeps a0) : r.Keeps (State.await a0 a1) := by
  unfold State.await
  try dsimp only
  repeat' first
    | with_reducible assumption
    | with_reducible exact State.Keeps.refl _
    | with_reducible apply State.claim_keeps
    | with_reducible apply State.begun_keeps
    | with_reducible apply State.KeepsNext.next
    | with_reducible apply State.KeepsSome.none
    | with_reducible apply State.KeepsSome.some
    | with_reducible apply State.KeepsPair.none
    | with_reducible apply State.KeepsPair.some
    | with_reducible apply State.KeepsOk.error
    | with_reducible apply State.KeepsOk.ok
    | with_reducible apply State.Keeps.foldl
    | with_reducible apply State.Keeps.foldl_fst
    | (with_reducible refine State.Keeps.some (by assumption) ?_)
    | (with_reducible refine State.Keeps.pair (by assumption) ?_)
    | (with_reducible refine State.Keeps.ok (by assumption) ?_)
    | (with_reducible refine State.Keeps.fst (by assumption) ?_)
    | (with_reducible refine State.Keeps.snd (by assumption) ?_)
    | intro _
    | simp only [↓State.keeps_mk]
    | simp only [↓State.keeps_mk_fuses]
    | split

theorem State.reply_keeps {r : State} {a0 : State} {a1 : Msg} {a2 : Byte} {a3 : optParam U64 0} (h0 : r.Keeps a0) : r.Keeps (State.reply a0 a1 a2 a3) := by
  unfold State.reply
  try dsimp only
  repeat' first
    | with_reducible assumption
    | with_reducible exact State.Keeps.refl _
    | with_reducible apply State.send_keeps
    | with_reducible apply State.KeepsNext.next
    | with_reducible apply State.KeepsSome.none
    | with_reducible apply State.KeepsSome.some
    | with_reducible apply State.KeepsPair.none
    | with_reducible apply State.KeepsPair.some
    | with_reducible apply State.KeepsOk.error
    | with_reducible apply State.KeepsOk.ok
    | with_reducible apply State.Keeps.foldl
    | with_reducible apply State.Keeps.foldl_fst
    | (with_reducible refine State.Keeps.some (by assumption) ?_)
    | (with_reducible refine State.Keeps.pair (by assumption) ?_)
    | (with_reducible refine State.Keeps.ok (by assumption) ?_)
    | (with_reducible refine State.Keeps.fst (by assumption) ?_)
    | (with_reducible refine State.Keeps.snd (by assumption) ?_)
    | intro _
    | simp only [↓State.keeps_mk]
    | simp only [↓State.keeps_mk_fuses]
    | split

theorem State.sendAwait_keeps {r : State} {a0 : State} {a1 : Msg} {a2 : optParam ℕ 0} (h0 : r.Keeps a0) : r.Keeps (State.sendAwait a0 a1 a2) := by
  unfold State.sendAwait
  try dsimp only
  repeat' first
    | with_reducible assumption
    | with_reducible exact State.Keeps.refl _
    | with_reducible apply State.await_keeps
    | with_reducible apply State.KeepsNext.next
    | with_reducible apply State.KeepsSome.none
    | with_reducible apply State.KeepsSome.some
    | with_reducible apply State.KeepsPair.none
    | with_reducible apply State.KeepsPair.some
    | with_reducible apply State.KeepsOk.error
    | with_reducible apply State.KeepsOk.ok
    | with_reducible apply State.Keeps.foldl
    | with_reducible apply State.Keeps.foldl_fst
    | (with_reducible refine State.Keeps.some (by assumption) ?_)
    | (with_reducible refine State.Keeps.pair (by assumption) ?_)
    | (with_reducible refine State.Keeps.ok (by assumption) ?_)
    | (with_reducible refine State.Keeps.fst (by assumption) ?_)
    | (with_reducible refine State.Keeps.snd (by assumption) ?_)
    | intro _
    | simp only [↓State.keeps_mk]
    | simp only [↓State.keeps_mk_fuses]
    | split

theorem State.askHost_keeps {r : State} {a0 : State} {a1 : Fin 10} {a2 : Slot} (h0 : r.Keeps a0) : r.Keeps (State.askHost a0 a1 a2) := by
  unfold State.askHost
  try dsimp only
  repeat' first
    | with_reducible assumption
    | with_reducible exact State.Keeps.refl _
    | with_reducible apply State.await_keeps

theorem State.serveWait_keeps {r : State} {a0 : State} (h0 : r.Keeps a0) : r.Keeps (State.serveWait a0) := by
  unfold State.serveWait
  try dsimp only
  repeat' first
    | with_reducible assumption
    | with_reducible exact State.Keeps.refl _
    | with_reducible apply State.claim_keeps
    | with_reducible apply State.begun_keeps
    | with_reducible apply State.KeepsNext.next
    | with_reducible apply State.KeepsSome.none
    | with_reducible apply State.KeepsSome.some
    | with_reducible apply State.KeepsPair.none
    | with_reducible apply State.KeepsPair.some
    | with_reducible apply State.KeepsOk.error
    | with_reducible apply State.KeepsOk.ok
    | with_reducible apply State.Keeps.foldl
    | with_reducible apply State.Keeps.foldl_fst
    | (with_reducible refine State.Keeps.some (by assumption) ?_)
    | (with_reducible refine State.Keeps.pair (by assumption) ?_)
    | (with_reducible refine State.Keeps.ok (by assumption) ?_)
    | (with_reducible refine State.Keeps.fst (by assumption) ?_)
    | (with_reducible refine State.Keeps.snd (by assumption) ?_)
    | intro _
    | simp only [↓State.keeps_mk]
    | simp only [↓State.keeps_mk_fuses]
    | split

theorem State.unclaim_keeps {r : State} {a0 : State} {a1 : ℕ} (h0 : r.Keeps a0) : r.Keeps (State.unclaim a0 a1) := by
  unfold State.unclaim
  try dsimp only
  repeat' first
    | with_reducible assumption
    | with_reducible exact State.Keeps.refl _
    | with_reducible apply State.setSlotAt_keeps
    | with_reducible apply State.KeepsNext.next
    | with_reducible apply State.KeepsSome.none
    | with_reducible apply State.KeepsSome.some
    | with_reducible apply State.KeepsPair.none
    | with_reducible apply State.KeepsPair.some
    | with_reducible apply State.KeepsOk.error
    | with_reducible apply State.KeepsOk.ok
    | with_reducible apply State.Keeps.foldl
    | with_reducible apply State.Keeps.foldl_fst
    | (with_reducible refine State.Keeps.some (by assumption) ?_)
    | (with_reducible refine State.Keeps.pair (by assumption) ?_)
    | (with_reducible refine State.Keeps.ok (by assumption) ?_)
    | (with_reducible refine State.Keeps.fst (by assumption) ?_)
    | (with_reducible refine State.Keeps.snd (by assumption) ?_)
    | intro _
    | simp only [↓State.keeps_mk]
    | simp only [↓State.keeps_mk_fuses]
    | split

theorem State.ibexLate_keeps {r : State} {a0 : State} (h0 : r.Keeps a0) : r.Keeps (State.ibexLate a0) := by
  unfold State.ibexLate
  try dsimp only
  repeat' first
    | with_reducible assumption
    | with_reducible exact State.Keeps.refl _
    | with_reducible apply State.count_keeps

end Sys2Proof.Machine
end

