-- ==== Sys2Proof/Laws/KeepsAnchorOps.lean ====
section
/-! SUPPORT. Every operation of Machine/AnchorOps.lean keeps the queue, the fuses and the canonical forms. -/

namespace Sys2Proof.Machine

theorem State.sendEnd_keeps {r : State} {a0 : State} {a1 : Record} {a2 : U16} {a3 : Byte} (h0 : r.Keeps a0) : r.Keeps (State.sendEnd a0 a1 a2 a3) := by
  unfold State.sendEnd
  try dsimp only
  repeat' first
    | with_reducible assumption
    | with_reducible exact State.Keeps.refl _
    | with_reducible apply State.send_keeps

theorem State.flushTokens_keeps {r : State} {a0 : State} {a1 : ℕ} (h0 : r.Keeps a0) : r.Keeps (State.flushTokens a0 a1) := by
  unfold State.flushTokens
  try dsimp only
  repeat' first
    | with_reducible assumption
    | with_reducible apply State.setRecord_keeps
    | with_reducible apply State.putRec_keeps
    | split

theorem State.endRequest_keeps {r : State} {a0 : State} {a1 : ℕ} {a2 : Byte} {a3 : optParam Bool Bool.false} {a4 : optParam Bool Bool.false} (h0 : r.Keeps a0) : r.Keeps (State.endRequest a0 a1 a2 a3 a4) := by
  unfold State.endRequest
  repeat' first
    | with_reducible assumption
    | with_reducible apply State.sendEnd_keeps
    | with_reducible apply State.bump_keeps
    | with_reducible apply State.setRecord_keeps
    | with_reducible apply State.flushTokens_keeps
    | with_reducible apply State.putRec_keeps
    | with_reducible apply State.Keeps.foldl
    | intro _
    | simp only [↓State.keeps_mk_fuses]
    | split

theorem State.takeToken_keeps {r : State} {a0 : State} {a1 : ℕ} {a2 : U32} (h0 : r.Keeps a0) : r.Keeps (State.takeToken a0 a1 a2) := by
  unfold State.takeToken
  try dsimp only
  repeat' first
    | with_reducible assumption
    | with_reducible apply State.setRecord_keeps
    | with_reducible apply State.flushTokens_keeps
    | with_reducible apply State.endRequest_keeps
    | split

theorem State.takeInOrder_keeps {r : State} {a0 : ℕ} {a1 : ℕ} {a2 : State} (h2 : r.Keeps a2) : r.Keeps (State.takeInOrder a0 a1 a2) := by
  induction a0 generalizing a1 a2 with
  | zero =>
    unfold State.takeInOrder
    try dsimp only
    repeat' first
      | with_reducible assumption
  | succ n ih =>
    unfold State.takeInOrder
    try dsimp only
    repeat' first
      | with_reducible apply ih
      | with_reducible assumption
      | with_reducible exact State.Keeps.refl _
      | with_reducible apply State.takeToken_keeps
      | with_reducible apply State.KeepsNext.next
      | with_reducible apply State.KeepsSome.none
      | with_reducible apply State.KeepsSome.some
      | with_reducible apply State.KeepsPair.none
      | with_reducible apply State.KeepsPair.some
      | with_reducible apply State.KeepsOk.error
      | with_reducible apply State.KeepsOk.ok
      | with_reducible apply State.Keeps.foldl
      | with_reducible apply State.Keeps.foldl_fst
      | (with_reducible refine State.Keeps.some (by assumption) ?_)
      | (with_reducible refine State.Keeps.pair (by assumption) ?_)
      | (with_reducible refine State.Keeps.ok (by assumption) ?_)
      | (with_reducible refine State.Keeps.fst (by assumption) ?_)
      | (with_reducible refine State.Keeps.snd (by assumption) ?_)
      | intro _
      | simp only [↓State.keeps_mk]
      | simp only [↓State.keeps_mk_fuses]
      | split

theorem State.deliver_keeps {r : State} {a0 : State} {a1 : ℕ} {a2 : ℕ} {a3 : U32} (h0 : r.Keeps a0) : r.Keeps (State.deliver a0 a1 a2 a3) := by
  unfold State.deliver
  repeat' first
    | with_reducible assumption
    | with_reducible apply State.takeInOrder_keeps
    | with_reducible apply State.setRecord_keeps
    | simp only [↓State.keeps_mk_fuses]
    | split

theorem State.endTenant_keeps {r : State} {a0 : State} {a1 : ℕ} (h0 : r.Keeps a0) : r.Keeps (State.endTenant a0 a1) := by
  unfold State.endTenant
  repeat' first
    | with_reducible assumption
    | with_reducible apply State.endRequest_keeps
    | with_reducible apply State.Keeps.foldl
    | intro _

end Sys2Proof.Machine
end

