-- ==== Sys2Proof/Laws/KeepsFaultOps.lean ====
section
/-! SUPPORT. Every operation of Machine/FaultOps.lean keeps the queue, the fuses and the canonical forms. -/

namespace Sys2Proof.Machine

theorem State.driveAlert_keeps {r : State} {a0 : State} (h0 : r.Keeps a0) : r.Keeps (State.driveAlert a0) := by
  unfold State.driveAlert
  repeat' first
    | with_reducible assumption
    | simp only [↓State.keeps_mk]

theorem State.writeRecord_keeps {r : State} {a0 : State} {a1 : FaultInfo} {a2 : ℕ} (h0 : r.Keeps a0) : r.Keeps (State.writeRecord a0 a1 a2) := by
  unfold State.writeRecord
  repeat' first
    | with_reducible assumption
    | with_reducible apply State.offer_keeps
    | with_reducible apply State.raiseMsi_keeps
    | with_reducible apply State.driveAlert_keeps
    | simp only [↓State.keeps_mk_fuses]
    | split

theorem State.occur_keeps {r : State} {a0 : State} {a1 : FaultInfo} (h0 : r.Keeps a0) : r.Keeps (State.occur a0 a1) := by
  unfold State.occur
  repeat' first
    | with_reducible assumption
    | with_reducible apply State.writeRecord_keeps
    | simp only [↓State.keeps_mk_fuses]
    | split

theorem State.lifeRecord_keeps {r : State} {a0 : State} {a1 : ℕ} {a2 : Byte} {a3 : Bool} {a4 : List Byte} (h0 : r.Keeps a0) : r.Keeps (State.lifeRecord a0 a1 a2 a3 a4) := by
  unfold State.lifeRecord
  repeat' first
    | with_reducible assumption
    | with_reducible apply State.count_keeps
    | with_reducible apply State.occur_keeps
    | simp only [↓State.keeps_mk_fuses]
    | split

theorem State.fenceTenant_keeps {r : State} {a0 : State} {a1 : ℕ} {a2 : Fin 3} (h0 : r.Keeps a0) : r.Keeps (State.fenceTenant a0 a1 a2) := by
  unfold State.fenceTenant
  repeat' first
    | with_reducible assumption
    | with_reducible apply State.occur_keeps
    | with_reducible apply State.endTenant_keeps
    | simp only [↓State.keeps_mk_fuses]
    | split

theorem State.chargeContained_keeps {r : State} {a0 : State} {a1 : ℕ} (h0 : r.Keeps a0) : r.Keeps (State.chargeContained a0 a1) := by
  unfold State.chargeContained
  repeat' first
    | with_reducible assumption
    | with_reducible apply State.fenceTenant_keeps
    | simp only [↓State.keeps_mk_fuses]
    | split

theorem State.raise_keeps {r : State} {a0 : State} {a1 : FaultInfo} (h0 : r.Keeps a0) : r.Keeps (State.raise a0 a1) := by
  unfold State.raise
  try dsimp only
  repeat' first
    | with_reducible assumption
    | with_reducible exact State.Keeps.refl _
    | with_reducible apply State.occur_keeps
    | with_reducible apply State.lifeRecord_keeps
    | with_reducible apply State.chargeContained_keeps
    | with_reducible apply State.KeepsNext.next
    | with_reducible apply State.KeepsSome.none
    | with_reducible apply State.KeepsSome.some
    | with_reducible apply State.KeepsPair.none
    | with_reducible apply State.KeepsPair.some
    | with_reducible apply State.KeepsOk.error
    | with_reducible apply State.KeepsOk.ok
    | with_reducible apply State.KeepsSome.map_state
    | with_reducible apply State.KeepsSome.map_pair
    | with_reducible apply State.KeepsSome.map
    | with_reducible apply State.KeepsPair.map_state
    | with_reducible apply State.KeepsPair.map_pair
    | with_reducible apply State.KeepsPair.map
    | with_reducible apply State.Keeps.foldl
    | with_reducible apply State.Keeps.foldl_fst
    | (with_reducible refine State.Keeps.some (by assumption) ?_)
    | (with_reducible refine State.Keeps.pair (by assumption) ?_)
    | (with_reducible refine State.Keeps.ok (by assumption) ?_)
    | (with_reducible refine State.Keeps.fst (by assumption) ?_)
    | (with_reducible refine State.Keeps.snd (by assumption) ?_)
    | with_reducible apply State.Keeps.ite
    | with_reducible apply State.KeepsSome.ite
    | with_reducible apply State.KeepsSome.or
    | intro _
    | simp only [↓State.keeps_mk]
    | simp only [↓State.keeps_mk_fuses]
    | split

theorem State.sendGasp_keeps {r : State} {a0 : State} {a1 : ℕ} (h0 : r.Keeps a0) : r.Keeps (State.sendGasp a0 a1) := by
  unfold State.sendGasp
  repeat' first
    | with_reducible assumption
    | simp only [↓State.keeps_mk]

theorem State.anchorsLost_keeps {r : State} {a0 : State} (h0 : r.Keeps a0) : r.Keeps (State.anchorsLost a0) := by
  unfold State.anchorsLost
  repeat' first
    | with_reducible assumption
    | with_reducible apply State.endRequest_keeps
    | with_reducible apply State.Keeps.foldl
    | intro _

theorem State.fatal_keeps {r : State} {a0 : State} {a1 : FaultInfo} {a2 : optParam Bool Bool.false} (h0 : r.Keeps a0) : r.Keeps (State.fatal a0 a1 a2) := by
  unfold State.fatal
  repeat' first
    | with_reducible assumption
    | with_reducible apply State.sendGasp_keeps
    | with_reducible apply State.raise_keeps
    | with_reducible apply State.anchorsLost_keeps
    | simp only [↓State.keeps_mk_fuses]
    | split

theorem State.imbalance_keeps {r : State} {a0 : State} {a1 : ℕ} {a2 : Severity} {a3 : ℕ} {a4 : ℕ} (h0 : r.Keeps a0) : r.Keeps (State.imbalance a0 a1 a2 a3 a4) := by
  unfold State.imbalance
  try dsimp only
  repeat' first
    | with_reducible assumption
    | with_reducible exact State.Keeps.refl _
    | with_reducible apply State.raise_keeps
    | with_reducible apply State.setFlag_keeps

end Sys2Proof.Machine
end

