-- ==== Sys2Proof/Laws/KeepsTierOps.lean ====
section
/-! SUPPORT. Every operation of Machine/TierOps.lean keeps the queue, the fuses and the canonical forms. -/

namespace Sys2Proof.Machine

theorem State.setPoison_keeps {r : State} {a0 : State} {a1 : ℕ} {a2 : ℕ} (h0 : r.Keeps a0) : r.Keeps (State.setPoison a0 a1 a2) := by
  unfold State.setPoison
  try dsimp only
  repeat' first
    | with_reducible assumption
    | with_reducible exact State.Keeps.refl _
    | with_reducible apply State.KeepsNext.next
    | with_reducible apply State.KeepsSome.none
    | with_reducible apply State.KeepsSome.some
    | with_reducible apply State.KeepsPair.none
    | with_reducible apply State.KeepsPair.some
    | with_reducible apply State.KeepsOk.error
    | with_reducible apply State.KeepsOk.ok
    | with_reducible apply State.Keeps.foldl
    | with_reducible apply State.Keeps.foldl_fst
    | (with_reducible refine State.Keeps.some (by assumption) ?_)
    | (with_reducible refine State.Keeps.pair (by assumption) ?_)
    | (with_reducible refine State.Keeps.ok (by assumption) ?_)
    | (with_reducible refine State.Keeps.fst (by assumption) ?_)
    | (with_reducible refine State.Keeps.snd (by assumption) ?_)
    | intro _
    | simp only [↓State.keeps_mk]

theorem State.clearPoison_keeps {r : State} {a0 : State} {a1 : ℕ} {a2 : ℕ} (h0 : r.Keeps a0) : r.Keeps (State.clearPoison a0 a1 a2) := by
  unfold State.clearPoison
  try dsimp only
  repeat' first
    | with_reducible assumption
    | with_reducible exact State.Keeps.refl _
    | with_reducible apply State.KeepsNext.next
    | with_reducible apply State.KeepsSome.none
    | with_reducible apply State.KeepsSome.some
    | with_reducible apply State.KeepsPair.none
    | with_reducible apply State.KeepsPair.some
    | with_reducible apply State.KeepsOk.error
    | with_reducible apply State.KeepsOk.ok
    | with_reducible apply State.Keeps.foldl
    | with_reducible apply State.Keeps.foldl_fst
    | (with_reducible refine State.Keeps.some (by assumption) ?_)
    | (with_reducible refine State.Keeps.pair (by assumption) ?_)
    | (with_reducible refine State.Keeps.ok (by assumption) ?_)
    | (with_reducible refine State.Keeps.fst (by assumption) ?_)
    | (with_reducible refine State.Keeps.snd (by assumption) ?_)
    | intro _
    | simp only [↓State.keeps_mk]

theorem State.write_keeps {r : State} {a0 : State} {a1 : ℕ} {a2 : List Byte} (h0 : r.Keeps a0) : r.Keeps (State.write a0 a1 a2) := by
  unfold State.write
  try dsimp only
  repeat' first
    | with_reducible assumption
    | with_reducible exact State.Keeps.refl _
    | with_reducible apply State.clearPoison_keeps
    | with_reducible apply State.setBytes_keeps

theorem State.writeP_keeps {r : State} {a0 : State} {a1 : ℕ} {a2 : List Byte} {a3 : Bool} (h0 : r.Keeps a0) : r.Keeps (State.writeP a0 a1 a2 a3) := by
  unfold State.writeP
  try dsimp only
  repeat' first
    | with_reducible assumption
    | with_reducible exact State.Keeps.refl _
    | with_reducible apply State.setPoison_keeps
    | with_reducible apply State.setBytes_keeps
    | with_reducible apply State.write_keeps
    | with_reducible apply State.KeepsNext.next
    | with_reducible apply State.KeepsSome.none
    | with_reducible apply State.KeepsSome.some
    | with_reducible apply State.KeepsPair.none
    | with_reducible apply State.KeepsPair.some
    | with_reducible apply State.KeepsOk.error
    | with_reducible apply State.KeepsOk.ok
    | with_reducible apply State.Keeps.foldl
    | with_reducible apply State.Keeps.foldl_fst
    | (with_reducible refine State.Keeps.some (by assumption) ?_)
    | (with_reducible refine State.Keeps.pair (by assumption) ?_)
    | (with_reducible refine State.Keeps.ok (by assumption) ?_)
    | (with_reducible refine State.Keeps.fst (by assumption) ?_)
    | (with_reducible refine State.Keeps.snd (by assumption) ?_)
    | intro _
    | simp only [↓State.keeps_mk]
    | simp only [↓State.keeps_mk_fuses]
    | split

theorem State.setPage_keeps {r : State} {a0 : State} {a1 : ℕ} {a2 : PageDesc} (h0 : r.Keeps a0) : r.Keeps (State.setPage a0 a1 a2) := by
  unfold State.setPage
  try dsimp only
  repeat' first
    | with_reducible assumption
    | with_reducible exact State.Keeps.refl _
    | with_reducible apply State.KeepsNext.next
    | with_reducible apply State.KeepsSome.none
    | with_reducible apply State.KeepsSome.some
    | with_reducible apply State.KeepsPair.none
    | with_reducible apply State.KeepsPair.some
    | with_reducible apply State.KeepsOk.error
    | with_reducible apply State.KeepsOk.ok
    | with_reducible apply State.Keeps.foldl
    | with_reducible apply State.Keeps.foldl_fst
    | (with_reducible refine State.Keeps.some (by assumption) ?_)
    | (with_reducible refine State.Keeps.pair (by assumption) ?_)
    | (with_reducible refine State.Keeps.ok (by assumption) ?_)
    | (with_reducible refine State.Keeps.fst (by assumption) ?_)
    | (with_reducible refine State.Keeps.snd (by assumption) ?_)
    | intro _
    | simp only [↓State.keeps_mk]

theorem State.sinkPoison_keeps {r : State} {a0 : State} {a1 : Region} (h0 : r.Keeps a0) : r.Keeps (State.sinkPoison a0 a1) := by
  unfold State.sinkPoison
  try dsimp only
  repeat' first
    | with_reducible assumption
    | with_reducible exact State.Keeps.refl _
    | with_reducible apply State.KeepsNext.next
    | with_reducible apply State.KeepsSome.none
    | with_reducible apply State.KeepsSome.some
    | with_reducible apply State.KeepsPair.none
    | with_reducible apply State.KeepsPair.some
    | with_reducible apply State.KeepsOk.error
    | with_reducible apply State.KeepsOk.ok
    | with_reducible apply State.KeepsSome.map_state
    | with_reducible apply State.KeepsSome.map_pair
    | with_reducible apply State.KeepsSome.map
    | with_reducible apply State.KeepsPair.map_state
    | with_reducible apply State.KeepsPair.map_pair
    | with_reducible apply State.KeepsPair.map
    | with_reducible apply State.Keeps.foldl
    | with_reducible apply State.Keeps.foldl_fst
    | (with_reducible refine State.Keeps.some (by assumption) ?_)
    | (with_reducible refine State.Keeps.pair (by assumption) ?_)
    | (with_reducible refine State.Keeps.ok (by assumption) ?_)
    | (with_reducible refine State.Keeps.fst (by assumption) ?_)
    | (with_reducible refine State.Keeps.snd (by assumption) ?_)
    | with_reducible apply State.Keeps.ite
    | with_reducible apply State.KeepsSome.ite
    | with_reducible apply State.KeepsSome.or
    | intro _
    | simp only [↓State.keeps_mk]

theorem State.unmapped_keeps {r : State} {a0 : State} {a1 : ℕ} {a2 : ℕ} {a3 : Option (BitVec 10)} {a4 : optParam U64 0} (h0 : r.Keeps a0) : r.Keeps (State.unmapped a0 a1 a2 a3 a4) := by
  unfold State.unmapped
  try dsimp only
  repeat' first
    | with_reducible assumption
    | with_reducible exact State.Keeps.refl _
    | with_reducible apply State.raise_keeps

theorem State.refuse_keeps {r : State} {a0 : State} {a1 : Byte} {a2 : ℕ} {a3 : ℕ} {a4 : Option (BitVec 10)} {a5 : optParam U64 0} (h0 : r.Keeps a0) : r.Keeps (State.refuse a0 a1 a2 a3 a4 a5) := by
  unfold State.refuse
  try dsimp only
  repeat' first
    | with_reducible assumption
    | with_reducible exact State.Keeps.refl _
    | with_reducible apply State.unmapped_keeps
    | with_reducible apply State.KeepsNext.next
    | with_reducible apply State.KeepsSome.none
    | with_reducible apply State.KeepsSome.some
    | with_reducible apply State.KeepsPair.none
    | with_reducible apply State.KeepsPair.some
    | with_reducible apply State.KeepsOk.error
    | with_reducible apply State.KeepsOk.ok
    | with_reducible apply State.Keeps.foldl
    | with_reducible apply State.Keeps.foldl_fst
    | (with_reducible refine State.Keeps.some (by assumption) ?_)
    | (with_reducible refine State.Keeps.pair (by assumption) ?_)
    | (with_reducible refine State.Keeps.ok (by assumption) ?_)
    | (with_reducible refine State.Keeps.fst (by assumption) ?_)
    | (with_reducible refine State.Keeps.snd (by assumption) ?_)
    | intro _
    | simp only [↓State.keeps_mk]
    | simp only [↓State.keeps_mk_fuses]
    | split

theorem State.zero_keeps {r : State} {a0 : State} {a1 : ℕ} {a2 : ℕ} (h0 : r.Keeps a0) : r.Keeps (State.zero a0 a1 a2) := by
  unfold State.zero State.clearPoison
  simp only [↓State.keeps_mk]
  exact ⟨h0.1, h0.2, fun i => ⟨Tab.wfFrom_filter _ (h0.3 i).1, (h0.3 i).2⟩⟩

theorem State.rowError_keeps {r : State} {a0 : State} {a1 : ℕ} {a2 : ℕ} {a3 : ℕ} {a4 : Bool} (h0 : r.Keeps a0) : r.Keeps (State.rowError a0 a1 a2 a3 a4) := by
  unfold State.rowError
  try dsimp only
  repeat' first
    | with_reducible assumption
    | with_reducible exact State.Keeps.refl _
    | with_reducible apply State.count_keeps
    | with_reducible apply State.raise_keeps
    | with_reducible apply State.lifeRecord_keeps
    | with_reducible apply State.KeepsNext.next
    | with_reducible apply State.KeepsSome.none
    | with_reducible apply State.KeepsSome.some
    | with_reducible apply State.KeepsPair.none
    | with_reducible apply State.KeepsPair.some
    | with_reducible apply State.KeepsOk.error
    | with_reducible apply State.KeepsOk.ok
    | with_reducible apply State.Keeps.foldl
    | with_reducible apply State.Keeps.foldl_fst
    | (with_reducible refine State.Keeps.some (by assumption) ?_)
    | (with_reducible refine State.Keeps.pair (by assumption) ?_)
    | (with_reducible refine State.Keeps.ok (by assumption) ?_)
    | (with_reducible refine State.Keeps.fst (by assumption) ?_)
    | (with_reducible refine State.Keeps.snd (by assumption) ?_)
    | intro _
    | simp only [↓State.keeps_mk]
    | simp only [↓State.keeps_mk_fuses]
    | split

theorem State.corrected_keeps {r : State} {a0 : State} {a1 : ℕ} {a2 : ℕ} {a3 : ℕ} (h0 : r.Keeps a0) : r.Keeps (State.corrected a0 a1 a2 a3) := by
  unfold State.corrected
  try dsimp only
  repeat' first
    | with_reducible assumption
    | with_reducible exact State.Keeps.refl _
    | with_reducible apply State.count_keeps
    | with_reducible apply State.rowError_keeps
    | with_reducible apply State.raise_keeps
    | with_reducible apply State.KeepsNext.next
    | with_reducible apply State.KeepsSome.none
    | with_reducible apply State.KeepsSome.some
    | with_reducible apply State.KeepsPair.none
    | with_reducible apply State.KeepsPair.some
    | with_reducible apply State.KeepsOk.error
    | with_reducible apply State.KeepsOk.ok
    | with_reducible apply State.Keeps.foldl
    | with_reducible apply State.Keeps.foldl_fst
    | (with_reducible refine State.Keeps.some (by assumption) ?_)
    | (with_reducible refine State.Keeps.pair (by assumption) ?_)
    | (with_reducible refine State.Keeps.ok (by assumption) ?_)
    | (with_reducible refine State.Keeps.fst (by assumption) ?_)
    | (with_reducible refine State.Keeps.snd (by assumption) ?_)
    | intro _
    | simp only [↓State.keeps_mk]
    | simp only [↓State.keeps_mk_fuses]
    | split

theorem State.quarantine_keeps {r : State} {a0 : State} {a1 : ℕ} {a2 : Fin 4} (h0 : r.Keeps a0) : r.Keeps (State.quarantine a0 a1 a2) := by
  unfold State.quarantine
  try dsimp only
  repeat' first
    | with_reducible assumption
    | with_reducible exact State.Keeps.refl _
    | with_reducible apply State.setPage_keeps
    | with_reducible apply State.KeepsNext.next
    | with_reducible apply State.KeepsSome.none
    | with_reducible apply State.KeepsSome.some
    | with_reducible apply State.KeepsPair.none
    | with_reducible apply State.KeepsPair.some
    | with_reducible apply State.KeepsOk.error
    | with_reducible apply State.KeepsOk.ok
    | with_reducible apply State.Keeps.foldl
    | with_reducible apply State.Keeps.foldl_fst
    | (with_reducible refine State.Keeps.some (by assumption) ?_)
    | (with_reducible refine State.Keeps.pair (by assumption) ?_)
    | (with_reducible refine State.Keeps.ok (by assumption) ?_)
    | (with_reducible refine State.Keeps.fst (by assumption) ?_)
    | (with_reducible refine State.Keeps.snd (by assumption) ?_)
    | intro _
    | simp only [↓State.keeps_mk]
    | simp only [↓State.keeps_mk_fuses]
    | split

theorem State.ueRecord_keeps {r : State} {a0 : State} {a1 : ℕ} {a2 : ℕ} {a3 : ℕ} (h0 : r.Keeps a0) : r.Keeps (State.ueRecord a0 a1 a2 a3) := by
  unfold State.ueRecord
  try dsimp only
  repeat' first
    | with_reducible assumption
    | with_reducible exact State.Keeps.refl _
    | with_reducible apply State.raise_keeps

theorem State.ueCounts_keeps {r : State} {a0 : State} {a1 : ℕ} {a2 : Bool} {a3 : ℕ} {a4 : ℕ} {a5 : ℕ} (h0 : r.Keeps a0) : r.Keeps (State.ueCounts a0 a1 a2 a3 a4 a5) := by
  unfold State.ueCounts
  try dsimp only
  repeat' first
    | with_reducible assumption
    | with_reducible exact State.Keeps.refl _
    | with_reducible apply State.count_keeps
    | with_reducible apply State.rowError_keeps
    | with_reducible apply State.KeepsNext.next
    | with_reducible apply State.KeepsSome.none
    | with_reducible apply State.KeepsSome.some
    | with_reducible apply State.KeepsPair.none
    | with_reducible apply State.KeepsPair.some
    | with_reducible apply State.KeepsOk.error
    | with_reducible apply State.KeepsOk.ok
    | with_reducible apply State.KeepsSome.map_state
    | with_reducible apply State.KeepsSome.map_pair
    | with_reducible apply State.KeepsSome.map
    | with_reducible apply State.KeepsPair.map_state
    | with_reducible apply State.KeepsPair.map_pair
    | with_reducible apply State.KeepsPair.map
    | with_reducible apply State.Keeps.foldl
    | with_reducible apply State.Keeps.foldl_fst
    | (with_reducible refine State.Keeps.some (by assumption) ?_)
    | (with_reducible refine State.Keeps.pair (by assumption) ?_)
    | (with_reducible refine State.Keeps.ok (by assumption) ?_)
    | (with_reducible refine State.Keeps.fst (by assumption) ?_)
    | (with_reducible refine State.Keeps.snd (by assumption) ?_)
    | with_reducible apply State.Keeps.ite
    | with_reducible apply State.KeepsSome.ite
    | with_reducible apply State.KeepsSome.or
    | intro _
    | simp only [↓State.keeps_mk]

theorem State.uncorrectable_keeps {r : State} {a0 : State} {a1 : ℕ} {a2 : ℕ} {a3 : ℕ} (h0 : r.Keeps a0) : r.Keeps (State.uncorrectable a0 a1 a2 a3) := by
  unfold State.uncorrectable
  try dsimp only
  repeat' first
    | with_reducible assumption
    | with_reducible exact State.Keeps.refl _
    | with_reducible apply State.ueRecord_keeps
    | with_reducible apply State.setPoison_keeps
    | with_reducible apply State.wr_keeps
    | with_reducible apply State.ueCounts_keeps
    | with_reducible apply State.quarantine_keeps
    | with_reducible apply State.KeepsNext.next
    | with_reducible apply State.KeepsSome.none
    | with_reducible apply State.KeepsSome.some
    | with_reducible apply State.KeepsPair.none
    | with_reducible apply State.KeepsPair.some
    | with_reducible apply State.KeepsOk.error
    | with_reducible apply State.KeepsOk.ok
    | with_reducible apply State.KeepsSome.map_state
    | with_reducible apply State.KeepsSome.map_pair
    | with_reducible apply State.KeepsSome.map
    | with_reducible apply State.KeepsPair.map_state
    | with_reducible apply State.KeepsPair.map_pair
    | with_reducible apply State.KeepsPair.map
    | with_reducible apply State.Keeps.foldl
    | with_reducible apply State.Keeps.foldl_fst
    | (with_reducible refine State.Keeps.some (by assumption) ?_)
    | (with_reducible refine State.Keeps.pair (by assumption) ?_)
    | (with_reducible refine State.Keeps.ok (by assumption) ?_)
    | (with_reducible refine State.Keeps.fst (by assumption) ?_)
    | (with_reducible refine State.Keeps.snd (by assumption) ?_)
    | with_reducible apply State.Keeps.ite
    | with_reducible apply State.KeepsSome.ite
    | with_reducible apply State.KeepsSome.or
    | intro _
    | simp only [↓State.keeps_mk]
    | simp only [↓State.keeps_mk_fuses]
    | split

theorem State.surfacePoison_keeps {r : State} {a0 : State} {a1 : Region} (h0 : r.Keeps a0) : r.Keeps (State.surfacePoison a0 a1) := by
  unfold State.surfacePoison
  try dsimp only
  repeat' first
    | with_reducible assumption
    | with_reducible exact State.Keeps.refl _
    | with_reducible apply State.setPoison_keeps
    | with_reducible apply State.KeepsNext.next
    | with_reducible apply State.KeepsSome.none
    | with_reducible apply State.KeepsSome.some
    | with_reducible apply State.KeepsPair.none
    | with_reducible apply State.KeepsPair.some
    | with_reducible apply State.KeepsOk.error
    | with_reducible apply State.KeepsOk.ok
    | with_reducible apply State.KeepsSome.map_state
    | with_reducible apply State.KeepsSome.map_pair
    | with_reducible apply State.KeepsSome.map
    | with_reducible apply State.KeepsPair.map_state
    | with_reducible apply State.KeepsPair.map_pair
    | with_reducible apply State.KeepsPair.map
    | with_reducible apply State.Keeps.foldl
    | with_reducible apply State.Keeps.foldl_fst
    | (with_reducible refine State.Keeps.some (by assumption) ?_)
    | (with_reducible refine State.Keeps.pair (by assumption) ?_)
    | (with_reducible refine State.Keeps.ok (by assumption) ?_)
    | (with_reducible refine State.Keeps.fst (by assumption) ?_)
    | (with_reducible refine State.Keeps.snd (by assumption) ?_)
    | with_reducible apply State.Keeps.ite
    | with_reducible apply State.KeepsSome.ite
    | with_reducible apply State.KeepsSome.or
    | intro _
    | simp only [↓State.keeps_mk]
    | simp only [↓State.keeps_mk_fuses]
    | split

theorem State.markRow_keeps {r : State} {a0 : State} {a1 : ℕ} {a2 : ℕ} {a3 : ℕ} {a4 : RowEntry → RowEntry} (h0 : r.Keeps a0) : r.Keeps (State.markRow a0 a1 a2 a3 a4) := by
  unfold State.markRow
  try dsimp only
  repeat' first
    | with_reducible assumption
    | with_reducible exact State.Keeps.refl _
    | with_reducible apply State.count_keeps
    | with_reducible apply State.KeepsNext.next
    | with_reducible apply State.KeepsSome.none
    | with_reducible apply State.KeepsSome.some
    | with_reducible apply State.KeepsPair.none
    | with_reducible apply State.KeepsPair.some
    | with_reducible apply State.KeepsOk.error
    | with_reducible apply State.KeepsOk.ok
    | with_reducible apply State.KeepsSome.map_state
    | with_reducible apply State.KeepsSome.map_pair
    | with_reducible apply State.KeepsSome.map
    | with_reducible apply State.KeepsPair.map_state
    | with_reducible apply State.KeepsPair.map_pair
    | with_reducible apply State.KeepsPair.map
    | with_reducible apply State.Keeps.foldl
    | with_reducible apply State.Keeps.foldl_fst
    | (with_reducible refine State.Keeps.some (by assumption) ?_)
    | (with_reducible refine State.Keeps.pair (by assumption) ?_)
    | (with_reducible refine State.Keeps.ok (by assumption) ?_)
    | (with_reducible refine State.Keeps.fst (by assumption) ?_)
    | (with_reducible refine State.Keeps.snd (by assumption) ?_)
    | with_reducible apply State.Keeps.ite
    | with_reducible apply State.KeepsSome.ite
    | with_reducible apply State.KeepsSome.or
    | intro _
    | simp only [↓State.keeps_mk]
    | simp only [↓State.keeps_mk_fuses]
    | split

theorem State.uncorrectableUnit_keeps {r : State} {a0 : State} {a1 : ℕ} {a2 : ℕ} {a3 : ℕ} {a4 : ℕ} (h0 : r.Keeps a0) : r.Keeps (State.uncorrectableUnit a0 a1 a2 a3 a4) := by
  unfold State.uncorrectableUnit
  try dsimp only
  repeat' first
    | with_reducible assumption
    | with_reducible exact State.Keeps.refl _
    | with_reducible apply State.ueCounts_keeps
    | with_reducible apply State.ueRecord_keeps
    | with_reducible apply State.KeepsNext.next
    | with_reducible apply State.KeepsSome.none
    | with_reducible apply State.KeepsSome.some
    | with_reducible apply State.KeepsPair.none
    | with_reducible apply State.KeepsPair.some
    | with_reducible apply State.KeepsOk.error
    | with_reducible apply State.KeepsOk.ok
    | with_reducible apply State.KeepsSome.map_state
    | with_reducible apply State.KeepsSome.map_pair
    | with_reducible apply State.KeepsSome.map
    | with_reducible apply State.KeepsPair.map_state
    | with_reducible apply State.KeepsPair.map_pair
    | with_reducible apply State.KeepsPair.map
    | with_reducible apply State.Keeps.foldl
    | with_reducible apply State.Keeps.foldl_fst
    | (with_reducible refine State.Keeps.some (by assumption) ?_)
    | (with_reducible refine State.Keeps.pair (by assumption) ?_)
    | (with_reducible refine State.Keeps.ok (by assumption) ?_)
    | (with_reducible refine State.Keeps.fst (by assumption) ?_)
    | (with_reducible refine State.Keeps.snd (by assumption) ?_)
    | with_reducible apply State.Keeps.ite
    | with_reducible apply State.KeepsSome.ite
    | with_reducible apply State.KeepsSome.or
    | intro _
    | simp only [↓State.keeps_mk]

end Sys2Proof.Machine
end

