-- ==== Sys2Proof/Laws/KeepsPageOps.lean ====
section
/-! SUPPORT. Every operation of Machine/PageOps.lean keeps the queue, the fuses and the canonical forms. -/

namespace Sys2Proof.Machine

theorem State.setRoot_keeps {r : State} {a0 : State} {a1 : ℕ} {a2 : RootBlock} (h0 : r.Keeps a0) : r.Keeps (State.setRoot a0 a1 a2) := by
  unfold State.setRoot
  try dsimp only
  repeat' first
    | with_reducible assumption
    | with_reducible exact State.Keeps.refl _
    | with_reducible apply State.KeepsNext.next
    | with_reducible apply State.KeepsSome.none
    | with_reducible apply State.KeepsSome.some
    | with_reducible apply State.KeepsPair.none
    | with_reducible apply State.KeepsPair.some
    | with_reducible apply State.KeepsOk.error
    | with_reducible apply State.KeepsOk.ok
    | with_reducible apply State.Keeps.foldl
    | with_reducible apply State.Keeps.foldl_fst
    | (with_reducible refine State.Keeps.some (by assumption) ?_)
    | (with_reducible refine State.Keeps.pair (by assumption) ?_)
    | (with_reducible refine State.Keeps.ok (by assumption) ?_)
    | (with_reducible refine State.Keeps.fst (by assumption) ?_)
    | (with_reducible refine State.Keeps.snd (by assumption) ?_)
    | intro _
    | simp only [↓State.keeps_mk]

theorem State.dropRoot_keeps {r : State} {a0 : State} {a1 : Option ℕ} (h0 : r.Keeps a0) : r.Keeps (State.dropRoot a0 a1) := by
  unfold State.dropRoot
  try dsimp only
  repeat' first
    | with_reducible assumption
    | with_reducible exact State.Keeps.refl _
    | with_reducible apply State.setRoot_keeps
    | with_reducible apply State.KeepsNext.next
    | with_reducible apply State.KeepsSome.none
    | with_reducible apply State.KeepsSome.some
    | with_reducible apply State.KeepsPair.none
    | with_reducible apply State.KeepsPair.some
    | with_reducible apply State.KeepsOk.error
    | with_reducible apply State.KeepsOk.ok
    | with_reducible apply State.Keeps.foldl
    | with_reducible apply State.Keeps.foldl_fst
    | (with_reducible refine State.Keeps.some (by assumption) ?_)
    | (with_reducible refine State.Keeps.pair (by assumption) ?_)
    | (with_reducible refine State.Keeps.ok (by assumption) ?_)
    | (with_reducible refine State.Keeps.fst (by assumption) ?_)
    | (with_reducible refine State.Keeps.snd (by assumption) ?_)
    | intro _
    | simp only [↓State.keeps_mk]
    | simp only [↓State.keeps_mk_fuses]
    | split

theorem State.unlist_keeps {r : State} {a0 : State} {a1 : ℕ} (h0 : r.Keeps a0) : r.Keeps (State.unlist a0 a1) := by
  unfold State.unlist
  try dsimp only
  repeat' first
    | with_reducible assumption
    | with_reducible exact State.Keeps.refl _
    | with_reducible apply State.KeepsNext.next
    | with_reducible apply State.KeepsSome.none
    | with_reducible apply State.KeepsSome.some
    | with_reducible apply State.KeepsPair.none
    | with_reducible apply State.KeepsPair.some
    | with_reducible apply State.KeepsOk.error
    | with_reducible apply State.KeepsOk.ok
    | with_reducible apply State.Keeps.foldl
    | with_reducible apply State.Keeps.foldl_fst
    | (with_reducible refine State.Keeps.some (by assumption) ?_)
    | (with_reducible refine State.Keeps.pair (by assumption) ?_)
    | (with_reducible refine State.Keeps.ok (by assumption) ?_)
    | (with_reducible refine State.Keeps.fst (by assumption) ?_)
    | (with_reducible refine State.Keeps.snd (by assumption) ?_)
    | intro _
    | simp only [↓State.keeps_mk]

theorem State.finishRelease_keeps {r : State} {a0 : State} {a1 : ℕ} (h0 : r.Keeps a0) : r.Keeps (State.finishRelease a0 a1) := by
  unfold State.finishRelease
  try dsimp only
  repeat' first
    | with_reducible assumption
    | with_reducible exact State.Keeps.refl _
    | with_reducible apply State.setPage_keeps

theorem State.releasePage_keeps {r : State} {a0 : State} {a1 : ℕ} (h0 : r.Keeps a0) : r.Keeps (State.releasePage a0 a1) := by
  unfold State.releasePage
  try dsimp only
  repeat' first
    | with_reducible assumption
    | with_reducible exact State.Keeps.refl _
    | with_reducible apply State.unlist_keeps
    | with_reducible apply State.setPage_keeps
    | with_reducible apply State.finishRelease_keeps
    | with_reducible apply State.KeepsNext.next
    | with_reducible apply State.KeepsSome.none
    | with_reducible apply State.KeepsSome.some
    | with_reducible apply State.KeepsPair.none
    | with_reducible apply State.KeepsPair.some
    | with_reducible apply State.KeepsOk.error
    | with_reducible apply State.KeepsOk.ok
    | with_reducible apply State.Keeps.foldl
    | with_reducible apply State.Keeps.foldl_fst
    | (with_reducible refine State.Keeps.some (by assumption) ?_)
    | (with_reducible refine State.Keeps.pair (by assumption) ?_)
    | (with_reducible refine State.Keeps.ok (by assumption) ?_)
    | (with_reducible refine State.Keeps.fst (by assumption) ?_)
    | (with_reducible refine State.Keeps.snd (by assumption) ?_)
    | intro _
    | simp only [↓State.keeps_mk]
    | simp only [↓State.keeps_mk_fuses]
    | split

theorem State.releasePages_keeps {r : State} {a0 : State} {a1 : List ℕ} (h0 : r.Keeps a0) : r.Keeps (State.releasePages a0 a1) := by
  unfold State.releasePages
  try dsimp only
  repeat' first
    | with_reducible assumption
    | with_reducible exact State.Keeps.refl _
    | with_reducible apply State.releasePage_keeps
    | with_reducible apply State.KeepsNext.next
    | with_reducible apply State.KeepsSome.none
    | with_reducible apply State.KeepsSome.some
    | with_reducible apply State.KeepsPair.none
    | with_reducible apply State.KeepsPair.some
    | with_reducible apply State.KeepsOk.error
    | with_reducible apply State.KeepsOk.ok
    | with_reducible apply State.Keeps.foldl

theorem State.settlePages_keeps {r : State} {a0 : State} (h0 : r.Keeps a0) : r.Keeps (State.settlePages a0) := by
  unfold State.settlePages
  try dsimp only
  repeat' first
    | with_reducible assumption
    | with_reducible exact State.Keeps.refl _
    | with_reducible apply State.finishRelease_keeps
    | with_reducible apply State.KeepsNext.next
    | with_reducible apply State.KeepsSome.none
    | with_reducible apply State.KeepsSome.some
    | with_reducible apply State.KeepsPair.none
    | with_reducible apply State.KeepsPair.some
    | with_reducible apply State.KeepsOk.error
    | with_reducible apply State.KeepsOk.ok
    | with_reducible apply State.Keeps.foldl
    | with_reducible apply State.Keeps.foldl_fst
    | (with_reducible refine State.Keeps.some (by assumption) ?_)
    | (with_reducible refine State.Keeps.pair (by assumption) ?_)
    | (with_reducible refine State.Keeps.ok (by assumption) ?_)
    | (with_reducible refine State.Keeps.fst (by assumption) ?_)
    | (with_reducible refine State.Keeps.snd (by assumption) ?_)
    | intro _
    | simp only [↓State.keeps_mk]
    | simp only [↓State.keeps_mk_fuses]
    | split

theorem State.unseal_keeps {r : State} {a0 : State} {a1 : ℕ} {a2 : ℕ} (h0 : r.Keeps a0) : r.Keeps (State.unseal a0 a1 a2) := by
  unfold State.unseal
  try dsimp only
  repeat' first
    | with_reducible assumption
    | with_reducible exact State.Keeps.refl _
    | with_reducible apply State.setPage_keeps

theorem State.sealWith_keeps {r : State} {a0 : State} {a1 : ℕ} {a2 : ℕ} {a3 : U64} (h0 : r.Keeps a0) : r.Keeps (State.sealWith a0 a1 a2 a3) := by
  unfold State.sealWith
  try dsimp only
  repeat' first
    | with_reducible assumption
    | with_reducible exact State.Keeps.refl _
    | with_reducible apply State.setPage_keeps

theorem State.sealSlot_keeps {r : State} {a0 : State} {a1 : ℕ} {a2 : ℕ} (h0 : r.Keeps a0) : r.Keeps (State.sealSlot a0 a1 a2) := by
  unfold State.sealSlot
  try dsimp only
  repeat' first
    | with_reducible assumption
    | with_reducible exact State.Keeps.refl _
    | with_reducible apply State.sealWith_keeps
    | with_reducible apply State.KeepsNext.next
    | with_reducible apply State.KeepsSome.none
    | with_reducible apply State.KeepsSome.some
    | with_reducible apply State.KeepsPair.none
    | with_reducible apply State.KeepsPair.some
    | with_reducible apply State.KeepsOk.error
    | with_reducible apply State.KeepsOk.ok
    | with_reducible apply State.Keeps.foldl
    | with_reducible apply State.Keeps.foldl_fst
    | (with_reducible refine State.Keeps.some (by assumption) ?_)
    | (with_reducible refine State.Keeps.pair (by assumption) ?_)
    | (with_reducible refine State.Keeps.ok (by assumption) ?_)
    | (with_reducible refine State.Keeps.fst (by assumption) ?_)
    | (with_reducible refine State.Keeps.snd (by assumption) ?_)
    | intro _
    | simp only [↓State.keeps_mk]
    | simp only [↓State.keeps_mk_fuses]
    | split

theorem State.filledTo_keeps {r : State} {a0 : State} {a1 : ℕ} {a2 : ℕ} (h0 : r.Keeps a0) : r.Keeps (State.filledTo a0 a1 a2) := by
  unfold State.filledTo
  try dsimp only
  repeat' first
    | with_reducible assumption
    | with_reducible exact State.Keeps.refl _
    | with_reducible apply State.setRoot_keeps

theorem State.sealPages_keeps {r : State} {a0 : State} {a1 : List ℕ} (h0 : r.Keeps a0) : r.Keeps (State.sealPages a0 a1) := by
  unfold State.sealPages
  try dsimp only
  repeat' first
    | with_reducible assumption
    | with_reducible exact State.Keeps.refl _
    | with_reducible apply State.sealSlot_keeps
    | with_reducible apply State.KeepsNext.next
    | with_reducible apply State.KeepsSome.none
    | with_reducible apply State.KeepsSome.some
    | with_reducible apply State.KeepsPair.none
    | with_reducible apply State.KeepsPair.some
    | with_reducible apply State.KeepsOk.error
    | with_reducible apply State.KeepsOk.ok
    | with_reducible apply State.Keeps.foldl
    | with_reducible apply State.Keeps.foldl_fst
    | (with_reducible refine State.Keeps.some (by assumption) ?_)
    | (with_reducible refine State.Keeps.pair (by assumption) ?_)
    | (with_reducible refine State.Keeps.ok (by assumption) ?_)
    | (with_reducible refine State.Keeps.fst (by assumption) ?_)
    | (with_reducible refine State.Keeps.snd (by assumption) ?_)
    | intro _
    | simp only [↓State.keeps_mk]
    | simp only [↓State.keeps_mk_fuses]
    | split

theorem State.takeRoot_keeps {r : State} {a0 : State} {a1 : RootBlock} (h0 : r.Keeps a0) : r.KeepsPair (State.takeRoot a0 a1) := by
  unfold State.takeRoot
  try dsimp only
  repeat' first
    | with_reducible assumption
    | with_reducible exact State.Keeps.refl _
    | with_reducible apply State.setRoot_keeps
    | with_reducible apply State.KeepsNext.next
    | with_reducible apply State.KeepsSome.none
    | with_reducible apply State.KeepsSome.some
    | with_reducible apply State.KeepsPair.none
    | with_reducible apply State.KeepsPair.some
    | with_reducible apply State.KeepsOk.error
    | with_reducible apply State.KeepsOk.ok
    | with_reducible apply State.KeepsSome.map
    | with_reducible apply State.KeepsPair.map_pair
    | with_reducible apply State.KeepsPair.map
    | with_reducible apply State.Keeps.foldl
    | with_reducible apply State.Keeps.foldl_fst
    | (with_reducible refine State.Keeps.some (by assumption) ?_)
    | (with_reducible refine State.Keeps.pair (by assumption) ?_)
    | (with_reducible refine State.Keeps.ok (by assumption) ?_)
    | (with_reducible refine State.Keeps.fst (by assumption) ?_)
    | (with_reducible refine State.Keeps.snd (by assumption) ?_)
    | intro _

theorem State.givePages_keeps {r : State} {a0 : State} {a1 : AllocFor} {a2 : ℕ} {a3 : ℕ} {a4 : List ℕ} (h0 : r.Keeps a0) : r.Keeps (State.givePages a0 a1 a2 a3 a4) := by
  unfold State.givePages
  try dsimp only
  repeat' first
    | with_reducible assumption
    | with_reducible exact State.Keeps.refl _
    | with_reducible apply State.zero_keeps
    | with_reducible apply State.setPage_keeps
    | with_reducible apply State.setRoot_keeps
    | with_reducible apply State.KeepsNext.next
    | with_reducible apply State.KeepsSome.none
    | with_reducible apply State.KeepsSome.some
    | with_reducible apply State.KeepsPair.none
    | with_reducible apply State.KeepsPair.some
    | with_reducible apply State.KeepsOk.error
    | with_reducible apply State.KeepsOk.ok
    | with_reducible apply State.Keeps.foldl
    | with_reducible apply State.Keeps.foldl_fst
    | (with_reducible refine State.Keeps.some (by assumption) ?_)
    | (with_reducible refine State.Keeps.pair (by assumption) ?_)
    | (with_reducible refine State.Keeps.ok (by assumption) ?_)
    | (with_reducible refine State.Keeps.fst (by assumption) ?_)
    | (with_reducible refine State.Keeps.snd (by assumption) ?_)
    | intro _

theorem State.allocTp_keeps {r : State} {a0 : State} {a1 : AllocFor} {a2 : ℕ} {a3 : ℕ} (h0 : r.Keeps a0) : r.KeepsSome (State.allocTp a0 a1 a2 a3) := by
  unfold State.allocTp
  try dsimp only
  repeat' first
    | with_reducible assumption
    | with_reducible exact State.Keeps.refl _
    | with_reducible apply State.givePages_keeps
    | with_reducible apply State.KeepsNext.next
    | with_reducible apply State.KeepsSome.none
    | with_reducible apply State.KeepsSome.some
    | with_reducible apply State.KeepsPair.none
    | with_reducible apply State.KeepsPair.some
    | with_reducible apply State.KeepsOk.error
    | with_reducible apply State.KeepsOk.ok
    | with_reducible apply State.KeepsSome.map
    | with_reducible apply State.KeepsPair.map_pair
    | with_reducible apply State.KeepsPair.map
    | with_reducible apply State.Keeps.foldl
    | with_reducible apply State.Keeps.foldl_fst
    | (with_reducible refine State.Keeps.some (by assumption) ?_)
    | (with_reducible refine State.Keeps.pair (by assumption) ?_)
    | (with_reducible refine State.Keeps.ok (by assumption) ?_)
    | (with_reducible refine State.Keeps.fst (by assumption) ?_)
    | (with_reducible refine State.Keeps.snd (by assumption) ?_)
    | intro _
    | simp only [↓State.keeps_mk]
    | simp only [↓State.keeps_mk_fuses]
    | split

theorem State.allocAll_keeps {r : State} {a0 : AllocFor} {a1 : List (ℕ × ℕ)} {a2 : State} (h2 : r.Keeps a2) : r.KeepsSome (State.allocAll a0 a1 a2) := by
  induction a1 generalizing a0 a2 with
  | nil =>
    unfold State.allocAll
    try dsimp only
    repeat' first
      | with_reducible assumption
      | with_reducible exact State.Keeps.refl _
      | with_reducible apply State.allocTp_keeps
      | with_reducible apply State.KeepsNext.next
      | with_reducible apply State.KeepsSome.none
      | with_reducible apply State.KeepsSome.some
  | cons x xs ih =>
    unfold State.allocAll
    try dsimp only
    repeat' first
      | with_reducible apply ih
      | with_reducible assumption
      | with_reducible exact State.Keeps.refl _
      | with_reducible apply State.allocTp_keeps
      | with_reducible apply State.KeepsNext.next
      | with_reducible apply State.KeepsSome.none
      | with_reducible apply State.KeepsSome.some
      | with_reducible apply State.KeepsPair.none
      | with_reducible apply State.KeepsPair.some
      | with_reducible apply State.KeepsOk.error
      | with_reducible apply State.KeepsOk.ok
      | with_reducible apply State.KeepsSome.map_state
      | with_reducible apply State.KeepsSome.map
      | with_reducible apply State.KeepsPair.map_state
      | with_reducible apply State.KeepsPair.map_pair
      | with_reducible apply State.KeepsPair.map
      | with_reducible apply State.Keeps.foldl
      | with_reducible apply State.Keeps.foldl_fst
      | (with_reducible refine State.Keeps.some (by assumption) ?_)
      | (with_reducible refine State.Keeps.pair (by assumption) ?_)
      | (with_reducible refine State.Keeps.ok (by assumption) ?_)
      | (with_reducible refine State.Keeps.fst (by assumption) ?_)
      | (with_reducible refine State.Keeps.snd (by assumption) ?_)
      | intro _
      | simp only [↓State.keeps_mk]
      | simp only [↓State.keeps_mk_fuses]
      | split

theorem State.putTile_keeps {r : State} {a0 : State} {a1 : ℕ} {a2 : ℕ} {a3 : List Byte} {a4 : Bool} (h0 : r.Keeps a0) : r.Keeps (State.putTile a0 a1 a2 a3 a4) := by
  unfold State.putTile
  try dsimp only
  repeat' first
    | with_reducible assumption
    | with_reducible exact State.Keeps.refl _
    | with_reducible apply State.unseal_keeps
    | with_reducible apply State.writeP_keeps

end Sys2Proof.Machine
end

