-- ==== Sys2Proof/Laws/KeepsPowerOps.lean ====
section
/-! SUPPORT. Every operation of Machine/PowerOps.lean keeps the queue, the fuses and the canonical forms. -/

namespace Sys2Proof.Machine

theorem State.supplyRecord_keeps {r : State} {a0 : State} {a1 : ℕ} {a2 : ℕ} (h0 : r.Keeps a0) : r.Keeps (State.supplyRecord a0 a1 a2) := by
  unfold State.supplyRecord
  try dsimp only
  repeat' first
    | with_reducible assumption
    | with_reducible exact State.Keeps.refl _
    | with_reducible apply State.lifeRecord_keeps

end Sys2Proof.Machine
end

