-- ==== Sys2Proof/Laws/KeepsControl.lean ====
section
/-! SUPPORT. Every operation of Machine/Control.lean keeps the queue, the fuses and the canonical forms. -/

namespace Sys2Proof.Machine

theorem State.putField_keeps {r : State} {a0 : State} {a1 : ℕ} {a2 : U32} (h0 : r.Keeps a0) : r.Keeps (State.putField a0 a1 a2) := by
  unfold State.putField
  repeat' first
    | with_reducible assumption
    | with_reducible apply State.wr_keeps
    | simp only [↓State.keeps_mk_fuses]
    | split

theorem State.putProfile_keeps {r : State} {a0 : State} {a1 : ControlBlock} {a2 : ℕ} (h0 : r.Keeps a0) : r.Keeps (State.putProfile a0 a1 a2) := by
  unfold State.putProfile
  repeat' first
    | with_reducible assumption
    | with_reducible apply State.putField_keeps
    | with_reducible apply State.wr_keeps
    | with_reducible apply State.Keeps.foldl
    | intro _

theorem State.loadControl_keeps {r : State} {a0 : State} {a1 : List ControlEntry} (h0 : r.Keeps a0) : r.Keeps (State.loadControl a0 a1) := by
  unfold State.loadControl
  repeat' first
    | with_reducible assumption
    | with_reducible apply State.putProfile_keeps
    | with_reducible apply State.wr_keeps
    | with_reducible apply State.putField_keeps
    | with_reducible apply State.Keeps.foldl
    | intro _
    | split

theorem State.applyControl_keeps {r : State} {a0 : State} {a1 : ℕ × U32} (h0 : r.Keeps a0) : r.Keeps (State.applyControl a0 a1) := by
  unfold State.applyControl
  repeat' first
    | with_reducible assumption
    | with_reducible apply State.putProfile_keeps
    | with_reducible apply State.setFlag_keeps
    | with_reducible apply State.wr_keeps
    | with_reducible apply State.putField_keeps
    | split

theorem State.applyStaged_keeps {r : State} {a0 : State} (h0 : r.Keeps a0) : r.Keeps (State.applyStaged a0) := by
  unfold State.applyStaged
  repeat' first
    | with_reducible assumption
    | with_reducible apply State.applyControl_keeps
    | with_reducible apply State.Keeps.foldl
    | simp only [↓State.keeps_mk]

theorem State.stage_keeps {r : State} {a0 : State} {a1 : ℕ} {a2 : U32} (h0 : r.Keeps a0) : r.Keeps (State.stage a0 a1 a2) := by
  unfold State.stage
  repeat' first
    | with_reducible assumption
    | simp only [↓State.keeps_mk]

theorem execProfileSelect_keeps {r : State} {a0 : ℕ} {a1 : U32} {a2 : State} (h2 : r.Keeps a2) : r.KeepsNext (execProfileSelect a0 a1 a2) := by
  unfold execProfileSelect
  repeat' first
    | with_reducible assumption
    | with_reducible apply State.stage_keeps
    | with_reducible apply State.setFlag_keeps
    | with_reducible apply State.KeepsNext.next
    | split

theorem execExpertFieldWrite_keeps {r : State} {a0 : ℕ} {a1 : U32} {a2 : State} (h2 : r.Keeps a2) : r.KeepsNext (execExpertFieldWrite a0 a1 a2) := by
  unfold execExpertFieldWrite
  repeat' first
    | with_reducible assumption
    | with_reducible apply State.stage_keeps
    | with_reducible apply State.setFlag_keeps
    | with_reducible apply State.KeepsNext.next
    | split

end Sys2Proof.Machine
end

