-- ==== Sys2Proof/Laws/KeepsMaps.lean ====
section
/-! SUPPORT. Every operation of Machine/Maps.lean keeps the queue, the fuses and the canonical forms. -/

namespace Sys2Proof.Machine

theorem State.dropRegions_keeps {r : State} {a0 : State} {a1 : Region → Bool} (h0 : r.Keeps a0) : r.Keeps (State.dropRegions a0 a1) := by
  unfold State.dropRegions
  try dsimp only
  repeat' first
    | with_reducible assumption
    | with_reducible exact State.Keeps.refl _
    | with_reducible apply State.sinkPoison_keeps
    | with_reducible apply State.KeepsNext.next
    | with_reducible apply State.KeepsSome.none
    | with_reducible apply State.KeepsSome.some
    | with_reducible apply State.KeepsPair.none
    | with_reducible apply State.KeepsPair.some
    | with_reducible apply State.KeepsOk.error
    | with_reducible apply State.KeepsOk.ok
    | with_reducible apply State.KeepsSome.map_state
    | with_reducible apply State.KeepsSome.map_pair
    | with_reducible apply State.KeepsSome.map
    | with_reducible apply State.KeepsPair.map_state
    | with_reducible apply State.KeepsPair.map_pair
    | with_reducible apply State.KeepsPair.map
    | with_reducible apply State.Keeps.foldl
    | with_reducible apply State.Keeps.foldl_fst
    | (with_reducible refine State.Keeps.some (by assumption) ?_)
    | (with_reducible refine State.Keeps.pair (by assumption) ?_)
    | (with_reducible refine State.Keeps.ok (by assumption) ?_)
    | (with_reducible refine State.Keeps.fst (by assumption) ?_)
    | (with_reducible refine State.Keeps.snd (by assumption) ?_)
    | with_reducible apply State.Keeps.ite
    | with_reducible apply State.KeepsSome.ite
    | with_reducible apply State.KeepsSome.or
    | intro _
    | simp only [↓State.keeps_mk]

theorem State.dropModel_keeps {r : State} {a0 : State} {a1 : BitVec 6} (h0 : r.Keeps a0) : r.Keeps (State.dropModel a0 a1) := by
  unfold State.dropModel
  try dsimp only
  repeat' first
    | with_reducible assumption
    | with_reducible exact State.Keeps.refl _
    | with_reducible apply State.dropRegions_keeps

theorem State.emptyPools_keeps {r : State} {a0 : State} (h0 : r.Keeps a0) : r.Keeps (State.emptyPools a0) := by
  unfold State.emptyPools
  try dsimp only
  repeat' first
    | with_reducible assumption
    | with_reducible exact State.Keeps.refl _
    | with_reducible apply State.KeepsNext.next
    | with_reducible apply State.KeepsSome.none
    | with_reducible apply State.KeepsSome.some
    | with_reducible apply State.KeepsPair.none
    | with_reducible apply State.KeepsPair.some
    | with_reducible apply State.KeepsOk.error
    | with_reducible apply State.KeepsOk.ok
    | with_reducible apply State.KeepsSome.map_state
    | with_reducible apply State.KeepsSome.map_pair
    | with_reducible apply State.KeepsSome.map
    | with_reducible apply State.KeepsPair.map_state
    | with_reducible apply State.KeepsPair.map_pair
    | with_reducible apply State.KeepsPair.map
    | with_reducible apply State.Keeps.foldl
    | with_reducible apply State.Keeps.foldl_fst
    | (with_reducible refine State.Keeps.some (by assumption) ?_)
    | (with_reducible refine State.Keeps.pair (by assumption) ?_)
    | (with_reducible refine State.Keeps.ok (by assumption) ?_)
    | (with_reducible refine State.Keeps.fst (by assumption) ?_)
    | (with_reducible refine State.Keeps.snd (by assumption) ?_)
    | with_reducible apply State.Keeps.ite
    | with_reducible apply State.KeepsSome.ite
    | with_reducible apply State.KeepsSome.or
    | intro _
    | simp only [↓State.keeps_mk]

theorem State.loadPools_keeps {r : State} {a0 : State} (h0 : r.Keeps a0) : r.Keeps (State.loadPools a0) := by
  unfold State.loadPools
  try dsimp only
  repeat' first
    | with_reducible assumption
    | with_reducible exact State.Keeps.refl _
    | with_reducible apply State.emptyPools_keeps
    | with_reducible apply State.setPage_keeps
    | with_reducible apply State.KeepsNext.next
    | with_reducible apply State.KeepsSome.none
    | with_reducible apply State.KeepsSome.some
    | with_reducible apply State.KeepsPair.none
    | with_reducible apply State.KeepsPair.some
    | with_reducible apply State.KeepsOk.error
    | with_reducible apply State.KeepsOk.ok
    | with_reducible apply State.KeepsSome.map_state
    | with_reducible apply State.KeepsSome.map_pair
    | with_reducible apply State.KeepsSome.map
    | with_reducible apply State.KeepsPair.map_state
    | with_reducible apply State.KeepsPair.map_pair
    | with_reducible apply State.KeepsPair.map
    | with_reducible apply State.Keeps.foldl
    | with_reducible apply State.Keeps.foldl_fst
    | (with_reducible refine State.Keeps.some (by assumption) ?_)
    | (with_reducible refine State.Keeps.pair (by assumption) ?_)
    | (with_reducible refine State.Keeps.ok (by assumption) ?_)
    | (with_reducible refine State.Keeps.fst (by assumption) ?_)
    | (with_reducible refine State.Keeps.snd (by assumption) ?_)
    | with_reducible apply State.Keeps.ite
    | with_reducible apply State.KeepsSome.ite
    | with_reducible apply State.KeepsSome.or
    | intro _
    | simp only [↓State.keeps_mk]
    | simp only [↓State.keeps_mk_fuses]
    | split

theorem State.loadRegions_keeps {r : State} {a0 : State} {a1 : PlaceMap} (h0 : r.Keeps a0) : r.Keeps (State.loadRegions a0 a1) := by
  unfold State.loadRegions
  try dsimp only
  repeat' first
    | with_reducible assumption
    | with_reducible exact State.Keeps.refl _
    | with_reducible apply State.surfacePoison_keeps
    | with_reducible apply State.zero_keeps
    | with_reducible apply State.write_keeps
    | with_reducible apply State.take_keeps
    | with_reducible apply State.KeepsNext.next
    | with_reducible apply State.KeepsSome.none
    | with_reducible apply State.KeepsSome.some
    | with_reducible apply State.KeepsPair.none
    | with_reducible apply State.KeepsPair.some
    | with_reducible apply State.KeepsOk.error
    | with_reducible apply State.KeepsOk.ok
    | with_reducible apply State.KeepsSome.map_state
    | with_reducible apply State.KeepsSome.map_pair
    | with_reducible apply State.KeepsSome.map
    | with_reducible apply State.KeepsPair.map_state
    | with_reducible apply State.KeepsPair.map_pair
    | with_reducible apply State.KeepsPair.map
    | with_reducible apply State.Keeps.foldl
    | with_reducible apply State.Keeps.foldl_fst
    | (with_reducible refine State.Keeps.some (by assumption) ?_)
    | (with_reducible refine State.Keeps.pair (by assumption) ?_)
    | (with_reducible refine State.Keeps.ok (by assumption) ?_)
    | (with_reducible refine State.Keeps.fst (by assumption) ?_)
    | (with_reducible refine State.Keeps.snd (by assumption) ?_)
    | with_reducible apply State.Keeps.ite
    | with_reducible apply State.KeepsSome.ite
    | with_reducible apply State.KeepsSome.or
    | intro _
    | simp only [↓State.keeps_mk]

end Sys2Proof.Machine
end

