-- ==== Sys2Proof/Laws/KeepsAnchor.lean ====
section
/-! SUPPORT. Every operation of Machine/Anchor.lean keeps the queue, the fuses and the canonical forms. -/

namespace Sys2Proof.Machine

theorem State.sendSupply_keeps {r : State} {a0 : State} {a1 : ℕ} (h0 : r.Keeps a0) : r.Keeps (State.sendSupply a0 a1) := by
  unfold State.sendSupply
  try dsimp only
  repeat' first
    | with_reducible assumption
    | with_reducible exact State.Keeps.refl _
    | with_reducible apply State.take_keeps
    | with_reducible apply State.KeepsNext.next
    | with_reducible apply State.KeepsSome.none
    | with_reducible apply State.KeepsSome.some
    | with_reducible apply State.KeepsPair.none
    | with_reducible apply State.KeepsPair.some
    | with_reducible apply State.KeepsOk.error
    | with_reducible apply State.KeepsOk.ok
    | with_reducible apply State.KeepsSome.map_state
    | with_reducible apply State.KeepsSome.map_pair
    | with_reducible apply State.KeepsSome.map
    | with_reducible apply State.KeepsPair.map_state
    | with_reducible apply State.KeepsPair.map_pair
    | with_reducible apply State.KeepsPair.map
    | with_reducible apply State.Keeps.foldl
    | with_reducible apply State.Keeps.foldl_fst
    | (with_reducible refine State.Keeps.some (by assumption) ?_)
    | (with_reducible refine State.Keeps.pair (by assumption) ?_)
    | (with_reducible refine State.Keeps.ok (by assumption) ?_)
    | (with_reducible refine State.Keeps.fst (by assumption) ?_)
    | (with_reducible refine State.Keeps.snd (by assumption) ?_)
    | with_reducible apply State.Keeps.ite
    | with_reducible apply State.KeepsSome.ite
    | with_reducible apply State.KeepsSome.or
    | intro _
    | simp only [↓State.keeps_mk]
    | simp only [↓State.keeps_mk_fuses]
    | split

theorem State.askReplica_keeps {r : State} {a0 : State} {a1 : ℕ} (h0 : r.Keeps a0) : r.Keeps (State.askReplica a0 a1) := by
  unfold State.askReplica
  try dsimp only
  repeat' first
    | with_reducible assumption
    | with_reducible apply State.sendAwait_keeps
    | with_reducible apply State.setRecord_keeps
    | split

theorem State.commitPending_keeps {r : State} {a0 : State} {a1 : ℕ} {a2 : PendingHandoff} {a3 : U16} {a4 : Bool} {a5 : ℕ} {a6 : ℕ} (h0 : r.Keeps a0) : r.Keeps (State.commitPending a0 a1 a2 a3 a4 a5 a6) := by
  unfold State.commitPending
  try dsimp only
  repeat' first
    | with_reducible assumption
    | with_reducible exact State.Keeps.refl _
    | with_reducible apply State.sendEnd_keeps
    | with_reducible apply State.setRecord_keeps
    | with_reducible apply State.sendSupply_keeps
    | with_reducible apply State.askReplica_keeps
    | with_reducible apply State.KeepsNext.next
    | with_reducible apply State.KeepsSome.none
    | with_reducible apply State.KeepsSome.some
    | with_reducible apply State.KeepsPair.none
    | with_reducible apply State.KeepsPair.some
    | with_reducible apply State.KeepsOk.error
    | with_reducible apply State.KeepsOk.ok
    | with_reducible apply State.KeepsSome.map_state
    | with_reducible apply State.KeepsSome.map_pair
    | with_reducible apply State.KeepsSome.map
    | with_reducible apply State.KeepsPair.map_state
    | with_reducible apply State.KeepsPair.map_pair
    | with_reducible apply State.KeepsPair.map
    | with_reducible apply State.Keeps.foldl
    | with_reducible apply State.Keeps.foldl_fst
    | (with_reducible refine State.Keeps.some (by assumption) ?_)
    | (with_reducible refine State.Keeps.pair (by assumption) ?_)
    | (with_reducible refine State.Keeps.ok (by assumption) ?_)
    | (with_reducible refine State.Keeps.fst (by assumption) ?_)
    | (with_reducible refine State.Keeps.snd (by assumption) ?_)
    | with_reducible apply State.Keeps.ite
    | with_reducible apply State.KeepsSome.ite
    | with_reducible apply State.KeepsSome.or
    | intro _

theorem State.localCommit_keeps {r : State} {a0 : State} {a1 : ℕ} (h0 : r.Keeps a0) : r.Keeps (State.localCommit a0 a1) := by
  unfold State.localCommit
  try dsimp only
  repeat' first
    | with_reducible assumption
    | with_reducible exact State.Keeps.refl _
    | with_reducible apply State.commitPending_keeps
    | with_reducible apply State.drawn_keeps
    | with_reducible apply State.KeepsNext.next
    | with_reducible apply State.KeepsSome.none
    | with_reducible apply State.KeepsSome.some
    | with_reducible apply State.KeepsPair.none
    | with_reducible apply State.KeepsPair.some
    | with_reducible apply State.KeepsOk.error
    | with_reducible apply State.KeepsOk.ok
    | with_reducible apply State.KeepsSome.map_state
    | with_reducible apply State.KeepsSome.map_pair
    | with_reducible apply State.KeepsSome.map
    | with_reducible apply State.KeepsPair.map_state
    | with_reducible apply State.KeepsPair.map_pair
    | with_reducible apply State.KeepsPair.map
    | with_reducible apply State.Keeps.foldl
    | with_reducible apply State.Keeps.foldl_fst
    | (with_reducible refine State.Keeps.some (by assumption) ?_)
    | (with_reducible refine State.Keeps.pair (by assumption) ?_)
    | (with_reducible refine State.Keeps.ok (by assumption) ?_)
    | (with_reducible refine State.Keeps.fst (by assumption) ?_)
    | (with_reducible refine State.Keeps.snd (by assumption) ?_)
    | with_reducible apply State.Keeps.ite
    | with_reducible apply State.KeepsSome.ite
    | with_reducible apply State.KeepsSome.or
    | intro _
    | simp only [↓State.keeps_mk]
    | simp only [↓State.keeps_mk_fuses]
    | split

theorem State.promptGoesOn_keeps {r : State} {a0 : State} {a1 : ℕ} {a2 : PendingHandoff} (h0 : r.Keeps a0) : r.Keeps (State.promptGoesOn a0 a1 a2) := by
  unfold State.promptGoesOn
  try dsimp only
  repeat' first
    | with_reducible assumption
    | with_reducible exact State.Keeps.refl _
    | with_reducible apply State.sendAwait_keeps
    | with_reducible apply State.sendSupply_keeps
    | with_reducible apply State.take_keeps
    | with_reducible apply State.KeepsNext.next
    | with_reducible apply State.KeepsSome.none
    | with_reducible apply State.KeepsSome.some
    | with_reducible apply State.KeepsPair.none
    | with_reducible apply State.KeepsPair.some
    | with_reducible apply State.KeepsOk.error
    | with_reducible apply State.KeepsOk.ok
    | with_reducible apply State.KeepsSome.map_state
    | with_reducible apply State.KeepsSome.map_pair
    | with_reducible apply State.KeepsSome.map
    | with_reducible apply State.KeepsPair.map_state
    | with_reducible apply State.KeepsPair.map_pair
    | with_reducible apply State.KeepsPair.map
    | with_reducible apply State.Keeps.foldl
    | with_reducible apply State.Keeps.foldl_fst
    | (with_reducible refine State.Keeps.some (by assumption) ?_)
    | (with_reducible refine State.Keeps.pair (by assumption) ?_)
    | (with_reducible refine State.Keeps.ok (by assumption) ?_)
    | (with_reducible refine State.Keeps.fst (by assumption) ?_)
    | (with_reducible refine State.Keeps.snd (by assumption) ?_)
    | with_reducible apply State.Keeps.ite
    | with_reducible apply State.KeepsSome.ite
    | with_reducible apply State.KeepsSome.or
    | intro _
    | simp only [↓State.keeps_mk]

theorem State.newHandoff_keeps {r : State} {a0 : State} (h0 : r.Keeps a0) : r.Keeps (State.newHandoff a0).2 := by
  unfold State.newHandoff
  repeat' first
    | with_reducible assumption
    | simp only [↓State.keeps_mk]

theorem State.sendAdmit_keeps {r : State} {a0 : State} {a1 : ℕ} (h0 : r.Keeps a0) : r.Keeps (State.sendAdmit a0 a1) := by
  unfold State.sendAdmit
  repeat' first
    | with_reducible assumption
    | with_reducible apply State.sendAwait_keeps
    | simp only [↓State.keeps_mk_fuses]
    | split

theorem State.startHandoff_keeps {r : State} {a0 : State} {a1 : ℕ} {a2 : U16} {a3 : U16} {a4 : PendingHandoff} (h0 : r.Keeps a0) : r.Keeps (State.startHandoff a0 a1 a2 a3 a4) := by
  unfold State.startHandoff
  repeat' first
    | with_reducible assumption
    | with_reducible apply State.newHandoff_keeps
    | with_reducible apply State.setRecord_keeps
    | with_reducible apply State.sendAdmit_keeps

theorem State.reprefill_keeps {r : State} {a0 : State} {a1 : ℕ} {a2 : Byte} {a3 : List U16} (h0 : r.Keeps a0) : r.Keeps (State.reprefill a0 a1 a2 a3) := by
  unfold State.reprefill
  try dsimp only
  repeat' first
    | with_reducible assumption
    | with_reducible apply State.endRequest_keeps
    | with_reducible apply State.setRecord_keeps
    | with_reducible apply State.startHandoff_keeps
    | with_reducible apply State.bump_keeps
    | split

theorem State.replicaRestore_keeps {r : State} {a0 : State} {a1 : ℕ} {a2 : Byte} {a3 : ReplicaEntry} {a4 : List U16} (h0 : r.Keeps a0) : r.Keeps (State.replicaRestore a0 a1 a2 a3 a4) := by
  unfold State.replicaRestore
  try dsimp only
  repeat' first
    | with_reducible assumption
    | with_reducible apply State.endRequest_keeps
    | with_reducible apply State.setRecord_keeps
    | with_reducible apply State.bump_keeps
    | with_reducible apply State.sendAwait_keeps
    | split

theorem State.admitElsewhere_keeps {r : State} {a0 : State} {a1 : ℕ} {a2 : PendingHandoff} {a3 : Byte} (h0 : r.Keeps a0) : r.Keeps (State.admitElsewhere a0 a1 a2 a3) := by
  unfold State.admitElsewhere
  try dsimp only
  repeat' first
    | with_reducible assumption
    | with_reducible apply State.endRequest_keeps
    | with_reducible apply State.startHandoff_keeps
    | split

theorem State.redirectTo_keeps {r : State} {a0 : State} {a1 : ℕ} {a2 : PendingHandoff} {a3 : Msg} {a4 : U16} (h0 : r.Keeps a0) : r.Keeps (State.redirectTo a0 a1 a2 a3 a4) := by
  unfold State.redirectTo
  repeat' first
    | with_reducible assumption
    | with_reducible apply State.newHandoff_keeps
    | with_reducible apply State.setRecord_keeps
    | with_reducible apply State.reply_keeps

theorem State.anchorRedirect_keeps {r : State} {a0 : State} {a1 : Msg} (h0 : r.Keeps a0) : r.Keeps (State.anchorRedirect a0 a1) := by
  unfold State.anchorRedirect
  try dsimp only
  repeat' first
    | with_reducible assumption
    | with_reducible apply State.reply_keeps
    | with_reducible apply State.endRequest_keeps
    | with_reducible apply State.askHost_keeps
    | with_reducible apply State.redirectTo_keeps
    | split

theorem State.replicaAnswered_keeps {r : State} {a0 : State} {a1 : Slot} {a2 : Byte} (h0 : r.Keeps a0) : r.Keeps (State.replicaAnswered a0 a1 a2) := by
  unfold State.replicaAnswered
  repeat' first
    | with_reducible assumption
    | with_reducible apply State.setRecord_keeps
    | split

theorem execTokenHoldExpiry_keeps {r : State} {a0 : Fin 65536} {a1 : State} (h1 : r.Keeps a1) : r.KeepsNext (execTokenHoldExpiry a0 a1) := by
  unfold execTokenHoldExpiry
  repeat' first
    | with_reducible assumption
    | with_reducible apply State.flushTokens_keeps
    | with_reducible apply State.KeepsNext.next
    | split

theorem State.endSurvivors_keeps {r : State} {a0 : State} {a1 : ℕ} {a2 : List U16} {a3 : Option U16} {a4 : Byte} (h0 : r.Keeps a0) : r.Keeps (State.endSurvivors a0 a1 a2 a3 a4) := by
  unfold State.endSurvivors
  repeat' first
    | with_reducible assumption
    | with_reducible apply State.sendEnd_keeps
    | with_reducible apply State.setRecord_keeps
    | with_reducible apply State.Keeps.foldl
    | intro _

theorem State.rangeLost_keeps {r : State} {a0 : State} {a1 : ℕ} {a2 : List U16} {a3 : List U16} {a4 : Byte} (h0 : r.Keeps a0) : r.Keeps (State.rangeLost a0 a1 a2 a3 a4) := by
  unfold State.rangeLost
  try dsimp only
  repeat' first
    | with_reducible assumption
    | with_reducible apply State.replicaRestore_keeps
    | with_reducible apply State.endSurvivors_keeps
    | with_reducible apply State.reprefill_keeps
    | split

theorem State.anchorReleased_keeps {r : State} {a0 : State} {a1 : Msg} (h0 : r.Keeps a0) : r.Keeps (State.anchorReleased a0 a1) := by
  unfold State.anchorReleased
  try dsimp only
  repeat' first
    | with_reducible assumption
    | with_reducible apply State.setRecord_keeps
    | with_reducible apply State.rangeLost_keeps
    | with_reducible apply State.endRequest_keeps
    | split

theorem execCancel_keeps {r : State} {a0 : WinRef} {a1 : State} (h1 : r.Keeps a1) : r.KeepsNext (execCancel a0 a1) := by
  unfold execCancel
  try dsimp only
  repeat' first
    | with_reducible assumption
    | with_reducible apply State.hostCmd_keeps
    | with_reducible apply State.complete_keeps
    | with_reducible apply State.endRequest_keeps
    | with_reducible apply State.KeepsNext.next
    | intro _
    | split

theorem State.anchorAbort_keeps {r : State} {a0 : State} {a1 : Msg} (h0 : r.Keeps a0) : r.Keeps (State.anchorAbort a0 a1) := by
  unfold State.anchorAbort
  try dsimp only
  repeat' first
    | with_reducible assumption
    | with_reducible apply State.reply_keeps
    | with_reducible apply State.rangeLost_keeps
    | with_reducible apply State.setRecord_keeps
    | split

theorem execDeadlineExpiry_keeps {r : State} {a0 : Fin 65536} {a1 : State} (h1 : r.Keeps a1) : r.KeepsNext (execDeadlineExpiry a0 a1) := by
  unfold execDeadlineExpiry
  try dsimp only
  repeat' first
    | with_reducible assumption
    | with_reducible apply State.endRequest_keeps
    | with_reducible apply State.KeepsNext.next
    | split

theorem State.admitRun_keeps {r : State} {a0 : State} {a1 : HostCmd} {a2 : ℕ} {a3 : Record} {a4 : List U32} (h0 : r.Keeps a0) : r.Keeps (State.admitRun a0 a1 a2 a3 a4) := by
  unfold State.admitRun
  try dsimp only
  repeat' first
    | with_reducible assumption
    | with_reducible apply State.tally_keeps
    | with_reducible apply State.chargeAdm_keeps
    | with_reducible apply State.setRecord_keeps
    | with_reducible apply State.startHandoff_keeps
    | with_reducible apply State.obsCount_keeps
    | split

theorem execAdmitCmd_keeps {r : State} {a0 : WinRef} {a1 : Record} {a2 : Bool} {a3 : List U32} {a4 : State} (h4 : r.Keeps a4) : r.KeepsNext (execAdmitCmd a0 a1 a2 a3 a4) := by
  unfold execAdmitCmd
  repeat' first
    | with_reducible assumption
    | with_reducible apply State.hostCmd_keeps
    | with_reducible apply State.complete_keeps
    | with_reducible apply State.admitRun_keeps
    | with_reducible apply State.KeepsNext.next
    | intro _
    | split

theorem State.anchorCovered_keeps {r : State} {a0 : State} {a1 : Msg} (h0 : r.Keeps a0) : r.Keeps (State.anchorCovered a0 a1) := by
  unfold State.anchorCovered
  try dsimp only
  repeat' first
    | with_reducible assumption
    | with_reducible apply State.reply_keeps
    | with_reducible apply State.setRecord_keeps
    | split

theorem State.anchorCommit_keeps {r : State} {a0 : State} {a1 : Msg} (h0 : r.Keeps a0) : r.Keeps (State.anchorCommit a0 a1) := by
  unfold State.anchorCommit
  try dsimp only
  repeat' first
    | with_reducible assumption
    | with_reducible apply State.count_keeps
    | with_reducible apply State.reply_keeps
    | with_reducible apply State.commitPending_keeps
    | split

theorem State.admitAnswered_keeps {r : State} {a0 : State} {a1 : Slot} {a2 : Byte} {a3 : Bool} (h0 : r.Keeps a0) : r.Keeps (State.admitAnswered a0 a1 a2 a3) := by
  unfold State.admitAnswered
  repeat' first
    | with_reducible assumption
    | with_reducible apply State.promptGoesOn_keeps
    | with_reducible apply State.admitElsewhere_keeps
    | with_reducible apply State.reprefill_keeps
    | with_reducible apply State.sendEnd_keeps
    | split

theorem State.anchorRegister_keeps {r : State} {a0 : State} {a1 : Msg} (h0 : r.Keeps a0) : r.Keeps (State.anchorRegister a0 a1) := by
  unfold State.anchorRegister
  have hr : ∀ st, r.Keeps (a0.reply a1 st) := fun st => State.reply_keeps h0
  split
  · exact hr _
  · rename_i i _
    have hs : ∀ p, r.Keeps ((a0.setRecord i p).reply a1 stOK) := fun p => State.reply_keeps (State.setRecord_keeps h0)
    extract_lets q kind a b x set
    have hset : ∀ p, r.Keeps (set p) := fun p => hs _
    clear_value set x kind b q
    refine .ite (hr _) (.ite (hr _) (.ite (hr _) (.ite (.ite (hset _) (hr _)) (.ite ?_ (hr _)))))
    split
    · exact .ite (hset _) (hr _)
    · split
      · exact .ite (hset _) (hr _)
      · exact hr _

theorem State.restoreAnswered_keeps {r : State} {a0 : State} {a1 : Slot} {a2 : Byte} (h0 : r.Keeps a0) : r.Keeps (State.restoreAnswered a0 a1 a2) := by
  unfold State.restoreAnswered
  try dsimp only
  repeat' first
    | with_reducible assumption
    | with_reducible apply State.replicaRestore_keeps
    | with_reducible apply State.reprefill_keeps
    | with_reducible apply State.endSurvivors_keeps
    | split

theorem State.tokenIn_keeps {r : State} {a0 : State} {a1 : ℕ} {a2 : ℕ} {a3 : U32} (h0 : r.Keeps a0) : r.Keeps (State.tokenIn a0 a1 a2 a3) := by
  unfold State.tokenIn
  try dsimp only
  repeat' first
    | with_reducible assumption
    | with_reducible exact State.Keeps.refl _
    | with_reducible apply State.deliver_keeps
    | with_reducible apply State.sendSupply_keeps
    | with_reducible apply State.localCommit_keeps
    | with_reducible apply State.KeepsNext.next
    | with_reducible apply State.KeepsSome.none
    | with_reducible apply State.KeepsSome.some
    | with_reducible apply State.KeepsPair.none
    | with_reducible apply State.KeepsPair.some
    | with_reducible apply State.KeepsOk.error
    | with_reducible apply State.KeepsOk.ok
    | with_reducible apply State.KeepsSome.map_state
    | with_reducible apply State.KeepsSome.map_pair
    | with_reducible apply State.KeepsSome.map
    | with_reducible apply State.KeepsPair.map_state
    | with_reducible apply State.KeepsPair.map_pair
    | with_reducible apply State.KeepsPair.map
    | with_reducible apply State.Keeps.foldl
    | with_reducible apply State.Keeps.foldl_fst
    | (with_reducible refine State.Keeps.some (by assumption) ?_)
    | (with_reducible refine State.Keeps.pair (by assumption) ?_)
    | (with_reducible refine State.Keeps.ok (by assumption) ?_)
    | (with_reducible refine State.Keeps.fst (by assumption) ?_)
    | (with_reducible refine State.Keeps.snd (by assumption) ?_)
    | with_reducible apply State.Keeps.ite

theorem execTokenArrival_keeps {r : State} {a0 : U64} {a1 : ℕ} {a2 : U32} {a3 : State} (h3 : r.Keeps a3) : r.KeepsNext (execTokenArrival a0 a1 a2 a3) := by
  unfold execTokenArrival
  try dsimp only
  repeat' first
    | with_reducible assumption
    | with_reducible exact State.Keeps.refl _
    | with_reducible apply State.tokenIn_keeps
    | with_reducible apply State.KeepsNext.next
    | with_reducible apply State.KeepsSome.none
    | with_reducible apply State.KeepsSome.some
    | with_reducible apply State.KeepsPair.none
    | with_reducible apply State.KeepsPair.some
    | with_reducible apply State.KeepsOk.error
    | with_reducible apply State.KeepsOk.ok
    | with_reducible apply State.KeepsSome.map_state
    | with_reducible apply State.KeepsSome.map_pair
    | with_reducible apply State.KeepsSome.map
    | with_reducible apply State.KeepsPair.map_state
    | with_reducible apply State.KeepsPair.map_pair
    | with_reducible apply State.KeepsPair.map
    | with_reducible apply State.Keeps.foldl
    | with_reducible apply State.Keeps.foldl_fst
    | (with_reducible refine State.Keeps.some (by assumption) ?_)
    | (with_reducible refine State.Keeps.pair (by assumption) ?_)
    | (with_reducible refine State.Keeps.ok (by assumption) ?_)
    | (with_reducible refine State.Keeps.fst (by assumption) ?_)
    | (with_reducible refine State.Keeps.snd (by assumption) ?_)
    | with_reducible apply State.Keeps.ite
    | with_reducible apply State.KeepsSome.ite
    | with_reducible apply State.KeepsSome.or
    | intro _
    | simp only [↓State.keeps_mk]
    | simp only [↓State.keeps_mk_fuses]
    | split

end Sys2Proof.Machine
end

