-- ==== Sys2Proof/Laws/KeepsEland.lean ====
section
/-! SUPPORT. Every operation of Machine/Eland.lean keeps the queue, the fuses and the canonical forms. -/

namespace Sys2Proof.Machine

theorem State.sampleRow_keeps {r : State} {a0 : State} {a1 : ElandOp} {a2 : SampleRow} {a3 : ℕ} {a4 : ℕ} (h0 : r.Keeps a0) : r.Keeps (State.sampleRow a0 a1 a2 a3 a4).1 := by
  unfold State.sampleRow
  try dsimp only
  repeat' first
    | with_reducible assumption
    | with_reducible exact State.Keeps.refl _
    | with_reducible apply State.putSample_keeps
    | with_reducible apply State.askHost_keeps
    | with_reducible apply State.KeepsNext.next
    | with_reducible apply State.KeepsSome.none
    | with_reducible apply State.KeepsSome.some
    | with_reducible apply State.KeepsPair.none
    | with_reducible apply State.KeepsPair.some
    | with_reducible apply State.KeepsOk.error
    | with_reducible apply State.KeepsOk.ok
    | with_reducible apply State.KeepsSome.map_state
    | with_reducible apply State.KeepsSome.map_pair
    | with_reducible apply State.KeepsSome.map
    | with_reducible apply State.KeepsPair.map_state
    | with_reducible apply State.KeepsPair.map_pair
    | with_reducible apply State.KeepsPair.map
    | with_reducible apply State.Keeps.foldl
    | with_reducible apply State.Keeps.foldl_fst
    | (with_reducible refine State.Keeps.some (by assumption) ?_)
    | (with_reducible refine State.Keeps.pair (by assumption) ?_)
    | (with_reducible refine State.Keeps.ok (by assumption) ?_)
    | (with_reducible refine State.Keeps.fst (by assumption) ?_)
    | (with_reducible refine State.Keeps.snd (by assumption) ?_)
    | with_reducible apply State.Keeps.ite
    | with_reducible apply State.KeepsSome.ite
    | with_reducible apply State.KeepsSome.or
    | intro _
    | simp only [↓State.keeps_mk]
    | simp only [↓State.keeps_mk_fuses]
    | split

theorem State.sampleRows_keeps {r : State} {a0 : State} {a1 : ElandOp} {a2 : ℕ} {a3 : ℕ} {a4 : List SampleRow} (h0 : r.Keeps a0) : r.Keeps (State.sampleRows a0 a1 a2 a3 a4).1 := by
  induction a4 generalizing a0 a1 a2 a3 with
  | nil =>
    unfold State.sampleRows
    try dsimp only
    repeat' first
      | with_reducible assumption
  | cons x xs ih =>
    unfold State.sampleRows
    try dsimp only
    repeat' first
      | with_reducible apply ih
      | with_reducible assumption
      | with_reducible exact State.Keeps.refl _
      | with_reducible apply State.sampleRow_keeps

theorem State.sampleDone_keeps {r : State} {a0 : State} {a1 : ElandOp} (h0 : r.Keeps a0) : r.Keeps (State.sampleDone a0 a1) := by
  unfold State.sampleDone
  try dsimp only
  repeat' first
    | with_reducible assumption
    | with_reducible exact State.Keeps.refl _
    | with_reducible apply State.sampleRows_keeps
    | with_reducible apply State.KeepsNext.next
    | with_reducible apply State.KeepsSome.none
    | with_reducible apply State.KeepsSome.some
    | with_reducible apply State.KeepsPair.none
    | with_reducible apply State.KeepsPair.some
    | with_reducible apply State.KeepsOk.error
    | with_reducible apply State.KeepsOk.ok
    | with_reducible apply State.KeepsSome.map_state
    | with_reducible apply State.KeepsSome.map_pair
    | with_reducible apply State.KeepsSome.map
    | with_reducible apply State.KeepsPair.map_state
    | with_reducible apply State.KeepsPair.map_pair
    | with_reducible apply State.KeepsPair.map
    | with_reducible apply State.Keeps.foldl
    | with_reducible apply State.Keeps.foldl_fst
    | (with_reducible refine State.Keeps.some (by assumption) ?_)
    | (with_reducible refine State.Keeps.pair (by assumption) ?_)
    | (with_reducible refine State.Keeps.ok (by assumption) ?_)
    | (with_reducible refine State.Keeps.fst (by assumption) ?_)
    | (with_reducible refine State.Keeps.snd (by assumption) ?_)
    | with_reducible apply State.Keeps.ite
    | with_reducible apply State.KeepsSome.ite
    | with_reducible apply State.KeepsSome.or
    | intro _
    | simp only [↓State.keeps_mk]
    | simp only [↓State.keeps_mk_fuses]
    | split

theorem State.setSa_keeps {r : State} {a0 : State} {a1 : ℕ} {a2 : Option RunTile} (h0 : r.Keeps a0) : r.Keeps (State.setSa a0 a1 a2) := by
  unfold State.setSa
  try dsimp only
  repeat' first
    | with_reducible assumption
    | with_reducible exact State.Keeps.refl _
    | with_reducible apply State.KeepsNext.next
    | with_reducible apply State.KeepsSome.none
    | with_reducible apply State.KeepsSome.some
    | with_reducible apply State.KeepsPair.none
    | with_reducible apply State.KeepsPair.some
    | with_reducible apply State.KeepsOk.error
    | with_reducible apply State.KeepsOk.ok
    | with_reducible apply State.KeepsSome.map_state
    | with_reducible apply State.KeepsSome.map_pair
    | with_reducible apply State.KeepsSome.map
    | with_reducible apply State.KeepsPair.map_state
    | with_reducible apply State.KeepsPair.map_pair
    | with_reducible apply State.KeepsPair.map
    | with_reducible apply State.Keeps.foldl
    | with_reducible apply State.Keeps.foldl_fst
    | (with_reducible refine State.Keeps.some (by assumption) ?_)
    | (with_reducible refine State.Keeps.pair (by assumption) ?_)
    | (with_reducible refine State.Keeps.ok (by assumption) ?_)
    | (with_reducible refine State.Keeps.fst (by assumption) ?_)
    | (with_reducible refine State.Keeps.snd (by assumption) ?_)
    | with_reducible apply State.Keeps.ite
    | with_reducible apply State.KeepsSome.ite
    | with_reducible apply State.KeepsSome.or
    | intro _
    | simp only [↓State.keeps_mk]

theorem State.setOp_keeps {r : State} {a0 : State} {a1 : ℕ} {a2 : ElandOp} (h0 : r.Keeps a0) : r.Keeps (State.setOp a0 a1 a2) := by
  unfold State.setOp
  repeat' first
    | with_reducible assumption
    | simp only [↓State.keeps_mk]

theorem State.startTile_keeps {r : State} {a0 : State} {a1 : ℕ} {a2 : ℕ × ℕ} {a3 : Bool} (h0 : r.Keeps a0) : r.Keeps (State.startTile a0 a1 a2 a3) := by
  unfold State.startTile
  try dsimp only
  repeat' first
    | with_reducible assumption
    | with_reducible exact State.Keeps.refl _
    | with_reducible apply State.setSa_keeps
    | with_reducible apply State.setOp_keeps
    | with_reducible apply State.count_keeps
    | with_reducible apply State.KeepsNext.next
    | with_reducible apply State.KeepsSome.none
    | with_reducible apply State.KeepsSome.some
    | with_reducible apply State.KeepsPair.none
    | with_reducible apply State.KeepsPair.some
    | with_reducible apply State.KeepsOk.error
    | with_reducible apply State.KeepsOk.ok
    | with_reducible apply State.KeepsSome.map_state
    | with_reducible apply State.KeepsSome.map_pair
    | with_reducible apply State.KeepsSome.map
    | with_reducible apply State.KeepsPair.map_state
    | with_reducible apply State.KeepsPair.map_pair
    | with_reducible apply State.KeepsPair.map
    | with_reducible apply State.Keeps.foldl
    | with_reducible apply State.Keeps.foldl_fst
    | (with_reducible refine State.Keeps.some (by assumption) ?_)
    | (with_reducible refine State.Keeps.pair (by assumption) ?_)
    | (with_reducible refine State.Keeps.ok (by assumption) ?_)
    | (with_reducible refine State.Keeps.fst (by assumption) ?_)
    | (with_reducible refine State.Keeps.snd (by assumption) ?_)
    | with_reducible apply State.Keeps.ite
    | with_reducible apply State.KeepsSome.ite
    | with_reducible apply State.KeepsSome.or
    | intro _
    | simp only [↓State.keeps_mk]
    | simp only [↓State.keeps_mk_fuses]
    | split

theorem State.feed_keeps {r : State} {a0 : State} {a1 : ℕ} (h0 : r.Keeps a0) : r.Keeps (State.feed a0 a1) := by
  unfold State.feed
  try dsimp only
  repeat' first
    | with_reducible assumption
    | with_reducible exact State.Keeps.refl _
    | with_reducible apply State.startTile_keeps
    | with_reducible apply State.KeepsNext.next
    | with_reducible apply State.KeepsSome.none
    | with_reducible apply State.KeepsSome.some
    | with_reducible apply State.KeepsPair.none
    | with_reducible apply State.KeepsPair.some
    | with_reducible apply State.KeepsOk.error
    | with_reducible apply State.KeepsOk.ok
    | with_reducible apply State.KeepsSome.map_state
    | with_reducible apply State.KeepsSome.map_pair
    | with_reducible apply State.KeepsSome.map
    | with_reducible apply State.KeepsPair.map_state
    | with_reducible apply State.KeepsPair.map_pair
    | with_reducible apply State.KeepsPair.map
    | with_reducible apply State.Keeps.foldl
    | with_reducible apply State.Keeps.foldl_fst
    | (with_reducible refine State.Keeps.some (by assumption) ?_)
    | (with_reducible refine State.Keeps.pair (by assumption) ?_)
    | (with_reducible refine State.Keeps.ok (by assumption) ?_)
    | (with_reducible refine State.Keeps.fst (by assumption) ?_)
    | (with_reducible refine State.Keeps.snd (by assumption) ?_)
    | with_reducible apply State.Keeps.ite
    | with_reducible apply State.KeepsSome.ite
    | with_reducible apply State.KeepsSome.or
    | intro _
    | simp only [↓State.keeps_mk]
    | simp only [↓State.keeps_mk_fuses]
    | split

theorem State.issueTiles_keeps {r : State} {a0 : State} (h0 : r.Keeps a0) : r.Keeps (State.issueTiles a0) := by
  unfold State.issueTiles
  try dsimp only
  repeat' first
    | with_reducible assumption
    | with_reducible exact State.Keeps.refl _
    | with_reducible apply State.feed_keeps
    | with_reducible apply State.KeepsNext.next
    | with_reducible apply State.KeepsSome.none
    | with_reducible apply State.KeepsSome.some
    | with_reducible apply State.KeepsPair.none
    | with_reducible apply State.KeepsPair.some
    | with_reducible apply State.KeepsOk.error
    | with_reducible apply State.KeepsOk.ok
    | with_reducible apply State.KeepsSome.map_state
    | with_reducible apply State.KeepsSome.map_pair
    | with_reducible apply State.KeepsSome.map
    | with_reducible apply State.KeepsPair.map_state
    | with_reducible apply State.KeepsPair.map_pair
    | with_reducible apply State.KeepsPair.map
    | with_reducible apply State.Keeps.foldl

theorem State.refuseOp_keeps {r : State} {a0 : State} {a1 : ℕ} {a2 : ElandOp} {a3 : Byte} (h0 : r.Keeps a0) : r.Keeps (State.refuseOp a0 a1 a2 a3) := by
  unfold State.refuseOp
  try dsimp only
  repeat' first
    | with_reducible assumption
    | with_reducible exact State.Keeps.refl _
    | with_reducible apply State.setOp_keeps

theorem State.beginOp_keeps {r : State} {a0 : State} {a1 : ℕ} {a2 : ElandOp} (h0 : r.Keeps a0) : r.Keeps (State.beginOp a0 a1 a2) := by
  unfold State.beginOp
  try dsimp only
  repeat' first
    | with_reducible assumption
    | with_reducible exact State.Keeps.refl _
    | with_reducible apply State.refuseOp_keeps
    | with_reducible apply State.raise_keeps
    | with_reducible apply State.drawn_keeps
    | with_reducible apply State.setOp_keeps
    | with_reducible apply State.begun_keeps
    | with_reducible apply State.KeepsNext.next
    | with_reducible apply State.KeepsSome.none
    | with_reducible apply State.KeepsSome.some
    | with_reducible apply State.KeepsPair.none
    | with_reducible apply State.KeepsPair.some
    | with_reducible apply State.KeepsOk.error
    | with_reducible apply State.KeepsOk.ok
    | with_reducible apply State.KeepsSome.map_state
    | with_reducible apply State.KeepsSome.map_pair
    | with_reducible apply State.KeepsSome.map
    | with_reducible apply State.KeepsPair.map_state
    | with_reducible apply State.KeepsPair.map_pair
    | with_reducible apply State.KeepsPair.map
    | with_reducible apply State.Keeps.foldl
    | with_reducible apply State.Keeps.foldl_fst
    | (with_reducible refine State.Keeps.some (by assumption) ?_)
    | (with_reducible refine State.Keeps.pair (by assumption) ?_)
    | (with_reducible refine State.Keeps.ok (by assumption) ?_)
    | (with_reducible refine State.Keeps.fst (by assumption) ?_)
    | (with_reducible refine State.Keeps.snd (by assumption) ?_)
    | with_reducible apply State.Keeps.ite
    | with_reducible apply State.KeepsSome.ite
    | with_reducible apply State.KeepsSome.or
    | intro _
    | simp only [↓State.keeps_mk]
    | simp only [↓State.keeps_mk_fuses]
    | split

theorem State.unitsDone_keeps {r : State} {a0 : State} {a1 : ElandOp} {a2 : Bool} (h0 : r.Keeps a0) : r.Keeps (State.unitsDone a0 a1 a2) := by
  unfold State.unitsDone
  try dsimp only
  repeat' first
    | with_reducible assumption
    | with_reducible exact State.Keeps.refl _
    | with_reducible apply State.partialIn_keeps
    | with_reducible apply State.KeepsNext.next
    | with_reducible apply State.KeepsSome.none
    | with_reducible apply State.KeepsSome.some
    | with_reducible apply State.KeepsPair.none
    | with_reducible apply State.KeepsPair.some
    | with_reducible apply State.KeepsOk.error
    | with_reducible apply State.KeepsOk.ok
    | with_reducible apply State.KeepsSome.map_state
    | with_reducible apply State.KeepsSome.map_pair
    | with_reducible apply State.KeepsSome.map
    | with_reducible apply State.KeepsPair.map_state
    | with_reducible apply State.KeepsPair.map_pair
    | with_reducible apply State.KeepsPair.map
    | with_reducible apply State.Keeps.foldl
    | with_reducible apply State.Keeps.foldl_fst
    | (with_reducible refine State.Keeps.some (by assumption) ?_)
    | (with_reducible refine State.Keeps.pair (by assumption) ?_)
    | (with_reducible refine State.Keeps.ok (by assumption) ?_)
    | (with_reducible refine State.Keeps.fst (by assumption) ?_)
    | (with_reducible refine State.Keeps.snd (by assumption) ?_)
    | with_reducible apply State.Keeps.ite
    | with_reducible apply State.KeepsSome.ite
    | with_reducible apply State.KeepsSome.or
    | intro _

theorem State.packEntry_keeps {r : State} {a0 : State × ℕ × ℕ} {a1 : ElandOp} {a2 : ℕ} (h0 : r.Keeps a0.1) : r.Keeps (State.packEntry a0 a1 a2).1 := by
  unfold State.packEntry
  try dsimp only
  repeat' first
    | with_reducible assumption
    | with_reducible exact State.Keeps.refl _
    | with_reducible apply State.packRow_keeps
    | with_reducible apply State.filledTo_keeps
    | with_reducible apply State.sealSlot_keeps
    | with_reducible apply State.holderGoesOn_keeps
    | with_reducible apply State.setTransfer_keeps
    | with_reducible apply State.count_keeps
    | with_reducible apply State.KeepsNext.next
    | with_reducible apply State.KeepsSome.none
    | with_reducible apply State.KeepsSome.some
    | with_reducible apply State.KeepsPair.none
    | with_reducible apply State.KeepsPair.some
    | with_reducible apply State.KeepsOk.error
    | with_reducible apply State.KeepsOk.ok
    | with_reducible apply State.KeepsSome.map_state
    | with_reducible apply State.KeepsSome.map_pair
    | with_reducible apply State.KeepsSome.map
    | with_reducible apply State.KeepsPair.map_state
    | with_reducible apply State.KeepsPair.map_pair
    | with_reducible apply State.KeepsPair.map
    | with_reducible apply State.Keeps.foldl
    | with_reducible apply State.Keeps.foldl_fst
    | (with_reducible refine State.Keeps.some (by assumption) ?_)
    | (with_reducible refine State.Keeps.pair (by assumption) ?_)
    | (with_reducible refine State.Keeps.ok (by assumption) ?_)
    | (with_reducible refine State.Keeps.fst (by assumption) ?_)
    | (with_reducible refine State.Keeps.snd (by assumption) ?_)
    | with_reducible apply State.Keeps.ite
    | with_reducible apply State.KeepsSome.ite
    | with_reducible apply State.KeepsSome.or
    | intro _
    | simp only [↓State.keeps_mk]
    | simp only [↓State.keeps_mk_fuses]
    | split

theorem State.attnDone_keeps {r : State} {a0 : State} {a1 : ElandOp} {a2 : Bool} {a3 : ℕ} (h0 : r.Keeps a0) : r.Keeps (State.attnDone a0 a1 a2 a3) := by
  unfold State.attnDone
  try dsimp only
  repeat' first
    | with_reducible assumption
    | with_reducible exact State.Keeps.refl _
    | with_reducible apply State.elandPart_keeps
    | with_reducible apply State.KeepsNext.next
    | with_reducible apply State.KeepsSome.none
    | with_reducible apply State.KeepsSome.some
    | with_reducible apply State.KeepsPair.none
    | with_reducible apply State.KeepsPair.some
    | with_reducible apply State.KeepsOk.error
    | with_reducible apply State.KeepsOk.ok
    | with_reducible apply State.KeepsSome.map_state
    | with_reducible apply State.KeepsSome.map_pair
    | with_reducible apply State.KeepsSome.map
    | with_reducible apply State.KeepsPair.map_state
    | with_reducible apply State.KeepsPair.map_pair
    | with_reducible apply State.KeepsPair.map
    | with_reducible apply State.Keeps.foldl
    | with_reducible apply State.Keeps.foldl_fst
    | (with_reducible refine State.Keeps.some (by assumption) ?_)
    | (with_reducible refine State.Keeps.pair (by assumption) ?_)
    | (with_reducible refine State.Keeps.ok (by assumption) ?_)
    | (with_reducible refine State.Keeps.fst (by assumption) ?_)
    | (with_reducible refine State.Keeps.snd (by assumption) ?_)
    | with_reducible apply State.Keeps.ite
    | with_reducible apply State.KeepsSome.ite
    | with_reducible apply State.KeepsSome.or
    | intro _
    | simp only [↓State.keeps_mk]
    | simp only [↓State.keeps_mk_fuses]
    | split

theorem State.sampleLost_keeps {r : State} {a0 : State} {a1 : ElandOp} (h0 : r.Keeps a0) : r.Keeps (State.sampleLost a0 a1) := by
  unfold State.sampleLost
  try dsimp only
  repeat' first
    | with_reducible assumption
    | with_reducible exact State.Keeps.refl _
    | with_reducible apply State.KeepsNext.next
    | with_reducible apply State.KeepsSome.none
    | with_reducible apply State.KeepsSome.some
    | with_reducible apply State.KeepsPair.none
    | with_reducible apply State.KeepsPair.some
    | with_reducible apply State.KeepsOk.error
    | with_reducible apply State.KeepsOk.ok
    | with_reducible apply State.KeepsSome.map_state
    | with_reducible apply State.KeepsSome.map_pair
    | with_reducible apply State.KeepsSome.map
    | with_reducible apply State.KeepsPair.map_state
    | with_reducible apply State.KeepsPair.map_pair
    | with_reducible apply State.KeepsPair.map
    | with_reducible apply State.Keeps.foldl
    | with_reducible apply State.Keeps.foldl_fst
    | (with_reducible refine State.Keeps.some (by assumption) ?_)
    | (with_reducible refine State.Keeps.pair (by assumption) ?_)
    | (with_reducible refine State.Keeps.ok (by assumption) ?_)
    | (with_reducible refine State.Keeps.fst (by assumption) ?_)
    | (with_reducible refine State.Keeps.snd (by assumption) ?_)
    | with_reducible apply State.Keeps.ite
    | with_reducible apply State.KeepsSome.ite
    | with_reducible apply State.KeepsSome.or
    | intro _
    | simp only [↓State.keeps_mk]

theorem State.samplePlain_keeps {r : State} {a0 : State} {a1 : ElandOp} (h0 : r.Keeps a0) : r.Keeps (State.samplePlain a0 a1) := by
  unfold State.samplePlain
  try dsimp only
  repeat' first
    | with_reducible assumption
    | with_reducible exact State.Keeps.refl _
    | with_reducible apply State.putSample_keeps
    | with_reducible apply State.KeepsNext.next
    | with_reducible apply State.KeepsSome.none
    | with_reducible apply State.KeepsSome.some
    | with_reducible apply State.KeepsPair.none
    | with_reducible apply State.KeepsPair.some
    | with_reducible apply State.KeepsOk.error
    | with_reducible apply State.KeepsOk.ok
    | with_reducible apply State.KeepsSome.map_state
    | with_reducible apply State.KeepsSome.map_pair
    | with_reducible apply State.KeepsSome.map
    | with_reducible apply State.KeepsPair.map_state
    | with_reducible apply State.KeepsPair.map_pair
    | with_reducible apply State.KeepsPair.map
    | with_reducible apply State.Keeps.foldl
    | with_reducible apply State.Keeps.foldl_fst
    | (with_reducible refine State.Keeps.some (by assumption) ?_)
    | (with_reducible refine State.Keeps.pair (by assumption) ?_)
    | (with_reducible refine State.Keeps.ok (by assumption) ?_)
    | (with_reducible refine State.Keeps.fst (by assumption) ?_)
    | (with_reducible refine State.Keeps.snd (by assumption) ?_)
    | with_reducible apply State.Keeps.ite
    | with_reducible apply State.KeepsSome.ite
    | with_reducible apply State.KeepsSome.or
    | intro _

theorem State.opEffect_keeps {r : State} {a0 : State} {a1 : ElandOp} (h0 : r.Keeps a0) : r.Keeps (State.opEffect a0 a1).1 := by
  unfold State.opEffect
  try dsimp only
  repeat' first
    | with_reducible assumption
    | with_reducible exact State.Keeps.refl _
    | with_reducible apply State.poisonWork_keeps
    | with_reducible apply State.unitsDone_keeps
    | with_reducible apply State.packEntry_keeps
    | with_reducible apply State.backwardDone_keeps
    | with_reducible apply State.attnDone_keeps
    | with_reducible apply State.sampleDone_keeps
    | with_reducible apply State.sampleLost_keeps
    | with_reducible apply State.samplePlain_keeps
    | with_reducible apply State.KeepsNext.next
    | with_reducible apply State.KeepsSome.none
    | with_reducible apply State.KeepsSome.some
    | with_reducible apply State.KeepsPair.none
    | with_reducible apply State.KeepsPair.some
    | with_reducible apply State.KeepsOk.error
    | with_reducible apply State.KeepsOk.ok
    | with_reducible apply State.KeepsSome.map_state
    | with_reducible apply State.KeepsSome.map_pair
    | with_reducible apply State.KeepsSome.map
    | with_reducible apply State.KeepsPair.map_state
    | with_reducible apply State.KeepsPair.map_pair
    | with_reducible apply State.KeepsPair.map
    | with_reducible apply State.Keeps.foldl
    | with_reducible apply State.Keeps.foldl_fst
    | (with_reducible refine State.Keeps.some (by assumption) ?_)
    | (with_reducible refine State.Keeps.pair (by assumption) ?_)
    | (with_reducible refine State.Keeps.ok (by assumption) ?_)
    | (with_reducible refine State.Keeps.fst (by assumption) ?_)
    | (with_reducible refine State.Keeps.snd (by assumption) ?_)
    | with_reducible apply State.Keeps.ite
    | with_reducible apply State.KeepsSome.ite
    | with_reducible apply State.KeepsSome.or
    | intro _
    | simp only [↓State.keeps_mk]
    | simp only [↓State.keeps_mk_fuses]
    | split

theorem State.noteDepth_keeps {r : State} {a0 : State} (h0 : r.Keeps a0) : r.Keeps (State.noteDepth a0) := by
  unfold State.noteDepth
  try dsimp only
  repeat' first
    | with_reducible assumption
    | with_reducible exact State.Keeps.refl _
    | with_reducible apply State.wr_keeps
    | with_reducible apply State.KeepsNext.next
    | with_reducible apply State.KeepsSome.none
    | with_reducible apply State.KeepsSome.some
    | with_reducible apply State.KeepsPair.none
    | with_reducible apply State.KeepsPair.some
    | with_reducible apply State.KeepsOk.error
    | with_reducible apply State.KeepsOk.ok
    | with_reducible apply State.KeepsSome.map_state
    | with_reducible apply State.KeepsSome.map_pair
    | with_reducible apply State.KeepsSome.map
    | with_reducible apply State.KeepsPair.map_state
    | with_reducible apply State.KeepsPair.map_pair
    | with_reducible apply State.KeepsPair.map
    | with_reducible apply State.Keeps.foldl
    | with_reducible apply State.Keeps.foldl_fst
    | (with_reducible refine State.Keeps.some (by assumption) ?_)
    | (with_reducible refine State.Keeps.pair (by assumption) ?_)
    | (with_reducible refine State.Keeps.ok (by assumption) ?_)
    | (with_reducible refine State.Keeps.fst (by assumption) ?_)
    | (with_reducible refine State.Keeps.snd (by assumption) ?_)
    | with_reducible apply State.Keeps.ite

theorem State.elandReport_keeps {r : State} {a0 : State} {a1 : ElandOp} (h0 : r.Keeps a0) : r.Keeps (State.elandReport a0 a1) := by
  unfold State.elandReport
  try dsimp only
  repeat' first
    | with_reducible assumption
    | with_reducible exact State.Keeps.refl _
    | with_reducible apply State.opEffect_keeps
    | with_reducible apply State.count64_keeps
    | with_reducible apply State.noteDepth_keeps
    | with_reducible apply State.setFlag_keeps
    | with_reducible apply State.offer_keeps
    | with_reducible apply State.opDone_keeps
    | with_reducible apply State.take_keeps
    | with_reducible apply State.KeepsNext.next
    | with_reducible apply State.KeepsSome.none
    | with_reducible apply State.KeepsSome.some
    | with_reducible apply State.KeepsPair.none
    | with_reducible apply State.KeepsPair.some
    | with_reducible apply State.KeepsOk.error
    | with_reducible apply State.KeepsOk.ok
    | with_reducible apply State.KeepsSome.map_state
    | with_reducible apply State.KeepsSome.map_pair
    | with_reducible apply State.KeepsSome.map
    | with_reducible apply State.KeepsPair.map_state
    | with_reducible apply State.KeepsPair.map_pair
    | with_reducible apply State.KeepsPair.map
    | with_reducible apply State.Keeps.foldl
    | with_reducible apply State.Keeps.foldl_fst
    | (with_reducible refine State.Keeps.some (by assumption) ?_)
    | (with_reducible refine State.Keeps.pair (by assumption) ?_)
    | (with_reducible refine State.Keeps.ok (by assumption) ?_)
    | (with_reducible refine State.Keeps.fst (by assumption) ?_)
    | (with_reducible refine State.Keeps.snd (by assumption) ?_)
    | with_reducible apply State.Keeps.ite
    | with_reducible apply State.KeepsSome.ite
    | with_reducible apply State.KeepsSome.or
    | intro _
    | simp only [↓State.keeps_mk]
    | simp only [↓State.keeps_mk_fuses]
    | split

theorem State.elandSettle_keeps {r : State} {a0 : ℕ} {a1 : State} (h1 : r.Keeps a1) : r.Keeps (State.elandSettle a0 a1) := by
  induction a0 generalizing a1 with
  | zero =>
    unfold State.elandSettle
    try dsimp only
    repeat' first
      | with_reducible assumption
  | succ n ih =>
    unfold State.elandSettle
    try dsimp only
    repeat' first
      | with_reducible apply ih
      | with_reducible assumption
      | with_reducible exact State.Keeps.refl _
      | with_reducible apply State.begun_keeps
      | with_reducible apply State.beginOp_keeps
      | with_reducible apply State.elandReport_keeps
      | with_reducible apply State.KeepsNext.next
      | with_reducible apply State.KeepsSome.none
      | with_reducible apply State.KeepsSome.some
      | with_reducible apply State.KeepsPair.none
      | with_reducible apply State.KeepsPair.some
      | with_reducible apply State.KeepsOk.error
      | with_reducible apply State.KeepsOk.ok
      | with_reducible apply State.KeepsSome.map_state
      | with_reducible apply State.KeepsSome.map_pair
      | with_reducible apply State.KeepsSome.map
      | with_reducible apply State.KeepsPair.map_state
      | with_reducible apply State.KeepsPair.map_pair
      | with_reducible apply State.KeepsPair.map
      | with_reducible apply State.Keeps.foldl
      | with_reducible apply State.Keeps.foldl_fst
      | (with_reducible refine State.Keeps.some (by assumption) ?_)
      | (with_reducible refine State.Keeps.pair (by assumption) ?_)
      | (with_reducible refine State.Keeps.ok (by assumption) ?_)
      | (with_reducible refine State.Keeps.fst (by assumption) ?_)
      | (with_reducible refine State.Keeps.snd (by assumption) ?_)
      | with_reducible apply State.Keeps.ite
      | with_reducible apply State.KeepsSome.ite
      | with_reducible apply State.KeepsSome.or
      | intro _
      | simp only [↓State.keeps_mk]
      | simp only [↓State.keeps_mk_fuses]
      | split

theorem State.elandGoesOn_keeps {r : State} {a0 : State} (h0 : r.Keeps a0) : r.Keeps (State.elandGoesOn a0) := by
  unfold State.elandGoesOn
  try dsimp only
  repeat' first
    | with_reducible assumption
    | with_reducible exact State.Keeps.refl _
    | with_reducible apply State.issueTiles_keeps
    | with_reducible apply State.elandSettle_keeps

theorem State.beginKind_keeps {r : State} {a0 : State} {a1 : ElandKind} (h0 : r.Keeps a0) : r.Keeps (State.beginKind a0 a1) := by
  unfold State.beginKind
  repeat' first
    | with_reducible assumption
    | with_reducible apply State.elandGoesOn_keeps
    | with_reducible apply State.beginOp_keeps
    | split

theorem execAttnBwd_keeps {r : State} {a0 : State} (h0 : r.Keeps a0) : r.KeepsNext (execAttnBwd a0) := by
  unfold execAttnBwd
  repeat' first
    | with_reducible assumption
    | with_reducible apply State.beginKind_keeps
    | with_reducible apply State.KeepsNext.next

theorem execAttnFwd_keeps {r : State} {a0 : State} (h0 : r.Keeps a0) : r.KeepsNext (execAttnFwd a0) := by
  unfold execAttnFwd
  repeat' first
    | with_reducible assumption
    | with_reducible apply State.beginKind_keeps
    | with_reducible apply State.KeepsNext.next

theorem execKvPack_keeps {r : State} {a0 : State} (h0 : r.Keeps a0) : r.KeepsNext (execKvPack a0) := by
  unfold execKvPack
  repeat' first
    | with_reducible assumption
    | with_reducible apply State.beginKind_keeps
    | with_reducible apply State.KeepsNext.next

theorem State.commitTile_keeps {r : State} {a0 : State} {a1 : ElandOp} {a2 : TilePlace} {a3 : TileRun} {a4 : Bool} (h0 : r.Keeps a0) : r.Keeps (State.commitTile a0 a1 a2 a3 a4).1 := by
  unfold State.commitTile
  try dsimp only
  repeat' first
    | with_reducible assumption
    | with_reducible exact State.Keeps.refl _
    | with_reducible apply State.commitMatrix_keeps
    | with_reducible apply State.commitAttn_keeps
    | with_reducible apply State.commitTable_keeps
    | with_reducible apply State.KeepsNext.next
    | with_reducible apply State.KeepsSome.none
    | with_reducible apply State.KeepsSome.some
    | with_reducible apply State.KeepsPair.none
    | with_reducible apply State.KeepsPair.some
    | with_reducible apply State.KeepsOk.error
    | with_reducible apply State.KeepsOk.ok
    | with_reducible apply State.KeepsSome.map_state
    | with_reducible apply State.KeepsSome.map_pair
    | with_reducible apply State.KeepsSome.map
    | with_reducible apply State.KeepsPair.map_state
    | with_reducible apply State.KeepsPair.map_pair
    | with_reducible apply State.KeepsPair.map
    | with_reducible apply State.Keeps.foldl
    | with_reducible apply State.Keeps.foldl_fst
    | (with_reducible refine State.Keeps.some (by assumption) ?_)
    | (with_reducible refine State.Keeps.pair (by assumption) ?_)
    | (with_reducible refine State.Keeps.ok (by assumption) ?_)
    | (with_reducible refine State.Keeps.fst (by assumption) ?_)
    | (with_reducible refine State.Keeps.snd (by assumption) ?_)
    | with_reducible apply State.Keeps.ite
    | with_reducible apply State.KeepsSome.ite
    | with_reducible apply State.KeepsSome.or
    | intro _
    | simp only [↓State.keeps_mk]
    | simp only [↓State.keeps_mk_fuses]
    | split

theorem State.abftFault_keeps {r : State} {a0 : State} {a1 : ℕ} {a2 : ElandOp} {a3 : ℕ} {a4 : Severity} {a5 : U16} {a6 : Bool} (h0 : r.Keeps a0) : r.Keeps (State.abftFault a0 a1 a2 a3 a4 a5 a6) := by
  unfold State.abftFault
  repeat' first
    | with_reducible assumption
    | with_reducible apply State.raise_keeps

theorem State.giveBack_keeps {r : State} {a0 : State} {a1 : ℕ} (h0 : r.Keeps a0) : r.Keeps (State.giveBack a0 a1) := by
  unfold State.giveBack
  try dsimp only
  repeat' first
    | with_reducible assumption
    | with_reducible exact State.Keeps.refl _
    | with_reducible apply State.setSa_keeps
    | with_reducible apply State.KeepsNext.next
    | with_reducible apply State.KeepsSome.none
    | with_reducible apply State.KeepsSome.some
    | with_reducible apply State.KeepsPair.none
    | with_reducible apply State.KeepsPair.some
    | with_reducible apply State.KeepsOk.error
    | with_reducible apply State.KeepsOk.ok
    | with_reducible apply State.KeepsSome.map_state
    | with_reducible apply State.KeepsSome.map_pair
    | with_reducible apply State.KeepsSome.map
    | with_reducible apply State.KeepsPair.map_state
    | with_reducible apply State.KeepsPair.map_pair
    | with_reducible apply State.KeepsPair.map
    | with_reducible apply State.Keeps.foldl
    | with_reducible apply State.Keeps.foldl_fst
    | (with_reducible refine State.Keeps.some (by assumption) ?_)
    | (with_reducible refine State.Keeps.pair (by assumption) ?_)
    | (with_reducible refine State.Keeps.ok (by assumption) ?_)
    | (with_reducible refine State.Keeps.fst (by assumption) ?_)
    | (with_reducible refine State.Keeps.snd (by assumption) ?_)
    | with_reducible apply State.Keeps.ite
    | with_reducible apply State.KeepsSome.ite
    | with_reducible apply State.KeepsSome.or
    | intro _
    | simp only [↓State.keeps_mk]
    | simp only [↓State.keeps_mk_fuses]
    | split

theorem State.fenceOps_keeps {r : State} {a0 : ℕ} {a1 : State} (h1 : r.Keeps a1) : r.Keeps (State.fenceOps a0 a1) := by
  induction a0 generalizing a1 with
  | zero =>
    unfold State.fenceOps
    try dsimp only
    repeat' first
      | with_reducible assumption
  | succ n ih =>
    unfold State.fenceOps
    try dsimp only
    repeat' first
      | with_reducible apply ih
      | with_reducible assumption
      | with_reducible exact State.Keeps.refl _
      | with_reducible apply State.elandReport_keeps
      | with_reducible apply State.KeepsNext.next
      | with_reducible apply State.KeepsSome.none
      | with_reducible apply State.KeepsSome.some
      | with_reducible apply State.KeepsPair.none
      | with_reducible apply State.KeepsPair.some
      | with_reducible apply State.KeepsOk.error
      | with_reducible apply State.KeepsOk.ok
      | with_reducible apply State.KeepsSome.map_state
      | with_reducible apply State.KeepsSome.map_pair
      | with_reducible apply State.KeepsSome.map
      | with_reducible apply State.KeepsPair.map_state
      | with_reducible apply State.KeepsPair.map_pair
      | with_reducible apply State.KeepsPair.map
      | with_reducible apply State.Keeps.foldl
      | with_reducible apply State.Keeps.foldl_fst
      | (with_reducible refine State.Keeps.some (by assumption) ?_)
      | (with_reducible refine State.Keeps.pair (by assumption) ?_)
      | (with_reducible refine State.Keeps.ok (by assumption) ?_)
      | (with_reducible refine State.Keeps.fst (by assumption) ?_)
      | (with_reducible refine State.Keeps.snd (by assumption) ?_)
      | with_reducible apply State.Keeps.ite
      | with_reducible apply State.KeepsSome.ite
      | with_reducible apply State.KeepsSome.or
      | intro _
      | simp only [↓State.keeps_mk]
      | simp only [↓State.keeps_mk_fuses]
      | split

theorem State.fenceSa_keeps {r : State} {a0 : State} {a1 : ℕ} (h0 : r.Keeps a0) : r.Keeps (State.fenceSa a0 a1) := by
  unfold State.fenceSa
  try dsimp only
  repeat' first
    | with_reducible assumption
    | with_reducible exact State.Keeps.refl _
    | with_reducible apply State.lifeRecord_keeps
    | with_reducible apply State.drawn_keeps
    | with_reducible apply State.giveBack_keeps
    | with_reducible apply State.fatal_keeps
    | with_reducible apply State.fenceOps_keeps
    | with_reducible apply State.KeepsNext.next
    | with_reducible apply State.KeepsSome.none
    | with_reducible apply State.KeepsSome.some
    | with_reducible apply State.KeepsPair.none
    | with_reducible apply State.KeepsPair.some
    | with_reducible apply State.KeepsOk.error
    | with_reducible apply State.KeepsOk.ok
    | with_reducible apply State.KeepsSome.map_state
    | with_reducible apply State.KeepsSome.map_pair
    | with_reducible apply State.KeepsSome.map
    | with_reducible apply State.KeepsPair.map_state
    | with_reducible apply State.KeepsPair.map_pair
    | with_reducible apply State.KeepsPair.map
    | with_reducible apply State.Keeps.foldl
    | with_reducible apply State.Keeps.foldl_fst
    | (with_reducible refine State.Keeps.some (by assumption) ?_)
    | (with_reducible refine State.Keeps.pair (by assumption) ?_)
    | (with_reducible refine State.Keeps.ok (by assumption) ?_)
    | (with_reducible refine State.Keeps.fst (by assumption) ?_)
    | (with_reducible refine State.Keeps.snd (by assumption) ?_)
    | with_reducible apply State.Keeps.ite
    | with_reducible apply State.KeepsSome.ite
    | with_reducible apply State.KeepsSome.or
    | intro _
    | simp only [↓State.keeps_mk]

theorem State.tileDone_keeps {r : State} {a0 : State} {a1 : ℕ} {a2 : ElandOp} {a3 : ℕ} {a4 : ℕ} {a5 : TileRun} {a6 : Bool} (h0 : r.Keeps a0) : r.Keeps (State.tileDone a0 a1 a2 a3 a4 a5 a6) := by
  unfold State.tileDone
  try dsimp only
  repeat' first
    | with_reducible assumption
    | with_reducible exact State.Keeps.refl _
    | with_reducible apply State.commitTile_keeps
    | with_reducible apply State.count64_keeps
    | with_reducible apply State.setSa_keeps
    | with_reducible apply State.setFlag_keeps
    | with_reducible apply State.count_keeps
    | with_reducible apply State.poisonWork_keeps
    | with_reducible apply State.elandGoesOn_keeps
    | with_reducible apply State.setOp_keeps
    | with_reducible apply State.KeepsNext.next
    | with_reducible apply State.KeepsSome.none
    | with_reducible apply State.KeepsSome.some
    | with_reducible apply State.KeepsPair.none
    | with_reducible apply State.KeepsPair.some
    | with_reducible apply State.KeepsOk.error
    | with_reducible apply State.KeepsOk.ok
    | with_reducible apply State.KeepsSome.map_state
    | with_reducible apply State.KeepsSome.map_pair
    | with_reducible apply State.KeepsSome.map
    | with_reducible apply State.KeepsPair.map_state
    | with_reducible apply State.KeepsPair.map_pair
    | with_reducible apply State.KeepsPair.map
    | with_reducible apply State.Keeps.foldl
    | with_reducible apply State.Keeps.foldl_fst
    | (with_reducible refine State.Keeps.some (by assumption) ?_)
    | (with_reducible refine State.Keeps.pair (by assumption) ?_)
    | (with_reducible refine State.Keeps.ok (by assumption) ?_)
    | (with_reducible refine State.Keeps.fst (by assumption) ?_)
    | (with_reducible refine State.Keeps.snd (by assumption) ?_)
    | with_reducible apply State.Keeps.ite
    | with_reducible apply State.KeepsSome.ite
    | with_reducible apply State.KeepsSome.or
    | intro _

theorem State.tileMismatch_keeps {r : State} {a0 : State} {a1 : ℕ} {a2 : ElandOp} {a3 : ℕ} {a4 : ℕ} {a5 : TileRun} (h0 : r.Keeps a0) : r.Keeps (State.tileMismatch a0 a1 a2 a3 a4 a5) := by
  unfold State.tileMismatch
  try dsimp only
  repeat' first
    | with_reducible assumption
    | with_reducible exact State.Keeps.refl _
    | with_reducible apply State.count_keeps
    | with_reducible apply State.bump_keeps
    | with_reducible apply State.abftFault_keeps
    | with_reducible apply State.setOp_keeps
    | with_reducible apply State.issueTiles_keeps
    | with_reducible apply State.fenceSa_keeps
    | with_reducible apply State.tileDone_keeps
    | with_reducible apply State.corrected_keeps
    | with_reducible apply State.KeepsNext.next
    | with_reducible apply State.KeepsSome.none
    | with_reducible apply State.KeepsSome.some
    | with_reducible apply State.KeepsPair.none
    | with_reducible apply State.KeepsPair.some
    | with_reducible apply State.KeepsOk.error
    | with_reducible apply State.KeepsOk.ok
    | with_reducible apply State.KeepsSome.map_state
    | with_reducible apply State.KeepsSome.map_pair
    | with_reducible apply State.KeepsSome.map
    | with_reducible apply State.KeepsPair.map_state
    | with_reducible apply State.KeepsPair.map_pair
    | with_reducible apply State.KeepsPair.map
    | with_reducible apply State.Keeps.foldl
    | with_reducible apply State.Keeps.foldl_fst
    | (with_reducible refine State.Keeps.some (by assumption) ?_)
    | (with_reducible refine State.Keeps.pair (by assumption) ?_)
    | (with_reducible refine State.Keeps.ok (by assumption) ?_)
    | (with_reducible refine State.Keeps.fst (by assumption) ?_)
    | (with_reducible refine State.Keeps.snd (by assumption) ?_)
    | with_reducible apply State.Keeps.ite
    | with_reducible apply State.KeepsSome.ite
    | with_reducible apply State.KeepsSome.or
    | intro _
    | simp only [↓State.keeps_mk]
    | simp only [↓State.keeps_mk_fuses]
    | split

theorem execSample_keeps {r : State} {a0 : State} (h0 : r.Keeps a0) : r.KeepsNext (execSample a0) := by
  unfold execSample
  repeat' first
    | with_reducible assumption
    | with_reducible apply State.beginKind_keeps
    | with_reducible apply State.KeepsNext.next

theorem execGroupedGemm_keeps {r : State} {a0 : State} (h0 : r.Keeps a0) : r.KeepsNext (execGroupedGemm a0) := by
  unfold execGroupedGemm
  repeat' first
    | with_reducible assumption
    | with_reducible apply State.beginKind_keeps
    | with_reducible apply State.KeepsNext.next

theorem execElandFencedWrite_keeps {r : State} {a0 : U32} {a1 : State} (h1 : r.Keeps a1) : r.KeepsNext (execElandFencedWrite a0 a1) := by
  unfold execElandFencedWrite
  try dsimp only
  repeat' first
    | with_reducible assumption
    | with_reducible exact State.Keeps.refl _
    | with_reducible apply State.issueTiles_keeps
    | with_reducible apply State.fenceSa_keeps
    | with_reducible apply State.KeepsNext.next
    | with_reducible apply State.KeepsSome.none
    | with_reducible apply State.KeepsSome.some
    | with_reducible apply State.KeepsPair.none
    | with_reducible apply State.KeepsPair.some
    | with_reducible apply State.KeepsOk.error
    | with_reducible apply State.KeepsOk.ok
    | with_reducible apply State.KeepsSome.map_state
    | with_reducible apply State.KeepsSome.map_pair
    | with_reducible apply State.KeepsSome.map
    | with_reducible apply State.KeepsPair.map_state
    | with_reducible apply State.KeepsPair.map_pair
    | with_reducible apply State.KeepsPair.map
    | with_reducible apply State.Keeps.foldl

theorem execGemm_keeps {r : State} {a0 : State} (h0 : r.Keeps a0) : r.KeepsNext (execGemm a0) := by
  unfold execGemm
  repeat' first
    | with_reducible assumption
    | with_reducible apply State.beginKind_keeps
    | with_reducible apply State.KeepsNext.next

theorem execElandClearHwm_keeps {r : State} {a0 : State} (h0 : r.Keeps a0) : r.KeepsNext (execElandClearHwm a0) := by
  unfold execElandClearHwm
  repeat' first
    | with_reducible assumption
    | with_reducible apply State.wr_keeps
    | with_reducible apply State.KeepsNext.next

theorem State.chargeTile_keeps {r : State} {a0 : State} {a1 : ElandOp} {a2 : TilePlace} {a3 : ℕ} (h0 : r.Keeps a0) : r.Keeps (State.chargeTile a0 a1 a2 a3) := by
  unfold State.chargeTile
  try dsimp only
  repeat' first
    | with_reducible assumption
    | with_reducible exact State.Keeps.refl _
    | with_reducible apply State.spend_keeps
    | with_reducible apply State.tally_keeps
    | with_reducible apply State.KeepsNext.next
    | with_reducible apply State.KeepsSome.none
    | with_reducible apply State.KeepsSome.some
    | with_reducible apply State.KeepsPair.none
    | with_reducible apply State.KeepsPair.some
    | with_reducible apply State.KeepsOk.error
    | with_reducible apply State.KeepsOk.ok
    | with_reducible apply State.KeepsSome.map_state
    | with_reducible apply State.KeepsSome.map_pair
    | with_reducible apply State.KeepsSome.map
    | with_reducible apply State.KeepsPair.map_state
    | with_reducible apply State.KeepsPair.map_pair
    | with_reducible apply State.KeepsPair.map
    | with_reducible apply State.Keeps.foldl
    | with_reducible apply State.Keeps.foldl_fst
    | (with_reducible refine State.Keeps.some (by assumption) ?_)
    | (with_reducible refine State.Keeps.pair (by assumption) ?_)
    | (with_reducible refine State.Keeps.ok (by assumption) ?_)
    | (with_reducible refine State.Keeps.fst (by assumption) ?_)
    | (with_reducible refine State.Keeps.snd (by assumption) ?_)
    | with_reducible apply State.Keeps.ite
    | with_reducible apply State.KeepsSome.ite
    | with_reducible apply State.KeepsSome.or
    | intro _
    | simp only [↓State.keeps_mk]
    | simp only [↓State.keeps_mk_fuses]
    | split

theorem execOutputTileDone_keeps {r : State} {a0 : Fin 4} {a1 : Fin 4} {a2 : ℕ} {a3 : TileRun} {a4 : State} (h4 : r.Keeps a4) : r.KeepsNext (execOutputTileDone a0 a1 a2 a3 a4) := by
  unfold execOutputTileDone
  try dsimp only
  repeat' first
    | with_reducible assumption
    | with_reducible exact State.Keeps.refl _
    | with_reducible apply State.chargeTile_keeps
    | with_reducible apply State.count64_keeps
    | with_reducible apply State.tileDone_keeps
    | with_reducible apply State.tileMismatch_keeps
    | with_reducible apply State.KeepsNext.next
    | with_reducible apply State.KeepsSome.none
    | with_reducible apply State.KeepsSome.some
    | with_reducible apply State.KeepsPair.none
    | with_reducible apply State.KeepsPair.some
    | with_reducible apply State.KeepsOk.error
    | with_reducible apply State.KeepsOk.ok
    | with_reducible apply State.KeepsSome.map_state
    | with_reducible apply State.KeepsSome.map_pair
    | with_reducible apply State.KeepsSome.map
    | with_reducible apply State.KeepsPair.map_state
    | with_reducible apply State.KeepsPair.map_pair
    | with_reducible apply State.KeepsPair.map
    | with_reducible apply State.Keeps.foldl
    | with_reducible apply State.Keeps.foldl_fst
    | (with_reducible refine State.Keeps.some (by assumption) ?_)
    | (with_reducible refine State.Keeps.pair (by assumption) ?_)
    | (with_reducible refine State.Keeps.ok (by assumption) ?_)
    | (with_reducible refine State.Keeps.fst (by assumption) ?_)
    | (with_reducible refine State.Keeps.snd (by assumption) ?_)
    | with_reducible apply State.Keeps.ite
    | with_reducible apply State.KeepsSome.ite
    | with_reducible apply State.KeepsSome.or
    | intro _
    | simp only [↓State.keeps_mk]
    | simp only [↓State.keeps_mk_fuses]
    | split

theorem execElandOpEnqueue_keeps {r : State} {a0 : ElandDesc} {a1 : State} (h1 : r.Keeps a1) : r.KeepsNext (execElandOpEnqueue a0 a1) := by
  unfold execElandOpEnqueue
  try dsimp only
  repeat' first
    | with_reducible assumption
    | with_reducible exact State.Keeps.refl _
    | with_reducible apply State.elandAdd_keeps
    | with_reducible apply State.elandGoesOn_keeps
    | with_reducible apply State.fenceOps_keeps
    | with_reducible apply State.KeepsNext.next
    | with_reducible apply State.KeepsSome.none
    | with_reducible apply State.KeepsSome.some
    | with_reducible apply State.KeepsPair.none
    | with_reducible apply State.KeepsPair.some
    | with_reducible apply State.KeepsOk.error
    | with_reducible apply State.KeepsOk.ok
    | with_reducible apply State.KeepsSome.map_state
    | with_reducible apply State.KeepsSome.map_pair
    | with_reducible apply State.KeepsSome.map
    | with_reducible apply State.KeepsPair.map_state
    | with_reducible apply State.KeepsPair.map_pair
    | with_reducible apply State.KeepsPair.map
    | with_reducible apply State.Keeps.foldl
    | with_reducible apply State.Keeps.foldl_fst
    | (with_reducible refine State.Keeps.some (by assumption) ?_)
    | (with_reducible refine State.Keeps.pair (by assumption) ?_)
    | (with_reducible refine State.Keeps.ok (by assumption) ?_)
    | (with_reducible refine State.Keeps.fst (by assumption) ?_)
    | (with_reducible refine State.Keeps.snd (by assumption) ?_)
    | with_reducible apply State.Keeps.ite

theorem execAttnTree_keeps {r : State} {a0 : State} (h0 : r.Keeps a0) : r.KeepsNext (execAttnTree a0) := by
  unfold execAttnTree
  repeat' first
    | with_reducible assumption
    | with_reducible apply State.beginKind_keeps
    | with_reducible apply State.KeepsNext.next

theorem execDistTable_keeps {r : State} {a0 : State} (h0 : r.Keeps a0) : r.KeepsNext (execDistTable a0) := by
  unfold execDistTable
  repeat' first
    | with_reducible assumption
    | with_reducible apply State.beginKind_keeps
    | with_reducible apply State.KeepsNext.next

theorem execElandHold_keeps {r : State} {a0 : Bool} {a1 : State} (h1 : r.Keeps a1) : r.KeepsNext (execElandHold a0 a1) := by
  unfold execElandHold
  try dsimp only
  repeat' first
    | with_reducible assumption
    | with_reducible exact State.Keeps.refl _
    | with_reducible apply State.setFlag_keeps
    | with_reducible apply State.elandGoesOn_keeps
    | with_reducible apply State.KeepsNext.next
    | with_reducible apply State.KeepsSome.none
    | with_reducible apply State.KeepsSome.some
    | with_reducible apply State.KeepsPair.none
    | with_reducible apply State.KeepsPair.some
    | with_reducible apply State.KeepsOk.error
    | with_reducible apply State.KeepsOk.ok
    | with_reducible apply State.KeepsSome.map_state
    | with_reducible apply State.KeepsSome.map_pair
    | with_reducible apply State.KeepsSome.map
    | with_reducible apply State.KeepsPair.map_state
    | with_reducible apply State.KeepsPair.map_pair
    | with_reducible apply State.KeepsPair.map
    | with_reducible apply State.Keeps.foldl
    | with_reducible apply State.Keeps.foldl_fst
    | (with_reducible refine State.Keeps.some (by assumption) ?_)
    | (with_reducible refine State.Keeps.pair (by assumption) ?_)
    | (with_reducible refine State.Keeps.ok (by assumption) ?_)
    | (with_reducible refine State.Keeps.fst (by assumption) ?_)
    | (with_reducible refine State.Keeps.snd (by assumption) ?_)
    | with_reducible apply State.Keeps.ite

end Sys2Proof.Machine
end

