-- ==== Sys2Proof/Laws/KeepsBoundary.lean ====
section
/-! SUPPORT. Every operation of Machine/Boundary.lean keeps the queue, the fuses and the canonical forms. -/

namespace Sys2Proof.Machine

theorem State.applyOffload_keeps {r : State} {a0 : State} {a1 : ℕ} (h0 : r.Keeps a0) : r.Keeps (State.applyOffload a0 a1) := by
  unfold State.applyOffload
  try dsimp only
  repeat' first
    | with_reducible assumption
    | with_reducible exact State.Keeps.refl _
    | with_reducible apply State.setEntry_keeps
    | with_reducible apply State.setRoot_keeps
    | with_reducible apply State.letGo_keeps
    | with_reducible apply State.KeepsNext.next
    | with_reducible apply State.KeepsSome.none
    | with_reducible apply State.KeepsSome.some
    | with_reducible apply State.KeepsPair.none
    | with_reducible apply State.KeepsPair.some
    | with_reducible apply State.KeepsOk.error
    | with_reducible apply State.KeepsOk.ok
    | with_reducible apply State.KeepsSome.map_state
    | with_reducible apply State.KeepsSome.map_pair
    | with_reducible apply State.KeepsSome.map
    | with_reducible apply State.KeepsPair.map_state
    | with_reducible apply State.KeepsPair.map_pair
    | with_reducible apply State.KeepsPair.map
    | with_reducible apply State.Keeps.foldl
    | with_reducible apply State.Keeps.foldl_fst
    | (with_reducible refine State.Keeps.some (by assumption) ?_)
    | (with_reducible refine State.Keeps.pair (by assumption) ?_)
    | (with_reducible refine State.Keeps.ok (by assumption) ?_)
    | (with_reducible refine State.Keeps.fst (by assumption) ?_)
    | (with_reducible refine State.Keeps.snd (by assumption) ?_)
    | with_reducible apply State.Keeps.ite
    | with_reducible apply State.KeepsSome.ite
    | with_reducible apply State.KeepsSome.or
    | intro _
    | simp only [↓State.keeps_mk]
    | simp only [↓State.keeps_mk_fuses]
    | split

theorem State.applyOffloads_keeps {r : State} {a0 : State} (h0 : r.Keeps a0) : r.Keeps (State.applyOffloads a0) := by
  unfold State.applyOffloads
  repeat' first
    | with_reducible assumption
    | with_reducible apply State.applyOffload_keeps
    | with_reducible apply State.Keeps.foldl

theorem State.orderedRestores_keeps {r : State} {a0 : State} (h0 : r.Keeps a0) : r.Keeps (State.orderedRestores a0) := by
  unfold State.orderedRestores
  repeat' first
    | with_reducible assumption
    | with_reducible apply State.startRestore_keeps
    | with_reducible apply State.Keeps.foldl
    | intro _
    | split

theorem State.autoRestores_keeps {r : State} {a0 : List ℕ} {a1 : ℕ} {a2 : State} (h2 : r.Keeps a2) : r.Keeps (State.autoRestores a0 a1 a2) := by
  induction a0 generalizing a1 a2 with
  | nil =>
    unfold State.autoRestores
    try dsimp only
    repeat' first
      | with_reducible assumption
  | cons x xs ih =>
    unfold State.autoRestores
    try dsimp only
    repeat' first
      | with_reducible apply ih
      | with_reducible assumption
      | with_reducible exact State.Keeps.refl _
      | with_reducible apply State.startRestore_keeps
      | with_reducible apply State.KeepsNext.next
      | with_reducible apply State.KeepsSome.none
      | with_reducible apply State.KeepsSome.some
      | with_reducible apply State.KeepsPair.none
      | with_reducible apply State.KeepsPair.some
      | with_reducible apply State.KeepsOk.error
      | with_reducible apply State.KeepsOk.ok
      | with_reducible apply State.KeepsSome.map_state
      | with_reducible apply State.KeepsSome.map
      | with_reducible apply State.KeepsPair.map_state
      | with_reducible apply State.KeepsPair.map_pair
      | with_reducible apply State.KeepsPair.map
      | with_reducible apply State.Keeps.foldl
      | with_reducible apply State.Keeps.foldl_fst
      | (with_reducible refine State.Keeps.some (by assumption) ?_)
      | (with_reducible refine State.Keeps.pair (by assumption) ?_)
      | (with_reducible refine State.Keeps.ok (by assumption) ?_)
      | (with_reducible refine State.Keeps.fst (by assumption) ?_)
      | (with_reducible refine State.Keeps.snd (by assumption) ?_)
      | intro _
      | simp only [↓State.keeps_mk]
      | simp only [↓State.keeps_mk_fuses]
      | split

theorem State.restores_keeps {r : State} {a0 : State} (h0 : r.Keeps a0) : r.Keeps (State.restores a0) := by
  unfold State.restores
  try dsimp only
  repeat' first
    | with_reducible assumption
    | with_reducible apply State.orderedRestores_keeps
    | with_reducible apply State.autoRestores_keeps
    | split

theorem State.preemptEntry_keeps {r : State} {a0 : State} {a1 : Bool} {a2 : ℕ} (h0 : r.Keeps a0) : r.Keeps (State.preemptEntry a0 a1 a2) := by
  unfold State.preemptEntry
  try dsimp only
  repeat' first
    | with_reducible assumption
    | with_reducible apply State.setEntry_keeps
    | with_reducible apply State.unlisted_keeps
    | split

theorem State.resumeEntry_keeps {r : State} {a0 : State} {a1 : ℕ} (h0 : r.Keeps a0) : r.Keeps (State.resumeEntry a0 a1) := by
  unfold State.resumeEntry
  try dsimp only
  repeat' first
    | with_reducible assumption
    | with_reducible apply State.setEntry_keeps
    | with_reducible apply State.unlisted_keeps
    | split

theorem State.attachTree_keeps {r : State} {a0 : State} {a1 : ℕ} {a2 : U32} (h0 : r.Keeps a0) : r.Keeps (State.attachTree a0 a1 a2) := by
  unfold State.attachTree
  repeat' first
    | with_reducible assumption
    | with_reducible apply State.setEntry_keeps

theorem State.obey_keeps {r : State} {a0 : State} {a1 : HerdOrder} (h0 : r.Keeps a0) : r.Keeps (State.obey a0 a1) := by
  unfold State.obey
  repeat' first
    | with_reducible assumption
    | with_reducible apply State.preemptEntry_keeps
    | with_reducible apply State.resumeEntry_keeps
    | with_reducible apply State.attachTree_keeps
    | with_reducible apply State.Keeps.foldl
    | intro _
    | split

theorem State.resumeAll_keeps {r : State} {a0 : List ℕ} {a1 : ℕ} {a2 : State} (h2 : r.Keeps a2) : r.Keeps (State.resumeAll a0 a1 a2) := by
  induction a0 generalizing a1 a2 with
  | nil =>
    unfold State.resumeAll
    try dsimp only
    repeat' first
      | with_reducible assumption
  | cons x xs ih =>
    unfold State.resumeAll
    try dsimp only
    repeat' first
      | with_reducible apply ih
      | with_reducible assumption
      | with_reducible exact State.Keeps.refl _
      | with_reducible apply State.resumeEntry_keeps
      | with_reducible apply State.KeepsNext.next
      | with_reducible apply State.KeepsSome.none
      | with_reducible apply State.KeepsSome.some
      | with_reducible apply State.KeepsPair.none
      | with_reducible apply State.KeepsPair.some
      | with_reducible apply State.KeepsOk.error
      | with_reducible apply State.KeepsOk.ok
      | with_reducible apply State.KeepsSome.map_state
      | with_reducible apply State.KeepsSome.map
      | with_reducible apply State.KeepsPair.map_state
      | with_reducible apply State.KeepsPair.map_pair
      | with_reducible apply State.KeepsPair.map
      | with_reducible apply State.Keeps.foldl
      | with_reducible apply State.Keeps.foldl_fst
      | (with_reducible refine State.Keeps.some (by assumption) ?_)
      | (with_reducible refine State.Keeps.pair (by assumption) ?_)
      | (with_reducible refine State.Keeps.ok (by assumption) ?_)
      | (with_reducible refine State.Keeps.fst (by assumption) ?_)
      | (with_reducible refine State.Keeps.snd (by assumption) ?_)
      | intro _
      | simp only [↓State.keeps_mk]
      | simp only [↓State.keeps_mk_fuses]
      | split

theorem State.autoResume_keeps {r : State} {a0 : State} (h0 : r.Keeps a0) : r.Keeps (State.autoResume a0) := by
  unfold State.autoResume
  try dsimp only
  repeat' first
    | with_reducible assumption
    | with_reducible apply State.resumeAll_keeps
    | split

theorem State.retryTransfer_keeps {r : State} {a0 : State} {a1 : ℕ} (h0 : r.Keeps a0) : r.Keeps (State.retryTransfer a0 a1) := by
  unfold State.retryTransfer
  try dsimp only
  repeat' first
    | with_reducible assumption
    | with_reducible apply State.sendRedirect_keeps
    | with_reducible apply State.sendRegister_keeps
    | with_reducible apply State.setTransfer_keeps
    | split

theorem State.countMoving_keeps {r : State} {a0 : State} {a1 : HerdOrder} (h0 : r.Keeps a0) : r.Keeps (State.countMoving a0 a1) := by
  unfold State.countMoving
  try dsimp only
  repeat' first
    | with_reducible assumption
    | with_reducible exact State.Keeps.refl _
    | with_reducible apply State.unlisted_keeps
    | with_reducible apply State.KeepsNext.next
    | with_reducible apply State.KeepsSome.none
    | with_reducible apply State.KeepsSome.some
    | with_reducible apply State.KeepsPair.none
    | with_reducible apply State.KeepsPair.some
    | with_reducible apply State.KeepsOk.error
    | with_reducible apply State.KeepsOk.ok
    | with_reducible apply State.KeepsSome.map_state
    | with_reducible apply State.KeepsSome.map_pair
    | with_reducible apply State.KeepsSome.map
    | with_reducible apply State.KeepsPair.map_state
    | with_reducible apply State.KeepsPair.map_pair
    | with_reducible apply State.KeepsPair.map
    | with_reducible apply State.Keeps.foldl
    | with_reducible apply State.Keeps.foldl_fst
    | (with_reducible refine State.Keeps.some (by assumption) ?_)
    | (with_reducible refine State.Keeps.pair (by assumption) ?_)
    | (with_reducible refine State.Keeps.ok (by assumption) ?_)
    | (with_reducible refine State.Keeps.fst (by assumption) ?_)
    | (with_reducible refine State.Keeps.snd (by assumption) ?_)
    | with_reducible apply State.Keeps.ite
    | with_reducible apply State.KeepsSome.ite
    | with_reducible apply State.KeepsSome.or
    | intro _
    | simp only [↓State.keeps_mk]
    | simp only [↓State.keeps_mk_fuses]
    | split

theorem State.runOrder_keeps {r : State} {a0 : State} {a1 : HerdOrder} (h0 : r.Keeps a0) : r.Keeps (State.runOrder a0 a1) := by
  unfold State.runOrder
  try dsimp only
  repeat' first
    | with_reducible assumption
    | with_reducible exact State.Keeps.refl _
    | with_reducible apply State.complete_keeps
    | with_reducible apply State.countMoving_keeps
    | with_reducible apply State.obey_keeps
    | with_reducible apply State.KeepsNext.next
    | with_reducible apply State.KeepsSome.none
    | with_reducible apply State.KeepsSome.some
    | with_reducible apply State.KeepsPair.none
    | with_reducible apply State.KeepsPair.some
    | with_reducible apply State.KeepsOk.error
    | with_reducible apply State.KeepsOk.ok
    | with_reducible apply State.KeepsSome.map_state
    | with_reducible apply State.KeepsSome.map_pair
    | with_reducible apply State.KeepsSome.map
    | with_reducible apply State.KeepsPair.map_state
    | with_reducible apply State.KeepsPair.map_pair
    | with_reducible apply State.KeepsPair.map
    | with_reducible apply State.Keeps.foldl
    | with_reducible apply State.Keeps.foldl_fst
    | (with_reducible refine State.Keeps.some (by assumption) ?_)
    | (with_reducible refine State.Keeps.pair (by assumption) ?_)
    | (with_reducible refine State.Keeps.ok (by assumption) ?_)
    | (with_reducible refine State.Keeps.fst (by assumption) ?_)
    | (with_reducible refine State.Keeps.snd (by assumption) ?_)
    | with_reducible apply State.Keeps.ite
    | with_reducible apply State.KeepsSome.ite
    | with_reducible apply State.KeepsSome.or
    | intro _
    | simp only [↓State.keeps_mk]
    | simp only [↓State.keeps_mk_fuses]
    | split

theorem State.applyOrders_keeps {r : State} {a0 : State} (h0 : r.Keeps a0) : r.Keeps (State.applyOrders a0) := by
  unfold State.applyOrders
  repeat' first
    | with_reducible assumption
    | with_reducible apply State.runOrder_keeps
    | with_reducible apply State.Keeps.foldl
    | simp only [↓State.keeps_mk]

theorem State.failFenced_keeps {r : State} {a0 : State} (h0 : r.Keeps a0) : r.Keeps (State.failFenced a0) := by
  unfold State.failFenced
  repeat' first
    | with_reducible assumption
    | with_reducible apply State.failTenant_keeps
    | with_reducible apply State.Keeps.foldl

theorem State.clearEnded_keeps {r : State} {a0 : State} (h0 : r.Keeps a0) : r.Keeps (State.clearEnded a0) := by
  unfold State.clearEnded
  repeat' first
    | with_reducible assumption
    | with_reducible apply State.toIdle_keeps
    | with_reducible apply State.Keeps.foldl
    | intro _
    | split

theorem State.retryTransfers_keeps {r : State} {a0 : State} (h0 : r.Keeps a0) : r.Keeps (State.retryTransfers a0) := by
  unfold State.retryTransfers
  repeat' first
    | with_reducible assumption
    | with_reducible apply State.retryTransfer_keeps
    | with_reducible apply State.Keeps.foldl

theorem State.settleUnload_keeps {r : State} {a0 : State} {a1 : ℕ} (h0 : r.Keeps a0) : r.Keeps (State.settleUnload a0 a1) := by
  unfold State.settleUnload
  repeat' first
    | with_reducible assumption
    | with_reducible apply State.dropModel_keeps
    | with_reducible apply State.complete_keeps
    | simp only [↓State.keeps_mk_fuses]
    | split

theorem State.settleUnloads_keeps {r : State} {a0 : State} (h0 : r.Keeps a0) : r.Keeps (State.settleUnloads a0) := by
  unfold State.settleUnloads
  repeat' first
    | with_reducible assumption
    | with_reducible apply State.settleUnload_keeps
    | with_reducible apply State.Keeps.foldl

theorem State.advanceReplicas_keeps {r : State} {a0 : State} (h0 : r.Keeps a0) : r.Keeps (State.advanceReplicas a0) := by
  unfold State.advanceReplicas
  repeat' first
    | with_reducible assumption
    | with_reducible apply State.replicaAdvance_keeps
    | with_reducible apply State.Keeps.foldl
    | intro _
    | split

theorem State.takeOffloads_keeps {r : State} {a0 : List ℕ} {a1 : ℕ} {a2 : State} (h2 : r.Keeps a2) : r.Keeps (State.takeOffloads a0 a1 a2) := by
  induction a0 generalizing a1 a2 with
  | nil =>
    unfold State.takeOffloads
    try dsimp only
    repeat' first
      | with_reducible assumption
  | cons x xs ih =>
    unfold State.takeOffloads
    try dsimp only
    repeat' first
      | with_reducible apply ih
      | with_reducible assumption
      | with_reducible exact State.Keeps.refl _
      | with_reducible apply State.offloadEntry_keeps
      | with_reducible apply State.KeepsNext.next
      | with_reducible apply State.KeepsSome.none
      | with_reducible apply State.KeepsSome.some
      | with_reducible apply State.KeepsPair.none
      | with_reducible apply State.KeepsPair.some
      | with_reducible apply State.KeepsOk.error
      | with_reducible apply State.KeepsOk.ok
      | with_reducible apply State.KeepsSome.map_state
      | with_reducible apply State.KeepsSome.map
      | with_reducible apply State.KeepsPair.map_state
      | with_reducible apply State.KeepsPair.map_pair
      | with_reducible apply State.KeepsPair.map
      | with_reducible apply State.Keeps.foldl
      | with_reducible apply State.Keeps.foldl_fst
      | (with_reducible refine State.Keeps.some (by assumption) ?_)
      | (with_reducible refine State.Keeps.pair (by assumption) ?_)
      | (with_reducible refine State.Keeps.ok (by assumption) ?_)
      | (with_reducible refine State.Keeps.fst (by assumption) ?_)
      | (with_reducible refine State.Keeps.snd (by assumption) ?_)
      | intro _
      | simp only [↓State.keeps_mk]
      | simp only [↓State.keeps_mk_fuses]
      | split

theorem State.selectOffloads_keeps {r : State} {a0 : State} (h0 : r.Keeps a0) : r.Keeps (State.selectOffloads a0) := by
  unfold State.selectOffloads
  repeat' first
    | with_reducible assumption
    | with_reducible apply State.takeOffloads_keeps
    | split

theorem State.boundary_keeps {r : State} {a0 : State} (h0 : r.Keeps a0) : r.Keeps (State.boundary a0) := by
  unfold State.boundary
  repeat' first
    | with_reducible assumption
    | with_reducible apply State.tenantBoundary_keeps
    | with_reducible apply State.applyPartial_keeps
    | with_reducible apply State.applyStaged_keeps
    | with_reducible apply State.applyOrders_keeps
    | with_reducible apply State.failFenced_keeps
    | with_reducible apply State.applyOffloads_keeps
    | with_reducible apply State.clearEnded_keeps
    | with_reducible apply State.retryTransfers_keeps
    | with_reducible apply State.autoResume_keeps
    | with_reducible apply State.settleUnloads_keeps
    | with_reducible apply State.advanceReplicas_keeps
    | with_reducible apply State.selectOffloads_keeps
    | with_reducible apply State.restores_keeps

theorem execIdleBoundary_keeps {r : State} {a0 : State} (h0 : r.Keeps a0) : r.KeepsNext (execIdleBoundary a0) := by
  unfold execIdleBoundary
  repeat' first
    | with_reducible assumption
    | with_reducible apply State.boundary_keeps
    | with_reducible apply State.KeepsNext.next
    | split

theorem execPreemptMaxExpiry_keeps {r : State} {a0 : Fin 65536} {a1 : State} (h1 : r.Keeps a1) : r.KeepsNext (execPreemptMaxExpiry a0 a1) := by
  unfold execPreemptMaxExpiry
  try dsimp only
  repeat' first
    | with_reducible assumption
    | with_reducible exact State.Keeps.refl _
    | with_reducible apply State.failQuiet_keeps
    | with_reducible apply State.KeepsNext.next
    | with_reducible apply State.KeepsSome.none
    | with_reducible apply State.KeepsSome.some
    | with_reducible apply State.KeepsPair.none
    | with_reducible apply State.KeepsPair.some
    | with_reducible apply State.KeepsOk.error
    | with_reducible apply State.KeepsOk.ok
    | with_reducible apply State.KeepsSome.map_state
    | with_reducible apply State.KeepsSome.map_pair
    | with_reducible apply State.KeepsSome.map
    | with_reducible apply State.KeepsPair.map_state
    | with_reducible apply State.KeepsPair.map_pair
    | with_reducible apply State.KeepsPair.map
    | with_reducible apply State.Keeps.foldl
    | with_reducible apply State.Keeps.foldl_fst
    | (with_reducible refine State.Keeps.some (by assumption) ?_)
    | (with_reducible refine State.Keeps.pair (by assumption) ?_)
    | (with_reducible refine State.Keeps.ok (by assumption) ?_)
    | (with_reducible refine State.Keeps.fst (by assumption) ?_)
    | (with_reducible refine State.Keeps.snd (by assumption) ?_)
    | with_reducible apply State.Keeps.ite

end Sys2Proof.Machine
end

