-- ==== Sys2Proof/Laws/KeepsMessages.lean ====
section
/-! SUPPORT. Every operation of Machine/Messages.lean keeps the queue, the fuses and the canonical forms. -/

namespace Sys2Proof.Machine

theorem State.malformedAny_keeps {r : State} {a0 : State} {a1 : Msg} (h0 : r.Keeps a0) : r.Keeps (State.malformedAny a0 a1) := by
  unfold State.malformedAny
  try dsimp only
  repeat' first
    | with_reducible assumption
    | with_reducible exact State.Keeps.refl _
    | with_reducible apply State.setFlag_keeps
    | with_reducible apply State.malformedMsg_keeps
    | with_reducible apply State.KeepsNext.next
    | with_reducible apply State.KeepsSome.none
    | with_reducible apply State.KeepsSome.some
    | with_reducible apply State.KeepsPair.none
    | with_reducible apply State.KeepsPair.some
    | with_reducible apply State.KeepsOk.error
    | with_reducible apply State.KeepsOk.ok
    | with_reducible apply State.Keeps.foldl
    | with_reducible apply State.Keeps.foldl_fst
    | (with_reducible refine State.Keeps.some (by assumption) ?_)
    | (with_reducible refine State.Keeps.pair (by assumption) ?_)
    | (with_reducible refine State.Keeps.ok (by assumption) ?_)
    | (with_reducible refine State.Keeps.fst (by assumption) ?_)
    | (with_reducible refine State.Keeps.snd (by assumption) ?_)
    | intro _
    | simp only [↓State.keeps_mk]
    | simp only [↓State.keeps_mk_fuses]
    | split

theorem State.refuseMsg_keeps {r : State} {a0 : State} {a1 : Msg} {a2 : Byte} (h0 : r.Keeps a0) : r.Keeps (State.refuseMsg a0 a1 a2) := by
  unfold State.refuseMsg
  try dsimp only
  repeat' first
    | with_reducible assumption
    | with_reducible exact State.Keeps.refl _
    | with_reducible apply State.sendPartial_keeps
    | with_reducible apply State.reply_keeps
    | with_reducible apply State.KeepsNext.next
    | with_reducible apply State.KeepsSome.none
    | with_reducible apply State.KeepsSome.some
    | with_reducible apply State.KeepsPair.none
    | with_reducible apply State.KeepsPair.some
    | with_reducible apply State.KeepsOk.error
    | with_reducible apply State.KeepsOk.ok
    | with_reducible apply State.Keeps.foldl
    | with_reducible apply State.Keeps.foldl_fst
    | (with_reducible refine State.Keeps.some (by assumption) ?_)
    | (with_reducible refine State.Keeps.pair (by assumption) ?_)
    | (with_reducible refine State.Keeps.ok (by assumption) ?_)
    | (with_reducible refine State.Keeps.fst (by assumption) ?_)
    | (with_reducible refine State.Keeps.snd (by assumption) ?_)
    | intro _
    | simp only [↓State.keeps_mk]
    | simp only [↓State.keeps_mk_fuses]
    | split

theorem State.onAnyReply_keeps {r : State} {a0 : State} {a1 : Msg} (h0 : r.Keeps a0) : r.Keeps (State.onAnyReply a0 a1) := by
  unfold State.onAnyReply
  try dsimp only
  repeat' first
    | with_reducible assumption
    | with_reducible exact State.Keeps.refl _
    | with_reducible apply State.peerArrived_keeps
    | with_reducible apply State.endSlot_keeps
    | with_reducible apply State.onReply_keeps
    | with_reducible apply State.KeepsNext.next
    | with_reducible apply State.KeepsSome.none
    | with_reducible apply State.KeepsSome.some
    | with_reducible apply State.KeepsPair.none
    | with_reducible apply State.KeepsPair.some
    | with_reducible apply State.KeepsOk.error
    | with_reducible apply State.KeepsOk.ok
    | with_reducible apply State.Keeps.foldl
    | with_reducible apply State.Keeps.foldl_fst
    | (with_reducible refine State.Keeps.some (by assumption) ?_)
    | (with_reducible refine State.Keeps.pair (by assumption) ?_)
    | (with_reducible refine State.Keeps.ok (by assumption) ?_)
    | (with_reducible refine State.Keeps.fst (by assumption) ?_)
    | (with_reducible refine State.Keeps.snd (by assumption) ?_)
    | intro _
    | simp only [↓State.keeps_mk]
    | simp only [↓State.keeps_mk_fuses]
    | split

theorem State.handle_keeps {r : State} {a0 : State} {a1 : Msg} (h0 : r.Keeps a0) : r.Keeps (State.handle a0 a1) := by
  unfold State.handle
  try dsimp only
  repeat' first
    | with_reducible assumption
    | with_reducible exact State.Keeps.refl _
    | with_reducible apply State.onQuery_keeps
    | with_reducible apply State.onPartial_keeps
    | with_reducible apply State.onAdmit_keeps
    | with_reducible apply State.onPromptTokens_keeps
    | with_reducible apply State.onOpen_keeps
    | with_reducible apply State.onCreditReq_keeps
    | with_reducible apply State.onGrant_keeps
    | with_reducible apply State.onRefs_keeps
    | with_reducible apply State.onSent_keeps
    | with_reducible apply State.onCommit_keeps
    | with_reducible apply State.onAnyReply_keeps
    | with_reducible apply State.onAbort_keeps
    | with_reducible apply State.anchorRegister_keeps
    | with_reducible apply State.anchorRedirect_keeps
    | with_reducible apply State.onEnd_keeps
    | with_reducible apply State.anchorReleased_keeps
    | with_reducible apply State.onRestoreReq_keeps
    | with_reducible apply State.onReplicaReq_keeps
    | with_reducible apply State.anchorCovered_keeps
    | with_reducible apply State.KeepsNext.next
    | with_reducible apply State.KeepsSome.none
    | with_reducible apply State.KeepsSome.some
    | with_reducible apply State.KeepsPair.none
    | with_reducible apply State.KeepsPair.some
    | with_reducible apply State.KeepsOk.error
    | with_reducible apply State.KeepsOk.ok
    | with_reducible apply State.KeepsSome.map_state
    | with_reducible apply State.KeepsSome.map_pair
    | with_reducible apply State.KeepsSome.map
    | with_reducible apply State.KeepsPair.map_state
    | with_reducible apply State.KeepsPair.map_pair
    | with_reducible apply State.KeepsPair.map
    | with_reducible apply State.Keeps.foldl
    | with_reducible apply State.Keeps.foldl_fst
    | (with_reducible refine State.Keeps.some (by assumption) ?_)
    | (with_reducible refine State.Keeps.pair (by assumption) ?_)
    | (with_reducible refine State.Keeps.ok (by assumption) ?_)
    | (with_reducible refine State.Keeps.fst (by assumption) ?_)
    | (with_reducible refine State.Keeps.snd (by assumption) ?_)
    | with_reducible apply State.Keeps.ite

theorem State.handleOld_keeps {r : State} {a0 : State} {a1 : Msg} (h0 : r.Keeps a0) : r.Keeps (State.handleOld a0 a1) := by
  unfold State.handleOld
  try dsimp only
  repeat' first
    | with_reducible assumption
    | with_reducible exact State.Keeps.refl _
    | with_reducible apply State.refuseMsg_keeps
    | with_reducible apply State.bump_keeps
    | with_reducible apply State.handle_keeps
    | with_reducible apply State.KeepsNext.next
    | with_reducible apply State.KeepsSome.none
    | with_reducible apply State.KeepsSome.some
    | with_reducible apply State.KeepsPair.none
    | with_reducible apply State.KeepsPair.some
    | with_reducible apply State.KeepsOk.error
    | with_reducible apply State.KeepsOk.ok
    | with_reducible apply State.Keeps.foldl
    | with_reducible apply State.Keeps.foldl_fst
    | (with_reducible refine State.Keeps.some (by assumption) ?_)
    | (with_reducible refine State.Keeps.pair (by assumption) ?_)
    | (with_reducible refine State.Keeps.ok (by assumption) ?_)
    | (with_reducible refine State.Keeps.fst (by assumption) ?_)
    | (with_reducible refine State.Keeps.snd (by assumption) ?_)
    | intro _
    | simp only [↓State.keeps_mk]
    | simp only [↓State.keeps_mk_fuses]
    | split

theorem State.takeMsg_keeps {r : State} {a0 : State} {a1 : Msg} (h0 : r.Keeps a0) : r.Keeps (State.takeMsg a0 a1) := by
  unfold State.takeMsg
  try dsimp only
  repeat' first
    | with_reducible assumption
    | with_reducible exact State.Keeps.refl _
    | with_reducible apply State.malformedAny_keeps
    | with_reducible apply State.msgTrace_keeps
    | with_reducible apply State.handleOld_keeps
    | with_reducible apply State.handle_keeps
    | with_reducible apply State.KeepsNext.next
    | with_reducible apply State.KeepsSome.none
    | with_reducible apply State.KeepsSome.some
    | with_reducible apply State.KeepsPair.none
    | with_reducible apply State.KeepsPair.some
    | with_reducible apply State.KeepsOk.error
    | with_reducible apply State.KeepsOk.ok
    | with_reducible apply State.Keeps.foldl
    | with_reducible apply State.Keeps.foldl_fst
    | (with_reducible refine State.Keeps.some (by assumption) ?_)
    | (with_reducible refine State.Keeps.pair (by assumption) ?_)
    | (with_reducible refine State.Keeps.ok (by assumption) ?_)
    | (with_reducible refine State.Keeps.fst (by assumption) ?_)
    | (with_reducible refine State.Keeps.snd (by assumption) ?_)
    | intro _
    | simp only [↓State.keeps_mk]
    | simp only [↓State.keeps_mk_fuses]
    | split

theorem State.takeHeld_keeps {r : State} {a0 : State} (h0 : r.Keeps a0) : r.Keeps (State.takeHeld a0) := by
  unfold State.takeHeld
  try dsimp only
  repeat' first
    | with_reducible assumption
    | with_reducible exact State.Keeps.refl _
    | with_reducible apply State.takeMsg_keeps
    | with_reducible apply State.KeepsNext.next
    | with_reducible apply State.KeepsSome.none
    | with_reducible apply State.KeepsSome.some
    | with_reducible apply State.KeepsPair.none
    | with_reducible apply State.KeepsPair.some
    | with_reducible apply State.KeepsOk.error
    | with_reducible apply State.KeepsOk.ok
    | with_reducible apply State.Keeps.foldl
    | with_reducible apply State.Keeps.foldl_fst
    | (with_reducible refine State.Keeps.some (by assumption) ?_)
    | (with_reducible refine State.Keeps.pair (by assumption) ?_)
    | (with_reducible refine State.Keeps.ok (by assumption) ?_)
    | (with_reducible refine State.Keeps.fst (by assumption) ?_)
    | (with_reducible refine State.Keeps.snd (by assumption) ?_)
    | intro _
    | simp only [↓State.keeps_mk]

theorem State.arrive_keeps {r : State} {a0 : State} {a1 : ℕ} {a2 : Msg} (h0 : r.Keeps a0) : r.Keeps (State.arrive a0 a1 a2) := by
  unfold State.arrive
  try dsimp only
  repeat' first
    | with_reducible assumption
    | with_reducible exact State.Keeps.refl _
    | with_reducible apply State.takeMsg_keeps
    | with_reducible apply State.KeepsNext.next
    | with_reducible apply State.KeepsSome.none
    | with_reducible apply State.KeepsSome.some
    | with_reducible apply State.KeepsPair.none
    | with_reducible apply State.KeepsPair.some
    | with_reducible apply State.KeepsOk.error
    | with_reducible apply State.KeepsOk.ok
    | with_reducible apply State.Keeps.foldl
    | with_reducible apply State.Keeps.foldl_fst
    | (with_reducible refine State.Keeps.some (by assumption) ?_)
    | (with_reducible refine State.Keeps.pair (by assumption) ?_)
    | (with_reducible refine State.Keeps.ok (by assumption) ?_)
    | (with_reducible refine State.Keeps.fst (by assumption) ?_)
    | (with_reducible refine State.Keeps.snd (by assumption) ?_)
    | intro _
    | simp only [↓State.keeps_mk]
    | simp only [↓State.keeps_mk_fuses]
    | split

theorem execCommit_keeps {r : State} {a0 : Msg} {a1 : State} (h1 : r.Keeps a1) : r.KeepsNext (execCommit a0 a1) := by
  unfold execCommit
  try dsimp only
  repeat' first
    | with_reducible assumption
    | with_reducible exact State.Keeps.refl _
    | with_reducible apply State.arrive_keeps
    | with_reducible apply State.KeepsNext.next

theorem execOpenMsg_keeps {r : State} {a0 : Msg} {a1 : State} (h1 : r.Keeps a1) : r.KeepsNext (execOpenMsg a0 a1) := by
  unfold execOpenMsg
  try dsimp only
  repeat' first
    | with_reducible assumption
    | with_reducible exact State.Keeps.refl _
    | with_reducible apply State.arrive_keeps
    | with_reducible apply State.KeepsNext.next

theorem execGrant_keeps {r : State} {a0 : Msg} {a1 : State} (h1 : r.Keeps a1) : r.KeepsNext (execGrant a0 a1) := by
  unfold execGrant
  try dsimp only
  repeat' first
    | with_reducible assumption
    | with_reducible exact State.Keeps.refl _
    | with_reducible apply State.arrive_keeps
    | with_reducible apply State.KeepsNext.next

theorem execRedirect_keeps {r : State} {a0 : Msg} {a1 : State} (h1 : r.Keeps a1) : r.KeepsNext (execRedirect a0 a1) := by
  unfold execRedirect
  try dsimp only
  repeat' first
    | with_reducible assumption
    | with_reducible exact State.Keeps.refl _
    | with_reducible apply State.arrive_keeps
    | with_reducible apply State.KeepsNext.next

theorem execAbort_keeps {r : State} {a0 : Msg} {a1 : State} (h1 : r.Keeps a1) : r.KeepsNext (execAbort a0 a1) := by
  unfold execAbort
  try dsimp only
  repeat' first
    | with_reducible assumption
    | with_reducible exact State.Keeps.refl _
    | with_reducible apply State.arrive_keeps
    | with_reducible apply State.KeepsNext.next

theorem execReleased_keeps {r : State} {a0 : Msg} {a1 : State} (h1 : r.Keeps a1) : r.KeepsNext (execReleased a0 a1) := by
  unfold execReleased
  try dsimp only
  repeat' first
    | with_reducible assumption
    | with_reducible exact State.Keeps.refl _
    | with_reducible apply State.arrive_keeps
    | with_reducible apply State.KeepsNext.next

theorem execRegister_keeps {r : State} {a0 : Msg} {a1 : State} (h1 : r.Keeps a1) : r.KeepsNext (execRegister a0 a1) := by
  unfold execRegister
  try dsimp only
  repeat' first
    | with_reducible assumption
    | with_reducible exact State.Keeps.refl _
    | with_reducible apply State.arrive_keeps
    | with_reducible apply State.KeepsNext.next

theorem execAdmitMessage_keeps {r : State} {a0 : Msg} {a1 : State} (h1 : r.Keeps a1) : r.KeepsNext (execAdmitMessage a0 a1) := by
  unfold execAdmitMessage
  try dsimp only
  repeat' first
    | with_reducible assumption
    | with_reducible exact State.Keeps.refl _
    | with_reducible apply State.arrive_keeps
    | with_reducible apply State.KeepsNext.next

theorem execCreditReq_keeps {r : State} {a0 : Msg} {a1 : State} (h1 : r.Keeps a1) : r.KeepsNext (execCreditReq a0 a1) := by
  unfold execCreditReq
  try dsimp only
  repeat' first
    | with_reducible assumption
    | with_reducible exact State.Keeps.refl _
    | with_reducible apply State.arrive_keeps
    | with_reducible apply State.KeepsNext.next

theorem execCovered_keeps {r : State} {a0 : Msg} {a1 : State} (h1 : r.Keeps a1) : r.KeepsNext (execCovered a0 a1) := by
  unfold execCovered
  try dsimp only
  repeat' first
    | with_reducible assumption
    | with_reducible exact State.Keeps.refl _
    | with_reducible apply State.arrive_keeps
    | with_reducible apply State.KeepsNext.next

theorem execRestoreReq_keeps {r : State} {a0 : Msg} {a1 : State} (h1 : r.Keeps a1) : r.KeepsNext (execRestoreReq a0 a1) := by
  unfold execRestoreReq
  try dsimp only
  repeat' first
    | with_reducible assumption
    | with_reducible exact State.Keeps.refl _
    | with_reducible apply State.arrive_keeps
    | with_reducible apply State.KeepsNext.next

theorem execRefs_keeps {r : State} {a0 : Msg} {a1 : State} (h1 : r.Keeps a1) : r.KeepsNext (execRefs a0 a1) := by
  unfold execRefs
  try dsimp only
  repeat' first
    | with_reducible assumption
    | with_reducible exact State.Keeps.refl _
    | with_reducible apply State.arrive_keeps
    | with_reducible apply State.KeepsNext.next

theorem execQuery_keeps {r : State} {a0 : Msg} {a1 : State} (h1 : r.Keeps a1) : r.KeepsNext (execQuery a0 a1) := by
  unfold execQuery
  try dsimp only
  repeat' first
    | with_reducible assumption
    | with_reducible exact State.Keeps.refl _
    | with_reducible apply State.arrive_keeps
    | with_reducible apply State.KeepsNext.next

theorem execPromptTokens_keeps {r : State} {a0 : Msg} {a1 : State} (h1 : r.Keeps a1) : r.KeepsNext (execPromptTokens a0 a1) := by
  unfold execPromptTokens
  try dsimp only
  repeat' first
    | with_reducible assumption
    | with_reducible exact State.Keeps.refl _
    | with_reducible apply State.arrive_keeps
    | with_reducible apply State.KeepsNext.next

theorem execSent_keeps {r : State} {a0 : Msg} {a1 : State} (h1 : r.Keeps a1) : r.KeepsNext (execSent a0 a1) := by
  unfold execSent
  try dsimp only
  repeat' first
    | with_reducible assumption
    | with_reducible exact State.Keeps.refl _
    | with_reducible apply State.arrive_keeps
    | with_reducible apply State.KeepsNext.next

theorem execReply_keeps {r : State} {a0 : Msg} {a1 : State} (h1 : r.Keeps a1) : r.KeepsNext (execReply a0 a1) := by
  unfold execReply
  try dsimp only
  repeat' first
    | with_reducible assumption
    | with_reducible exact State.Keeps.refl _
    | with_reducible apply State.arrive_keeps
    | with_reducible apply State.KeepsNext.next

theorem execEndMsg_keeps {r : State} {a0 : Msg} {a1 : State} (h1 : r.Keeps a1) : r.KeepsNext (execEndMsg a0 a1) := by
  unfold execEndMsg
  try dsimp only
  repeat' first
    | with_reducible assumption
    | with_reducible exact State.Keeps.refl _
    | with_reducible apply State.arrive_keeps
    | with_reducible apply State.KeepsNext.next

theorem execKeepalive_keeps {r : State} {a0 : Msg} {a1 : State} (h1 : r.Keeps a1) : r.KeepsNext (execKeepalive a0 a1) := by
  unfold execKeepalive
  try dsimp only
  repeat' first
    | with_reducible assumption
    | with_reducible exact State.Keeps.refl _
    | with_reducible apply State.arrive_keeps
    | with_reducible apply State.KeepsNext.next

theorem execReplicaReq_keeps {r : State} {a0 : Msg} {a1 : State} (h1 : r.Keeps a1) : r.KeepsNext (execReplicaReq a0 a1) := by
  unfold execReplicaReq
  try dsimp only
  repeat' first
    | with_reducible assumption
    | with_reducible exact State.Keeps.refl _
    | with_reducible apply State.arrive_keeps
    | with_reducible apply State.KeepsNext.next

theorem execPartialMsg_keeps {r : State} {a0 : Msg} {a1 : State} (h1 : r.Keeps a1) : r.KeepsNext (execPartialMsg a0 a1) := by
  unfold execPartialMsg
  try dsimp only
  repeat' first
    | with_reducible assumption
    | with_reducible exact State.Keeps.refl _
    | with_reducible apply State.arrive_keeps
    | with_reducible apply State.KeepsNext.next

end Sys2Proof.Machine
end

