-- ==== Sys2Proof/Laws/KeepsFabric.lean ====
section
/-! SUPPORT. Every operation of Machine/Fabric.lean keeps the queue, the fuses and the canonical forms. -/

namespace Sys2Proof.Machine

theorem State.straitOut_keeps {r : State} {a0 : State} {a1 : StraitOut} (h0 : r.Keeps a0) : r.Keeps (State.straitOut a0 a1) := by
  unfold State.straitOut
  repeat' first
    | with_reducible assumption
    | simp only [↓State.keeps_mk]

theorem State.nextPlane_keeps {r : State} {a0 : State} {a1 : U16} (h0 : r.Keeps a0) : r.Keeps (State.nextPlane a0 a1).2 := by
  unfold State.nextPlane
  repeat' first
    | with_reducible assumption
    | simp only [↓State.keeps_mk]

theorem State.setSport_keeps {r : State} {a0 : State} {a1 : ℕ} {a2 : StraitPort} (h0 : r.Keeps a0) : r.Keeps (State.setSport a0 a1 a2) := by
  unfold State.setSport
  repeat' first
    | with_reducible assumption
    | simp only [↓State.keeps_mk]

theorem State.onPlane_keeps {r : State} {a0 : State} {a1 : ℕ} {a2 : ℕ} {a3 : ℕ} {a4 : StraitOut} (h0 : r.Keeps a0) : r.Keeps (State.onPlane a0 a1 a2 a3 a4) := by
  unfold State.onPlane
  repeat' first
    | with_reducible assumption
    | with_reducible apply State.straitOut_keeps
    | with_reducible apply State.setSport_keeps

theorem State.setNetConn_keeps {r : State} {a0 : State} {a1 : ℕ} {a2 : Conn} (h0 : r.Keeps a0) : r.Keeps (State.setNetConn a0 a1 a2) := by
  unfold State.setNetConn
  repeat' first
    | with_reducible assumption
    | simp only [↓State.keeps_mk]

theorem State.netOut_keeps {r : State} {a0 : State} {a1 : NetOut} (h0 : r.Keeps a0) : r.Keeps (State.netOut a0 a1) := by
  unfold State.netOut
  repeat' first
    | with_reducible assumption
    | simp only [↓State.keeps_mk]

theorem State.emit_keeps {r : State} {a0 : State} {a1 : ℕ} {a2 : SentPacket} {a3 : Bool} (h0 : r.Keeps a0) : r.Keeps (State.emit a0 a1 a2 a3) := by
  unfold State.emit
  repeat' first
    | with_reducible assumption
    | with_reducible apply State.netOut_keeps
    | with_reducible apply State.setNetConn_keeps
    | with_reducible apply State.count_keeps
    | split

theorem State.pumpConn_keeps {r : State} {a0 : ℕ} {a1 : ℕ} {a2 : State} (h2 : r.Keeps a2) : r.Keeps (State.pumpConn a0 a1 a2) := by
  induction a0 generalizing a1 a2 with
  | zero =>
    unfold State.pumpConn
    try dsimp only
    repeat' first
      | with_reducible assumption
  | succ n ih =>
    unfold State.pumpConn
    try dsimp only
    repeat' first
      | with_reducible apply ih
      | with_reducible assumption
      | with_reducible exact State.Keeps.refl _
      | with_reducible apply State.setNetConn_keeps
      | with_reducible apply State.emit_keeps
      | with_reducible apply State.KeepsNext.next
      | with_reducible apply State.KeepsSome.none
      | with_reducible apply State.KeepsSome.some
      | with_reducible apply State.KeepsPair.none
      | with_reducible apply State.KeepsPair.some
      | with_reducible apply State.KeepsOk.error
      | with_reducible apply State.KeepsOk.ok
      | with_reducible apply State.Keeps.foldl
      | with_reducible apply State.Keeps.foldl_fst
      | (with_reducible refine State.Keeps.some (by assumption) ?_)
      | (with_reducible refine State.Keeps.pair (by assumption) ?_)
      | (with_reducible refine State.Keeps.ok (by assumption) ?_)
      | (with_reducible refine State.Keeps.fst (by assumption) ?_)
      | (with_reducible refine State.Keeps.snd (by assumption) ?_)
      | intro _
      | simp only [↓State.keeps_mk]
      | simp only [↓State.keeps_mk_fuses]
      | split

theorem State.sendWaiting_keeps {r : State} {a0 : State} {a1 : ℕ} (h0 : r.Keeps a0) : r.Keeps (State.sendWaiting a0 a1) := by
  unfold State.sendWaiting
  try dsimp only
  repeat' first
    | with_reducible assumption
    | with_reducible apply State.pumpConn_keeps
    | with_reducible apply State.netOut_keeps
    | with_reducible apply State.setNetConn_keeps
    | split

theorem State.netSend_keeps {r : State} {a0 : State} {a1 : ℕ} {a2 : NetItem} {a3 : ℕ} {a4 : ℕ → NetOut} (h0 : r.Keeps a0) : r.Keeps (State.netSend a0 a1 a2 a3 a4) := by
  unfold State.netSend
  repeat' first
    | with_reducible assumption
    | with_reducible apply State.tally_keeps
    | with_reducible apply State.sendWaiting_keeps
    | with_reducible apply State.netOut_keeps
    | with_reducible apply State.setNetConn_keeps
    | split

theorem State.sendUnit_keeps {r : State} {a0 : State} {a1 : U16} {a2 : Bool} {a3 : ℕ} {a4 : MoverUnit} {a5 : ℕ} (h0 : r.Keeps a0) : r.Keeps (State.sendUnit a0 a1 a2 a3 a4 a5) := by
  unfold State.sendUnit
  repeat' first
    | with_reducible assumption
    | with_reducible apply State.straitOut_keeps
    | with_reducible apply State.nextPlane_keeps
    | with_reducible apply State.onPlane_keeps
    | with_reducible apply State.netSend_keeps
    | with_reducible apply State.tally_keeps
    | split

theorem State.netRespond_keeps {r : State} {a0 : State} {a1 : ℕ} {a2 : ℕ} {a3 : ℕ} {a4 : NetOut} (h0 : r.Keeps a0) : r.Keeps (State.netRespond a0 a1 a2 a3 a4) := by
  unfold State.netRespond
  repeat' first
    | with_reducible assumption
    | with_reducible apply State.tally_keeps
    | with_reducible apply State.sendWaiting_keeps
    | with_reducible apply State.netOut_keeps
    | with_reducible apply State.setNetConn_keeps
    | split

theorem State.freeConn_keeps {r : State} {a0 : State} {a1 : ℕ} (h0 : r.Keeps a0) : r.Keeps (State.freeConn a0 a1) := by
  unfold State.freeConn
  repeat' first
    | with_reducible assumption
    | simp only [↓State.keeps_mk]

theorem State.setSpeer_keeps {r : State} {a0 : State} {a1 : U16} {a2 : StraitPeer} (h0 : r.Keeps a0) : r.Keeps (State.setSpeer a0 a1 a2) := by
  unfold State.setSpeer
  repeat' first
    | with_reducible assumption
    | simp only [↓State.keeps_mk]

end Sys2Proof.Machine
end

