-- ==== Sys2Proof/Laws/KeepsChamOps.lean ====
section
/-! SUPPORT. Every operation of Machine/ChamOps.lean keeps the queue, the fuses and the canonical forms. -/

namespace Sys2Proof.Machine

theorem State.putItem_keeps {r : State} {a0 : State} {a1 : IndexHeader} {a2 : ℕ} {a3 : ItemEntry} (h0 : r.Keeps a0) : r.Keeps (State.putItem a0 a1 a2 a3) := by
  unfold State.putItem
  repeat' first
    | with_reducible assumption
    | with_reducible apply State.write_keeps

theorem State.setIndex_keeps {r : State} {a0 : State} {a1 : ℕ} {a2 : Index} (h0 : r.Keeps a0) : r.Keeps (State.setIndex a0 a1 a2) := by
  unfold State.setIndex
  repeat' first
    | with_reducible assumption
    | simp only [↓State.keeps_mk]

theorem State.putDir_keeps {r : State} {a0 : State} {a1 : IndexHeader} {a2 : ℕ} {a3 : DirEntry} (h0 : r.Keeps a0) : r.Keeps (State.putDir a0 a1 a2 a3) := by
  unfold State.putDir
  repeat' first
    | with_reducible assumption
    | with_reducible apply State.write_keeps

theorem State.startCompactions_keeps {r : State} {a0 : State} {a1 : ℕ} (h0 : r.Keeps a0) : r.Keeps (State.startCompactions a0 a1) := by
  unfold State.startCompactions
  repeat' first
    | with_reducible assumption
    | with_reducible apply State.setIndex_keeps
    | with_reducible apply State.putDir_keeps
    | with_reducible apply State.Keeps.foldl
    | intro _
    | split

theorem State.putEntry_keeps {r : State} {a0 : State} {a1 : IndexHeader} {a2 : ℕ} {a3 : ℕ} {a4 : ListEntry} (h0 : r.Keeps a0) : r.Keeps (State.putEntry a0 a1 a2 a3 a4) := by
  unfold State.putEntry
  repeat' first
    | with_reducible assumption
    | with_reducible apply State.write_keeps

theorem State.takeSeg_keeps {r : State} {a0 : State} {a1 : ℕ} (h0 : r.Keeps a0) : r.KeepsPair (State.takeSeg a0 a1) := by
  unfold State.takeSeg
  repeat' first
    | with_reducible assumption
    | with_reducible apply State.setIndex_keeps
    | with_reducible apply State.KeepsPair.map
    | intro _
    | simp only [↓State.keeps_mk]

theorem State.commit_keeps {r : State} {a0 : State} {a1 : ℕ} {a2 : ℕ} (h0 : r.Keeps a0) : r.Keeps (State.commit a0 a1 a2) := by
  unfold State.commit
  repeat' first
    | with_reducible assumption
    | with_reducible apply State.write_keeps

theorem State.retire_keeps {r : State} {a0 : State} {a1 : ℕ} (h0 : r.Keeps a0) : r.Keeps (State.retire a0 a1) := by
  unfold State.retire
  try dsimp only
  repeat' first
    | with_reducible assumption
    | with_reducible apply State.setIndex_keeps
    | split

theorem State.orderCompaction_keeps {r : State} {a0 : State} {a1 : ℕ} {a2 : ℕ} (h0 : r.Keeps a0) : r.Keeps (State.orderCompaction a0 a1 a2) := by
  unfold State.orderCompaction
  repeat' first
    | with_reducible assumption
    | with_reducible apply State.setIndex_keeps
    | with_reducible apply State.startCompactions_keeps
    | split

theorem State.compactIfDue_keeps {r : State} {a0 : State} {a1 : ℕ} {a2 : ℕ} (h0 : r.Keeps a0) : r.Keeps (State.compactIfDue a0 a1 a2) := by
  unfold State.compactIfDue
  try dsimp only
  repeat' first
    | with_reducible assumption
    | with_reducible apply State.orderCompaction_keeps
    | split

theorem State.putSegHeader_keeps {r : State} {a0 : State} {a1 : ℕ} {a2 : ℕ} {a3 : ℕ} {a4 : ℕ} {a5 : ℕ} {a6 : ℕ} (h0 : r.Keeps a0) : r.Keeps (State.putSegHeader a0 a1 a2 a3 a4 a5 a6) := by
  unfold State.putSegHeader
  repeat' first
    | with_reducible assumption
    | with_reducible apply State.write_keeps

end Sys2Proof.Machine
end

