-- ==== Sys2Proof/Laws/KeepsRegWrite.lean ====
section
/-! SUPPORT. Every operation of Machine/RegWrite.lean keeps the queue, the fuses and the canonical forms. -/

namespace Sys2Proof.Machine

theorem after_keeps {r : State} {a0 : State → Host.Outcome State Fault Refusal} {a1 : State} (h0 : ∀ x, r.Keeps x → r.KeepsNext (a0 x)) (h1 : r.Keeps a1) : r.Keeps (after a0 a1) := by
  unfold after
  split
  · exact (h0 a1 h1).keeps _ ‹_›
  · exact h1

theorem afterIf_keeps {r : State} {a0 : Bool} {a1 : State → Host.Outcome State Fault Refusal} {a2 : State} (h1 : ∀ x, r.Keeps x → r.KeepsNext (a1 x)) (h2 : r.Keeps a2) : r.Keeps (afterIf a0 a1 a2) := by
  unfold afterIf
  try dsimp only
  repeat' first
    | with_reducible assumption
    | with_reducible exact State.Keeps.refl _
    | with_reducible apply after_keeps
    | with_reducible apply State.KeepsNext.next
    | with_reducible apply State.KeepsSome.none
    | with_reducible apply State.KeepsSome.some
    | with_reducible apply State.KeepsPair.none
    | with_reducible apply State.KeepsPair.some
    | with_reducible apply State.KeepsOk.error
    | with_reducible apply State.KeepsOk.ok
    | with_reducible apply State.KeepsSome.map_state
    | with_reducible apply State.KeepsSome.map
    | with_reducible apply State.KeepsPair.map_state
    | with_reducible apply State.KeepsPair.map_pair
    | with_reducible apply State.KeepsPair.map
    | with_reducible apply State.Keeps.foldl
    | with_reducible apply State.Keeps.foldl_fst
    | (with_reducible refine State.Keeps.some (by assumption) ?_)
    | (with_reducible refine State.Keeps.pair (by assumption) ?_)
    | (with_reducible refine State.Keeps.ok (by assumption) ?_)
    | (with_reducible refine State.Keeps.fst (by assumption) ?_)
    | (with_reducible refine State.Keeps.snd (by assumption) ?_)
    | apply h1
    | intro _
    | simp only [↓State.keeps_mk]
    | simp only [↓State.keeps_mk_fuses]
    | split

theorem State.writeEngines_keeps {r : State} {a0 : State} {a1 : ℕ} {a2 : U32} (h0 : r.Keeps a0) : r.KeepsSome (State.writeEngines a0 a1 a2) := by
  unfold State.writeEngines
  try dsimp only
  repeat' first
    | with_reducible assumption
    | with_reducible exact State.Keeps.refl _
    | with_reducible apply after_keeps
    | with_reducible apply execDevDeviceIdWrite_keeps
    | with_reducible apply execBootSlotWrite_keeps
    | with_reducible apply afterIf_keeps
    | with_reducible apply execAbortDrain_keeps
    | with_reducible apply State.wr_keeps
    | with_reducible apply State.setFlag_keeps
    | with_reducible apply execClearMax_keeps
    | with_reducible apply execStepSingle_keeps
    | with_reducible apply execStepPause_keeps
    | with_reducible apply execStepRun_keeps
    | with_reducible apply execHerdPeerWeightWrite_keeps
    | with_reducible apply execHerdEntrySelWrite_keeps
    | with_reducible apply execElandClearHwm_keeps
    | with_reducible apply execElandHold_keeps
    | with_reducible apply execElandFencedWrite_keeps
    | with_reducible apply execSpringClearCounts_keeps
    | with_reducible apply execSpringFencedWrite_keeps
    | with_reducible apply State.KeepsNext.next
    | with_reducible apply State.KeepsSome.none
    | with_reducible apply State.KeepsSome.some
    | with_reducible apply State.KeepsPair.none
    | with_reducible apply State.KeepsPair.some
    | with_reducible apply State.KeepsOk.error
    | with_reducible apply State.KeepsOk.ok
    | with_reducible apply State.KeepsSome.map_state
    | with_reducible apply State.KeepsSome.map
    | with_reducible apply State.KeepsPair.map_state
    | with_reducible apply State.KeepsPair.map_pair
    | with_reducible apply State.KeepsPair.map
    | with_reducible apply State.Keeps.foldl
    | with_reducible apply State.Keeps.foldl_fst
    | (with_reducible refine State.Keeps.some (by assumption) ?_)
    | (with_reducible refine State.Keeps.pair (by assumption) ?_)
    | (with_reducible refine State.Keeps.ok (by assumption) ?_)
    | (with_reducible refine State.Keeps.fst (by assumption) ?_)
    | (with_reducible refine State.Keeps.snd (by assumption) ?_)
    | intro _
    | simp only [↓State.keeps_mk]
    | simp only [↓State.keeps_mk_fuses]
    | split

theorem State.plainWrite_keeps {r : State} {a0 : State} {a1 : RegInfo} {a2 : ℕ} {a3 : U32} (h0 : r.Keeps a0) : r.Keeps (State.plainWrite a0 a1 a2 a3) := by
  unfold State.plainWrite
  try dsimp only
  repeat' first
    | with_reducible assumption
    | with_reducible exact State.Keeps.refl _
    | with_reducible apply State.wr_keeps

theorem State.writeMovement_keeps {r : State} {a0 : State} {a1 : Option (Fin 2)} {a2 : ℕ} {a3 : U32} (h0 : r.Keeps a0) : r.KeepsSome (State.writeMovement a0 a1 a2 a3) := by
  unfold State.writeMovement
  try dsimp only
  repeat' first
    | with_reducible assumption
    | with_reducible exact State.Keeps.refl _
    | with_reducible apply State.plainWrite_keeps
    | with_reducible apply State.setFlag_keeps
    | with_reducible apply afterIf_keeps
    | with_reducible apply execRecount_keeps
    | with_reducible apply after_keeps
    | with_reducible apply execTierRegionSelWrite_keeps
    | with_reducible apply execIbexClearCounts_keeps
    | with_reducible apply execIbexClearHwm_keeps
    | with_reducible apply execIbexHold_keeps
    | with_reducible apply State.wr_keeps
    | with_reducible apply execStraitClearCounts_keeps
    | with_reducible apply execRetrain_keeps
    | with_reducible apply execStraitWinSelWrite_keeps
    | with_reducible apply execNetClearCounts_keeps
    | with_reducible apply execNetWinSelWrite_keeps
    | with_reducible apply execShapeClearDrops_keeps
    | with_reducible apply execShapeConnWindowWrite_keeps
    | with_reducible apply State.writeShaper_keeps
    | with_reducible apply execPolicerWrite_keeps
    | with_reducible apply State.KeepsNext.next
    | with_reducible apply State.KeepsSome.none
    | with_reducible apply State.KeepsSome.some
    | with_reducible apply State.KeepsPair.none
    | with_reducible apply State.KeepsPair.some
    | with_reducible apply State.KeepsOk.error
    | with_reducible apply State.KeepsOk.ok
    | with_reducible apply State.KeepsSome.map_state
    | with_reducible apply State.KeepsSome.map_pair
    | with_reducible apply State.KeepsSome.map
    | with_reducible apply State.KeepsPair.map_state
    | with_reducible apply State.KeepsPair.map_pair
    | with_reducible apply State.KeepsPair.map
    | with_reducible apply State.Keeps.foldl
    | with_reducible apply State.Keeps.foldl_fst
    | (with_reducible refine State.Keeps.some (by assumption) ?_)
    | (with_reducible refine State.Keeps.pair (by assumption) ?_)
    | (with_reducible refine State.Keeps.ok (by assumption) ?_)
    | (with_reducible refine State.Keeps.fst (by assumption) ?_)
    | (with_reducible refine State.Keeps.snd (by assumption) ?_)
    | with_reducible apply State.Keeps.ite
    | with_reducible apply State.KeepsSome.ite
    | with_reducible apply State.KeepsSome.or
    | intro _
    | simp only [↓State.keeps_mk]
    | simp only [↓State.keeps_mk_fuses]
    | split

theorem State.writeQuota_keeps {r : State} {a0 : State} {a1 : U32} {a2 : Tenant → Tenant} (h0 : r.Keeps a0) : r.Keeps (State.writeQuota a0 a1 a2) := by
  unfold State.writeQuota
  try dsimp only
  repeat' first
    | with_reducible assumption
    | with_reducible exact State.Keeps.refl _
    | with_reducible apply State.setFlag_keeps
    | with_reducible apply State.setTenant_keeps
    | with_reducible apply State.KeepsNext.next
    | with_reducible apply State.KeepsSome.none
    | with_reducible apply State.KeepsSome.some
    | with_reducible apply State.KeepsPair.none
    | with_reducible apply State.KeepsPair.some
    | with_reducible apply State.KeepsOk.error
    | with_reducible apply State.KeepsOk.ok
    | with_reducible apply State.KeepsSome.map_state
    | with_reducible apply State.KeepsSome.map_pair
    | with_reducible apply State.KeepsSome.map
    | with_reducible apply State.KeepsPair.map_state
    | with_reducible apply State.KeepsPair.map_pair
    | with_reducible apply State.KeepsPair.map
    | with_reducible apply State.Keeps.foldl
    | with_reducible apply State.Keeps.foldl_fst
    | (with_reducible refine State.Keeps.some (by assumption) ?_)
    | (with_reducible refine State.Keeps.pair (by assumption) ?_)
    | (with_reducible refine State.Keeps.ok (by assumption) ?_)
    | (with_reducible refine State.Keeps.fst (by assumption) ?_)
    | (with_reducible refine State.Keeps.snd (by assumption) ?_)
    | with_reducible apply State.Keeps.ite
    | with_reducible apply State.KeepsSome.ite
    | with_reducible apply State.KeepsSome.or
    | intro _
    | simp only [↓State.keeps_mk]
    | simp only [↓State.keeps_mk_fuses]
    | split

theorem State.writeSharing_keeps {r : State} {a0 : State} {a1 : Option (Fin 2)} {a2 : ℕ} {a3 : U32} (h0 : r.Keeps a0) : r.KeepsSome (State.writeSharing a0 a1 a2 a3) := by
  unfold State.writeSharing
  try dsimp only
  repeat' first
    | with_reducible assumption
    | with_reducible exact State.Keeps.refl _
    | with_reducible apply afterIf_keeps
    | with_reducible apply execChamClearCounts_keeps
    | with_reducible apply State.setFlag_keeps
    | with_reducible apply after_keeps
    | with_reducible apply execChamHold_keeps
    | with_reducible apply State.startCompactions_keeps
    | with_reducible apply execChamCompactCmd_keeps
    | with_reducible apply State.wr_keeps
    | with_reducible apply execChamSnapPointHiWrite_keeps
    | with_reducible apply execTenantSelWrite_keeps
    | with_reducible apply execTenantCfgWrite_keeps
    | with_reducible apply State.writeQuota_keeps
    | with_reducible apply execTenantTokBalanceWrite_keeps
    | with_reducible apply execTenantAdmBalanceWrite_keeps
    | with_reducible apply State.KeepsNext.next
    | with_reducible apply State.KeepsSome.none
    | with_reducible apply State.KeepsSome.some
    | with_reducible apply State.KeepsPair.none
    | with_reducible apply State.KeepsPair.some
    | with_reducible apply State.KeepsOk.error
    | with_reducible apply State.KeepsOk.ok
    | with_reducible apply State.KeepsSome.map_state
    | with_reducible apply State.KeepsSome.map_pair
    | with_reducible apply State.KeepsSome.map
    | with_reducible apply State.KeepsPair.map_state
    | with_reducible apply State.KeepsPair.map_pair
    | with_reducible apply State.KeepsPair.map
    | with_reducible apply State.Keeps.foldl
    | with_reducible apply State.Keeps.foldl_fst
    | (with_reducible refine State.Keeps.some (by assumption) ?_)
    | (with_reducible refine State.Keeps.pair (by assumption) ?_)
    | (with_reducible refine State.Keeps.ok (by assumption) ?_)
    | (with_reducible refine State.Keeps.fst (by assumption) ?_)
    | (with_reducible refine State.Keeps.snd (by assumption) ?_)
    | with_reducible apply State.Keeps.ite
    | with_reducible apply State.KeepsSome.ite
    | with_reducible apply State.KeepsSome.or
    | intro _
    | simp only [↓State.keeps_mk]

theorem State.writeWatch_keeps {r : State} {a0 : State} {a1 : WriteEnv} {a2 : Option (Fin 2)} {a3 : ℕ} {a4 : U32} (h0 : r.Keeps a0) : r.KeepsSome (State.writeWatch a0 a1 a2 a3 a4) := by
  unfold State.writeWatch
  try dsimp only
  repeat' first
    | with_reducible assumption
    | with_reducible exact State.Keeps.refl _
    | with_reducible apply afterIf_keeps
    | with_reducible apply execInject_keeps
    | with_reducible apply execClearLost_keeps
    | with_reducible apply after_keeps
    | with_reducible apply execFaultRingTailWrite_keeps
    | with_reducible apply execFaultTenantFenceWrite_keeps
    | with_reducible apply execSnap_keeps
    | with_reducible apply execTideNextWrite_keeps
    | with_reducible apply State.wr_keeps
    | with_reducible apply State.setFlag_keeps
    | with_reducible apply execTraceReset_keeps
    | with_reducible apply State.flushLoss_keeps
    | with_reducible apply execMark_keeps
    | with_reducible apply execObsTraceRposWrite_keeps
    | with_reducible apply execObsTraceTrigger_keeps
    | with_reducible apply execObsWinUnlock_keeps
    | with_reducible apply execHealthClearDropped_keeps
    | with_reducible apply execEyeNow_keeps
    | with_reducible apply execHealthRowSelWrite_keeps
    | with_reducible apply execHealthLogSelWrite_keeps
    | with_reducible apply State.KeepsNext.next
    | with_reducible apply State.KeepsSome.none
    | with_reducible apply State.KeepsSome.some
    | with_reducible apply State.KeepsPair.none
    | with_reducible apply State.KeepsPair.some
    | with_reducible apply State.KeepsOk.error
    | with_reducible apply State.KeepsOk.ok
    | with_reducible apply State.KeepsSome.map_state
    | with_reducible apply State.KeepsSome.map_pair
    | with_reducible apply State.KeepsSome.map
    | with_reducible apply State.KeepsPair.map_state
    | with_reducible apply State.KeepsPair.map_pair
    | with_reducible apply State.KeepsPair.map
    | with_reducible apply State.Keeps.foldl
    | with_reducible apply State.Keeps.foldl_fst
    | (with_reducible refine State.Keeps.some (by assumption) ?_)
    | (with_reducible refine State.Keeps.pair (by assumption) ?_)
    | (with_reducible refine State.Keeps.ok (by assumption) ?_)
    | (with_reducible refine State.Keeps.fst (by assumption) ?_)
    | (with_reducible refine State.Keeps.snd (by assumption) ?_)
    | with_reducible apply State.Keeps.ite
    | with_reducible apply State.KeepsSome.ite
    | with_reducible apply State.KeepsSome.or
    | intro _
    | simp only [↓State.keeps_mk]
    | simp only [↓State.keeps_mk_fuses]
    | split

theorem State.writeWindow_keeps {r : State} {a0 : State} {a1 : ℕ} {a2 : ℕ} {a3 : U32} (h0 : r.Keeps a0) : r.Keeps (State.writeWindow a0 a1 a2 a3) := by
  unfold State.writeWindow
  try dsimp only
  repeat' first
    | with_reducible assumption
    | with_reducible exact State.Keeps.refl _
    | with_reducible apply State.setFlag_keeps
    | with_reducible apply State.setWin_keeps
    | with_reducible apply State.resetWindow_keeps
    | with_reducible apply State.ringHead_keeps
    | with_reducible apply State.KeepsNext.next
    | with_reducible apply State.KeepsSome.none
    | with_reducible apply State.KeepsSome.some
    | with_reducible apply State.KeepsPair.none
    | with_reducible apply State.KeepsPair.some
    | with_reducible apply State.KeepsOk.error
    | with_reducible apply State.KeepsOk.ok
    | with_reducible apply State.Keeps.foldl
    | with_reducible apply State.Keeps.foldl_fst
    | (with_reducible refine State.Keeps.some (by assumption) ?_)
    | (with_reducible refine State.Keeps.pair (by assumption) ?_)
    | (with_reducible refine State.Keeps.ok (by assumption) ?_)
    | (with_reducible refine State.Keeps.fst (by assumption) ?_)
    | (with_reducible refine State.Keeps.snd (by assumption) ?_)
    | intro _
    | simp only [↓State.keeps_mk]
    | simp only [↓State.keeps_mk_fuses]
    | split

theorem State.writeManage_keeps {r : State} {a0 : State} {a1 : WriteEnv} {a2 : ℕ} {a3 : U32} (h0 : r.Keeps a0) : r.KeepsSome (State.writeManage a0 a1 a2 a3) := by
  unfold State.writeManage
  try dsimp only
  repeat' first
    | with_reducible assumption
    | with_reducible exact State.Keeps.refl _
    | with_reducible apply State.plainWrite_keeps
    | with_reducible apply State.wr_keeps
    | with_reducible apply after_keeps
    | with_reducible apply execBar4BaseHiWrite_keeps
    | with_reducible apply State.setFlag_keeps
    | with_reducible apply State.writeWindow_keeps
    | with_reducible apply afterIf_keeps
    | with_reducible apply execFwAbort_keeps
    | with_reducible apply execFwSvnAdvance_keeps
    | with_reducible apply execFwSelWrite_keeps
    | with_reducible apply execEnroll_keeps
    | with_reducible apply execSelftest_keeps
    | with_reducible apply execBlowDebugLock_keeps
    | with_reducible apply execBlowMldsaReq_keeps
    | with_reducible apply execPwrClearCounts_keeps
    | with_reducible apply execPreferB_keeps
    | with_reducible apply execPwrCapWrite_keeps
    | with_reducible apply execPwrResetWarm_keeps
    | with_reducible apply execPwrResetCold_keeps
    | with_reducible apply State.boot_keeps
    | with_reducible apply State.KeepsNext.next
    | with_reducible apply State.KeepsSome.none
    | with_reducible apply State.KeepsSome.some
    | with_reducible apply State.KeepsPair.none
    | with_reducible apply State.KeepsPair.some
    | with_reducible apply State.KeepsOk.error
    | with_reducible apply State.KeepsOk.ok
    | with_reducible apply State.KeepsSome.map_state
    | with_reducible apply State.KeepsSome.map_pair
    | with_reducible apply State.KeepsSome.map
    | with_reducible apply State.KeepsPair.map_state
    | with_reducible apply State.KeepsPair.map_pair
    | with_reducible apply State.KeepsPair.map
    | with_reducible apply State.Keeps.foldl
    | with_reducible apply State.Keeps.foldl_fst
    | (with_reducible refine State.Keeps.some (by assumption) ?_)
    | (with_reducible refine State.Keeps.pair (by assumption) ?_)
    | (with_reducible refine State.Keeps.ok (by assumption) ?_)
    | (with_reducible refine State.Keeps.fst (by assumption) ?_)
    | (with_reducible refine State.Keeps.snd (by assumption) ?_)
    | with_reducible apply State.Keeps.ite
    | with_reducible apply State.KeepsSome.ite
    | with_reducible apply State.KeepsSome.or
    | intro _
    | simp only [↓State.keeps_mk]
    | simp only [↓State.keeps_mk_fuses]
    | split

theorem State.writeActs_keeps {r : State} {a0 : State} {a1 : WriteEnv} {a2 : Option (Fin 2)} {a3 : ℕ} {a4 : U32} (h0 : r.Keeps a0) : r.KeepsSome (State.writeActs a0 a1 a2 a3 a4) := by
  unfold State.writeActs
  try dsimp only
  repeat' first
    | with_reducible assumption
    | with_reducible exact State.Keeps.refl _
    | with_reducible apply State.writeEngines_keeps
    | with_reducible apply State.writeMovement_keeps
    | with_reducible apply State.writeSharing_keeps
    | with_reducible apply State.writeWatch_keeps
    | with_reducible apply State.writeManage_keeps
    | with_reducible apply State.KeepsNext.next
    | with_reducible apply State.KeepsSome.none
    | with_reducible apply State.KeepsSome.some
    | with_reducible apply State.KeepsPair.none
    | with_reducible apply State.KeepsPair.some
    | with_reducible apply State.KeepsOk.error
    | with_reducible apply State.KeepsOk.ok
    | with_reducible apply State.KeepsSome.map_state
    | with_reducible apply State.KeepsSome.map_pair
    | with_reducible apply State.KeepsSome.map
    | with_reducible apply State.KeepsPair.map_state
    | with_reducible apply State.KeepsPair.map_pair
    | with_reducible apply State.KeepsPair.map
    | with_reducible apply State.Keeps.foldl
    | with_reducible apply State.Keeps.foldl_fst
    | (with_reducible refine State.Keeps.some (by assumption) ?_)
    | (with_reducible refine State.Keeps.pair (by assumption) ?_)
    | (with_reducible refine State.Keeps.ok (by assumption) ?_)
    | (with_reducible refine State.Keeps.fst (by assumption) ?_)
    | (with_reducible refine State.Keeps.snd (by assumption) ?_)
    | with_reducible apply State.Keeps.ite
    | with_reducible apply State.KeepsSome.ite
    | with_reducible apply State.KeepsSome.or

theorem State.regWrite_keeps {r : State} {a0 : State} {a1 : WriteEnv} {a2 : Option (Fin 2)} {a3 : ℕ} {a4 : U32} (h0 : r.Keeps a0) : r.Keeps (State.regWrite a0 a1 a2 a3 a4) := by
  unfold State.regWrite
  try dsimp only
  repeat' first
    | with_reducible assumption
    | with_reducible exact State.Keeps.refl _
    | with_reducible apply after_keeps
    | with_reducible apply execProfileSelect_keeps
    | with_reducible apply execExpertFieldWrite_keeps
    | with_reducible apply State.writeActs_keeps
    | with_reducible apply State.setFlag_keeps
    | with_reducible apply State.plainWrite_keeps
    | with_reducible apply State.KeepsNext.next
    | with_reducible apply State.KeepsSome.none
    | with_reducible apply State.KeepsSome.some
    | with_reducible apply State.KeepsPair.none
    | with_reducible apply State.KeepsPair.some
    | with_reducible apply State.KeepsOk.error
    | with_reducible apply State.KeepsOk.ok
    | with_reducible apply State.KeepsSome.map_state
    | with_reducible apply State.KeepsSome.map
    | with_reducible apply State.KeepsPair.map_state
    | with_reducible apply State.KeepsPair.map_pair
    | with_reducible apply State.KeepsPair.map
    | with_reducible apply State.Keeps.foldl
    | with_reducible apply State.Keeps.foldl_fst
    | (with_reducible refine State.Keeps.some (by assumption) ?_)
    | (with_reducible refine State.Keeps.pair (by assumption) ?_)
    | (with_reducible refine State.Keeps.ok (by assumption) ?_)
    | (with_reducible refine State.Keeps.fst (by assumption) ?_)
    | (with_reducible refine State.Keeps.snd (by assumption) ?_)
    | intro _
    | simp only [↓State.keeps_mk]
    | simp only [↓State.keeps_mk_fuses]
    | split

theorem State.regWrites_keeps {r : State} {a0 : State} {a1 : WriteEnv} {a2 : Option (Fin 2)} {a3 : ℕ} {a4 : ℕ} {a5 : U64} (h0 : r.Keeps a0) : r.Keeps (State.regWrites a0 a1 a2 a3 a4 a5) := by
  unfold State.regWrites
  try dsimp only
  repeat' first
    | with_reducible assumption
    | with_reducible exact State.Keeps.refl _
    | with_reducible apply State.regWrite_keeps
    | with_reducible apply State.KeepsNext.next
    | with_reducible apply State.KeepsSome.none
    | with_reducible apply State.KeepsSome.some
    | with_reducible apply State.KeepsPair.none
    | with_reducible apply State.KeepsPair.some
    | with_reducible apply State.KeepsOk.error
    | with_reducible apply State.KeepsOk.ok
    | with_reducible apply State.Keeps.foldl
    | with_reducible apply State.Keeps.foldl_fst
    | (with_reducible refine State.Keeps.some (by assumption) ?_)
    | (with_reducible refine State.Keeps.pair (by assumption) ?_)
    | (with_reducible refine State.Keeps.ok (by assumption) ?_)
    | (with_reducible refine State.Keeps.fst (by assumption) ?_)
    | (with_reducible refine State.Keeps.snd (by assumption) ?_)
    | intro _
    | simp only [↓State.keeps_mk]
    | simp only [↓State.keeps_mk_fuses]
    | split

theorem State.hostWrite_keeps {r : State} {a0 : State} {a1 : WriteEnv} {a2 : Fin 2} {a3 : Fin 65} {a4 : ℕ} {a5 : U32} (h0 : r.Keeps a0) : r.Keeps (State.hostWrite a0 a1 a2 a3 a4 a5) := by
  unfold State.hostWrite
  try dsimp only
  repeat' first
    | with_reducible assumption
    | with_reducible exact State.Keeps.refl _
    | with_reducible apply State.regWrite_keeps
    | with_reducible apply State.writeWindow_keeps
    | with_reducible apply State.KeepsNext.next
    | with_reducible apply State.KeepsSome.none
    | with_reducible apply State.KeepsSome.some
    | with_reducible apply State.KeepsPair.none
    | with_reducible apply State.KeepsPair.some
    | with_reducible apply State.KeepsOk.error
    | with_reducible apply State.KeepsOk.ok
    | with_reducible apply State.Keeps.foldl
    | with_reducible apply State.Keeps.foldl_fst
    | (with_reducible refine State.Keeps.some (by assumption) ?_)
    | (with_reducible refine State.Keeps.pair (by assumption) ?_)
    | (with_reducible refine State.Keeps.ok (by assumption) ?_)
    | (with_reducible refine State.Keeps.fst (by assumption) ?_)
    | (with_reducible refine State.Keeps.snd (by assumption) ?_)
    | intro _
    | simp only [↓State.keeps_mk]
    | simp only [↓State.keeps_mk_fuses]
    | split

theorem execRegisterWrite_keeps {r : State} {a0 : Fin 2} {a1 : Fin 65} {a2 : ℕ} {a3 : ℕ} {a4 : U64} {a5 : WriteEnv} {a6 : State} (h6 : r.Keeps a6) : r.KeepsNext (execRegisterWrite a0 a1 a2 a3 a4 a5 a6) := by
  unfold execRegisterWrite
  try dsimp only
  repeat' first
    | with_reducible assumption
    | with_reducible exact State.Keeps.refl _
    | with_reducible apply State.hostWrite_keeps
    | with_reducible apply State.KeepsNext.next
    | with_reducible apply State.KeepsSome.none
    | with_reducible apply State.KeepsSome.some
    | with_reducible apply State.KeepsPair.none
    | with_reducible apply State.KeepsPair.some
    | with_reducible apply State.KeepsOk.error
    | with_reducible apply State.KeepsOk.ok
    | with_reducible apply State.Keeps.foldl
    | with_reducible apply State.Keeps.foldl_fst
    | (with_reducible refine State.Keeps.some (by assumption) ?_)
    | (with_reducible refine State.Keeps.pair (by assumption) ?_)
    | (with_reducible refine State.Keeps.ok (by assumption) ?_)
    | (with_reducible refine State.Keeps.fst (by assumption) ?_)
    | (with_reducible refine State.Keeps.snd (by assumption) ?_)
    | intro _
    | simp only [↓State.keeps_mk]
    | simp only [↓State.keeps_mk_fuses]
    | split

end Sys2Proof.Machine
end

