-- ==== Sys2Proof/Laws/KeepsStraitTarget.lean ====
section
/-! SUPPORT. Every operation of Machine/StraitTarget.lean keeps the queue, the fuses and the canonical forms. -/

namespace Sys2Proof.Machine

theorem State.countRefused_keeps {r : State} {a0 : State} {a1 : Byte} (h0 : r.Keeps a0) : r.Keeps (State.countRefused a0 a1) := by
  unfold State.countRefused
  try dsimp only
  repeat' first
    | with_reducible assumption
    | with_reducible exact State.Keeps.refl _
    | with_reducible apply State.bump_keeps
    | with_reducible apply State.KeepsNext.next
    | with_reducible apply State.KeepsSome.none
    | with_reducible apply State.KeepsSome.some
    | with_reducible apply State.KeepsPair.none
    | with_reducible apply State.KeepsPair.some
    | with_reducible apply State.KeepsOk.error
    | with_reducible apply State.KeepsOk.ok
    | with_reducible apply State.Keeps.foldl
    | with_reducible apply State.Keeps.foldl_fst
    | (with_reducible refine State.Keeps.some (by assumption) ?_)
    | (with_reducible refine State.Keeps.pair (by assumption) ?_)
    | (with_reducible refine State.Keeps.ok (by assumption) ?_)
    | (with_reducible refine State.Keeps.fst (by assumption) ?_)
    | (with_reducible refine State.Keeps.snd (by assumption) ?_)
    | intro _
    | simp only [↓State.keeps_mk]
    | simp only [↓State.keeps_mk_fuses]
    | split

theorem State.runMemory_keeps {r : State} {a0 : State} {a1 : StraitOp} {a2 : ℕ} {a3 : ℕ} {a4 : List Byte} {a5 : Bool} (h0 : r.Keeps a0) : r.Keeps (State.runMemory a0 a1 a2 a3 a4 a5).state := by
  unfold State.runMemory
  try dsimp only
  repeat' first
    | with_reducible assumption
    | with_reducible exact State.Keeps.refl _
    | with_reducible apply State.writeP_keeps
    | with_reducible apply State.write_keeps
    | with_reducible apply State.KeepsNext.next
    | with_reducible apply State.KeepsSome.none
    | with_reducible apply State.KeepsSome.some
    | with_reducible apply State.KeepsPair.none
    | with_reducible apply State.KeepsPair.some
    | with_reducible apply State.KeepsOk.error
    | with_reducible apply State.KeepsOk.ok
    | with_reducible apply State.Keeps.foldl
    | with_reducible apply State.Keeps.foldl_fst
    | (with_reducible refine State.Keeps.some (by assumption) ?_)
    | (with_reducible refine State.Keeps.pair (by assumption) ?_)
    | (with_reducible refine State.Keeps.ok (by assumption) ?_)
    | (with_reducible refine State.Keeps.fst (by assumption) ?_)
    | (with_reducible refine State.Keeps.snd (by assumption) ?_)
    | intro _
    | simp only [↓State.keeps_mk]
    | simp only [↓State.keeps_mk_fuses]
    | split

theorem State.runRequest_keeps {r : State} {a0 : State} {a1 : WriteEnv} {a2 : StraitOp} {a3 : U16} {a4 : U16} {a5 : U64} {a6 : Option ℕ} {a7 : List Byte} {a8 : Bool} (h0 : r.Keeps a0) : r.Keeps (State.runRequest a0 a1 a2 a3 a4 a5 a6 a7 a8).state := by
  unfold State.runRequest
  try dsimp only
  repeat' first
    | with_reducible assumption
    | with_reducible exact State.Keeps.refl _
    | with_reducible apply State.countRefused_keeps
    | with_reducible apply State.readRegs_keeps
    | with_reducible apply State.regWrites_keeps
    | with_reducible apply State.refuse_keeps
    | with_reducible apply State.runMemory_keeps
    | with_reducible apply State.take_keeps
    | with_reducible apply State.KeepsNext.next
    | with_reducible apply State.KeepsSome.none
    | with_reducible apply State.KeepsSome.some
    | with_reducible apply State.KeepsPair.none
    | with_reducible apply State.KeepsPair.some
    | with_reducible apply State.KeepsOk.error
    | with_reducible apply State.KeepsOk.ok
    | with_reducible apply State.KeepsSome.map_state
    | with_reducible apply State.KeepsSome.map_pair
    | with_reducible apply State.KeepsSome.map
    | with_reducible apply State.KeepsPair.map_state
    | with_reducible apply State.KeepsPair.map_pair
    | with_reducible apply State.KeepsPair.map
    | with_reducible apply State.Keeps.foldl
    | with_reducible apply State.Keeps.foldl_fst
    | (with_reducible refine State.Keeps.some (by assumption) ?_)
    | (with_reducible refine State.Keeps.pair (by assumption) ?_)
    | (with_reducible refine State.Keeps.ok (by assumption) ?_)
    | (with_reducible refine State.Keeps.fst (by assumption) ?_)
    | (with_reducible refine State.Keeps.snd (by assumption) ?_)
    | with_reducible apply State.Keeps.ite
    | with_reducible apply State.KeepsSome.ite
    | with_reducible apply State.KeepsSome.or
    | intro _
    | simp only [↓State.keeps_mk]
    | simp only [↓State.keeps_mk_fuses]
    | split

theorem State.answerUnit_keeps {r : State} {a0 : State} {a1 : MoverUnit} (h0 : r.Keeps a0) : r.Keeps (State.answerUnit a0 a1) := by
  unfold State.answerUnit
  try dsimp only
  repeat' first
    | with_reducible assumption
    | with_reducible exact State.Keeps.refl _
    | with_reducible apply State.countRefused_keeps
    | with_reducible apply State.nextPlane_keeps
    | with_reducible apply State.onPlane_keeps
    | with_reducible apply State.KeepsNext.next
    | with_reducible apply State.KeepsSome.none
    | with_reducible apply State.KeepsSome.some
    | with_reducible apply State.KeepsPair.none
    | with_reducible apply State.KeepsPair.some
    | with_reducible apply State.KeepsOk.error
    | with_reducible apply State.KeepsOk.ok
    | with_reducible apply State.Keeps.foldl
    | with_reducible apply State.Keeps.foldl_fst
    | (with_reducible refine State.Keeps.some (by assumption) ?_)
    | (with_reducible refine State.Keeps.pair (by assumption) ?_)
    | (with_reducible refine State.Keeps.ok (by assumption) ?_)
    | (with_reducible refine State.Keeps.fst (by assumption) ?_)
    | (with_reducible refine State.Keeps.snd (by assumption) ?_)
    | intro _
    | simp only [↓State.keeps_mk]
    | simp only [↓State.keeps_mk_fuses]
    | split

theorem State.sendResp_keeps {r : State} {a0 : State} {a1 : StraitResp} (h0 : r.Keeps a0) : r.Keeps (State.sendResp a0 a1) := by
  unfold State.sendResp
  try dsimp only
  repeat' first
    | with_reducible assumption
    | with_reducible exact State.Keeps.refl _
    | with_reducible apply State.nextPlane_keeps
    | with_reducible apply State.onPlane_keeps
    | with_reducible apply State.KeepsNext.next
    | with_reducible apply State.KeepsSome.none
    | with_reducible apply State.KeepsSome.some
    | with_reducible apply State.KeepsPair.none
    | with_reducible apply State.KeepsPair.some
    | with_reducible apply State.KeepsOk.error
    | with_reducible apply State.KeepsOk.ok
    | with_reducible apply State.Keeps.foldl
    | with_reducible apply State.Keeps.foldl_fst
    | (with_reducible refine State.Keeps.some (by assumption) ?_)
    | (with_reducible refine State.Keeps.pair (by assumption) ?_)
    | (with_reducible refine State.Keeps.ok (by assumption) ?_)
    | (with_reducible refine State.Keeps.fst (by assumption) ?_)
    | (with_reducible refine State.Keeps.snd (by assumption) ?_)
    | intro _
    | simp only [↓State.keeps_mk]
    | simp only [↓State.keeps_mk_fuses]
    | split

theorem State.serveRequest_keeps {r : State} {a0 : State} {a1 : WriteEnv} {a2 : StraitOp} {a3 : StraitReq} (h0 : r.Keeps a0) : r.Keeps (State.serveRequest a0 a1 a2 a3) := by
  unfold State.serveRequest
  try dsimp only
  repeat' first
    | with_reducible assumption
    | with_reducible exact State.Keeps.refl _
    | with_reducible apply State.runRequest_keeps
    | with_reducible apply State.sendResp_keeps
    | with_reducible apply State.KeepsNext.next
    | with_reducible apply State.KeepsSome.none
    | with_reducible apply State.KeepsSome.some
    | with_reducible apply State.KeepsPair.none
    | with_reducible apply State.KeepsPair.some
    | with_reducible apply State.KeepsOk.error
    | with_reducible apply State.KeepsOk.ok
    | with_reducible apply State.Keeps.foldl
    | with_reducible apply State.Keeps.foldl_fst
    | (with_reducible refine State.Keeps.some (by assumption) ?_)
    | (with_reducible refine State.Keeps.pair (by assumption) ?_)
    | (with_reducible refine State.Keeps.ok (by assumption) ?_)
    | (with_reducible refine State.Keeps.fst (by assumption) ?_)
    | (with_reducible refine State.Keeps.snd (by assumption) ?_)
    | intro _
    | simp only [↓State.keeps_mk]
    | simp only [↓State.keeps_mk_fuses]
    | split

/-- What a unit meets keeps what the state of its answer keeps. -/
structure State.KeepsUnit (r : State) (o : UnitTaken) : Prop where
  keeps : ∀ t a, o = .answer t a → r.Keeps t

theorem State.KeepsUnit.held (r : State) : r.KeepsUnit .held := ⟨fun _ _ e => by cases e⟩

theorem State.KeepsUnit.answer {r s : State} {a : MoverUnit} (h : r.Keeps s) : r.KeepsUnit (.answer s a) := ⟨fun _ _ e => by cases e; exact h⟩

theorem State.KeepsUnit.ite {r : State} {o p : UnitTaken} {c : Prop} [Decidable c] (ho : r.KeepsUnit o) (hp : r.KeepsUnit p) :
    r.KeepsUnit (if c then o else p) := by
  split
  · exact ho
  · exact hp

theorem State.Keeps.answered {r t : State} {a : MoverUnit} {o : UnitTaken} (e : o = .answer t a) (h : r.KeepsUnit o) : r.Keeps t := h.keeps t a e

theorem State.refuseUnit_keeps {r s : State} {u : MoverUnit} {st : Byte} (h : r.Keeps s) : r.KeepsUnit (s.refuseUnit u st) := .answer h

theorem State.takeUnit_keeps {r s : State} {u : MoverUnit} (h : r.Keeps s) : r.KeepsUnit (s.takeUnit u) := by
  have hf : ∀ st, r.KeepsUnit (s.refuseUnit u st) := fun st => .answer h
  unfold State.takeUnit
  refine .ite (.held r) (.ite (hf _) (.ite ?_ (.ite ?_ ?_)))
  · unfold State.putUnit
    dsimp only
    split
    · exact hf _
    · refine .ite (hf _) (.ite (hf _) (.ite (hf _) (.ite (hf _) (.ite (.answer (State.putTile_keeps h)) (.ite (.answer h) (.answer ?_))))))
      exact State.checkCommit_keeps (State.sealWith_keeps (State.putTile_keeps h))
  · unfold State.getUnit
    exact .ite (hf _) (.ite (hf _) (.ite (hf _) (.answer (.ite h (State.sealSlot_keeps h)))))
  · unfold State.bytesUnit
    refine .ite (hf _) (.ite (.answer h) (.ite (hf _) ?_))
    split
    · exact hf _
    · split
      · exact .answer (State.refuse_keeps h)
      · exact hf _
      · exact .answer (State.writeP_keeps h)

theorem State.serveUnit_keeps {r : State} {a0 : State} {a1 : MoverUnit} (h0 : r.Keeps a0) : r.Keeps (State.serveUnit a0 a1) := by
  unfold State.serveUnit
  refine .ite h0 ?_
  split
  · simp only [↓State.keeps_mk]
    exact h0
  · exact State.answerUnit_keeps (.answered ‹_› (State.takeUnit_keeps h0))

theorem execBytePut_keeps {r : State} {a0 : MoverUnit} {a1 : State} (h1 : r.Keeps a1) : r.KeepsNext (execBytePut a0 a1) := by
  unfold execBytePut
  try dsimp only
  repeat' first
    | with_reducible assumption
    | with_reducible exact State.Keeps.refl _
    | with_reducible apply State.serveUnit_keeps
    | with_reducible apply State.KeepsNext.next

theorem execFetchMax_keeps {r : State} {a0 : StraitReq} {a1 : State} (h1 : r.Keeps a1) : r.KeepsNext (execFetchMax a0 a1) := by
  unfold execFetchMax
  try dsimp only
  repeat' first
    | with_reducible assumption
    | with_reducible exact State.Keeps.refl _
    | with_reducible apply State.serveRequest_keeps
    | with_reducible apply State.KeepsNext.next

theorem execFetchMin_keeps {r : State} {a0 : StraitReq} {a1 : State} (h1 : r.Keeps a1) : r.KeepsNext (execFetchMin a0 a1) := by
  unfold execFetchMin
  try dsimp only
  repeat' first
    | with_reducible assumption
    | with_reducible exact State.Keeps.refl _
    | with_reducible apply State.serveRequest_keeps
    | with_reducible apply State.KeepsNext.next

theorem execFetchOr_keeps {r : State} {a0 : StraitReq} {a1 : State} (h1 : r.Keeps a1) : r.KeepsNext (execFetchOr a0 a1) := by
  unfold execFetchOr
  try dsimp only
  repeat' first
    | with_reducible assumption
    | with_reducible exact State.Keeps.refl _
    | with_reducible apply State.serveRequest_keeps
    | with_reducible apply State.KeepsNext.next

theorem execTileGet_keeps {r : State} {a0 : MoverUnit} {a1 : State} (h1 : r.Keeps a1) : r.KeepsNext (execTileGet a0 a1) := by
  unfold execTileGet
  try dsimp only
  repeat' first
    | with_reducible assumption
    | with_reducible exact State.Keeps.refl _
    | with_reducible apply State.serveUnit_keeps
    | with_reducible apply State.KeepsNext.next

theorem execFetchAnd_keeps {r : State} {a0 : StraitReq} {a1 : State} (h1 : r.Keeps a1) : r.KeepsNext (execFetchAnd a0 a1) := by
  unfold execFetchAnd
  try dsimp only
  repeat' first
    | with_reducible assumption
    | with_reducible exact State.Keeps.refl _
    | with_reducible apply State.serveRequest_keeps
    | with_reducible apply State.KeepsNext.next

theorem execStore_keeps {r : State} {a0 : StraitReq} {a1 : WriteEnv} {a2 : State} (h2 : r.Keeps a2) : r.KeepsNext (execStore a0 a1 a2) := by
  unfold execStore
  try dsimp only
  repeat' first
    | with_reducible assumption
    | with_reducible exact State.Keeps.refl _
    | with_reducible apply State.serveRequest_keeps
    | with_reducible apply State.KeepsNext.next

theorem execCas_keeps {r : State} {a0 : StraitReq} {a1 : State} (h1 : r.Keeps a1) : r.KeepsNext (execCas a0 a1) := by
  unfold execCas
  try dsimp only
  repeat' first
    | with_reducible assumption
    | with_reducible exact State.Keeps.refl _
    | with_reducible apply State.serveRequest_keeps
    | with_reducible apply State.KeepsNext.next

theorem execSwap_keeps {r : State} {a0 : StraitReq} {a1 : State} (h1 : r.Keeps a1) : r.KeepsNext (execSwap a0 a1) := by
  unfold execSwap
  try dsimp only
  repeat' first
    | with_reducible assumption
    | with_reducible exact State.Keeps.refl _
    | with_reducible apply State.serveRequest_keeps
    | with_reducible apply State.KeepsNext.next

theorem execLoad_keeps {r : State} {a0 : StraitReq} {a1 : State} (h1 : r.Keeps a1) : r.KeepsNext (execLoad a0 a1) := by
  unfold execLoad
  try dsimp only
  repeat' first
    | with_reducible assumption
    | with_reducible exact State.Keeps.refl _
    | with_reducible apply State.serveRequest_keeps
    | with_reducible apply State.KeepsNext.next

theorem execFetchXor_keeps {r : State} {a0 : StraitReq} {a1 : State} (h1 : r.Keeps a1) : r.KeepsNext (execFetchXor a0 a1) := by
  unfold execFetchXor
  try dsimp only
  repeat' first
    | with_reducible assumption
    | with_reducible exact State.Keeps.refl _
    | with_reducible apply State.serveRequest_keeps
    | with_reducible apply State.KeepsNext.next

theorem execTilePut_keeps {r : State} {a0 : MoverUnit} {a1 : State} (h1 : r.Keeps a1) : r.KeepsNext (execTilePut a0 a1) := by
  unfold execTilePut
  try dsimp only
  repeat' first
    | with_reducible assumption
    | with_reducible exact State.Keeps.refl _
    | with_reducible apply State.serveUnit_keeps
    | with_reducible apply State.KeepsNext.next

end Sys2Proof.Machine
end

