-- ==== Sys2Proof/Laws/KeepsChamois.lean ====
section
/-! SUPPORT. Every operation of Machine/Chamois.lean keeps the queue, the fuses and the canonical forms. -/

namespace Sys2Proof.Machine

theorem State.recordDone_keeps {r : State} {a0 : State} {a1 : ℕ} {a2 : ℕ} {a3 : Byte} {a4 : ℕ} {a5 : Option ℕ} (h0 : r.Keeps a0) : r.Keeps (State.recordDone a0 a1 a2 a3 a4 a5) := by
  unfold State.recordDone
  try dsimp only
  repeat' first
    | with_reducible assumption
    | with_reducible apply State.write_keeps
    | with_reducible apply State.setIndex_keeps
    | with_reducible apply State.complete_keeps
    | split

theorem execDelete_keeps {r : State} {a0 : Fin 16} {a1 : State} (h1 : r.Keeps a1) : r.KeepsNext (execDelete a0 a1) := by
  unfold execDelete
  try dsimp only
  repeat' first
    | with_reducible assumption
    | with_reducible apply State.recordDone_keeps
    | with_reducible apply State.setFlag_keeps
    | with_reducible apply State.write_keeps
    | with_reducible apply State.putEntry_keeps
    | with_reducible apply State.retire_keeps
    | with_reducible apply State.commit_keeps
    | with_reducible apply State.putItem_keeps
    | with_reducible apply State.compactIfDue_keeps
    | with_reducible apply State.KeepsNext.next
    | split

theorem State.tailSeg_keeps {r : State} {a0 : State} {a1 : ℕ} {a2 : ℕ} (h0 : r.Keeps a0) : r.KeepsPair (State.tailSeg a0 a1 a2) := by
  unfold State.tailSeg
  try dsimp only
  repeat' first
    | with_reducible assumption
    | with_reducible apply State.putSegHeader_keeps
    | with_reducible apply State.write_keeps
    | with_reducible apply State.putDir_keeps
    | with_reducible apply State.takeSeg_keeps
    | with_reducible apply State.KeepsPair.some
    | with_reducible apply State.KeepsPair.map_pair
    | intro _
    | split

theorem State.append_keeps {r : State} {a0 : State} {a1 : IndexHeader} {a2 : ℕ} {a3 : ℕ} {a4 : ListEntry} (h0 : r.Keeps a0) : r.Keeps (State.append a0 a1 a2 a3 a4) := by
  unfold State.append
  repeat' first
    | with_reducible assumption
    | with_reducible apply State.putEntry_keeps
    | with_reducible apply State.putSegHeader_keeps
    | with_reducible apply State.putDir_keeps

theorem execInsert_keeps {r : State} {a0 : Fin 16} {a1 : State} (h1 : r.Keeps a1) : r.KeepsNext (execInsert a0 a1) := by
  unfold execInsert
  try dsimp only
  repeat' first
    | with_reducible assumption
    | with_reducible apply State.recordDone_keeps
    | with_reducible apply State.tailSeg_keeps
    | with_reducible apply State.append_keeps
    | with_reducible apply State.retire_keeps
    | with_reducible apply State.commit_keeps
    | with_reducible apply State.putItem_keeps
    | with_reducible apply State.KeepsNext.next
    | (with_reducible refine State.Keeps.pair (by assumption) ?_)
    | split

theorem State.copyEntries_keeps {r : State} {a0 : ℕ} {a1 : ℕ} {a2 : List ListEntry} {a3 : ℕ} {a4 : List ℕ} {a5 : State} (h5 : r.Keeps a5) : r.KeepsPair (State.copyEntries a0 a1 a2 a3 a4 a5) := by
  induction a2 generalizing a0 a1 a3 a4 a5 with
  | nil =>
    unfold State.copyEntries
    try dsimp only
    repeat' first
      | with_reducible assumption
      | with_reducible exact State.Keeps.refl _
      | with_reducible apply State.putItem_keeps
      | with_reducible apply State.takeSeg_keeps
      | with_reducible apply State.putSegHeader_keeps
      | with_reducible apply State.putEntry_keeps
      | with_reducible apply State.write_keeps
      | with_reducible apply State.KeepsNext.next
      | with_reducible apply State.KeepsSome.none
      | with_reducible apply State.KeepsSome.some
      | with_reducible apply State.KeepsPair.none
      | with_reducible apply State.KeepsPair.some
  | cons x xs ih =>
    unfold State.copyEntries
    try dsimp only
    repeat' first
      | with_reducible apply ih
      | with_reducible assumption
      | with_reducible exact State.Keeps.refl _
      | with_reducible apply State.putItem_keeps
      | with_reducible apply State.takeSeg_keeps
      | with_reducible apply State.putSegHeader_keeps
      | with_reducible apply State.putEntry_keeps
      | with_reducible apply State.write_keeps
      | with_reducible apply State.KeepsNext.next
      | with_reducible apply State.KeepsSome.none
      | with_reducible apply State.KeepsSome.some
      | with_reducible apply State.KeepsPair.none
      | with_reducible apply State.KeepsPair.some
      | with_reducible apply State.KeepsOk.error
      | with_reducible apply State.KeepsOk.ok
      | with_reducible apply State.KeepsSome.map_state
      | with_reducible apply State.KeepsSome.map
      | with_reducible apply State.KeepsPair.map_state
      | with_reducible apply State.KeepsPair.map_pair
      | with_reducible apply State.KeepsPair.map
      | with_reducible apply State.Keeps.foldl
      | with_reducible apply State.Keeps.foldl_fst
      | (with_reducible refine State.Keeps.some (by assumption) ?_)
      | (with_reducible refine State.Keeps.pair (by assumption) ?_)
      | (with_reducible refine State.Keeps.ok (by assumption) ?_)
      | (with_reducible refine State.Keeps.fst (by assumption) ?_)
      | (with_reducible refine State.Keeps.snd (by assumption) ?_)
      | intro _
      | simp only [↓State.keeps_mk]
      | simp only [↓State.keeps_mk_fuses]
      | split

theorem execCompactionDone_keeps {r : State} {a0 : Fin 16} {a1 : ℕ} {a2 : State} (h2 : r.Keeps a2) : r.KeepsNext (execCompactionDone a0 a1 a2) := by
  unfold execCompactionDone
  try dsimp only
  repeat' first
    | with_reducible assumption
    | with_reducible apply State.copyEntries_keeps
    | with_reducible apply State.putItem_keeps
    | with_reducible apply State.putDir_keeps
    | with_reducible apply State.startCompactions_keeps
    | with_reducible apply State.setIndex_keeps
    | with_reducible apply State.KeepsNext.next
    | with_reducible apply State.Keeps.foldl
    | (with_reducible refine State.Keeps.pair (by assumption) ?_)
    | intro _
    | split

theorem State.searchPoison_keeps {r : State} {a0 : State} {a1 : ℕ} {a2 : ℕ} (h0 : r.Keeps a0) : r.Keeps (State.searchPoison a0 a1 a2) := by
  unfold State.searchPoison
  repeat' first
    | with_reducible assumption
    | with_reducible apply State.raise_keeps
    | with_reducible apply State.setFlag_keeps

theorem State.reportLists_keeps {r : State} {a0 : State} {a1 : ℕ} {a2 : List ℕ} (h0 : r.Keeps a0) : r.Keeps (State.reportLists a0 a1 a2) := by
  unfold State.reportLists
  try dsimp only
  repeat' first
    | with_reducible assumption
    | with_reducible apply State.searchPoison_keeps
    | with_reducible apply State.Keeps.foldl
    | intro _
    | split

theorem State.countScan_keeps {r : State} {a0 : State} {a1 : Batch} {a2 : ℕ} {a3 : ℕ} (h0 : r.Keeps a0) : r.Keeps (State.countScan a0 a1 a2 a3) := by
  unfold State.countScan
  try dsimp only
  repeat' first
    | with_reducible assumption
    | with_reducible exact State.Keeps.refl _
    | with_reducible apply State.tally_keeps
    | with_reducible apply State.spend_keeps
    | with_reducible apply State.KeepsNext.next
    | with_reducible apply State.KeepsSome.none
    | with_reducible apply State.KeepsSome.some
    | with_reducible apply State.KeepsPair.none
    | with_reducible apply State.KeepsPair.some
    | with_reducible apply State.KeepsOk.error
    | with_reducible apply State.KeepsOk.ok
    | with_reducible apply State.KeepsSome.map_state
    | with_reducible apply State.KeepsSome.map_pair
    | with_reducible apply State.KeepsSome.map
    | with_reducible apply State.KeepsPair.map_state
    | with_reducible apply State.KeepsPair.map_pair
    | with_reducible apply State.KeepsPair.map
    | with_reducible apply State.Keeps.foldl
    | with_reducible apply State.Keeps.foldl_fst
    | (with_reducible refine State.Keeps.some (by assumption) ?_)
    | (with_reducible refine State.Keeps.pair (by assumption) ?_)
    | (with_reducible refine State.Keeps.ok (by assumption) ?_)
    | (with_reducible refine State.Keeps.fst (by assumption) ?_)
    | (with_reducible refine State.Keeps.snd (by assumption) ?_)
    | with_reducible apply State.Keeps.ite
    | with_reducible apply State.KeepsSome.ite
    | with_reducible apply State.KeepsSome.or
    | intro _
    | simp only [↓State.keeps_mk]

theorem State.scanList_keeps {r : State} {a0 : State} {a1 : Batch} {a2 : ℕ} {a3 : State × QueryState} {a4 : ℕ} (h0 : r.Keeps a0) (h3 : r.Keeps a3.1) : r.Keeps (State.scanList a0 a1 a2 a3 a4).1 := by
  unfold State.scanList
  try dsimp only
  repeat' first
    | with_reducible assumption
    | with_reducible apply State.countScan_keeps
    | with_reducible apply State.Keeps.foldl
    | intro _
    | split

theorem State.scanRound_keeps {r : State} {a0 : State} {a1 : Batch} {a2 : QueryState → List ℕ} (h0 : r.Keeps a0) : r.Keeps (State.scanRound a0 a1 a2).1 := by
  unfold State.scanRound
  repeat' first
    | with_reducible assumption
    | with_reducible apply State.reportLists_keeps
    | with_reducible apply State.scanList_keeps
    | with_reducible apply State.Keeps.foldl_fst
    | intro _
    | split

theorem State.setBatch_keeps {r : State} {a0 : State} {a1 : Batch} (h0 : r.Keeps a0) : r.Keeps (State.setBatch a0 a1) := by
  unfold State.setBatch
  repeat' first
    | with_reducible assumption
    | simp only [↓State.keeps_mk]

theorem State.finishBatch_keeps {r : State} {a0 : State} {a1 : Batch} (h0 : r.Keeps a0) : r.Keeps (State.finishBatch a0 a1) := by
  unfold State.finishBatch
  repeat' first
    | with_reducible assumption
    | with_reducible apply State.write_keeps
    | with_reducible apply State.bump_keeps
    | with_reducible apply State.count_keeps
    | with_reducible apply State.setFlag_keeps
    | with_reducible apply State.complete_keeps
    | with_reducible apply State.retire_keeps
    | with_reducible apply State.Keeps.foldl
    | intro _
    | simp only [↓State.keeps_mk_fuses]
    | split

theorem State.afterRound_keeps {r : State} {a0 : State} {a1 : Batch} (h0 : r.Keeps a0) : r.Keeps (State.afterRound a0 a1) := by
  unfold State.afterRound
  repeat' first
    | with_reducible assumption
    | with_reducible apply State.setBatch_keeps
    | with_reducible apply State.finishBatch_keeps
    | split

theorem execWidenRoundDone_keeps {r : State} {a0 : State} (h0 : r.Keeps a0) : r.KeepsNext (execWidenRoundDone a0) := by
  unfold execWidenRoundDone
  repeat' first
    | with_reducible assumption
    | with_reducible apply State.scanRound_keeps
    | with_reducible apply State.afterRound_keeps
    | with_reducible apply State.KeepsNext.next
    | split

theorem execBatchBegin_keeps {r : State} {a0 : State} (h0 : r.Keeps a0) : r.KeepsNext (execBatchBegin a0) := by
  unfold execBatchBegin
  repeat' first
    | with_reducible assumption
    | with_reducible apply State.elandAdd_keeps
    | with_reducible apply State.setBatch_keeps
    | with_reducible apply State.KeepsNext.next
    | split

theorem execListScanDone_keeps {r : State} {a0 : State} (h0 : r.Keeps a0) : r.KeepsNext (execListScanDone a0) := by
  unfold execListScanDone
  repeat' first
    | with_reducible assumption
    | with_reducible apply State.scanRound_keeps
    | with_reducible apply State.afterRound_keeps
    | with_reducible apply State.KeepsNext.next
    | split

theorem execBatchTablesDone_keeps {r : State} {a0 : State} (h0 : r.Keeps a0) : r.KeepsNext (execBatchTablesDone a0) := by
  unfold execBatchTablesDone
  try dsimp only
  repeat' first
    | with_reducible assumption
    | with_reducible apply State.setFlag_keeps
    | with_reducible apply State.setBatch_keeps
    | with_reducible apply State.KeepsNext.next
    | split

theorem execMutate_keeps {r : State} {a0 : WinRef} {a1 : State} (h1 : r.Keeps a1) : r.KeepsNext (execMutate a0 a1) := by
  unfold execMutate
  try dsimp only
  repeat' first
    | with_reducible assumption
    | with_reducible apply State.hostCmd_keeps
    | with_reducible apply State.complete_keeps
    | with_reducible apply State.refuse_keeps
    | with_reducible apply State.setIndex_keeps
    | with_reducible apply State.KeepsNext.next
    | intro _
    | split

theorem execCoarsePassDone_keeps {r : State} {a0 : State} (h0 : r.Keeps a0) : r.KeepsNext (execCoarsePassDone a0) := by
  unfold execCoarsePassDone
  repeat' first
    | with_reducible assumption
    | with_reducible apply State.countScan_keeps
    | with_reducible apply State.searchPoison_keeps
    | with_reducible apply State.setBatch_keeps
    | with_reducible apply State.KeepsNext.next
    | with_reducible apply State.Keeps.foldl
    | intro _
    | split

theorem execIndexRegister_keeps {r : State} {a0 : WinRef} {a1 : State} (h1 : r.Keeps a1) : r.KeepsNext (execIndexRegister a0 a1) := by
  unfold execIndexRegister
  try dsimp only
  repeat' first
    | with_reducible assumption
    | with_reducible apply State.hostCmd_keeps
    | with_reducible apply State.complete_keeps
    | with_reducible apply State.setIndex_keeps
    | with_reducible apply State.retire_keeps
    | with_reducible apply State.KeepsNext.next
    | intro _
    | split

theorem execOldSegmentsFreed_keeps {r : State} {a0 : Fin 16} {a1 : State} (h1 : r.Keeps a1) : r.KeepsNext (execOldSegmentsFreed a0 a1) := by
  unfold execOldSegmentsFreed
  try dsimp only
  repeat' first
    | with_reducible assumption
    | with_reducible apply State.setIndex_keeps
    | with_reducible apply State.KeepsNext.next
    | split

theorem execSearch_keeps {r : State} {a0 : WinRef} {a1 : State} (h1 : r.Keeps a1) : r.KeepsNext (execSearch a0 a1) := by
  unfold execSearch
  repeat' first
    | with_reducible assumption
    | with_reducible apply State.hostCmd_keeps
    | with_reducible apply State.complete_keeps
    | with_reducible apply State.refuse_keeps
    | with_reducible apply State.write_keeps
    | with_reducible apply State.KeepsNext.next
    | intro _
    | simp only [↓State.keeps_mk_fuses]
    | split

end Sys2Proof.Machine
end

