-- ==== Sys2Proof/WellFormed.lean ====
section
/-! DEFINITION. Which commands the spec lets arrive: the ranges that their operand types do not give. The device has no decoder
that would refuse others; a meaning leaves the state as it is, or answers with a status, where such an operand reaches it. -/

namespace Sys2Proof
open Sys2Proof.Machine

/-- The operands of a command are within their ranges. -/
def Instr.wf (i : Instr) : Bool :=
  match i with
  | .nop _ => true
  | .admitCmd _ _ _ _ => true
  | .cancel _ => true
  | .preempt _ => true
  | .resume _ => true
  | .restore _ => true
  | .stepSubmit _ => true
  | .decideCmd _ => true
  | .mapInstall _ _ => true
  | .windowOpen _ => true
  | .windowRevoke _ => true
  | .connect _ _ _ => true
  | .close _ => true
  | .routeSet _ _ _ => true
  | .planLoad _ _ => true
  | .planUnload _ => true
  | .regionLoad _ _ => true
  | .indexRegister _ => true
  | .mutate _ => true
  | .insert _ => true
  | .delete _ => true
  | .search _ => true
  | .move _ _ => true
  | .treeAttach _ => true
  | .recover _ targets => targets.all fun d => decide (d < 65536)
  | .loadStruct _ => true
  | .fwBegin _ _ => true
  | .fwBlock _ _ => true
  | .fwEnd _ => true
  | .fwActivate _ => true
  | .releaseEntry _ => true
  | .commandSlotWrite _ _ bytes _ => decide (bytes ≤ 64)
  | .windowReset _ => true
  | .ringHeadWrite _ _ => true
  | .msiDelayExpiry _ => true
  | .tokenHoldExpiry _ => true
  | .portLoss _ => true
  | .functionLevelReset _ _ => true
  | .portLinkReturn _ speed width => decide (speed ≠ 0) && (decide (width = 4) || decide (width = 8) || decide (width = 16))
  | .ideStreamInsecure _ => true
  | .bar4Read _ fn off n => decide (fn.val ≤ 1) && decide (off % 4 = 0) && decide (n % 4 = 0) && decide (0 < n) && decide (n ≤ 4096) && decide (off + n ≤ 2 ^ 39)
  | .bar4Write _ fn off data _ => decide (fn.val ≤ 1) && decide (off % 4 = 0) && decide (data.length % 4 = 0) && decide (0 < data.length) && decide (data.length ≤ 4096) && decide (off + data.length ≤ 2 ^ 39)
  | .bar4BaseHiWrite _ => true
  | .query _ => true
  | .partialMsg _ => true
  | .admitMessage _ => true
  | .promptTokens _ => true
  | .openMsg _ => true
  | .creditReq _ => true
  | .queuedCreditGrant _ => true
  | .creditWaitExpiry _ => true
  | .grant _ => true
  | .refs _ => true
  | .sent _ => true
  | .commit _ => true
  | .reply _ => true
  | .abort _ => true
  | .keepalive _ => true
  | .keepaliveTimer _ => true
  | .receiverHandoffTimer _ => true
  | .register _ => true
  | .redirect _ => true
  | .endMsg _ => true
  | .released _ => true
  | .restoreReq _ => true
  | .replicaReq _ => true
  | .covered _ => true
  | .heldMessageTimeout _ => true
  | .deadlineExpiry _ => true
  | .tokenArrival _ k _ => decide (1 ≤ k)
  | .decisionTimeout _ => true
  | .idleBoundary => true
  | .stepBoundary _ given => given.all fun x => decide (x.slot < 65536) && decide (x.recent.length ≤ 256)
  | .preemptMaxExpiry _ => true
  | .sequencerIssueOp _ => true
  | .stepClose => true
  | .stepRun _ => true
  | .stepPause _ => true
  | .stepSingle => true
  | .clearMax => true
  | .herdEntrySelWrite _ => true
  | .herdPeerWeightWrite _ => true
  | .gemm => true
  | .groupedGemm => true
  | .attnFwd => true
  | .attnTree => true
  | .attnBwd => true
  | .kvPack => true
  | .distTable => true
  | .sample => true
  | .elandOpEnqueue _ => true
  | .outputTileDone _ _ _ run => run.upsets.all fun x => decide (x.1 < 256) && decide (x.2.1 < 256)
  | .elandFencedWrite _ => true
  | .elandHold _ => true
  | .elandClearHwm => true
  | .laneUnitDispatch _ head _ _ _ => decide (head < 256)
  | .laneUnitDone _ _ => true
  | .spotCheckResult _ _ => true
  | .reducerMergeComplete _ _ => true
  | .springFencedWrite _ _ => true
  | .springClearCounts => true
  | .patrolScrubRead _ _ _ _ => true
  | .quarantineTest _ _ _ => true
  | .poolAuditSample => true
  | .poolAuditResample => true
  | .recount => true
  | .recountDone _ => true
  | .tierRegionSelWrite _ => true
  | .copy _ => true
  | .gather _ => true
  | .scatter _ => true
  | .pack _ => true
  | .unpack _ => true
  | .compact _ => true
  | .check _ => true
  | .remotePut _ => true
  | .remoteGet _ => true
  | .prefetch _ => true
  | .descriptorComplete _ => true
  | .slotTimerExpiry _ => true
  | .slotAudit => true
  | .ibexHold _ => true
  | .ibexClearHwm => true
  | .ibexClearCounts => true
  | .dataFlitReceived _ flit => decide (flit.length = 256)
  | .replayTimeout _ => true
  | .retrainComplete _ _ _ grants => decide (grants.length = 4)
  | .retrainTimeout _ => true
  | .retrainAttempt _ => true
  | .retrain _ => true
  | .auditSend _ => true
  | .audit _ totals => decide (totals.length = 4)
  | .ping _ => true
  | .pong _ => true
  | .load _ => true
  | .loadData _ => true
  | .store _ _ => true
  | .storeAck _ => true
  | .fetchAdd _ => true
  | .swap _ => true
  | .cas _ => true
  | .fetchAnd _ => true
  | .fetchOr _ => true
  | .fetchXor _ => true
  | .fetchMin _ => true
  | .fetchMax _ => true
  | .atomicData _ => true
  | .tilePut _ => true
  | .tileGet _ => true
  | .tileData _ _ => true
  | .bytePut _ => true
  | .unitAck _ _ => true
  | .lastGasp _ _ => true
  | .straitRequestIssue _ => true
  | .fence _ => true
  | .fenceDest _ _ => true
  | .tagTimeout _ => true
  | .peerPingTimer _ => true
  | .liveMaskChange _ => true
  | .issueResume _ => true
  | .gatewayFlush _ => true
  | .revocationComplete _ _ => true
  | .straitWinSelWrite _ => true
  | .straitClearCounts => true
  | .mpWrite _ => true
  | .mpSend _ => true
  | .mpReadReq _ => true
  | .mpReadResp _ => true
  | .mpAtomic _ => true
  | .mpAtomicResp _ => true
  | .mpAck _ => true
  | .mpCredit _ => true
  | .mpHello _ => true
  | .send _ => true
  | .rdmaWrite _ => true
  | .rdmaRead _ => true
  | .cmpSwap _ => true
  | .mpHelloTimer _ => true
  | .connectTimeout _ => true
  | .retransmitTimeout _ _ _ => true
  | .closingResolved _ => true
  | .heldPacketRelease _ => true
  | .creditGrantTick => true
  | .creditReturn _ => true
  | .creditResync _ => true
  | .ptpMessage _ _ => true
  | .pfcFrame _ _ _ => true
  | .ethernetLinkChange _ _ => true
  | .cbsSettingApply _ _ => true
  | .policerWrite _ _ => true
  | .shapeConnWindowWrite _ => true
  | .shapeClearDrops => true
  | .netWinSelWrite _ => true
  | .netClearCounts => true
  | .batchBegin => true
  | .batchTablesDone => true
  | .coarsePassDone => true
  | .listScanDone => true
  | .widenRoundDone => true
  | .compactionDone _ _ => true
  | .oldSegmentsFreed _ => true
  | .chamCompactCmd _ => true
  | .chamSnapPointHiWrite _ => true
  | .chamHold _ => true
  | .chamClearCounts => true
  | .periodBoundary => true
  | .tenantTokBalanceWrite _ => true
  | .tenantAdmBalanceWrite _ => true
  | .tenantCfgWrite _ => true
  | .tenantPeriodWrite _ => true
  | .tenantSelWrite _ => true
  | .accountingIntervalClose => true
  | .faultRingTailWrite _ => true
  | .inject => true
  | .clearLost => true
  | .faultTenantFenceWrite _ => true
  | .recoveryStart => true
  | .recoveryStepDone => true
  | .epochPulse tide => decide (tide < 2 ^ 64)
  | .pulseAbsence => true
  | .holdoverExpiry => true
  | .tideNextWrite _ => true
  | .alarmCodeSend => true
  | .snap => true
  | .traceRecordWrite _ => true
  | .obsTraceTrigger _ => true
  | .obsWinUnlock _ => true
  | .mark => true
  | .traceReset => true
  | .obsTraceRposWrite _ => true
  | .monitorSample _ temp _ => decide (-128 ≤ temp) && decide (temp ≤ 127)
  | .thermalCeiling _ => true
  | .thermalTrip _ => true
  | .droopStretch _ _ => true
  | .histogramMinute _ => true
  | .summary _ => true
  | .dayEnd => true
  | .eyeMeasure _ _ _ _ => true
  | .eyeNow _ => true
  | .healthClearDropped => true
  | .healthRowSelWrite _ => true
  | .healthLogSelWrite _ => true
  | .lifeLogWrite => true
  | .sectorEraseDone => true
  | .drainComplete _ => true
  | .drainTimeout => true
  | .abortDrain => true
  | .bootSlotWrite _ => true
  | .fwStagingDone => true
  | .standbyReady => true
  | .prepareTimeout => true
  | .quiesceReady => true
  | .quiesceTimeout => true
  | .stateRead => true
  | .pauseTimeout => true
  | .newSetRun => true
  | .confirmElapsed => true
  | .fwAbort => true
  | .fwSvnAdvance _ => true
  | .selftest _ _ => true
  | .enroll _ => true
  | .blowDebugLock _ => true
  | .blowMldsaReq _ => true
  | .getVersion _ _ => true
  | .getCapabilities _ _ => true
  | .negotiateAlgorithms _ _ => true
  | .getDigests _ _ => true
  | .getCertificate _ _ => true
  | .challenge _ _ => true
  | .getMeasurements _ _ => true
  | .keyExchange _ _ => true
  | .finish _ _ => true
  | .heartbeat _ _ => true
  | .keyUpdate _ _ => true
  | .endSession _ _ => true
  | .vendorDefinedRequest _ _ => true
  | .powerOn _ _ _ _ => true
  | .resetNRise _ _ _ => true
  | .resetNFall => true
  | .pwrResetCold _ _ => true
  | .pwrResetWarm _ _ => true
  | .stackTrainingDone _ _ _ => true
  | .supplyNotGood _ _ => true
  | .shutdownComplete => true
  | .supplyReturn _ _ => true
  | .supplyGoodInOff _ _ _ => true
  | .auxSupplyLoss _ _ => true
  | .capLevelChange _ => true
  | .capControlTick => true
  | .energyMeterSample _ => true
  | .pwrCapWrite _ => true
  | .preferB _ => true
  | .pwrClearCounts => true
  | .entdaa _ => true
  | .readStatus _ => true
  | .setCap _ => true
  | .setTideNext _ => true
  | .logRead _ => true
  | .logNext _ => true
  | .devDeviceIdWrite _ => true
  | .profileSelect addr _ => (blockOfProfile addr).isSome
  | .expertFieldWrite addr _ => (expertAt addr).isSome
  | .fwSelWrite _ => true
  | .registerWrite _ _ addr size _ _ => (decide (size = 4) || decide (size = 8)) && decide (addr % size = 0)
  | .standbySetFault => true
  | .continuousEntropyTest => true
  | .auxSupplyReturn _ => true

end Sys2Proof
end

