-- ==== Sys2Proof/Tests/Slice0.lean ====
section
/-! SUPPORT. Tests of the model on small states, and a witness for the hypotheses of each statement. -/

namespace Sys2Proof.Tests

set_option maxRecDepth 100000
set_option linter.unreachableTactic false
set_option linter.unusedTactic false
set_option Elab.async false

open Sys2Proof Sys2Proof.Machine

/-- A device that runs, with an ID. -/
def dev : State := { State.reset.wr Reg.DEV_DEVICE_ID 3 with pins := { State.reset.pins with resetN := true, sbrun := true, phase := .run }, pwr := { State.reset.pwr with supply := .onA, vinAGood := true }, ready := [(8, true)] }

/-- A window of PF0. -/
def pf0 : WinRef := { port := 0, fn := 0, win := 0 }

/-- The 64 bytes of a command. -/
def cmdWord (op : Nat) (part tenant a0 a1 a2 a3 a4 a5 : Nat) (flags : Nat := 0) : BitVec 512 :=
  BitVec.ofNat 512 (1 + op * 2 ^ 8 + flags * 2 ^ 16 + part * 2 ^ 24 + tenant * 2 ^ 32 + a0 * 2 ^ 128 + a1 * 2 ^ 192 + a2 * 2 ^ 256 + a3 * 2 ^ 320 + a4 * 2 ^ 384 + a5 * 2 ^ 448)

/-- The state with a command at the front of window 0 of PF0. -/
def withCmd (s : State) (op : Nat) (a0 a1 a2 a3 a4 a5 : Nat := 0) (part tenant flags : Nat := 0) : State :=
  s.setWin pf0.key { enable := true, laps := [(0, 1)], slots := [(0, cmdWord op part tenant a0 a1 a2 a3 a4 a5 flags)] }

/-- The state with a structure bitstream loaded. -/
def withBits (s : State) (b : Bitstream) : State := { s with struct := { s.struct with loaded := some b } }

/-- A device whose function `i` is in HOST_ASSIST mode. -/
def assist (i : Nat) : State := withBits dev { functions := (List.replicate 10 {}).set i { mode := .hostAssist } }

/-- A device whose security firmware runs. -/
def secUp : State := { dev with fw := { dev.fw with secRun := some {} } }

/-- A bitstream of role 1 and preset 1 that passes every check: one partition, and one stack region of 4,096 bytes. -/
def goodBits : Bitstream := { role := 1, preset := 1, devRole := 1, totalLen := 256, sigOff := 256, dir := [{ type := 1, offset := 160 }, { type := 4, offset := 176 }, { type := 5, offset := 192 }], partitions := [{ ways := 1 }], map := { regions := [{ id := 1, kind := 0x0F, channels := 1, size := 4096 }], hbmBytes := 4096 } }

/-- A device that may load an unsigned bitstream. -/
def dev1 : State := { dev with order := 1, sec := { dev.sec with debugLock := false } }

/-- A device with a region of 4,096 bytes of HBM at address 0, open to every agent. -/
def inHbm : State := { dev with tier := { dev.tier with regions := [(0, some { id := 1, kind := 1, channels := 1, size := 4096 })] } }

/-- A device that awaits the decision of a commit, and whose host answers it. -/
def asked : State := withCmd { assist 2 with ibex := { dev.ibex with slots := [(3, { state := .waiting, gen := 1, awaits := .decision, fn := 2, msgKind := mCOMMIT })], slotsBusy := 1, slotsFree := 65535 }, tier := { dev.tier with regions := [(0, some { id := 1, kind := 0x0D, channels := 1, base := 4096, size := 4096 })] } } 7 2 65539

/-- A device whose array holds one operation, over 65,536 bytes of HBM with a group table at 1,024, a dense ragged length table of one row at 2,048 and the address tables of a backward pass at 3,072 and 3,200. -/
def elandTop (d : ElandDesc) : State :=
  let s : State := { dev with tier := { dev.tier with regions := [(0, some { id := 1, kind := 1, channels := 1, size := 65536 })] }, eland := { dev.eland with queue := [{ desc := d }] } }
  (((s.setBytes 1024 (packBytes [(4, 0), (4, 1)])).setBytes 2048 (packBytes [(1, 1), (1, 1), (2, 0), (4, 1), (56, 0), (4, 0), (4, 1)])).setBytes 3072 (packBytes [(24, 0), (8, 2048)])).setBytes 3200
    (packBytes [(8, 8192), (8, 12288), (8, 16384)])

/-- A well-formed descriptor of an operation; of 0, a COPY of no bytes, which breaks the limits. -/
def descOf (op : Byte) : IbexDesc := { op := if op = 0 then 1 else op, count := if op = 0 then 0 else 64, flags := if op = 9 then 0x40 else 0, depth := if op = 10 then 1 else 0 }

/-- A device whose last descriptor queue holds one descriptor. -/
def queued (d : IbexDesc) : State := { dev with ibex := { dev.ibex with queues := [(255, { waiting := [d] })] } }

/-- The number of the completion slot that the descriptor gets, the same device with the slot taken, the mover, and the device with both. -/
def claimed (d : IbexDesc) : Nat × State :=
  ((queued d).claim { awaits := .descriptor, desc := d, queue := 255, since := dev.now, requestId := d.requestId, replyDue := d.flag 3 }).getD (0, dev)
def moverOf (d : IbexDesc) : Nat := ((queued d).moverFor d).getD 0
def accepted (d : IbexDesc) : State :=
  let v := (claimed d).2.setSlotAt (claimed d).1 { (claimed d).2.slot (claimed d).1 with mover := moverOf d }
  let w : State := { v with ibex := { v.ibex with movers := v.ibex.movers.mod (moverOf d) (· + 1) } }
  w.setQueue 255 { ((queued d).queue 255).pop with statuses := ((queued d).queue 255).statuses }

theorem accepts_descOf : ∀ op ∈ ([0, 1, 2, 3, 4, 5, 6, 7, 8, 9, 10] : List Byte), (queued (descOf op)).alive = true ∧ (queued (descOf op)).flag Reg.IBEX_CTRL 0 = false
    ∧ (queued (descOf op)).ibex.slotWait = [] ∧ (descOf op).flag 0 = false ∧ (descOf op).known = descOf op ∧ (queued (descOf op)).moverFor (descOf op) = some (moverOf (descOf op))
    ∧ ((queued (descOf op)).claim { awaits := .descriptor, desc := descOf op, queue := 255, since := dev.now, requestId := 0, replyDue := (descOf op).flag 3 }).isSome = true := by
  decide +kernel

theorem accepted_accepts (op : Byte) (h : op ∈ ([0, 1, 2, 3, 4, 5, 6, 7, 8, 9, 10] : List Byte)) :
    (queued (descOf op)).Accepts 255 (descOf op) (claimed (descOf op)).1 (accepted (descOf op)) := by
  obtain ⟨h1, h2, h3, h4, h5, h6, h7⟩ := accepts_descOf op h
  refine ⟨h1, h2, h3, fun k => absurd k (by rw [h4]; decide), descOf op, [], moverOf (descOf op), (claimed (descOf op)).2, rfl, h5.symm, h6, ?_, rfl⟩
  obtain ⟨x, hx⟩ := Option.isSome_iff_exists.1 h7
  have e : (queued (descOf op)).claim { awaits := .descriptor, desc := descOf op, queue := 255, since := (queued (descOf op)).now, requestId := (descOf op).requestId, replyDue := (descOf op).flag 3, order := ((queued (descOf op)).queue 255).accepted } = some x := hx
  have g : claimed (descOf op) = x := by unfold claimed; rw [show (queued (descOf op)).claim { awaits := .descriptor, desc := descOf op, queue := 255, since := dev.now, requestId := (descOf op).requestId, replyDue := (descOf op).flag 3 } = some x from hx]; rfl
  rw [g]; exact e

/-- The state and the response of a unit that was taken. -/
def takenState : UnitTaken → State
  | .answer s _ => s
  | .held => dev
def takenUnit : UnitTaken → MoverUnit
  | .answer _ u => u
  | .held => {}

/-- A device with page 5 in the given state, granted to transfer 9. -/
def paged (k : PageState) : State := { dev with tier := { dev.tier with pages := [(5, { state := k, format := 5, tileCount := 1 })] }, handoff := { dev.handoff with transfers := [(9, { phase := .granting, holder := false, grants := [{ pages := [5] }] })] } }

/-- The reference word of that page. -/
def pageWord : U64 := BitVec.ofNat 64 (3 * 2 ^ 48 + 5 * 2 ^ 16 + 5 * 2 ^ 12 + 1)

/-- A device with a Strait window over 4,096 bytes of HBM. -/
def windowed : State := { inHbm with strait := { dev.strait with windows := [(255, { state := .opened, load := true, store := true, atomic := true, source := 0xFFFF, gen := 7, size := 4096 })] } }

/-- A device with a READY connection 8,191, of the STATE or the MESSAGE class. -/
def linked (message : Bool) : State := dev.setNetConn 8191 { state := .ready, attr := { message := message, multipath := true, mtu := 1024 } }

/-- A device with a READY connection for the standard verbs, and an RDMA window over 4,096 bytes of HBM. -/
def verbs : State := { inHbm.setNetConn 8191 { state := .ready, attr := { message := true, mtu := 1024 } } with net := { conns := [(8191, { state := .ready, attr := { message := true, mtu := 1024 } })], windows := [(4095, { state := .opened, read := true, write := true, atomic := true, gen := 7, size := 4096 })] } }

/-- A device whose bitstream enables the Chamois engine, tenant 0 enabled, with the given regions. -/
def cham (rs : List Region) : State := withBits { dev with tier := { dev.tier with regions := rs.zipIdx.map fun x => (x.2, some x.1) }, tenant := { dev.tenant with table := [(0, { enable := true })] } } { goodBits with engines := 2 }

/-- A region of 64 MiB at 0 for index structures, and one of 4,096 bytes of HBM at 2^27. -/
def chamRegions : List Region := [{ id := 1, kind := 0x0B, granule := 3, channels := 1, size := 67108864 }, { id := 2, kind := 1, channels := 1, base := 134217728, size := 4096 }]

/-- The header of an index of one list and one item, as bytes at address 0. -/
def chamHeader : List Byte := packBytes [(1, 1), (1, 0), (1, 8), (1, 3), (2, 64), (1, 0), (1, 0), (4, 1), (4, 1), (8, 0), (8, 262144), (8, 8192), (8, 16384), (8, 524288), (4, 4), (4, 1024), (8, 32768), (8, 4194304)]

/-- A device with that index registered as index 15, with one mutation waiting. -/
def chamIndex : State := (cham chamRegions).setIndex 15 { registered := true, header := { m := 8, dist := 3, dim := 64, nlist := 1, itemCap := 1, directory := 8192, items := 16384, segments := 524288, segCount := 4, dellog := 32768, dellogCap := 1024 }, jobs := [{ addr := 134217728, count := 1 }] }

/-- The same device with a batch of one query in memory. -/
def chamBatch : State := ((chamIndex.setBytes 134217728 (packBytes [(1, 1), (1, 15), (2, 0), (2, 1), (2, 1), (2, 1)])).setBytes 134217752 (packBytes [(8, 134218240), (8, 134218752), (8, 0), (8, 134219776)])).setBytes 134218752 [0xFF, 0xFF]

/-- A device with a trace region of 12,288 bytes and a record offered. -/
def traced : State := { dev with tier := { dev.tier with regions := [(0, some { id := 4, kind := 0x0A, channels := 1, size := 12288 })] }, obs := { dev.obs with offers := [{ type := 3 }] } }

/-- Bytes with the CRC-64/XZ of the whole, its own field taken as zero, put at an offset. -/
def checked (bs : List Byte) (o : Nat) : List Byte := bs.take o ++ leBytes 8 (crc64 bs) ++ bs.drop (o + 8)

/-- A placement map of one region of firmware, 4,096 bytes of channel 0. -/
def goodMap : List Byte := checked (packBytes [(4, 1), (2, 1), (2, 1), (4, 64), (4, 144), (8, 4096), (40, 0), (80, 1), (2, 1), (1, 0x0F), (5, 0), (8, 0), (8, 4096), (40, 0)]) 32

/-- The placement map of model 63, with one region in the plan space. -/
def planMap : List Byte := checked (packBytes [(1, 1), (1, 1), (1, 63), (1, 0), (2, 1), (2, 1), (4, 64), (4, 144), (8, 4096), (40, 0), (80, 1), (2, 2), (1, 2), (5, 0), (8, 0), (8, 4096), (40, 0)]) 32

/-- The file of a bitstream of role 1 and preset 1 that passes every check: one partition, and the map above. -/
def goodFile : SlotFile :=
  let dev := packBytes [(1, 1), (1, 0), (1, 1), (1, 0), (4, 16), (4, 0), (2, 1), (50, 0)]
  let part := packBytes [(80, 0), (2, 1), (14, 0)]
  let entry (t o n : Nat) (x : List Byte) : List Byte := packBytes [(2, t + 256), (2, 0), (4, o), (4, n), (4, 0), (8, crc64 x), (8, 0)]
  { bytes := checked (packBytes [(4, 0x4253574C), (1, 1), (1, 1), (1, 1), (1, 3), (2, 0x0100), (2, 1), (4, 528), (8, 9), (8, 0), (4, 528), (4, 0), (8, 0), (16, 0)]
      ++ entry 1 160 64 dev ++ entry 4 224 96 part ++ entry 5 320 208 goodMap ++ dev ++ part ++ goodMap) 24 }

/-- A pool map of epoch `e` with one entry, for device 9. -/
def goodPool (e : Nat) : List Byte := checked (packBytes [(4, 1), (4, e), (4, 1), (20, 0), (2, 9), (14, 0)]) 16

/-- A device with a structure key fused in slot 3, and the record of `op` for a slot in an EXCHANGE region. -/
def enrolling (op slot : Nat) : State :=
  let s : State := { dev.wr Reg.SEC_ENROLL_ADDR_LO 4096 with sec := { dev.sec with skeys := [(2, { hash := 5, used := true, present := true }), (3, { hash := 7, used := true, present := true })] }, tier := { dev.tier with regions := [(0, some { id := 1, kind := 0x0D, channels := 1, base := 4096, size := 8192 })] } }
  s.setBytes 4096 (packBytes [(1, 1), (1, op), (1, slot), (13, 0), (8, 7)])

/-- A well-formed message of a kind for this device. -/
def msgOf (k : Nat) : Msg :=
  let m : Msg := { dst := 3 }
  if k = mQUERY then { m with query := some { rows := 1, g := 1, k := 2, positions := [0], data := [0, 0] }, bodyLen := 40 }
  else if k = mPARTIAL then { m with part := some {} }
  else if k = mPROMPT_TOKENS then { m with tokens := [5], bodyLen := 4 }
  else if k = mADMIT ∨ k = mOPEN ∨ k = mRESTORE_REQ then { m with header := some {}, bodyLen := 256 }
  else m

/-- The kinds of message. -/
def msgKinds : List Nat := [mQUERY, mPARTIAL, mADMIT, mPROMPT_TOKENS, mOPEN, mCREDIT_REQ, mGRANT, mREFS, mSENT, mCOMMIT, mREPLY, mABORT, mKEEPALIVE, mREGISTER, mREDIRECT, mEND, mRELEASED, mRESTORE_REQ, mREPLICA_REQ, mCOVERED]

/-- A flit with a header and empty slots, with its CRC. -/
def flitOf (header : Nat) : List Byte := let b := leBytes 8 header ++ List.replicate 240 0; b ++ leBytes 8 (crc64 b)

/-! ### Ill-formed commands, one for each check of `Instr.wf`, and commands at the edge of their ranges -/

theorem test_wf_refuses : ∀ i ∈ ([
    .recover pf0 [65536], .commandSlotWrite pf0 0 65 0, .portLinkReturn 0 0 4, .portLinkReturn 0 1 5,
    .bar4Read 0 2 0 4, .bar4Read 0 0 2 4, .bar4Read 0 0 0 6, .bar4Read 0 0 0 0, .bar4Read 0 0 0 4100, .bar4Read 0 0 549755813888 4,
    .bar4Write 0 2 0 [1, 2, 3, 4] false, .bar4Write 0 0 1 [1, 2, 3, 4] false, .bar4Write 0 0 0 [1] false, .bar4Write 0 0 0 [] false,
    .bar4Write 0 0 549755813888 [1, 2, 3, 4] false,
    .tokenArrival 0 0 0, .stepBoundary 0 [{ slot := 65536 }], .laneUnitDispatch 0 256 0 0 0, .outputTileDone 0 0 0 { upsets := [(256, 0, 1)] },
    .outputTileDone 0 0 0 { upsets := [(0, 256, 1)] }, .dataFlitReceived 0 [], .dataFlitReceived 0 (List.replicate 257 0),
    .retrainComplete 0 false 0 [1, 2, 3], .audit 0 [], .epochPulse 18446744073709551616, .monitorSample 0 (-129) 0, .monitorSample 0 128 0,
    .profileSelect 0x400100 0, .expertFieldWrite 0x400108 0, .registerWrite 0 0 4 2 0 {}, .registerWrite 0 0 4 8 0 {}] : List Instr), i.wf = false := by
  decide +kernel

theorem test_wf_refuses_long_history : (Instr.stepBoundary 0 [{ recent := List.replicate 257 0 }]).wf = false := by decide +kernel

theorem test_wf_refuses_long_write : (Instr.bar4Write 0 0 0 (List.replicate 4100 0) false).wf = false := by decide +kernel

theorem test_wf_admits : ∀ i ∈ ([
    .recover pf0 [65535], .commandSlotWrite pf0 0 64 0, .portLinkReturn 0 3 16, .bar4Read 0 1 549755813884 4, .bar4Read 0 1 0 4096,
    .bar4Write 0 1 549755813884 [1, 2, 3, 4] true, .tokenArrival 0 1 0, .stepBoundary 0 [{ slot := 65535 }],
    .laneUnitDispatch 65536 255 3 4 31, .outputTileDone 3 3 0 { upsets := [(255, 255, 1)] }, .dataFlitReceived 0 (List.replicate 256 0),
    .retrainComplete 0 false 0 [1, 2, 3, 4], .audit 0 [1, 2, 3, 4], .epochPulse 18446744073709551615, .monitorSample 111 (-128) 0,
    .monitorSample 111 127 0, .profileSelect Reg.ELAND_PROFILE 0, .expertFieldWrite Reg.HERD_STEP_CAP 0, .registerWrite 1 64 4 4 0 {},
    .registerWrite 1 64 8 8 0 {}] : List Instr), i.wf = true := by
  decide +kernel

/-! ### Witnesses: a state and operands that meet the hypotheses of each clause of each statement -/

theorem witness_IdleStepTicks :
    (∃ (s : State), (s.pending = []) ∧ (s.obs.slew = 0)) := by
  · refine ⟨dev, ?_⟩
    repeat' (refine And.intro ?_ ?_)
    all_goals (first | rfl | exact ⟨rfl, rfl⟩ | exact ⟨by decide +kernel, by decide +kernel, by decide +kernel⟩ | decide +kernel)

theorem witness_StepKeepsForms :
    (∃ (s : State) (t : State), (s.Inv) ∧ (step s = .next t)) := by
  · refine ⟨dev, State.tick dev, ?_⟩
    repeat' (refine And.intro ?_ ?_)
    all_goals (first | rfl | exact ⟨rfl, rfl⟩ | exact ⟨by decide +kernel, by decide +kernel, by decide +kernel⟩ | decide +kernel)

theorem witness_CommandsKeepFuses :
    (∃ (c : Instr) (s : State) (t : State), (Machine.exec c s = .next t)) := by
  · refine ⟨.pwrClearCounts, dev, { dev with pwr := { dev.pwr with switchOvers := 0, returns := 0 } }, ?_⟩
    repeat' (refine And.intro ?_ ?_)
    all_goals (first | rfl | exact ⟨rfl, rfl⟩ | exact ⟨by decide +kernel, by decide +kernel, by decide +kernel⟩ | decide +kernel)

theorem witness_RegisterAndMemoryReadBack :
    (∃ (s : State) (a : Nat) (v : U32), (s.Inv))
  ∧ (∃ (s : State) (a : Nat) (i : Nat) (bs : List Byte), (s.Inv) ∧ (i < bs.length)) := by
  refine ⟨?_, ?_⟩
  · refine ⟨dev, 0, 0, ?_⟩
    repeat' (refine And.intro ?_ ?_)
    all_goals (first | rfl | exact ⟨rfl, rfl⟩ | exact ⟨by decide +kernel, by decide +kernel, by decide +kernel⟩ | decide +kernel)
  · refine ⟨dev, 0, 1, [7, 8], ?_⟩
    repeat' (refine And.intro ?_ ?_)
    all_goals (first | rfl | exact ⟨rfl, rfl⟩ | exact ⟨by decide +kernel, by decide +kernel, by decide +kernel⟩ | decide +kernel)

theorem witness_TileTagIsCrc64Xz :
    (∃ (s : State) (p : Nat) (slot : Nat), (s.tilePoisoned p slot = false))
  ∧ (∃ (s : State) (p : Nat) (slot : Nat), (s.tilePoisoned p slot = false) ∧ (slot < 3) ∧ ((s.page p).tags.length ≤ 3)) := by
  refine ⟨?_, ?_⟩
  · refine ⟨dev, 0, 0, ?_⟩
    repeat' (refine And.intro ?_ ?_)
    all_goals (first | rfl | exact ⟨rfl, rfl⟩ | exact ⟨by decide +kernel, by decide +kernel, by decide +kernel⟩ | decide +kernel)
  · refine ⟨dev, 0, 2, ?_⟩
    repeat' (refine And.intro ?_ ?_)
    all_goals (first | rfl | exact ⟨rfl, rfl⟩ | exact ⟨by decide +kernel, by decide +kernel, by decide +kernel⟩ | decide +kernel)

theorem witness_SlotTakenAndReturned :
    (∃ (s : State) (t : State) (x : Slot) (n : Nat), (s.claim x = some (n, t)))
  ∧ (∃ (s : State) (n : Nat), (n < 65536) ∧ (1 ≤ (s.slot n).gen) ∧ ((s.slot n).gen ≤ 65535))
  ∧ (∃ (s : State) (n : Nat), ((s.slot n).state ≠ .free) ∧ (1 ≤ s.ibex.slotsBusy)) := by
  refine ⟨?_, ?_, ?_⟩
  · refine ⟨dev, ((dev.claim {}).getD (0, dev)).2, {}, 0, ?_⟩
    repeat' (refine And.intro ?_ ?_)
    all_goals (first | rfl | exact ⟨rfl, rfl⟩ | exact ⟨by decide +kernel, by decide +kernel, by decide +kernel⟩ | decide +kernel)
  · refine ⟨dev.setSlotAt 65535 { state := .waiting, gen := 65535 }, 65535, ?_⟩
    repeat' (refine And.intro ?_ ?_)
    all_goals (first | rfl | exact ⟨rfl, rfl⟩ | exact ⟨by decide +kernel, by decide +kernel, by decide +kernel⟩ | decide +kernel)
  · refine ⟨{ dev with ibex := { dev.ibex with slotsBusy := 1, slotsFree := 65535, slots := [(7, { state := .waiting, gen := 1 })] } }, 7, ?_⟩
    repeat' (refine And.intro ?_ ?_)
    all_goals (first | rfl | exact ⟨rfl, rfl⟩ | exact ⟨by decide +kernel, by decide +kernel, by decide +kernel⟩ | decide +kernel)

theorem witness_KeyGenerationsRecurLate :
    (∃ (s : State) (m : Nat) (n : Nat), (s.strait.keyCounter ≠ 0)) := by
  · refine ⟨{ dev with strait := { dev.strait with keyCounter := 0xFFFF } }, 0, 65535, ?_⟩
    repeat' (refine And.intro ?_ ?_)
    all_goals (first | rfl | exact ⟨rfl, rfl⟩ | exact ⟨by decide +kernel, by decide +kernel, by decide +kernel⟩ | decide +kernel)

theorem witness_SupplyCommands :
    (∃ (s : State) (v : Nat), (s.pwr.supply = .onA) ∧ (s.pwr.vinBGood = true))
  ∧ (∃ (s : State) (v : Nat), (s.pwr.supply = .onA) ∧ (s.pwr.vinBGood = false))
  ∧ (∃ (s : State), (s.pwr.supply = .holdUp) ∧ (s.pins.resetN = true))
  ∧ (∃ (s : State) (v : Nat), (s.pwr.supply = .onB) ∧ (s.flag Reg.PWR_CTRL 0 = false))
  ∧ (∃ (s : State) (v : Nat) (e : BootEnv), (s.pwr.supply = .off) ∧ (s.pins.resetN = true))
  ∧ (∃ (s : State) (on : Bool), (s.pwr.supply = .onB) ∧ (s.pwr.degradedSaid = true) ∧ (s.Inv))
  ∧ (∃ (s : State) (w : Fin 65536), (s.supplied = true))
  ∧ (∃ (s : State) (l : Fin 4), (s.pins.sbrun = true)) := by
  refine ⟨?_, ?_, ?_, ?_, ?_, ?_, ?_, ?_⟩
  · refine ⟨{ dev with pwr := { dev.pwr with vinBGood := true } }, 0, ?_⟩
    repeat' (refine And.intro ?_ ?_)
    all_goals (first | rfl | exact ⟨rfl, rfl⟩ | exact ⟨by decide +kernel, by decide +kernel, by decide +kernel⟩ | decide +kernel)
  · refine ⟨{ dev with pwr := { dev.pwr with vinBGood := false } }, 0, ?_⟩
    repeat' (refine And.intro ?_ ?_)
    all_goals (first | rfl | exact ⟨rfl, rfl⟩ | exact ⟨by decide +kernel, by decide +kernel, by decide +kernel⟩ | decide +kernel)
  · refine ⟨{ dev with pwr := { dev.pwr with supply := .holdUp } }, ?_⟩
    repeat' (refine And.intro ?_ ?_)
    all_goals (first | rfl | exact ⟨rfl, rfl⟩ | exact ⟨by decide +kernel, by decide +kernel, by decide +kernel⟩ | decide +kernel)
  · refine ⟨{ dev with pwr := { dev.pwr with supply := .onB } }, 0, ?_⟩
    repeat' (refine And.intro ?_ ?_)
    all_goals (first | rfl | exact ⟨rfl, rfl⟩ | exact ⟨by decide +kernel, by decide +kernel, by decide +kernel⟩ | decide +kernel)
  · refine ⟨{ dev with pwr := { dev.pwr with supply := .off } }, 0, {}, ?_⟩
    repeat' (refine And.intro ?_ ?_)
    all_goals (first | rfl | exact ⟨rfl, rfl⟩ | exact ⟨by decide +kernel, by decide +kernel, by decide +kernel⟩ | decide +kernel)
  · refine ⟨{ dev with pwr := { dev.pwr with supply := .onB, degradedSaid := true } }, true, ?_⟩
    repeat' (refine And.intro ?_ ?_)
    all_goals (first | rfl | exact ⟨rfl, rfl⟩ | exact ⟨by decide +kernel, by decide +kernel, by decide +kernel⟩ | decide +kernel)
  · refine ⟨dev, 0, ?_⟩
    repeat' (refine And.intro ?_ ?_)
    all_goals (first | rfl | exact ⟨rfl, rfl⟩ | exact ⟨by decide +kernel, by decide +kernel, by decide +kernel⟩ | decide +kernel)
  · refine ⟨dev, 0, ?_⟩
    repeat' (refine And.intro ?_ ?_)
    all_goals (first | rfl | exact ⟨rfl, rfl⟩ | exact ⟨by decide +kernel, by decide +kernel, by decide +kernel⟩ | decide +kernel)

theorem witness_I3cCommands :
    (∃ (s : State) (a : BitVec 7), (s.i3cUp = true))
  ∧ (∃ (s : State) (a : BitVec 7), (s.i3cUp = true) ∧ (s.pins.i3cAddr = some a) ∧ (s.pins.phase = .run))
  ∧ (∃ (s : State) (a : BitVec 7) (x : Byte) (y : Byte), (s.i3cUp = true) ∧ (s.pins.i3cAddr = some a) ∧ (s.pins.phase = .run))
  ∧ (∃ (s : State) (a : BitVec 7) (d : List Byte), (s.i3cUp = true) ∧ (s.pins.i3cAddr = some a) ∧ (s.pins.phase = .run) ∧ (d.length = 8))
  ∧ (∃ (s : State) (a : BitVec 7) (d : List Byte), (s.i3cUp = true) ∧ (s.pins.i3cAddr = some a) ∧ (s.pins.phase = .run) ∧ (d.length = 3))
  ∧ (∃ (s : State) (a : BitVec 7), (s.i3cUp = true) ∧ (s.pins.i3cAddr = some a) ∧ (s.pins.phase = .run))
  ∧ (∃ (s : State) (a : BitVec 7) (d : List Byte), (s.i3cUp = true) ∧ (s.pins.i3cAddr = some a) ∧ (s.pins.phase = .run) ∧ (d.length ≠ 2))
  ∧ (∃ (s : State) (d : List Byte), (s.i3cUp = false)) := by
  refine ⟨?_, ?_, ?_, ?_, ?_, ?_, ?_, ?_⟩
  · refine ⟨{ dev with pins := { dev.pins with i3cAddr := some 9 } }, 9, ?_⟩
    repeat' (refine And.intro ?_ ?_)
    all_goals (first | rfl | exact ⟨rfl, rfl⟩ | exact ⟨by decide +kernel, by decide +kernel, by decide +kernel⟩ | decide +kernel)
  · refine ⟨{ dev with pins := { dev.pins with i3cAddr := some 9 } }, 9, ?_⟩
    repeat' (refine And.intro ?_ ?_)
    all_goals (first | rfl | exact ⟨rfl, rfl⟩ | exact ⟨by decide +kernel, by decide +kernel, by decide +kernel⟩ | decide +kernel)
  · refine ⟨{ dev with pins := { dev.pins with i3cAddr := some 9 } }, 9, 0, 0, ?_⟩
    repeat' (refine And.intro ?_ ?_)
    all_goals (first | rfl | exact ⟨rfl, rfl⟩ | exact ⟨by decide +kernel, by decide +kernel, by decide +kernel⟩ | decide +kernel)
  · refine ⟨{ dev with pins := { dev.pins with i3cAddr := some 9 } }, 9, List.replicate 8 0, ?_⟩
    repeat' (refine And.intro ?_ ?_)
    all_goals (first | rfl | exact ⟨rfl, rfl⟩ | exact ⟨by decide +kernel, by decide +kernel, by decide +kernel⟩ | decide +kernel)
  · refine ⟨{ dev with pins := { dev.pins with i3cAddr := some 9 } }, 9, [0, 0, 0], ?_⟩
    repeat' (refine And.intro ?_ ?_)
    all_goals (first | rfl | exact ⟨rfl, rfl⟩ | exact ⟨by decide +kernel, by decide +kernel, by decide +kernel⟩ | decide +kernel)
  · refine ⟨{ dev with pins := { dev.pins with i3cAddr := some 9 } }, 9, ?_⟩
    repeat' (refine And.intro ?_ ?_)
    all_goals (first | rfl | exact ⟨rfl, rfl⟩ | exact ⟨by decide +kernel, by decide +kernel, by decide +kernel⟩ | decide +kernel)
  · refine ⟨{ dev with pins := { dev.pins with i3cAddr := some 9 } }, 9, [0], ?_⟩
    repeat' (refine And.intro ?_ ?_)
    all_goals (first | rfl | exact ⟨rfl, rfl⟩ | exact ⟨by decide +kernel, by decide +kernel, by decide +kernel⟩ | decide +kernel)
  · refine ⟨{ dev with pwr := { dev.pwr with supply := .off }, pins := { dev.pins with phase := .off } }, [], ?_⟩
    repeat' (refine And.intro ?_ ?_)
    all_goals (first | rfl | exact ⟨rfl, rfl⟩ | exact ⟨by decide +kernel, by decide +kernel, by decide +kernel⟩ | decide +kernel)

theorem witness_ResetCommands :
    (∃ (s : State) (n : Nat) (x : Byte) (e : BootEnv), (s.pins.resetN = false) ∧ (s.supplied = true) ∧ (10000000 ≤ n))
  ∧ (∃ (s : State) (n : Nat) (x : Byte) (e : BootEnv), (s.pins.resetN = false) ∧ (s.supplied = true) ∧ (1000 ≤ n) ∧ (n < 10000000))
  ∧ (∃ (s : State) (e : BootEnv), (s.supplied = true))
  ∧ (∃ (s : State) (k : U16) (e : BootEnv), (s.supplied = true) ∧ (k ≠ 0x7E5E))
  ∧ (∃ (s : State) (n : Fin 20) (p : Nat), (s.tier.trained.getLsbD n.val = false))
  ∧ (∃ (s : State) (n : Fin 20) (p : Nat), (s.tier.trained.getLsbD n.val = false)) := by
  refine ⟨?_, ?_, ?_, ?_, ?_, ?_⟩
  · refine ⟨{ dev with pins := { dev.pins with resetN := false } }, 10000000, 0, {}, ?_⟩
    repeat' (refine And.intro ?_ ?_)
    all_goals (first | rfl | exact ⟨rfl, rfl⟩ | exact ⟨by decide +kernel, by decide +kernel, by decide +kernel⟩ | decide +kernel)
  · refine ⟨{ dev with pins := { dev.pins with resetN := false } }, 9999999, 0, {}, ?_⟩
    repeat' (refine And.intro ?_ ?_)
    all_goals (first | rfl | exact ⟨rfl, rfl⟩ | exact ⟨by decide +kernel, by decide +kernel, by decide +kernel⟩ | decide +kernel)
  · refine ⟨dev, {}, ?_⟩
    repeat' (refine And.intro ?_ ?_)
    all_goals (first | rfl | exact ⟨rfl, rfl⟩ | exact ⟨by decide +kernel, by decide +kernel, by decide +kernel⟩ | decide +kernel)
  · refine ⟨dev, 0, {}, ?_⟩
    repeat' (refine And.intro ?_ ?_)
    all_goals (first | rfl | exact ⟨rfl, rfl⟩ | exact ⟨by decide +kernel, by decide +kernel, by decide +kernel⟩ | decide +kernel)
  · refine ⟨dev, 0, 0, ?_⟩
    repeat' (refine And.intro ?_ ?_)
    all_goals (first | rfl | exact ⟨rfl, rfl⟩ | exact ⟨by decide +kernel, by decide +kernel, by decide +kernel⟩ | decide +kernel)
  · refine ⟨dev, 0, 0, ?_⟩
    repeat' (refine And.intro ?_ ?_)
    all_goals (first | rfl | exact ⟨rfl, rfl⟩ | exact ⟨by decide +kernel, by decide +kernel, by decide +kernel⟩ | decide +kernel)

theorem witness_HealthCommands :
    (∃ (s : State) (i : Fin 112), (10 ≤ (s.health.islets.get i.val).hotMs))
  ∧ (∃ (s : State) (i : Fin 112), ((s.health.islets.get i.val).tripMs ≠ 0))
  ∧ (∃ (s : State) (l : Fin 192) (h : U16) (v : U16) (f : U64), (s.laneUsed l.val = true))
  ∧ (∃ (s : State) (h : U16) (v : U16) (f : U64), (s.laneUsed 0 = true))
  ∧ (∃ (s : State), (s.Inv))
  ∧ (∃ (s : State) (n : Fin 4096), (s.Inv))
  ∧ (∃ (s : State) (n : Fin 131072), (s.Inv))
  ∧ (∃ (s : State) (r : LifeRec) (rs : List LifeRec), (s.health.log.buffer = r :: rs) ∧ (s.logWritable = true))
  ∧ (∃ (s : State) (n : Nat), (s.health.log.erasing = some n)) := by
  refine ⟨?_, ?_, ?_, ?_, ?_, ?_, ?_, ?_, ?_⟩
  · refine ⟨{ dev with health := { dev.health with islets := [(111, { hotMs := 10 })] } }, 111, ?_⟩
    repeat' (refine And.intro ?_ ?_)
    all_goals (first | rfl | exact ⟨rfl, rfl⟩ | exact ⟨by decide +kernel, by decide +kernel, by decide +kernel⟩ | decide +kernel)
  · refine ⟨{ dev with health := { dev.health with islets := [(111, { tripMs := 1 })] } }, 111, ?_⟩
    repeat' (refine And.intro ?_ ?_)
    all_goals (first | rfl | exact ⟨rfl, rfl⟩ | exact ⟨by decide +kernel, by decide +kernel, by decide +kernel⟩ | decide +kernel)
  · refine ⟨withBits dev { preset := 1 }, 159, 0, 0, 0, ?_⟩
    repeat' (refine And.intro ?_ ?_)
    all_goals (first | rfl | exact ⟨rfl, rfl⟩ | exact ⟨by decide +kernel, by decide +kernel, by decide +kernel⟩ | decide +kernel)
  · refine ⟨withBits dev { preset := 1 }, 0, 0, 0, ?_⟩
    repeat' (refine And.intro ?_ ?_)
    all_goals (first | rfl | exact ⟨rfl, rfl⟩ | exact ⟨by decide +kernel, by decide +kernel, by decide +kernel⟩ | decide +kernel)
  · refine ⟨dev, ?_⟩
    repeat' (refine And.intro ?_ ?_)
    all_goals (first | rfl | exact ⟨rfl, rfl⟩ | exact ⟨by decide +kernel, by decide +kernel, by decide +kernel⟩ | decide +kernel)
  · refine ⟨dev, 4095, ?_⟩
    repeat' (refine And.intro ?_ ?_)
    all_goals (first | rfl | exact ⟨rfl, rfl⟩ | exact ⟨by decide +kernel, by decide +kernel, by decide +kernel⟩ | decide +kernel)
  · refine ⟨dev, 131071, ?_⟩
    repeat' (refine And.intro ?_ ?_)
    all_goals (first | rfl | exact ⟨rfl, rfl⟩ | exact ⟨by decide +kernel, by decide +kernel, by decide +kernel⟩ | decide +kernel)
  · refine ⟨{ dev with health := { dev.health with log := { dev.health.log with buffer := [{}] } } }, {}, [], ?_⟩
    repeat' (refine And.intro ?_ ?_)
    all_goals (first | rfl | exact ⟨rfl, rfl⟩ | exact ⟨by decide +kernel, by decide +kernel, by decide +kernel⟩ | decide +kernel)
  · refine ⟨{ dev with health := { dev.health with log := { dev.health.log with erasing := some 0 } } }, 0, ?_⟩
    repeat' (refine And.intro ?_ ?_)
    all_goals (first | rfl | exact ⟨rfl, rfl⟩ | exact ⟨by decide +kernel, by decide +kernel, by decide +kernel⟩ | decide +kernel)

theorem witness_FuseAndSelfTestCommands :
    (∃ (s : State), (s.allMldsa = true))
  ∧ (∃ (s : State) (k : U16), (k ≠ 0xB10E))
  ∧ (∃ (s : State) (g : Bool), let r := s.enrolRec
    (s.enrolFault r g = none) ∧ (r.op = 1))
  ∧ (∃ (s : State) (g : Bool), let r := s.enrolRec
    (s.enrolFault r g = none) ∧ (r.op ≠ 1))
  ∧ (∃ (s : State) (g : Bool) (e : Byte), let r := s.enrolRec
    (s.enrolFault r g = some e)) := by
  refine ⟨?_, ?_, ?_, ?_, ?_⟩
  · refine ⟨dev, ?_⟩
    repeat' (refine And.intro ?_ ?_)
    all_goals (first | rfl | exact ⟨rfl, rfl⟩ | exact ⟨by decide +kernel, by decide +kernel, by decide +kernel⟩ | decide +kernel)
  · refine ⟨dev, 0, ?_⟩
    repeat' (refine And.intro ?_ ?_)
    all_goals (first | rfl | exact ⟨rfl, rfl⟩ | exact ⟨by decide +kernel, by decide +kernel, by decide +kernel⟩ | decide +kernel)
  · refine ⟨enrolling 1 0, true, ?_⟩
    repeat' (refine And.intro ?_ ?_)
    all_goals (first | rfl | exact ⟨rfl, rfl⟩ | exact ⟨by decide +kernel, by decide +kernel, by decide +kernel⟩ | decide +kernel)
  · refine ⟨enrolling 2 3, true, ?_⟩
    repeat' (refine And.intro ?_ ?_)
    all_goals (first | rfl | exact ⟨rfl, rfl⟩ | exact ⟨by decide +kernel, by decide +kernel, by decide +kernel⟩ | decide +kernel)
  · refine ⟨dev, true, (dev.enrolFault dev.enrolRec true).getD 0, ?_⟩
    repeat' (refine And.intro ?_ ?_)
    all_goals (first | rfl | exact ⟨rfl, rfl⟩ | exact ⟨by decide +kernel, by decide +kernel, by decide +kernel⟩ | decide +kernel)

theorem witness_SpdmCommands :
    (∃ (s : State) (p : Fin 2) (q : SpdmReq), (s.fw.secRun.isSome = true) ∧ (s.sec.error = false) ∧ (q.ok = true))
  ∧ (∃ (s : State) (p : Fin 2) (q : SpdmReq), (s.fw.secRun.isSome = true) ∧ (s.sec.error = false) ∧ (q.ok = true) ∧ ((s.conn (.doe p)).version = true))
  ∧ (∃ (s : State) (p : Fin 2) (q : SpdmReq), (s.fw.secRun.isSome = true) ∧ (s.sec.error = false) ∧ (q.ok = true) ∧ ((s.conn (.doe p)).capabilities = true))
  ∧ (∃ (s : State) (p : Fin 2) (q : SpdmReq), (s.fw.secRun.isSome = true) ∧ (s.sec.error = false) ∧ (q.ok = true) ∧ ((s.conn (.doe p)).algorithms = true) ∧ (q.slot = 0))
  ∧ (∃ (s : State) (p : Fin 2) (q : SpdmReq), (s.fw.secRun.isSome = true) ∧ (s.sec.error = false) ∧ (q.ok = true) ∧ (q.verifies = true) ∧ (s.hasSession (.doe p) q false = true))
  ∧ (∃ (s : State) (p : Fin 2) (q : SpdmReq), (s.fw.secRun.isSome = true) ∧ (s.sec.error = false) ∧ (q.ok = true) ∧ (q.verifies = true) ∧ (s.hasSession (.doe p) q true = true))
  ∧ (∃ (s : State) (p : Fin 2) (q : SpdmReq), (s.fw.secRun.isSome = true) ∧ (s.sec.error = false) ∧ ((s.conn (.doe p)).version = false)) := by
  refine ⟨?_, ?_, ?_, ?_, ?_, ?_, ?_⟩
  · refine ⟨secUp, 0, {}, ?_⟩
    repeat' (refine And.intro ?_ ?_)
    all_goals (first | rfl | exact ⟨rfl, rfl⟩ | exact ⟨by decide +kernel, by decide +kernel, by decide +kernel⟩ | decide +kernel)
  · refine ⟨secUp.setConn (.doe 0) { version := true }, 0, {}, ?_⟩
    repeat' (refine And.intro ?_ ?_)
    all_goals (first | rfl | exact ⟨rfl, rfl⟩ | exact ⟨by decide +kernel, by decide +kernel, by decide +kernel⟩ | decide +kernel)
  · refine ⟨secUp.setConn (.doe 0) { capabilities := true }, 0, {}, ?_⟩
    repeat' (refine And.intro ?_ ?_)
    all_goals (first | rfl | exact ⟨rfl, rfl⟩ | exact ⟨by decide +kernel, by decide +kernel, by decide +kernel⟩ | decide +kernel)
  · refine ⟨secUp.setConn (.doe 0) { algorithms := true }, 0, {}, ?_⟩
    repeat' (refine And.intro ?_ ?_)
    all_goals (first | rfl | exact ⟨rfl, rfl⟩ | exact ⟨by decide +kernel, by decide +kernel, by decide +kernel⟩ | decide +kernel)
  · refine ⟨secUp.setConn (.doe 0) { sessions := [{ id := 7 }] }, 0, { session := 7 }, ?_⟩
    repeat' (refine And.intro ?_ ?_)
    all_goals (first | rfl | exact ⟨rfl, rfl⟩ | exact ⟨by decide +kernel, by decide +kernel, by decide +kernel⟩ | decide +kernel)
  · refine ⟨secUp.setConn (.doe 0) { sessions := [{ id := 7, ready := true }] }, 0, { session := 7 }, ?_⟩
    repeat' (refine And.intro ?_ ?_)
    all_goals (first | rfl | exact ⟨rfl, rfl⟩ | exact ⟨by decide +kernel, by decide +kernel, by decide +kernel⟩ | decide +kernel)
  · refine ⟨secUp, 0, {}, ?_⟩
    repeat' (refine And.intro ?_ ?_)
    all_goals (first | rfl | exact ⟨rfl, rfl⟩ | exact ⟨by decide +kernel, by decide +kernel, by decide +kernel⟩ | decide +kernel)

theorem witness_FirmwareCommands :
    (∃ (s : State) (w : WinRef) (x : SlotFile), let c := s.frontCmd w.key
    let u := s.take w.key
    (s.Runs w 0x18) ∧ (u.beginSlot c ≠ 7) ∧ (c.arg1.toNat ≤ slotSize (u.beginSlot c)) ∧ (u.fw.session = none) ∧ (u.handingOver = false) ∧ (u.structLoading = false) ∧ (u.sec.error = false) ∧ (u.struct.loaded = none) ∧ (u.fw.handover = .idle) ∧ (u.fw.service = .normal) ∧ (u.fnMode 9 ≠ .hostAssist))
  ∧ (∃ (s : State) (w : WinRef) (b : StagedBlock) (x : Session), (s.Runs w 0x19) ∧ ((s.take w.key).fw.session = some x) ∧ (s.sec.error = false) ∧ (x.hw = false) ∧ ((s.frontCmd w.key).arg0.toNat = x.next) ∧ (b.tagOk = true))
  ∧ (∃ (s : State) (w : WinRef) (x : Session), (s.Runs w 0x1A) ∧ ((s.take w.key).fw.session = some x) ∧ (x.hw = false))
  ∧ (∃ (s : State) (w : WinRef), (s.Runs w 0x1B))
  ∧ (∃ (s : State) (x : Session), (s.fw.session = some x) ∧ (x.hw = true) ∧ (x.slot = 5))
  ∧ (∃ (s : State), (s.fw.handover = .prepare))
  ∧ (∃ (s : State), (s.fw.handover = .quiesce) ∧ (s.fault.recovery.step = 0) ∧ (s.tier.plans = []))
  ∧ (∃ (s : State), (s.fw.handover = .pause))
  ∧ (∃ (s : State) (i : Image), (s.fw.handover = .switched) ∧ (s.fw.run = some i) ∧ (s.rdN Reg.FW_CONFIRM ≠ 0) ∧ (s.fw.nextSlot = 2) ∧ (s.fw.cmd = none))
  ∧ (∃ (s : State), (s.fw.handover = .confirming) ∧ (s.alive = true))
  ∧ (∃ (s : State) (v : U32) (i : Image), (v.toNat % 8 ≠ 7) ∧ ((s.fw.slots.get (v.toNat % 8)).state = .valid) ∧ ((s.fw.slots.get (v.toNat % 8)).content = .image i) ∧ (s.Inv))
  ∧ (∃ (s : State) (v : U32), (v.toNat % 8 = 7)) := by
  refine ⟨?_, ?_, ?_, ?_, ?_, ?_, ?_, ?_, ?_, ?_, ?_, ?_⟩
  · refine ⟨withCmd dev 0x18 4 4096, pf0, {}, ?_⟩
    repeat' (refine And.intro ?_ ?_)
    all_goals (first | rfl | exact ⟨rfl, rfl⟩ | exact ⟨by decide +kernel, by decide +kernel, by decide +kernel⟩ | decide +kernel)
  · refine ⟨withCmd { dev with fw := { dev.fw with session := some { hw := false, next := 5 } } } 0x19 5, pf0, {}, { hw := false, next := 5 }, ?_⟩
    repeat' (refine And.intro ?_ ?_)
    all_goals (first | rfl | exact ⟨rfl, rfl⟩ | exact ⟨by decide +kernel, by decide +kernel, by decide +kernel⟩ | decide +kernel)
  · refine ⟨withCmd { dev with fw := { dev.fw with session := some { hw := false, next := 5 } } } 0x1A, pf0, { hw := false, next := 5 }, ?_⟩
    repeat' (refine And.intro ?_ ?_)
    all_goals (first | rfl | exact ⟨rfl, rfl⟩ | exact ⟨by decide +kernel, by decide +kernel, by decide +kernel⟩ | decide +kernel)
  · refine ⟨withCmd dev 0x1B, pf0, ?_⟩
    repeat' (refine And.intro ?_ ?_)
    all_goals (first | rfl | exact ⟨rfl, rfl⟩ | exact ⟨by decide +kernel, by decide +kernel, by decide +kernel⟩ | decide +kernel)
  · refine ⟨{ dev with fw := { dev.fw with session := some { slot := 5 } } }, { slot := 5 }, ?_⟩
    repeat' (refine And.intro ?_ ?_)
    all_goals (first | rfl | exact ⟨rfl, rfl⟩ | exact ⟨by decide +kernel, by decide +kernel, by decide +kernel⟩ | decide +kernel)
  · refine ⟨{ dev with fw := { dev.fw with handover := .prepare } }, ?_⟩
    repeat' (refine And.intro ?_ ?_)
    all_goals (first | rfl | exact ⟨rfl, rfl⟩ | exact ⟨by decide +kernel, by decide +kernel, by decide +kernel⟩ | decide +kernel)
  · refine ⟨{ dev with fw := { dev.fw with handover := .quiesce } }, ?_⟩
    repeat' (refine And.intro ?_ ?_)
    all_goals (first | rfl | exact ⟨rfl, rfl⟩ | exact ⟨by decide +kernel, by decide +kernel, by decide +kernel⟩ | decide +kernel)
  · refine ⟨{ dev with fw := { dev.fw with handover := .pause } }, ?_⟩
    repeat' (refine And.intro ?_ ?_)
    all_goals (first | rfl | exact ⟨rfl, rfl⟩ | exact ⟨by decide +kernel, by decide +kernel, by decide +kernel⟩ | decide +kernel)
  · refine ⟨{ dev with fw := { dev.fw with handover := .switched, run := some {}, nextSlot := 2 } }, {}, ?_⟩
    repeat' (refine And.intro ?_ ?_)
    all_goals (first | rfl | exact ⟨rfl, rfl⟩ | exact ⟨by decide +kernel, by decide +kernel, by decide +kernel⟩ | decide +kernel)
  · refine ⟨{ dev with fw := { dev.fw with handover := .confirming } }, ?_⟩
    repeat' (refine And.intro ?_ ?_)
    all_goals (first | rfl | exact ⟨rfl, rfl⟩ | exact ⟨by decide +kernel, by decide +kernel, by decide +kernel⟩ | decide +kernel)
  · refine ⟨{ dev with fw := { dev.fw with slots := [(6, { state := .valid, content := .image {} })] } }, 6, {}, ?_⟩
    repeat' (refine And.intro ?_ ?_)
    all_goals (first | rfl | exact ⟨rfl, rfl⟩ | exact ⟨by decide +kernel, by decide +kernel, by decide +kernel⟩ | decide +kernel)
  · refine ⟨dev, 7, ?_⟩
    repeat' (refine And.intro ?_ ?_)
    all_goals (first | rfl | exact ⟨rfl, rfl⟩ | exact ⟨by decide +kernel, by decide +kernel, by decide +kernel⟩ | decide +kernel)

theorem witness_RegisterCommands :
    (∃ (s : State) (p : Fin 16) (k : Fin 8) (a : Nat) (b : Nat) (c : Nat) (d : Int), ((s.shaper (p.val * 8 + k.val)).pending = some (a, b, c, d)))
  ∧ (∃ (s : State) (x : PortWrite), (s.fnMode 6 ≠ .hostAssist ∨ x.port ≠ some (s.fnEntry 6).port))
  ∧ (∃ (s : State) (x : PortWrite), let n := s.rdN Reg.SHAPE_CONN_SEL % 8192
    (s.fnMode 6 = .hostAssist) ∧ (s.mayDecide 6 x.port = true) ∧ ((s.netConn n).state ≠ .free) ∧ ((s.netConn n).attr.message = true) ∧ ((s.netConn n).attr.multipath = true))
  ∧ (∃ (s : State) (v : U32), (s.Inv))
  ∧ (∃ (s : State) (v : U32), (s.Inv))
  ∧ (∃ (s : State), (s.Inv))
  ∧ (∃ (s : State) (v : U32), let i := s.rdN Reg.CHAM_INDEX_SEL % 16
    ((s.index i).registered = true) ∧ (v.toNat % 2 ^ 20 < (s.index i).header.nlist))
  ∧ (∃ (s : State) (x : PortWrite), (s.fnMode 5 = .hostAssist) ∧ (s.mayDecide 5 x.port = true) ∧ (x.value.toNat * 2 ^ 32 + s.rdN Reg.CHAM_SNAP_POINT_LO < s.cham.snapPoint))
  ∧ (∃ (s : State) (x : PortWrite), (s.fnMode 5 = .hostAssist) ∧ (s.mayDecide 5 x.port = true) ∧ (s.cham.snapPoint ≤ x.value.toNat * 2 ^ 32 + s.rdN Reg.CHAM_SNAP_POINT_LO))
  ∧ (∃ (s : State) (on : Bool), (s.Inv))
  ∧ (∃ (s : State) (w : WinRef), ((s.win w.key).waiting = []))
  ∧ (∃ (s : State) (w : WinRef), ((s.win w.key).msiPending = false))
  ∧ (∃ (s : State) (w : WinRef), ((s.win w.key).msiPending = true))
  ∧ (∃ (s : State) (v : U32), (s.Inv) ∧ (s.rdN Reg.HOSTIF_BAR4_BASE_LO % 2 ^ 30 = 0)) := by
  refine ⟨?_, ?_, ?_, ?_, ?_, ?_, ?_, ?_, ?_, ?_, ?_, ?_, ?_, ?_⟩
  · refine ⟨dev.setShaper 127 { pending := some (1, 2, 3, 4) }, 15, 7, 1, 2, 3, 4, ?_⟩
    repeat' (refine And.intro ?_ ?_)
    all_goals (first | rfl | exact ⟨rfl, rfl⟩ | exact ⟨by decide +kernel, by decide +kernel, by decide +kernel⟩ | decide +kernel)
  · refine ⟨dev, {}, ?_⟩
    repeat' (refine And.intro ?_ ?_)
    all_goals (first | rfl | exact ⟨rfl, rfl⟩ | exact ⟨by decide +kernel, by decide +kernel, by decide +kernel⟩ | decide +kernel)
  · refine ⟨((assist 6).wr Reg.SHAPE_CONN_SEL 8191).setNetConn 8191 { state := .ready, attr := { message := true, multipath := true } }, { port := some 0 }, ?_⟩
    repeat' (refine And.intro ?_ ?_)
    all_goals (first | rfl | exact ⟨rfl, rfl⟩ | exact ⟨by decide +kernel, by decide +kernel, by decide +kernel⟩ | decide +kernel)
  · refine ⟨dev, 0, ?_⟩
    repeat' (refine And.intro ?_ ?_)
    all_goals (first | rfl | exact ⟨rfl, rfl⟩ | exact ⟨by decide +kernel, by decide +kernel, by decide +kernel⟩ | decide +kernel)
  · refine ⟨dev, 0, ?_⟩
    repeat' (refine And.intro ?_ ?_)
    all_goals (first | rfl | exact ⟨rfl, rfl⟩ | exact ⟨by decide +kernel, by decide +kernel, by decide +kernel⟩ | decide +kernel)
  · refine ⟨dev, ?_⟩
    repeat' (refine And.intro ?_ ?_)
    all_goals (first | rfl | exact ⟨rfl, rfl⟩ | exact ⟨by decide +kernel, by decide +kernel, by decide +kernel⟩ | decide +kernel)
  · refine ⟨(dev.wr Reg.CHAM_INDEX_SEL 15).setIndex 15 { registered := true, header := { nlist := 5 } }, 4, ?_⟩
    repeat' (refine And.intro ?_ ?_)
    all_goals (first | rfl | exact ⟨rfl, rfl⟩ | exact ⟨by decide +kernel, by decide +kernel, by decide +kernel⟩ | decide +kernel)
  · refine ⟨{ assist 5 with cham := { dev.cham with snapPoint := 4294967296 } }, { port := some 0 }, ?_⟩
    repeat' (refine And.intro ?_ ?_)
    all_goals (first | rfl | exact ⟨rfl, rfl⟩ | exact ⟨by decide +kernel, by decide +kernel, by decide +kernel⟩ | decide +kernel)
  · refine ⟨assist 5, { port := some 0 }, ?_⟩
    repeat' (refine And.intro ?_ ?_)
    all_goals (first | rfl | exact ⟨rfl, rfl⟩ | exact ⟨by decide +kernel, by decide +kernel, by decide +kernel⟩ | decide +kernel)
  · refine ⟨dev, true, ?_⟩
    repeat' (refine And.intro ?_ ?_)
    all_goals (first | rfl | exact ⟨rfl, rfl⟩ | exact ⟨by decide +kernel, by decide +kernel, by decide +kernel⟩ | decide +kernel)
  · refine ⟨dev, pf0, ?_⟩
    repeat' (refine And.intro ?_ ?_)
    all_goals (first | rfl | exact ⟨rfl, rfl⟩ | exact ⟨by decide +kernel, by decide +kernel, by decide +kernel⟩ | decide +kernel)
  · refine ⟨dev, pf0, ?_⟩
    repeat' (refine And.intro ?_ ?_)
    all_goals (first | rfl | exact ⟨rfl, rfl⟩ | exact ⟨by decide +kernel, by decide +kernel, by decide +kernel⟩ | decide +kernel)
  · refine ⟨dev.setWin pf0.key { msiPending := true }, pf0, ?_⟩
    repeat' (refine And.intro ?_ ?_)
    all_goals (first | rfl | exact ⟨rfl, rfl⟩ | exact ⟨by decide +kernel, by decide +kernel, by decide +kernel⟩ | decide +kernel)
  · refine ⟨dev, 0, ?_⟩
    repeat' (refine And.intro ?_ ?_)
    all_goals (first | rfl | exact ⟨rfl, rfl⟩ | exact ⟨by decide +kernel, by decide +kernel, by decide +kernel⟩ | decide +kernel)

theorem witness_StructureAndControlCommands :
    (∃ (s : State) (w : WinRef), let u := s.take w.key
    let slot : Fin 2 := if (s.frontCmd w.key).arg0.getLsbD 0 then 1 else 0
    (s.Runs w 0x17) ∧ (u.loadBusy slot.val = false) ∧ (s.sec.error = false) ∧ (u.bitsFault (u.structSlot slot.val) = none) ∧ (u.struct.loaded = none))
  ∧ (∃ (s : State) (w : WinRef) (e : Byte × Nat), let u := s.take w.key
    let slot : Fin 2 := if (s.frontCmd w.key).arg0.getLsbD 0 then 1 else 0
    (s.Runs w 0x17) ∧ (u.loadBusy slot.val = false) ∧ (s.sec.error = false) ∧ (u.bitsFault (u.structSlot slot.val) = some e))
  ∧ (∃ (s : State) (b : Bitstream) (slot : Fin 2) (k : Nat) (n : Nat) (f : BitVec 8), (s.struct.drain = some (b, slot, k, n)) ∧ (s.drained = true))
  ∧ (∃ (s : State) (b : Bitstream) (slot : Fin 2) (k : Nat) (n : Nat), (s.struct.drain = some (b, slot, k, n)))
  ∧ (∃ (s : State) (a : Nat) (v : U32) (b : ControlBlock), (blockOfProfile a = some b))
  ∧ (∃ (s : State) (a : Nat) (v : U32) (b : ControlBlock) (f : ExpertField), (expertAt a = some (b, f))) := by
  refine ⟨?_, ?_, ?_, ?_, ?_, ?_⟩
  · refine ⟨withCmd { dev1 with fw := { dev1.fw with slots := [(6, { state := .valid, content := .bits goodFile })] } } 0x17 1, pf0, ?_⟩
    repeat' (refine And.intro ?_ ?_)
    all_goals (first | rfl | exact ⟨rfl, rfl⟩ | exact ⟨by decide +kernel, by decide +kernel, by decide +kernel⟩ | decide +kernel)
  · refine ⟨withCmd dev 0x17, pf0, (0x1F, 0), ?_⟩
    repeat' (refine And.intro ?_ ?_)
    all_goals (first | rfl | exact ⟨rfl, rfl⟩ | exact ⟨by decide +kernel, by decide +kernel, by decide +kernel⟩ | decide +kernel)
  · refine ⟨{ dev with struct := { dev.struct with drain := some (goodBits, 1, 0, 0) } }, goodBits, 1, 0, 0, 0, ?_⟩
    repeat' (refine And.intro ?_ ?_)
    all_goals (first | rfl | exact ⟨rfl, rfl⟩ | exact ⟨by decide +kernel, by decide +kernel, by decide +kernel⟩ | decide +kernel)
  · refine ⟨{ dev with struct := { dev.struct with drain := some (goodBits, 1, 0, 0) } }, goodBits, 1, 0, 0, ?_⟩
    repeat' (refine And.intro ?_ ?_)
    all_goals (first | rfl | exact ⟨rfl, rfl⟩ | exact ⟨by decide +kernel, by decide +kernel, by decide +kernel⟩ | decide +kernel)
  · refine ⟨dev, Reg.ELAND_PROFILE, 0, controlBlocks0.getD 1 ⟨0, 0, 0, 0, 0, []⟩, ?_⟩
    repeat' (refine And.intro ?_ ?_)
    all_goals (first | rfl | exact ⟨rfl, rfl⟩ | exact ⟨by decide +kernel, by decide +kernel, by decide +kernel⟩ | decide +kernel)
  · refine ⟨dev, Reg.HERD_STEP_CAP, 0, controlBlocks0.getD 0 ⟨0, 0, 0, 0, 0, []⟩, ⟨Reg.HERD_STEP_CAP, 256, 65536, [16384, 8192, 32768]⟩, ?_⟩
    repeat' (refine And.intro ?_ ?_)
    all_goals (first | rfl | exact ⟨rfl, rfl⟩ | exact ⟨by decide +kernel, by decide +kernel, by decide +kernel⟩ | decide +kernel)

theorem witness_HostPortCommands :
    (∃ (s : State) (w : WinRef) (k : Fin 64) (d : BitVec 512), (s.portOpen w.port = true) ∧ (s.pins.resetN = true) ∧ (windowExists w.key = true) ∧ ((s.win w.key).enable = true) ∧ ((s.win w.key).error = false))
  ∧ (∃ (s : State) (w : WinRef) (k : Fin 64) (n : Nat) (d : BitVec 512), (s.portOpen w.port = true) ∧ (s.pins.resetN = true) ∧ (windowExists w.key = true) ∧ (n < 64))
  ∧ (∃ (s : State) (p : Fin 2), ((s.port p.val).lost = false))
  ∧ (∃ (s : State) (p : Fin 2), ((s.port p.val).lost = true))
  ∧ (∃ (s : State) (p : Fin 2) (f : Fin 65), ((s.port p.val).lost = false))
  ∧ (∃ (s : State) (p : Fin 2), ((s.port p.val).lost = false))
  ∧ (∃ (s : State) (p : Fin 2) (f : Fin 65) (o : Nat) (n : Nat), (s.apertureOpen p f.val o n = true) ∧ (s.apertureStatus f.val (s.apertureAddr o) n false = none))
  ∧ (∃ (s : State) (p : Fin 2) (f : Fin 65) (o : Nat) (d : List Byte) (e : Bool), (s.apertureOpen p f.val o d.length = true) ∧ (s.apertureStatus f.val (s.apertureAddr o) d.length true = none))
  ∧ (∃ (s : State) (p : Fin 2) (f : Fin 65) (o : Nat) (d : List Byte) (e : Bool) (st : Byte), (s.apertureOpen p f.val o d.length = true) ∧ (s.apertureStatus f.val (s.apertureAddr o) d.length true = some st)) := by
  refine ⟨?_, ?_, ?_, ?_, ?_, ?_, ?_, ?_, ?_⟩
  · refine ⟨dev.setWin pf0.key { enable := true }, pf0, 63, BitVec.ofNat 512 (2 ^ 504), ?_⟩
    repeat' (refine And.intro ?_ ?_)
    all_goals (first | rfl | exact ⟨rfl, rfl⟩ | exact ⟨by decide +kernel, by decide +kernel, by decide +kernel⟩ | decide +kernel)
  · refine ⟨dev, pf0, 0, 8, 0, ?_⟩
    repeat' (refine And.intro ?_ ?_)
    all_goals (first | rfl | exact ⟨rfl, rfl⟩ | exact ⟨by decide +kernel, by decide +kernel, by decide +kernel⟩ | decide +kernel)
  · refine ⟨dev, 0, ?_⟩
    repeat' (refine And.intro ?_ ?_)
    all_goals (first | rfl | exact ⟨rfl, rfl⟩ | exact ⟨by decide +kernel, by decide +kernel, by decide +kernel⟩ | decide +kernel)
  · refine ⟨dev.setPort 0 { lost := true }, 0, ?_⟩
    repeat' (refine And.intro ?_ ?_)
    all_goals (first | rfl | exact ⟨rfl, rfl⟩ | exact ⟨by decide +kernel, by decide +kernel, by decide +kernel⟩ | decide +kernel)
  · refine ⟨dev, 0, 0, ?_⟩
    repeat' (refine And.intro ?_ ?_)
    all_goals (first | rfl | exact ⟨rfl, rfl⟩ | exact ⟨by decide +kernel, by decide +kernel, by decide +kernel⟩ | decide +kernel)
  · refine ⟨dev, 0, ?_⟩
    repeat' (refine And.intro ?_ ?_)
    all_goals (first | rfl | exact ⟨rfl, rfl⟩ | exact ⟨by decide +kernel, by decide +kernel, by decide +kernel⟩ | decide +kernel)
  · refine ⟨inHbm, 0, 0, 0, 4, ?_⟩
    repeat' (refine And.intro ?_ ?_)
    all_goals (first | rfl | exact ⟨rfl, rfl⟩ | exact ⟨by decide +kernel, by decide +kernel, by decide +kernel⟩ | decide +kernel)
  · refine ⟨inHbm, 0, 0, 0, [1, 2, 3, 4], true, ?_⟩
    repeat' (refine And.intro ?_ ?_)
    all_goals (first | rfl | exact ⟨rfl, rfl⟩ | exact ⟨by decide +kernel, by decide +kernel, by decide +kernel⟩ | decide +kernel)
  · refine ⟨dev, 0, 0, 0, [1, 2, 3, 4], true, stPRIVILEGE, ?_⟩
    repeat' (refine And.intro ?_ ?_)
    all_goals (first | rfl | exact ⟨rfl, rfl⟩ | exact ⟨by decide +kernel, by decide +kernel, by decide +kernel⟩ | decide +kernel)

theorem witness_TimeStateCommands :
    (∃ (s : State) (x : Nat) (v : Nat), (s.obs.state = .unset) ∧ (s.obs.tideNext = some v) ∧ (s.flag Reg.OBS_TIME_CTRL 0 = false))
  ∧ (∃ (s : State) (x : Nat), (s.obs.state = .locked) ∧ (s.obs.tideNext = none))
  ∧ (∃ (s : State), (s.obs.state = .locking ∨ s.obs.state = .locked))
  ∧ (∃ (s : State), (s.obs.state = .holdover))
  ∧ (∃ (s : State) (hi : U32), (s.obs.state ≠ .unset))
  ∧ (∃ (s : State), (s.pins.phase = .run)) := by
  refine ⟨?_, ?_, ?_, ?_, ?_, ?_⟩
  · refine ⟨{ dev with obs := { dev.obs with tideNext := some 77 } }, 1000, 77, ?_⟩
    repeat' (refine And.intro ?_ ?_)
    all_goals (first | rfl | exact ⟨rfl, rfl⟩ | exact ⟨by decide +kernel, by decide +kernel, by decide +kernel⟩ | decide +kernel)
  · refine ⟨{ dev with obs := { dev.obs with state := .locked } }, 1000000000, ?_⟩
    repeat' (refine And.intro ?_ ?_)
    all_goals (first | rfl | exact ⟨rfl, rfl⟩ | exact ⟨by decide +kernel, by decide +kernel, by decide +kernel⟩ | decide +kernel)
  · refine ⟨{ dev with obs := { dev.obs with state := .locking } }, ?_⟩
    repeat' (refine And.intro ?_ ?_)
    all_goals (exact Or.inl rfl)
  · refine ⟨{ dev with obs := { dev.obs with state := .holdover } }, ?_⟩
    repeat' (refine And.intro ?_ ?_)
    all_goals (first | rfl | exact ⟨rfl, rfl⟩ | exact ⟨by decide +kernel, by decide +kernel, by decide +kernel⟩ | decide +kernel)
  · refine ⟨{ dev with obs := { dev.obs with state := .unlocked } }, 0, ?_⟩
    repeat' (refine And.intro ?_ ?_)
    all_goals (first | rfl | exact ⟨rfl, rfl⟩ | exact ⟨by decide +kernel, by decide +kernel, by decide +kernel⟩ | decide +kernel)
  · refine ⟨dev, ?_⟩
    repeat' (refine And.intro ?_ ?_)
    all_goals (first | rfl | exact ⟨rfl, rfl⟩ | exact ⟨by decide +kernel, by decide +kernel, by decide +kernel⟩ | decide +kernel)

theorem witness_TraceCommands :
    (∃ (s : State) (r : TraceRec) (rs : List TraceRec), (s.obs.offers = r :: rs) ∧ (s.obs.loss = none) ∧ (s.traceBlock = none) ∧ (s.firing r = []))
  ∧ (∃ (s : State), (s.traces 8 = true))
  ∧ (∃ (s : State) (p : Fin 2) (r : TraceRec) (q : Nat), (s.obs.last = some (r, q)) ∧ (s.fnMode 7 ≠ .hostAssist))
  ∧ (∃ (s : State) (n : Fin 4), ((s.obs.windows.get n.val).state = .locked) ∧ (s.obs.loss = none) ∧ (s.obs.lastEnd ≠ some (s.obs.windows.get n.val).stop))
  ∧ (∃ (s : State) (r : Region), (s.flag Reg.OBS_TRACE_CTRL 0 = false) ∧ (s.regionOfKind 0x0A = some r))
  ∧ (∃ (s : State), (s.flag Reg.OBS_TRACE_CTRL 0 = true))
  ∧ (∃ (s : State) (v : U32), (v.toNat < s.traceM) ∧ (s.traceFull = false) ∧ (fwd s.traceM s.obs.rpos v.toNat ≤ fwd s.traceM s.obs.rpos s.obs.wpos) ∧ (s.obs.windows = []) ∧ (s.obs.loss = none))
  ∧ (∃ (s : State) (v : U32), (s.traceM ≤ v.toNat)) := by
  refine ⟨?_, ?_, ?_, ?_, ?_, ?_, ?_, ?_⟩
  · refine ⟨traced, { type := 3 }, [], ?_⟩
    repeat' (refine And.intro ?_ ?_)
    all_goals (first | rfl | exact ⟨rfl, rfl⟩ | exact ⟨by decide +kernel, by decide +kernel, by decide +kernel⟩ | decide +kernel)
  · refine ⟨(dev.wr Reg.OBS_TRACE_CTRL 1).wr Reg.OBS_TRACE_CLASS 0x100, ?_⟩
    repeat' (refine And.intro ?_ ?_)
    all_goals (first | rfl | exact ⟨rfl, rfl⟩ | exact ⟨by decide +kernel, by decide +kernel, by decide +kernel⟩ | decide +kernel)
  · refine ⟨{ dev with obs := { dev.obs with last := some ({ type := 3 }, 9) } }, 0, { type := 3 }, 9, ?_⟩
    repeat' (refine And.intro ?_ ?_)
    all_goals (first | rfl | exact ⟨rfl, rfl⟩ | exact ⟨by decide +kernel, by decide +kernel, by decide +kernel⟩ | decide +kernel)
  · refine ⟨{ dev with obs := { dev.obs with windows := [(3, { state := .locked })] } }, 3, ?_⟩
    repeat' (refine And.intro ?_ ?_)
    all_goals (first | rfl | exact ⟨rfl, rfl⟩ | exact ⟨by decide +kernel, by decide +kernel, by decide +kernel⟩ | decide +kernel)
  · refine ⟨traced, { id := 4, kind := 0x0A, channels := 1, size := 12288 }, ?_⟩
    repeat' (refine And.intro ?_ ?_)
    all_goals (first | rfl | exact ⟨rfl, rfl⟩ | exact ⟨by decide +kernel, by decide +kernel, by decide +kernel⟩ | decide +kernel)
  · refine ⟨dev.wr Reg.OBS_TRACE_CTRL 1, ?_⟩
    repeat' (refine And.intro ?_ ?_)
    all_goals (first | rfl | exact ⟨rfl, rfl⟩ | exact ⟨by decide +kernel, by decide +kernel, by decide +kernel⟩ | decide +kernel)
  · refine ⟨{ traced with obs := { dev.obs with wpos := 5, written := 5 } }, 5, ?_⟩
    repeat' (refine And.intro ?_ ?_)
    all_goals (first | rfl | exact ⟨rfl, rfl⟩ | exact ⟨by decide +kernel, by decide +kernel, by decide +kernel⟩ | decide +kernel)
  · refine ⟨traced, 4294967040, ?_⟩
    repeat' (refine And.intro ?_ ?_)
    all_goals (first | rfl | exact ⟨rfl, rfl⟩ | exact ⟨by decide +kernel, by decide +kernel, by decide +kernel⟩ | decide +kernel)

theorem witness_TenantCommands :
    (∃ (s : State) (v : U32) (t : Nat), (s.selTenant = some t))
  ∧ (∃ (s : State) (v : U32) (t : Nat), (s.selTenant = some t) ∧ (v.toNat % 65536 ≠ 0) ∧ (s.struct.loaded.isSome = true))
  ∧ (∃ (s : State) (v : U32) (t : Nat), (s.selTenant = some t) ∧ (v.toNat % 65536 = 0))
  ∧ (∃ (s : State) (v : U32), (1024 < v.toNat % 2048))
  ∧ (∃ (s : State) (v : U32), (s.Inv) ∧ (v.toNat % 2048 ≤ 1024) ∧ (v.getLsbD 16 = false))
  ∧ (∃ (s : State), (s.nextPeriod ≤ s.now) ∧ (s.herd.step = none))
  ∧ (∃ (s : State) (x : Step), (s.nextPeriod ≤ s.now) ∧ (s.herd.step = some x)) := by
  refine ⟨?_, ?_, ?_, ?_, ?_, ?_, ?_⟩
  · refine ⟨dev, 0, 0, ?_⟩
    repeat' (refine And.intro ?_ ?_)
    all_goals (first | rfl | exact ⟨rfl, rfl⟩ | exact ⟨by decide +kernel, by decide +kernel, by decide +kernel⟩ | decide +kernel)
  · refine ⟨withBits (dev.wr Reg.TENANT_SEL 1023) goodBits, 1, 1023, ?_⟩
    repeat' (refine And.intro ?_ ?_)
    all_goals (first | rfl | exact ⟨rfl, rfl⟩ | exact ⟨by decide +kernel, by decide +kernel, by decide +kernel⟩ | decide +kernel)
  · refine ⟨withBits (dev.wr Reg.TENANT_SEL 1023) goodBits, 65536, 1023, ?_⟩
    repeat' (refine And.intro ?_ ?_)
    all_goals (first | rfl | exact ⟨rfl, rfl⟩ | exact ⟨by decide +kernel, by decide +kernel, by decide +kernel⟩ | decide +kernel)
  · refine ⟨dev, 2047, ?_⟩
    repeat' (refine And.intro ?_ ?_)
    all_goals (first | rfl | exact ⟨rfl, rfl⟩ | exact ⟨by decide +kernel, by decide +kernel, by decide +kernel⟩ | decide +kernel)
  · refine ⟨{ dev with tenant := { dev.tenant with table := [(1, { enable := true })] } }, 1024, ?_⟩
    repeat' (refine And.intro ?_ ?_)
    all_goals (first | rfl | exact ⟨rfl, rfl⟩ | exact ⟨by decide +kernel, by decide +kernel, by decide +kernel⟩ | decide +kernel)
  · refine ⟨{ dev with obs := { dev.obs with tide := 1000000000 } }, ?_⟩
    repeat' (refine And.intro ?_ ?_)
    all_goals (first | rfl | exact ⟨rfl, rfl⟩ | exact ⟨by decide +kernel, by decide +kernel, by decide +kernel⟩ | decide +kernel)
  · refine ⟨{ dev with obs := { dev.obs with tide := 1000000000 }, herd := { dev.herd with step := some { number := 7 } } }, { number := 7 }, ?_⟩
    repeat' (refine And.intro ?_ ?_)
    all_goals (first | rfl | exact ⟨rfl, rfl⟩ | exact ⟨by decide +kernel, by decide +kernel, by decide +kernel⟩ | decide +kernel)

theorem witness_FaultAndRecoveryCommands :
    (∃ (s : State) (v : U32), ((s.fault.head + 2 ^ 32 - v.toNat) % 2 ^ 32 ≤ 1024))
  ∧ (∃ (s : State) (v : U32), (1024 < (s.fault.head + 2 ^ 32 - v.toNat) % 2 ^ 32))
  ∧ (∃ (s : State) (c : RecoveryCause) (cs : List RecoveryCause), (s.Inv) ∧ (s.recovery.step = 0) ∧ (s.recovery.queued = c :: cs) ∧ (s.alive = true) ∧ (s.paused = false))
  ∧ (∃ (s : State), (s.recovery.step ≠ 0) ∧ (s.fnMode 8 ≠ .hostAssist) ∧ (s.paused = false) ∧ (s.alive = true))
  ∧ (∃ (s : State) (w : WinRef) (ts : List Nat), (s.Runs w 0x16))
  ∧ (∃ (s : State) (w : WinRef), let c := s.frontCmd w.key
    let n := c.arg0.toNat
    let st : Byte := c.arg2.truncate 8
    (s.Runs w 0x1C) ∧ (n < (s.take w.key).herdSize) ∧ ((s.entry n).state ≠ .idle) ∧ ((s.entry n).requestId = c.arg1) ∧ (0x10 ≤ st.toNat) ∧ (st.toNat ≤ 0x1F)) := by
  refine ⟨?_, ?_, ?_, ?_, ?_, ?_⟩
  · refine ⟨{ dev with fault := { dev.fault with head := 1024 } }, 0, ?_⟩
    repeat' (refine And.intro ?_ ?_)
    all_goals (first | rfl | exact ⟨rfl, rfl⟩ | exact ⟨by decide +kernel, by decide +kernel, by decide +kernel⟩ | decide +kernel)
  · refine ⟨{ dev with fault := { dev.fault with head := 1025 } }, 0, ?_⟩
    repeat' (refine And.intro ?_ ?_)
    all_goals (first | rfl | exact ⟨rfl, rfl⟩ | exact ⟨by decide +kernel, by decide +kernel, by decide +kernel⟩ | decide +kernel)
  · refine ⟨{ dev with fault := { dev.fault with recovery := { dev.fault.recovery with queued := [{ kind := .entry }] } } }, { kind := .entry }, [], ?_⟩
    repeat' (refine And.intro ?_ ?_)
    all_goals (first | rfl | exact ⟨rfl, rfl⟩ | exact ⟨by decide +kernel, by decide +kernel, by decide +kernel⟩ | decide +kernel)
  · refine ⟨{ dev with fault := { dev.fault with recovery := { dev.fault.recovery with step := 1 } } }, ?_⟩
    repeat' (refine And.intro ?_ ?_)
    all_goals (first | rfl | exact ⟨rfl, rfl⟩ | exact ⟨by decide +kernel, by decide +kernel, by decide +kernel⟩ | decide +kernel)
  · refine ⟨withCmd (assist 8) 0x16, pf0, [], ?_⟩
    repeat' (refine And.intro ?_ ?_)
    all_goals (first | rfl | exact ⟨rfl, rfl⟩ | exact ⟨by decide +kernel, by decide +kernel, by decide +kernel⟩ | decide +kernel)
  · refine ⟨withCmd (dev.setEntry 4095 { state := .decoding, requestId := 9 }) 0x1C 4095 9 0x1F, pf0, ?_⟩
    repeat' (refine And.intro ?_ ?_)
    all_goals (first | rfl | exact ⟨rfl, rfl⟩ | exact ⟨by decide +kernel, by decide +kernel, by decide +kernel⟩ | decide +kernel)

theorem witness_RequestAndDecisionCommands :
    (∃ (s : State) (w : WinRef), (s.Runs w 0x00))
  ∧ (∃ (s : State) (w : WinRef), (s.canConsume w.key (s.frontCmd w.key) = true) ∧ (0x1C < (s.frontCmd w.key).opcode.toNat))
  ∧ (∃ (s : State) (w : WinRef) (st : Byte), (s.canConsume w.key (s.frontCmd w.key) = true) ∧ ((s.frontCmd w.key).opcode = 0x02) ∧ (s.cmdStatus w.key (s.frontCmd w.key) = some st))
  ∧ (∃ (s : State) (w : WinRef) (h : Record) (f : Bool) (ts : List U32), let u := s.take w.key
    let c := s.frontCmd w.key
    (s.Runs w 0x01))
  ∧ (∃ (s : State) (w : WinRef) (i : Nat), let u := s.take w.key
    (s.Runs w 0x02) ∧ (u.findRequest (s.frontCmd w.key).arg0 = some i) ∧ (winFn w.key = 0) ∧ ((u.recordAt i).state = .active))
  ∧ (∃ (s : State) (w : WinRef), (s.Runs w 0x02) ∧ ((s.take w.key).findRequest (s.frontCmd w.key).arg0 = none))
  ∧ (∃ (s : State) (w : WinRef), let u := s.take w.key
    let n := (s.frontCmd w.key).arg0.toNat
    (s.Runs w 0x05) ∧ (n < u.herdSize) ∧ ((u.entry n).state = .offloaded) ∧ ((u.entry n).lowerPeers ≠ []) ∧ ((u.entry n).restoring = false) ∧ (u.role.generates = true))
  ∧ (∃ (s : State) (w : WinRef), (s.Runs w 0x05) ∧ ((s.take w.key).role.generates = false))
  ∧ (∃ (s : State) (w : WinRef) (bs : List Byte), let u := s.take w.key
    let m := PoolMap.parse (bs.take (s.frontCmd w.key).arg1.toNat)
    (s.Runs w 0x08) ∧ (m.formed (s.frontCmd w.key).arg1.toNat = true) ∧ (u.handoff.mapped = false))
  ∧ (∃ (s : State) (w : WinRef) (bs : List Byte), let u := s.take w.key
    let m := PoolMap.parse (bs.take (s.frontCmd w.key).arg1.toNat)
    (s.Runs w 0x08) ∧ (m.formed (s.frontCmd w.key).arg1.toNat = true) ∧ (u.handoff.mapped = true) ∧ (epochDiff m.epoch u.handoff.epoch ≤ 0)) := by
  refine ⟨?_, ?_, ?_, ?_, ?_, ?_, ?_, ?_, ?_, ?_⟩
  · refine ⟨withCmd dev 0, pf0, ?_⟩
    repeat' (refine And.intro ?_ ?_)
    all_goals (first | rfl | exact ⟨rfl, rfl⟩ | exact ⟨by decide +kernel, by decide +kernel, by decide +kernel⟩ | decide +kernel)
  · refine ⟨withCmd dev 0x1D, pf0, ?_⟩
    repeat' (refine And.intro ?_ ?_)
    all_goals (first | rfl | exact ⟨rfl, rfl⟩ | exact ⟨by decide +kernel, by decide +kernel, by decide +kernel⟩ | decide +kernel)
  · refine ⟨withCmd { dev with fault := { dev.fault with fences := [(0, { fenced := true })] } } 2, pf0, stFENCED, ?_⟩
    repeat' (refine And.intro ?_ ?_)
    all_goals (first | rfl | exact ⟨rfl, rfl⟩ | exact ⟨by decide +kernel, by decide +kernel, by decide +kernel⟩ | decide +kernel)
  · refine ⟨withCmd dev 1, pf0, {}, true, [], ?_⟩
    repeat' (refine And.intro ?_ ?_)
    all_goals (first | rfl | exact ⟨rfl, rfl⟩ | exact ⟨by decide +kernel, by decide +kernel, by decide +kernel⟩ | decide +kernel)
  · refine ⟨withCmd { dev with anchor := { dev.anchor with records := [(65535, { state := .active, requestId := 7 })] } } 2 7, pf0, 65535, ?_⟩
    repeat' (refine And.intro ?_ ?_)
    all_goals (first | rfl | exact ⟨rfl, rfl⟩ | exact ⟨by decide +kernel, by decide +kernel, by decide +kernel⟩ | decide +kernel)
  · refine ⟨withCmd dev 2 7, pf0, ?_⟩
    repeat' (refine And.intro ?_ ?_)
    all_goals (first | rfl | exact ⟨rfl, rfl⟩ | exact ⟨by decide +kernel, by decide +kernel, by decide +kernel⟩ | decide +kernel)
  · refine ⟨withCmd (withBits (dev.setEntry 4095 { state := .offloaded, lowerPeers := [5] }) { goodBits with role := 2 }) 5 4095, pf0, ?_⟩
    repeat' (refine And.intro ?_ ?_)
    all_goals (first | rfl | exact ⟨rfl, rfl⟩ | exact ⟨by decide +kernel, by decide +kernel, by decide +kernel⟩ | decide +kernel)
  · refine ⟨withCmd (withBits (dev.setEntry 4095 { state := .offloaded, lowerPeers := [5] }) { goodBits with role := 3 }) 5 4095, pf0, ?_⟩
    repeat' (refine And.intro ?_ ?_)
    all_goals (first | rfl | exact ⟨rfl, rfl⟩ | exact ⟨by decide +kernel, by decide +kernel, by decide +kernel⟩ | decide +kernel)
  · refine ⟨withCmd dev 8 0 48, pf0, goodPool 1, ?_⟩
    repeat' (refine And.intro ?_ ?_)
    all_goals (first | rfl | exact ⟨rfl, rfl⟩ | exact ⟨by decide +kernel, by decide +kernel, by decide +kernel⟩ | decide +kernel)
  · refine ⟨withCmd { dev with handoff := { dev.handoff with mapped := true, epoch := 2 } } 8 0 48, pf0, goodPool 2, ?_⟩
    repeat' (refine And.intro ?_ ?_)
    all_goals (first | rfl | exact ⟨rfl, rfl⟩ | exact ⟨by decide +kernel, by decide +kernel, by decide +kernel⟩ | decide +kernel)

theorem witness_OrderAndDecisionCommands :
    (∃ (s : State) (w : WinRef), (s.Runs w 0x15))
  ∧ (∃ (s : State) (w : WinRef), let u := s.take w.key
    (s.Runs w 0x06))
  ∧ (∃ (s : State) (w : WinRef), let u := s.take w.key
    (s.Runs w 0x07) ∧ ((s.frontCmd w.key).arg1.toNat < 2 ^ 32) ∧ (u.waitingAt ((s.frontCmd w.key).arg1.truncate 32) = none))
  ∧ (∃ (s : State) (w : WinRef) (n : Nat) (a : Nat) (t : State), let u := s.take w.key
    (s.Runs w 0x07) ∧ ((s.frontCmd w.key).arg1.toNat < 2 ^ 32) ∧ (u.waitingAt ((s.frontCmd w.key).arg1.truncate 32) = some n) ∧ ((u.slot n).awaits = .decision) ∧ ((u.slot n).fn.val = (s.frontCmd w.key).arg0.toNat % 16) ∧ (u.answerAt (u.slot n) (s.frontCmd w.key).arg2.toNat = some a) ∧ ((u.endSlot n).answer (u.slot n) a = .ok t))
  ∧ (∃ (s : State) (n : Fin 65536), (s.alive = true) ∧ ((s.slot n.val).state = .waiting) ∧ ((s.slot n.val).awaits = .decision))
  ∧ (∃ (s : State), (s.alive = true)) := by
  refine ⟨?_, ?_, ?_, ?_, ?_, ?_⟩
  · refine ⟨withCmd dev 0x15, pf0, ?_⟩
    repeat' (refine And.intro ?_ ?_)
    all_goals (first | rfl | exact ⟨rfl, rfl⟩ | exact ⟨by decide +kernel, by decide +kernel, by decide +kernel⟩ | decide +kernel)
  · refine ⟨withCmd (assist 0) 6, pf0, ?_⟩
    repeat' (refine And.intro ?_ ?_)
    all_goals (first | rfl | exact ⟨rfl, rfl⟩ | exact ⟨by decide +kernel, by decide +kernel, by decide +kernel⟩ | decide +kernel)
  · refine ⟨withCmd (assist 2) 7 2 65536, pf0, ?_⟩
    repeat' (refine And.intro ?_ ?_)
    all_goals (first | rfl | exact ⟨rfl, rfl⟩ | exact ⟨by decide +kernel, by decide +kernel, by decide +kernel⟩ | decide +kernel)
  · refine ⟨asked, pf0, 3, 4096, (asked.take pf0.key).endSlot 3, ?_⟩
    repeat' (refine And.intro ?_ ?_)
    all_goals (first | rfl | exact ⟨rfl, rfl⟩ | exact ⟨by decide +kernel, by decide +kernel, by decide +kernel⟩ | decide +kernel)
  · refine ⟨dev.setSlotAt 65535 { state := .waiting, awaits := .decision }, 65535, ?_⟩
    repeat' (refine And.intro ?_ ?_)
    all_goals (first | rfl | exact ⟨rfl, rfl⟩ | exact ⟨by decide +kernel, by decide +kernel, by decide +kernel⟩ | decide +kernel)
  · refine ⟨dev.setSlotAt 65535 { state := .waiting, awaits := .decision }, ?_⟩
    repeat' (refine And.intro ?_ ?_)
    all_goals (first | rfl | exact ⟨rfl, rfl⟩ | exact ⟨by decide +kernel, by decide +kernel, by decide +kernel⟩ | decide +kernel)

theorem witness_WindowPlanAndConnectionCommands :
    (∃ (s : State) (w : WinRef), let u := s.take w.key
    let x := (s.frontCmd w.key).winArgs
    (s.Runs w 0x09) ∧ (x.formed = true) ∧ (u.mayOpen w.key (s.frontCmd w.key) x = true))
  ∧ (∃ (s : State) (w : WinRef), let u := s.take w.key
    let i := (s.frontCmd w.key).arg1.toNat % 65536
    (s.Runs w 0x0A) ∧ ((s.frontCmd w.key).arg0.getLsbD 0 = false) ∧ (i < 256) ∧ ((u.strait.windows.get i).state = .opened) ∧ (winFn w.key = 0))
  ∧ (∃ (s : State) (w : WinRef), let u := s.take w.key
    let i := (s.frontCmd w.key).arg1.toNat % 65536
    (s.Runs w 0x0A) ∧ ((s.frontCmd w.key).arg0.getLsbD 0 = true) ∧ (i < 4096) ∧ ((u.rdmaWin i).state = .opened) ∧ (winFn w.key = 0))
  ∧ (∃ (s : State) (w : WinRef) (a : ConnAttr) (n : Nat), let u := s.take w.key
    (s.Runs w 0x0B) ∧ (a.formed = true) ∧ ((a.ownAgents && u.agentsHave a) = false) ∧ (u.net.conns.first (fun x => decide (x.state = .free)) 8192 = some n) ∧ (a.multipath = false))
  ∧ (∃ (s : State) (w : WinRef) (a : ConnAttr) (n : Nat), let u := s.take w.key
    (s.Runs w 0x0B) ∧ (a.formed = true) ∧ ((a.ownAgents && u.agentsHave a) = false) ∧ (u.net.conns.first (fun x => decide (x.state = .free)) 8192 = some n) ∧ (a.multipath = true))
  ∧ (∃ (s : State) (w : WinRef), (s.Runs w 0x0C) ∧ ((s.frontCmd w.key).arg0.toNat < 8192))
  ∧ (∃ (s : State) (w : WinRef) (r : Route), let i := (s.frontCmd w.key).arg0.toNat
    let u := (s.take w.key).flushRoute i
    (s.Runs w 0x0D) ∧ (i < 1024) ∧ (r.conn < 8192)) := by
  refine ⟨?_, ?_, ?_, ?_, ?_, ?_, ?_⟩
  · refine ⟨withCmd dev 9, pf0, ?_⟩
    repeat' (refine And.intro ?_ ?_)
    all_goals (first | rfl | exact ⟨rfl, rfl⟩ | exact ⟨by decide +kernel, by decide +kernel, by decide +kernel⟩ | decide +kernel)
  · refine ⟨withCmd { dev with strait := { dev.strait with windows := [(255, { state := .opened })] } } 0x0A 0 255, pf0, ?_⟩
    repeat' (refine And.intro ?_ ?_)
    all_goals (first | rfl | exact ⟨rfl, rfl⟩ | exact ⟨by decide +kernel, by decide +kernel, by decide +kernel⟩ | decide +kernel)
  · refine ⟨withCmd { dev with net := { dev.net with windows := [(4095, { state := .opened })] } } 0x0A 1 4095, pf0, ?_⟩
    repeat' (refine And.intro ?_ ?_)
    all_goals (first | rfl | exact ⟨rfl, rfl⟩ | exact ⟨by decide +kernel, by decide +kernel, by decide +kernel⟩ | decide +kernel)
  · refine ⟨withCmd dev 0x0B, pf0, { message := true, mtu := 1024, ports := 1 }, 0, ?_⟩
    repeat' (refine And.intro ?_ ?_)
    all_goals (first | rfl | exact ⟨rfl, rfl⟩ | exact ⟨by decide +kernel, by decide +kernel, by decide +kernel⟩ | decide +kernel)
  · refine ⟨withCmd dev 0x0B, pf0, { multipath := true, mtu := 4096, ports := 1 }, 0, ?_⟩
    repeat' (refine And.intro ?_ ?_)
    all_goals (first | rfl | exact ⟨rfl, rfl⟩ | exact ⟨by decide +kernel, by decide +kernel, by decide +kernel⟩ | decide +kernel)
  · refine ⟨withCmd dev 0x0C 8191, pf0, ?_⟩
    repeat' (refine And.intro ?_ ?_)
    all_goals (first | rfl | exact ⟨rfl, rfl⟩ | exact ⟨by decide +kernel, by decide +kernel, by decide +kernel⟩ | decide +kernel)
  · refine ⟨withCmd dev 0x0D 1023, pf0, {}, ?_⟩
    repeat' (refine And.intro ?_ ?_)
    all_goals (first | rfl | exact ⟨rfl, rfl⟩ | exact ⟨by decide +kernel, by decide +kernel, by decide +kernel⟩ | decide +kernel)

theorem witness_PlanRegionAndMoveCommands :
    (∃ (s : State) (w : WinRef) (p : PlanImage), let u := s.take w.key
    let c := s.frontCmd w.key
    let m := c.arg2.toNat
    let map := PlaceMap.parse p.mapBytes p.image
    (s.Runs w 0x0E) ∧ (m < 64) ∧ (u.planFault p m c.arg1.toNat = none))
  ∧ (∃ (s : State) (w : WinRef), let u := s.take w.key
    let m := (s.frontCmd w.key).arg2.toNat
    (s.Runs w 0x0F) ∧ (m < 64) ∧ ((u.tier.plans.get m).loaded = true) ∧ ((u.tier.plans.get m).unload = none))
  ∧ (∃ (s : State) (w : WinRef) (b : List Byte) (r : Region), let u := s.take w.key
    let c := s.frontCmd w.key
    (s.Runs w 0x10) ∧ ((u.regionList.find? fun r => (decide (r.kind = 1) || decide (r.kind = 3)) && decide (c.arg2.toNat < 64)
        && r.model == some (c.arg2.truncate 6) && decide (r.id.toNat = c.arg3.toNat)) = some r) ∧ (u.sec.keyUnusable = 0))
  ∧ (∃ (s : State) (w : WinRef) (d : IbexDesc), (s.Runs w 0x14) ∧ (winFn w.key = 0)) := by
  refine ⟨?_, ?_, ?_, ?_⟩
  · refine ⟨withCmd { dev with tier := { dev.tier with regions := [(0, some { id := 1, kind := 0x0E, channels := 1, size := 4096 })] } } 0x0E 0 208 63, pf0, { image := planMap, mapBytes := planMap, plan := { width := 64 } }, ?_⟩
    repeat' (refine And.intro ?_ ?_)
    all_goals (first | rfl | exact ⟨rfl, rfl⟩ | exact ⟨by decide +kernel, by decide +kernel, by decide +kernel⟩ | decide +kernel)
  · refine ⟨withCmd { dev with tier := { dev.tier with plans := [(63, { loaded := true })] } } 0x0F 0 0 63, pf0, ?_⟩
    repeat' (refine And.intro ?_ ?_)
    all_goals (first | rfl | exact ⟨rfl, rfl⟩ | exact ⟨by decide +kernel, by decide +kernel, by decide +kernel⟩ | decide +kernel)
  · refine ⟨withCmd { dev with tier := { dev.tier with regions := [(0, some { id := 9, kind := 1, channels := 1, size := 4096, model := some 63 })] } } 0x10 0 0 63 9, pf0, [], { id := 9, kind := 1, channels := 1, size := 4096, model := some 63 }, ?_⟩
    repeat' (refine And.intro ?_ ?_)
    all_goals (first | rfl | exact ⟨rfl, rfl⟩ | exact ⟨by decide +kernel, by decide +kernel, by decide +kernel⟩ | decide +kernel)
  · refine ⟨withCmd dev 0x14, pf0, {}, ?_⟩
    repeat' (refine And.intro ?_ ?_)
    all_goals (first | rfl | exact ⟨rfl, rfl⟩ | exact ⟨by decide +kernel, by decide +kernel, by decide +kernel⟩ | decide +kernel)

theorem witness_AnchorAndBoundaryCommands :
    (∃ (s : State) (i : Fin 65536), (s.alive = true) ∧ ((s.recordAt i.val).state = .active) ∧ ((s.recordAt i.val).deadline ≠ 0))
  ∧ (∃ (s : State) (q : U64) (k : Nat) (x : U32), (s.findRequest q = none))
  ∧ (∃ (s : State) (q : U64) (k : Nat) (i : Nat) (x : U32), (s.findRequest q = some i))
  ∧ (∃ (s : State) (i : Fin 65536), ((s.recordAt i.val).state = .active))
  ∧ (∃ (s : State) (n : Fin 65536), (s.alive = true) ∧ ((s.entry n.val).state = .preempted))
  ∧ (∃ (s : State), (s.atBoundary = true)) := by
  refine ⟨?_, ?_, ?_, ?_, ?_, ?_⟩
  · refine ⟨{ dev with anchor := { dev.anchor with records := [(65535, { state := .active, requestId := 7, deadline := 1 })] } }, 65535, ?_⟩
    repeat' (refine And.intro ?_ ?_)
    all_goals (first | rfl | exact ⟨rfl, rfl⟩ | exact ⟨by decide +kernel, by decide +kernel, by decide +kernel⟩ | decide +kernel)
  · refine ⟨dev, 0, 0, 0, ?_⟩
    repeat' (refine And.intro ?_ ?_)
    all_goals (first | rfl | exact ⟨rfl, rfl⟩ | exact ⟨by decide +kernel, by decide +kernel, by decide +kernel⟩ | decide +kernel)
  · refine ⟨{ dev with anchor := { dev.anchor with records := [(9, { state := .active, requestId := 7 })] } }, 7, 0, 9, 0, ?_⟩
    repeat' (refine And.intro ?_ ?_)
    all_goals (first | rfl | exact ⟨rfl, rfl⟩ | exact ⟨by decide +kernel, by decide +kernel, by decide +kernel⟩ | decide +kernel)
  · refine ⟨{ dev with anchor := { dev.anchor with records := [(65535, { state := .active, requestId := 7 })] } }, 65535, ?_⟩
    repeat' (refine And.intro ?_ ?_)
    all_goals (first | rfl | exact ⟨rfl, rfl⟩ | exact ⟨by decide +kernel, by decide +kernel, by decide +kernel⟩ | decide +kernel)
  · refine ⟨dev.setEntry 65535 { state := .preempted }, 65535, ?_⟩
    repeat' (refine And.intro ?_ ?_)
    all_goals (first | rfl | exact ⟨rfl, rfl⟩ | exact ⟨by decide +kernel, by decide +kernel, by decide +kernel⟩ | decide +kernel)
  · refine ⟨dev, ?_⟩
    repeat' (refine And.intro ?_ ?_)
    all_goals (first | rfl | exact ⟨rfl, rfl⟩ | exact ⟨by decide +kernel, by decide +kernel, by decide +kernel⟩ | decide +kernel)

theorem witness_ScrubAuditAndRegionCommands :
    (∃ (s : State) (x : Nat) (b : Nat) (r : Nat) (f : List (Nat × BitVec 4)), (wrongSymbols f = 0))
  ∧ (∃ (s : State) (x : Nat) (b : Nat) (r : Nat) (f : List (Nat × BitVec 4)), (s.pins.resetN = true) ∧ (addrFormed (poisonUnit x) = true) ∧ (addrSpace (poisonUnit x) = 1) ∧ (wrongSymbols f = 1))
  ∧ (∃ (s : State) (l : Fin 640) (unit : Nat) (a : Nat) (b : Nat) (r : Nat) (f : List (Nat × BitVec 4)), (s.pins.resetN = true) ∧ (unit < 11718750) ∧ (s.addrOfChannel l.val (64 * unit) = some a))
  ∧ (∃ (s : State) (l : Fin 640) (unit : Nat) (b : Nat) (r : Nat) (f : List (Nat × BitVec 4)), (s.pins.resetN = true) ∧ (unit < 11718750) ∧ (s.addrOfChannel l.val (64 * unit) = none) ∧ (wrongSymbols f = 2))
  ∧ (∃ (s : State) (p : U32) (f : List (Nat × Nat)), (s.testable p.toNat = true))
  ∧ (∃ (s : State), (s.auditOn = true))
  ∧ (∃ (s : State), (s.auditOn = true) ∧ (s.tier.suspect = true) ∧ (s.poolOff = false))
  ∧ (∃ (s : State), (s.auditOn = true) ∧ (s.tier.suspect = true) ∧ (s.poolOff = true) ∧ (s.tier.recounting = false))
  ∧ (∃ (s : State), (s.tier.recounting = false))
  ∧ (∃ (s : State), (s.tier.recounting = true))
  ∧ (∃ (s : State) (v : U32), (s.Inv)) := by
  refine ⟨?_, ?_, ?_, ?_, ?_, ?_, ?_, ?_, ?_, ?_, ?_⟩
  · refine ⟨dev, 0, 0, 0, [], ?_⟩
    repeat' (refine And.intro ?_ ?_)
    all_goals (first | rfl | exact ⟨rfl, rfl⟩ | exact ⟨by decide +kernel, by decide +kernel, by decide +kernel⟩ | decide +kernel)
  · refine ⟨dev, 2 ^ 44, 0, 0, [(0, 1)], ?_⟩
    repeat' (refine And.intro ?_ ?_)
    all_goals (first | rfl | exact ⟨rfl, rfl⟩ | exact ⟨by decide +kernel, by decide +kernel, by decide +kernel⟩ | decide +kernel)
  · refine ⟨inHbm, 0, 0, 0, 0, 0, [], ?_⟩
    repeat' (refine And.intro ?_ ?_)
    all_goals (first | rfl | exact ⟨rfl, rfl⟩ | exact ⟨by decide +kernel, by decide +kernel, by decide +kernel⟩ | decide +kernel)
  · refine ⟨dev, 0, 0, 0, 0, [(0, 1), (1, 1)], ?_⟩
    repeat' (refine And.intro ?_ ?_)
    all_goals (first | rfl | exact ⟨rfl, rfl⟩ | exact ⟨by decide +kernel, by decide +kernel, by decide +kernel⟩ | decide +kernel)
  · refine ⟨{ dev with tier := { dev.tier with total := 8, pages := [(7, { state := .quarantined, qcause := 2 })] } }, 7, [], ?_⟩
    repeat' (refine And.intro ?_ ?_)
    all_goals (first | rfl | exact ⟨rfl, rfl⟩ | exact ⟨by decide +kernel, by decide +kernel, by decide +kernel⟩ | decide +kernel)
  · refine ⟨dev, ?_⟩
    repeat' (refine And.intro ?_ ?_)
    all_goals (first | rfl | exact ⟨rfl, rfl⟩ | exact ⟨by decide +kernel, by decide +kernel, by decide +kernel⟩ | decide +kernel)
  · refine ⟨{ dev with tier := { dev.tier with suspect := true } }, ?_⟩
    repeat' (refine And.intro ?_ ?_)
    all_goals (first | rfl | exact ⟨rfl, rfl⟩ | exact ⟨by decide +kernel, by decide +kernel, by decide +kernel⟩ | decide +kernel)
  · refine ⟨{ dev with tier := { dev.tier with suspect := true, total := 8 } }, ?_⟩
    repeat' (refine And.intro ?_ ?_)
    all_goals (first | rfl | exact ⟨rfl, rfl⟩ | exact ⟨by decide +kernel, by decide +kernel, by decide +kernel⟩ | decide +kernel)
  · refine ⟨dev, ?_⟩
    repeat' (refine And.intro ?_ ?_)
    all_goals (first | rfl | exact ⟨rfl, rfl⟩ | exact ⟨by decide +kernel, by decide +kernel, by decide +kernel⟩ | decide +kernel)
  · refine ⟨{ dev with tier := { dev.tier with recounting := true } }, ?_⟩
    repeat' (refine And.intro ?_ ?_)
    all_goals (first | rfl | exact ⟨rfl, rfl⟩ | exact ⟨by decide +kernel, by decide +kernel, by decide +kernel⟩ | decide +kernel)
  · refine ⟨dev, 0, ?_⟩
    repeat' (refine And.intro ?_ ?_)
    all_goals (first | rfl | exact ⟨rfl, rfl⟩ | exact ⟨by decide +kernel, by decide +kernel, by decide +kernel⟩ | decide +kernel)

theorem witness_MessagesOfThisEpoch :
    (∃ (s : State) (m : Msg), (s.unassigned = false) ∧ (s.alive = true) ∧ (s.msgOk { m with kind := mQUERY } = true) ∧ (epochDiff m.mapEpoch s.handoff.epoch = 0))
  ∧ (∃ (s : State) (m : Msg), (s.unassigned = false) ∧ (s.alive = true) ∧ (s.msgOk { m with kind := mPARTIAL } = true) ∧ (epochDiff m.mapEpoch s.handoff.epoch = 0))
  ∧ (∃ (s : State) (m : Msg), (s.unassigned = false) ∧ (s.alive = true) ∧ (s.msgOk { m with kind := mADMIT } = true) ∧ (epochDiff m.mapEpoch s.handoff.epoch = 0))
  ∧ (∃ (s : State) (m : Msg), (s.unassigned = false) ∧ (s.alive = true) ∧ (s.msgOk { m with kind := mPROMPT_TOKENS } = true) ∧ (epochDiff m.mapEpoch s.handoff.epoch = 0))
  ∧ (∃ (s : State) (m : Msg), (s.unassigned = false) ∧ (s.alive = true) ∧ (s.msgOk { m with kind := mREDIRECT } = true) ∧ (epochDiff m.mapEpoch s.handoff.epoch = 0))
  ∧ (∃ (s : State) (m : Msg), (s.unassigned = false) ∧ (s.alive = true) ∧ (s.msgOk { m with kind := mREGISTER } = true) ∧ (epochDiff m.mapEpoch s.handoff.epoch = 0))
  ∧ (∃ (s : State) (m : Msg), (s.unassigned = false) ∧ (s.alive = true) ∧ (s.msgOk { m with kind := mEND } = true) ∧ (epochDiff m.mapEpoch s.handoff.epoch = 0))
  ∧ (∃ (s : State) (m : Msg), (s.unassigned = false) ∧ (s.alive = true) ∧ (s.msgOk { m with kind := mRELEASED } = true) ∧ (epochDiff m.mapEpoch s.handoff.epoch = 0)) := by
  refine ⟨?_, ?_, ?_, ?_, ?_, ?_, ?_, ?_⟩
  · refine ⟨dev, msgOf mQUERY, ?_⟩
    repeat' (refine And.intro ?_ ?_)
    all_goals (first | rfl | exact ⟨rfl, rfl⟩ | exact ⟨by decide +kernel, by decide +kernel, by decide +kernel⟩ | decide +kernel)
  · refine ⟨dev, msgOf mPARTIAL, ?_⟩
    repeat' (refine And.intro ?_ ?_)
    all_goals (first | rfl | exact ⟨rfl, rfl⟩ | exact ⟨by decide +kernel, by decide +kernel, by decide +kernel⟩ | decide +kernel)
  · refine ⟨dev, msgOf mADMIT, ?_⟩
    repeat' (refine And.intro ?_ ?_)
    all_goals (first | rfl | exact ⟨rfl, rfl⟩ | exact ⟨by decide +kernel, by decide +kernel, by decide +kernel⟩ | decide +kernel)
  · refine ⟨dev, msgOf mPROMPT_TOKENS, ?_⟩
    repeat' (refine And.intro ?_ ?_)
    all_goals (first | rfl | exact ⟨rfl, rfl⟩ | exact ⟨by decide +kernel, by decide +kernel, by decide +kernel⟩ | decide +kernel)
  · refine ⟨dev, msgOf mREDIRECT, ?_⟩
    repeat' (refine And.intro ?_ ?_)
    all_goals (first | rfl | exact ⟨rfl, rfl⟩ | exact ⟨by decide +kernel, by decide +kernel, by decide +kernel⟩ | decide +kernel)
  · refine ⟨dev, msgOf mREGISTER, ?_⟩
    repeat' (refine And.intro ?_ ?_)
    all_goals (first | rfl | exact ⟨rfl, rfl⟩ | exact ⟨by decide +kernel, by decide +kernel, by decide +kernel⟩ | decide +kernel)
  · refine ⟨dev, msgOf mEND, ?_⟩
    repeat' (refine And.intro ?_ ?_)
    all_goals (first | rfl | exact ⟨rfl, rfl⟩ | exact ⟨by decide +kernel, by decide +kernel, by decide +kernel⟩ | decide +kernel)
  · refine ⟨dev, msgOf mRELEASED, ?_⟩
    repeat' (refine And.intro ?_ ?_)
    all_goals (first | rfl | exact ⟨rfl, rfl⟩ | exact ⟨by decide +kernel, by decide +kernel, by decide +kernel⟩ | decide +kernel)

theorem witness_TransferMessagesOfThisEpoch :
    (∃ (s : State) (m : Msg), (s.unassigned = false) ∧ (s.alive = true) ∧ (s.msgOk { m with kind := mOPEN } = true) ∧ (epochDiff m.mapEpoch s.handoff.epoch = 0))
  ∧ (∃ (s : State) (m : Msg), (s.unassigned = false) ∧ (s.alive = true) ∧ (s.msgOk { m with kind := mCREDIT_REQ } = true) ∧ (epochDiff m.mapEpoch s.handoff.epoch = 0))
  ∧ (∃ (s : State) (m : Msg), (s.unassigned = false) ∧ (s.alive = true) ∧ (s.msgOk { m with kind := mGRANT } = true) ∧ (epochDiff m.mapEpoch s.handoff.epoch = 0))
  ∧ (∃ (s : State) (m : Msg), (s.unassigned = false) ∧ (s.alive = true) ∧ (s.msgOk { m with kind := mREFS } = true) ∧ (epochDiff m.mapEpoch s.handoff.epoch = 0))
  ∧ (∃ (s : State) (m : Msg), (s.unassigned = false) ∧ (s.alive = true) ∧ (s.msgOk { m with kind := mSENT } = true) ∧ (epochDiff m.mapEpoch s.handoff.epoch = 0))
  ∧ (∃ (s : State) (m : Msg), (s.unassigned = false) ∧ (s.alive = true) ∧ (s.msgOk { m with kind := mCOMMIT } = true) ∧ (epochDiff m.mapEpoch s.handoff.epoch = 0))
  ∧ (∃ (s : State) (m : Msg), (s.unassigned = false) ∧ (s.alive = true) ∧ (s.msgOk { m with kind := mREPLY } = true) ∧ (epochDiff m.mapEpoch s.handoff.epoch = 0)) := by
  refine ⟨?_, ?_, ?_, ?_, ?_, ?_, ?_⟩
  · refine ⟨dev, msgOf mOPEN, ?_⟩
    repeat' (refine And.intro ?_ ?_)
    all_goals (first | rfl | exact ⟨rfl, rfl⟩ | exact ⟨by decide +kernel, by decide +kernel, by decide +kernel⟩ | decide +kernel)
  · refine ⟨dev, msgOf mCREDIT_REQ, ?_⟩
    repeat' (refine And.intro ?_ ?_)
    all_goals (first | rfl | exact ⟨rfl, rfl⟩ | exact ⟨by decide +kernel, by decide +kernel, by decide +kernel⟩ | decide +kernel)
  · refine ⟨dev, msgOf mGRANT, ?_⟩
    repeat' (refine And.intro ?_ ?_)
    all_goals (first | rfl | exact ⟨rfl, rfl⟩ | exact ⟨by decide +kernel, by decide +kernel, by decide +kernel⟩ | decide +kernel)
  · refine ⟨dev, msgOf mREFS, ?_⟩
    repeat' (refine And.intro ?_ ?_)
    all_goals (first | rfl | exact ⟨rfl, rfl⟩ | exact ⟨by decide +kernel, by decide +kernel, by decide +kernel⟩ | decide +kernel)
  · refine ⟨dev, msgOf mSENT, ?_⟩
    repeat' (refine And.intro ?_ ?_)
    all_goals (first | rfl | exact ⟨rfl, rfl⟩ | exact ⟨by decide +kernel, by decide +kernel, by decide +kernel⟩ | decide +kernel)
  · refine ⟨dev, msgOf mCOMMIT, ?_⟩
    repeat' (refine And.intro ?_ ?_)
    all_goals (first | rfl | exact ⟨rfl, rfl⟩ | exact ⟨by decide +kernel, by decide +kernel, by decide +kernel⟩ | decide +kernel)
  · refine ⟨dev, msgOf mREPLY, ?_⟩
    repeat' (refine And.intro ?_ ?_)
    all_goals (first | rfl | exact ⟨rfl, rfl⟩ | exact ⟨by decide +kernel, by decide +kernel, by decide +kernel⟩ | decide +kernel)

theorem witness_OtherMessagesOfThisEpoch :
    (∃ (s : State) (m : Msg), (s.unassigned = false) ∧ (s.alive = true) ∧ (s.msgOk { m with kind := mABORT } = true) ∧ (epochDiff m.mapEpoch s.handoff.epoch = 0))
  ∧ (∃ (s : State) (m : Msg), (s.unassigned = false) ∧ (s.alive = true) ∧ (s.msgOk { m with kind := mKEEPALIVE } = true) ∧ (epochDiff m.mapEpoch s.handoff.epoch = 0))
  ∧ (∃ (s : State) (m : Msg), (s.unassigned = false) ∧ (s.alive = true) ∧ (s.msgOk { m with kind := mRESTORE_REQ } = true) ∧ (epochDiff m.mapEpoch s.handoff.epoch = 0))
  ∧ (∃ (s : State) (m : Msg), (s.unassigned = false) ∧ (s.alive = true) ∧ (s.msgOk { m with kind := mREPLICA_REQ } = true) ∧ (epochDiff m.mapEpoch s.handoff.epoch = 0))
  ∧ (∃ (s : State) (m : Msg), (s.unassigned = false) ∧ (s.alive = true) ∧ (s.msgOk { m with kind := mCOVERED } = true) ∧ (epochDiff m.mapEpoch s.handoff.epoch = 0)) := by
  refine ⟨?_, ?_, ?_, ?_, ?_⟩
  · refine ⟨dev, msgOf mABORT, ?_⟩
    repeat' (refine And.intro ?_ ?_)
    all_goals (first | rfl | exact ⟨rfl, rfl⟩ | exact ⟨by decide +kernel, by decide +kernel, by decide +kernel⟩ | decide +kernel)
  · refine ⟨dev, msgOf mKEEPALIVE, ?_⟩
    repeat' (refine And.intro ?_ ?_)
    all_goals (first | rfl | exact ⟨rfl, rfl⟩ | exact ⟨by decide +kernel, by decide +kernel, by decide +kernel⟩ | decide +kernel)
  · refine ⟨dev, msgOf mRESTORE_REQ, ?_⟩
    repeat' (refine And.intro ?_ ?_)
    all_goals (first | rfl | exact ⟨rfl, rfl⟩ | exact ⟨by decide +kernel, by decide +kernel, by decide +kernel⟩ | decide +kernel)
  · refine ⟨dev, msgOf mREPLICA_REQ, ?_⟩
    repeat' (refine And.intro ?_ ?_)
    all_goals (first | rfl | exact ⟨rfl, rfl⟩ | exact ⟨by decide +kernel, by decide +kernel, by decide +kernel⟩ | decide +kernel)
  · refine ⟨dev, msgOf mCOVERED, ?_⟩
    repeat' (refine And.intro ?_ ?_)
    all_goals (first | rfl | exact ⟨rfl, rfl⟩ | exact ⟨by decide +kernel, by decide +kernel, by decide +kernel⟩ | decide +kernel)

theorem witness_MessagesOfOtherEpochsAndMalformedOnes :
    (∃ (s : State) (m : Msg) (x : ((Msg → Instr) × Nat)), (s.unassigned = false) ∧ (s.alive = true) ∧ (0 < epochDiff m.mapEpoch s.handoff.epoch) ∧ (x ∈ ([(.query, mQUERY), (.partialMsg, mPARTIAL), (.admitMessage, mADMIT), (.promptTokens, mPROMPT_TOKENS), (.openMsg, mOPEN), (.creditReq, mCREDIT_REQ), (.grant, mGRANT),
    (.refs, mREFS), (.sent, mSENT), (.commit, mCOMMIT), (.reply, mREPLY), (.abort, mABORT), (.keepalive, mKEEPALIVE), (.register, mREGISTER),
    (.redirect, mREDIRECT), (.endMsg, mEND), (.released, mRELEASED), (.restoreReq, mRESTORE_REQ), (.replicaReq, mREPLICA_REQ), (.covered, mCOVERED)] : List ((Msg → Instr) × Nat))) ∧ (s.msgOk { m with kind := x.2 } = true))
  ∧ (∃ (s : State) (m : Msg) (x : ((Msg → Instr) × Nat)), (s.unassigned = false) ∧ (s.alive = true) ∧ (x ∈ ([(.query, mQUERY), (.admitMessage, mADMIT), (.promptTokens, mPROMPT_TOKENS), (.openMsg, mOPEN), (.creditReq, mCREDIT_REQ), (.grant, mGRANT),
    (.refs, mREFS), (.sent, mSENT), (.commit, mCOMMIT), (.abort, mABORT), (.keepalive, mKEEPALIVE), (.register, mREGISTER),
    (.redirect, mREDIRECT), (.endMsg, mEND), (.released, mRELEASED), (.restoreReq, mRESTORE_REQ), (.replicaReq, mREPLICA_REQ), (.covered, mCOVERED)] : List ((Msg → Instr) × Nat))) ∧ (s.msgOk { m with kind := x.2 } = false))
  ∧ (∃ (s : State) (m : Msg) (x : ((Msg → Instr) × Nat)), (s.unassigned = false) ∧ (s.alive = true) ∧ (x ∈ ([(.partialMsg, mPARTIAL), (.reply, mREPLY)] : List ((Msg → Instr) × Nat))) ∧ (s.msgOk { m with kind := x.2 } = false))
  ∧ (∃ (s : State) (m : Msg) (x : ((Msg → Instr) × Nat)), (s.unassigned = true ∨ s.alive = false) ∧ (x ∈ ([(.query, mQUERY), (.partialMsg, mPARTIAL), (.admitMessage, mADMIT), (.promptTokens, mPROMPT_TOKENS), (.openMsg, mOPEN), (.creditReq, mCREDIT_REQ), (.grant, mGRANT),
    (.refs, mREFS), (.sent, mSENT), (.commit, mCOMMIT), (.reply, mREPLY), (.abort, mABORT), (.keepalive, mKEEPALIVE), (.register, mREGISTER),
    (.redirect, mREDIRECT), (.endMsg, mEND), (.released, mRELEASED), (.restoreReq, mRESTORE_REQ), (.replicaReq, mREPLICA_REQ), (.covered, mCOVERED)] : List ((Msg → Instr) × Nat)))) := by
  refine ⟨?_, ?_, ?_, ?_⟩
  · refine ⟨dev, { msgOf mCOVERED with mapEpoch := 0x7FFFFFFF }, (.covered, mCOVERED), ?_⟩
    repeat' (refine And.intro ?_ ?_)
    all_goals (first | rfl | decide +kernel | simp)
  · refine ⟨dev, { msgOf mCOVERED with level := 0 }, (.covered, mCOVERED), ?_⟩
    repeat' (refine And.intro ?_ ?_)
    all_goals (first | rfl | decide +kernel | simp)
  · refine ⟨dev, { msgOf mREPLY with level := 0 }, (.reply, mREPLY), ?_⟩
    repeat' (refine And.intro ?_ ?_)
    all_goals (first | rfl | decide +kernel | simp)
  · refine ⟨State.reset, msgOf mCOVERED, (.covered, mCOVERED), ?_⟩
    repeat' (refine And.intro ?_ ?_)
    all_goals (first | rfl | decide +kernel | simp)

theorem witness_StepCommands :
    (∃ (s : State) (n : Nat) (g : List SampleSupply), (s.atBoundary = true) ∧ ((s.boundary.supplyAll g).mayBuild = true) ∧ ((s.boundary.supplyAll g).fnMode 0 ≠ .hostAssist))
  ∧ (∃ (s : State) (n : Nat) (g : List SampleSupply), (s.atBoundary = true) ∧ ((s.boundary.supplyAll g).mayBuild = true) ∧ ((s.boundary.supplyAll g).fnMode 0 = .hostAssist))
  ∧ (∃ (s : State) (n : Nat) (g : List SampleSupply), (s.atBoundary = true) ∧ ((s.boundary.supplyAll g).mayBuild = false))
  ∧ (∃ (s : State), (s.flag Reg.HERD_STEP_CTRL 1 = true))
  ∧ (∃ (s : State), (s.Inv))
  ∧ (∃ (s : State) (n : Fin 65536), (s.Inv) ∧ (n.val < s.herdSize))
  ∧ (∃ (s : State) (n : Fin 65536), (s.herdSize ≤ n.val))
  ∧ (∃ (s : State) (v : U32), let d := s.field Reg.HERD_PEER_SEL 0 16
    (s.flag Reg.HERD_PROFILE 4 = true) ∧ ((s.peer d).present = true ∨ s.peerCount < 512))
  ∧ (∃ (s : State) (v : U32), (s.flag Reg.HERD_PROFILE 4 = false ∨ ((s.peer (s.field Reg.HERD_PEER_SEL 0 16)).present = false ∧ 512 ≤ s.peerCount))) := by
  refine ⟨?_, ?_, ?_, ?_, ?_, ?_, ?_, ?_, ?_⟩
  · refine ⟨dev.setFlag Reg.HERD_STEP_CTRL 0 true, 0, [], ?_⟩
    repeat' (refine And.intro ?_ ?_)
    all_goals (first | rfl | exact ⟨rfl, rfl⟩ | exact ⟨by decide +kernel, by decide +kernel, by decide +kernel⟩ | decide +kernel)
  · refine ⟨(assist 0).setFlag Reg.HERD_STEP_CTRL 0 true, 0, [], ?_⟩
    repeat' (refine And.intro ?_ ?_)
    all_goals (first | rfl | exact ⟨rfl, rfl⟩ | exact ⟨by decide +kernel, by decide +kernel, by decide +kernel⟩ | decide +kernel)
  · refine ⟨dev, 0, [], ?_⟩
    repeat' (refine And.intro ?_ ?_)
    all_goals (first | rfl | exact ⟨rfl, rfl⟩ | exact ⟨by decide +kernel, by decide +kernel, by decide +kernel⟩ | decide +kernel)
  · refine ⟨dev.setFlag Reg.HERD_STEP_CTRL 1 true, ?_⟩
    repeat' (refine And.intro ?_ ?_)
    all_goals (first | rfl | exact ⟨rfl, rfl⟩ | exact ⟨by decide +kernel, by decide +kernel, by decide +kernel⟩ | decide +kernel)
  · refine ⟨dev, ?_⟩
    repeat' (refine And.intro ?_ ?_)
    all_goals (first | rfl | exact ⟨rfl, rfl⟩ | exact ⟨by decide +kernel, by decide +kernel, by decide +kernel⟩ | decide +kernel)
  · refine ⟨dev, 0, ?_⟩
    repeat' (refine And.intro ?_ ?_)
    all_goals (first | rfl | exact ⟨rfl, rfl⟩ | exact ⟨by decide +kernel, by decide +kernel, by decide +kernel⟩ | decide +kernel)
  · refine ⟨dev, 65535, ?_⟩
    repeat' (refine And.intro ?_ ?_)
    all_goals (first | rfl | exact ⟨rfl, rfl⟩ | exact ⟨by decide +kernel, by decide +kernel, by decide +kernel⟩ | decide +kernel)
  · refine ⟨dev.setFlag Reg.HERD_PROFILE 4 true, 0, ?_⟩
    repeat' (refine And.intro ?_ ?_)
    all_goals (first | rfl | exact ⟨rfl, rfl⟩ | exact ⟨by decide +kernel, by decide +kernel, by decide +kernel⟩ | decide +kernel)
  · refine ⟨dev, 0, ?_⟩
    repeat' (refine And.intro ?_ ?_)
    all_goals (first | rfl | exact ⟨rfl, rfl⟩ | exact ⟨by decide +kernel, by decide +kernel, by decide +kernel⟩ | decide +kernel)

theorem witness_StepOperations :
    (∃ (s : State) (m : Fin 64) (st : Step) (op : SeqOp), let k : BitVec 6 := BitVec.ofNat 6 m.val
    let place := st.taken.get m.val
    let t : Taken := { model := k, place := place, op := op }
    let u := (s.modStep fun x => { x with taken := x.taken.set k.toNat (place + 1) }).bindAdapters t
    (s.herd.step = some st) ∧ (s.alive = true) ∧ ((s.plan k).ops[place]? = some op) ∧ (s.mayTake st t = true))
  ∧ (∃ (s : State) (m : Fin 64) (st : Step), (s.herd.step = some st) ∧ ((s.plan (BitVec.ofNat 6 m.val)).ops[st.taken.get m.val]? = none))
  ∧ (∃ (s : State) (st : Step), (s.herd.step = some st) ∧ (s.alive = true) ∧ (s.stepRan st = true) ∧ (s.hostTrees st = []))
  ∧ (∃ (s : State) (st : Step), (s.herd.step = some st) ∧ (s.alive = true) ∧ (s.stepRan st = true) ∧ (s.hostTrees st ≠ []) ∧ (st.pathsAsked = false)) := by
  refine ⟨?_, ?_, ?_, ?_⟩
  · refine ⟨{ dev with herd := { dev.herd with step := some {} }, tier := { dev.tier with plans := [(63, { ops := [{}] })] } }, 63, {}, {}, ?_⟩
    repeat' (refine And.intro ?_ ?_)
    all_goals (first | rfl | exact ⟨rfl, rfl⟩ | exact ⟨by decide +kernel, by decide +kernel, by decide +kernel⟩ | decide +kernel)
  · refine ⟨{ dev with herd := { dev.herd with step := some {} } }, 63, {}, ?_⟩
    repeat' (refine And.intro ?_ ?_)
    all_goals (first | rfl | exact ⟨rfl, rfl⟩ | exact ⟨by decide +kernel, by decide +kernel, by decide +kernel⟩ | decide +kernel)
  · refine ⟨{ dev with herd := { dev.herd with step := some {} } }, {}, ?_⟩
    repeat' (refine And.intro ?_ ?_)
    all_goals (first | rfl | exact ⟨rfl, rfl⟩ | exact ⟨by decide +kernel, by decide +kernel, by decide +kernel⟩ | decide +kernel)
  · refine ⟨withBits { dev with herd := { dev.herd with step := some { entries := [{ kind := .tree, slot := 3 }] }, entries := [(3, { state := .speculating })] } } { functions := (List.replicate 10 {}).set 4 { mode := .hostAssist } }, { entries := [{ kind := .tree, slot := 3 }] }, ?_⟩
    repeat' (refine And.intro ?_ ?_)
    all_goals (first | rfl | exact ⟨rfl, rfl⟩ | exact ⟨by decide +kernel, by decide +kernel, by decide +kernel⟩ | decide +kernel)

theorem witness_HandoffTimerAndRegisterCommands :
    (∃ (s : State) (id : U32), ((s.transfer id.toNat).phase ≠ .closed) ∧ ((s.transfer id.toNat).requests ≠ []) ∧ ((s.transfer id.toNat).kind ≠ .restore))
  ∧ (∃ (s : State) (id : U32), (s.alive = true))
  ∧ (∃ (s : State) (id : U32), let t := s.transfer id.toNat
    (t.holder = true) ∧ (t.sent = false) ∧ (t.redirecting = false) ∧ ((t.phase = .opening ∨ t.phase = .sending)))
  ∧ (∃ (s : State) (id : U32), let t := s.transfer id.toNat
    (t.phase = .granting) ∧ (t.holder = false))
  ∧ (∃ (s : State) (i : Nat) (m : Msg), (s.alive = true) ∧ (s.handoff.heldMsgs[i]? = some m))
  ∧ (∃ (s : State) (p : Fin 2) (fn : Fin 65) (a : Nat) (v : U64) (e : WriteEnv), (s.portOpen p = true) ∧ (s.pins.resetN = true)) := by
  refine ⟨?_, ?_, ?_, ?_, ?_, ?_⟩
  · refine ⟨dev.setTransfer 9 { phase := .sending, requests := [{ layer := 1 }] }, 9, ?_⟩
    repeat' (refine And.intro ?_ ?_)
    all_goals (first | rfl | exact ⟨rfl, rfl⟩ | exact ⟨by decide +kernel, by decide +kernel, by decide +kernel⟩ | decide +kernel)
  · refine ⟨dev, 0, ?_⟩
    repeat' (refine And.intro ?_ ?_)
    all_goals (first | rfl | exact ⟨rfl, rfl⟩ | exact ⟨by decide +kernel, by decide +kernel, by decide +kernel⟩ | decide +kernel)
  · refine ⟨dev.setTransfer 9 { phase := .opening }, 9, ?_⟩
    repeat' (refine And.intro ?_ ?_)
    all_goals (first | exact Or.inl rfl | rfl | decide +kernel)
  · refine ⟨dev.setTransfer 9 { phase := .granting, holder := false }, 9, ?_⟩
    repeat' (refine And.intro ?_ ?_)
    all_goals (first | rfl | exact ⟨rfl, rfl⟩ | exact ⟨by decide +kernel, by decide +kernel, by decide +kernel⟩ | decide +kernel)
  · refine ⟨{ dev with handoff := { dev.handoff with heldMsgs := [{}, { kind := 3 }] } }, 1, { kind := 3 }, ?_⟩
    repeat' (refine And.intro ?_ ?_)
    all_goals (first | rfl | exact ⟨rfl, rfl⟩ | exact ⟨by decide +kernel, by decide +kernel, by decide +kernel⟩ | decide +kernel)
  · refine ⟨dev, 0, 0, 0, 0, {}, ?_⟩
    repeat' (refine And.intro ?_ ?_)
    all_goals (first | rfl | exact ⟨rfl, rfl⟩ | exact ⟨by decide +kernel, by decide +kernel, by decide +kernel⟩ | decide +kernel)

theorem witness_ElandCommands :
    (∃ (s : State) (i : Nat) (op : ElandOp), (s.nextToBegin = some (i, op)) ∧ (s.alive = true) ∧ (op.desc.kind = 1) ∧ (op.desc.dep = false) ∧ (s.allFenced = false) ∧ (s.elandOk op.desc = true) ∧ (s.elandReach op = none))
  ∧ (∃ (s : State) (i : Nat) (op : ElandOp), (s.nextToBegin = some (i, op)) ∧ (s.alive = true) ∧ (op.desc.kind = 2) ∧ (op.desc.dep = false) ∧ (s.allFenced = false) ∧ (s.elandOk op.desc = true) ∧ (s.elandReach op = none))
  ∧ (∃ (s : State) (i : Nat) (op : ElandOp), (s.nextToBegin = some (i, op)) ∧ (s.alive = true) ∧ (op.desc.kind = 3) ∧ (op.desc.dep = false) ∧ (s.allFenced = false) ∧ (s.elandOk op.desc = true) ∧ (s.elandReach op = none))
  ∧ (∃ (s : State) (i : Nat) (op : ElandOp), (s.nextToBegin = some (i, op)) ∧ (s.alive = true) ∧ (op.desc.kind = 4) ∧ (op.desc.dep = false) ∧ (s.allFenced = false) ∧ (s.elandOk op.desc = true) ∧ (s.elandReach op = none))
  ∧ (∃ (s : State) (i : Nat) (op : ElandOp), (s.nextToBegin = some (i, op)) ∧ (s.alive = true) ∧ (op.desc.kind = 5) ∧ (op.desc.dep = false) ∧ (s.allFenced = false) ∧ (s.elandOk op.desc = true) ∧ (s.elandReach op = none))
  ∧ (∃ (s : State) (i : Nat) (op : ElandOp), (s.nextToBegin = some (i, op)) ∧ (s.alive = true) ∧ (op.desc.kind = 6) ∧ (op.desc.dep = false) ∧ (s.allFenced = false) ∧ (s.elandOk op.desc = true) ∧ (s.elandReach op = none))
  ∧ (∃ (s : State) (i : Nat) (op : ElandOp), (s.nextToBegin = some (i, op)) ∧ (s.alive = true) ∧ (op.desc.kind = 7) ∧ (op.desc.dep = false) ∧ (s.allFenced = false) ∧ (s.elandOk op.desc = true) ∧ (s.elandReach op = none))
  ∧ (∃ (s : State) (i : Nat) (op : ElandOp), (s.nextToBegin = some (i, op)) ∧ (s.alive = true) ∧ (op.desc.kind = 8) ∧ (op.desc.dep = false) ∧ (s.allFenced = false) ∧ (s.elandOk op.desc = true) ∧ (s.elandReach op = none))
  ∧ (∃ (s : State) (i : Nat) (op : ElandOp) (x : (Instr × ElandKind)), (s.nextToBegin = some (i, op)) ∧ (s.alive = true) ∧ (op.desc.dep = false) ∧ (s.allFenced = false) ∧ (op.units = []) ∧ (s.elandOk op.desc = false) ∧ (x ∈ ([(.gemm, .gemm), (.groupedGemm, .groupedGemm), (.attnFwd, .attnFwd), (.attnTree, .attnTree), (.attnBwd, .attnBwd), (.kvPack, .kvPack), (.distTable, .distTable), (.sample, .sample)] : List (Instr × ElandKind))) ∧ (op.desc.kind.toNat = x.2.code))
  ∧ (∃ (s : State) (i : Nat) (op : ElandOp) (x : (Instr × ElandKind)), (s.nextToBegin = some (i, op)) ∧ (s.alive = true) ∧ (op.desc.dep = true) ∧ ((s.eland.lastStatus = stMALFORMED ∨ s.eland.lastStatus = stPRIVILEGE ∨ s.eland.lastStatus = stFENCED)) ∧ (x ∈ ([(.gemm, .gemm), (.groupedGemm, .groupedGemm), (.attnFwd, .attnFwd), (.attnTree, .attnTree), (.attnBwd, .attnBwd), (.kvPack, .kvPack), (.distTable, .distTable), (.sample, .sample)] : List (Instr × ElandKind))) ∧ (op.desc.kind.toNat = x.2.code)) := by
  refine ⟨?_, ?_, ?_, ?_, ?_, ?_, ?_, ?_, ?_, ?_⟩
  · refine ⟨elandTop { kind := 1, m := 1, n := 1, k := 1 }, 0, { desc := { kind := 1, m := 1, n := 1, k := 1 } }, ?_⟩
    repeat' (refine And.intro ?_ ?_)
    all_goals (first | rfl | exact ⟨rfl, rfl⟩ | exact ⟨by decide +kernel, by decide +kernel, by decide +kernel⟩ | decide +kernel)
  · refine ⟨elandTop { kind := 2, m := 1, n := 1, k := 1, g := 1, auxAddr := 1024 }, 0, { desc := { kind := 2, m := 1, n := 1, k := 1, g := 1, auxAddr := 1024 } }, ?_⟩
    repeat' (refine And.intro ?_ ?_)
    all_goals (first | rfl | exact ⟨rfl, rfl⟩ | exact ⟨by decide +kernel, by decide +kernel, by decide +kernel⟩ | decide +kernel)
  · refine ⟨elandTop { kind := 3, m := 1, k := 64, g := 1, h := 1, auxAddr := 2048 }, 0, { desc := { kind := 3, m := 1, k := 64, g := 1, h := 1, auxAddr := 2048 } }, ?_⟩
    repeat' (refine And.intro ?_ ?_)
    all_goals (first | rfl | exact ⟨rfl, rfl⟩ | exact ⟨by decide +kernel, by decide +kernel, by decide +kernel⟩ | decide +kernel)
  · refine ⟨elandTop { kind := 4, mode := 1, m := 1, k := 64, g := 1, h := 1, auxAddr := 2048 }, 0, { desc := { kind := 4, mode := 1, m := 1, k := 64, g := 1, h := 1, auxAddr := 2048 } }, ?_⟩
    repeat' (refine And.intro ?_ ?_)
    all_goals (first | rfl | exact ⟨rfl, rfl⟩ | exact ⟨by decide +kernel, by decide +kernel, by decide +kernel⟩ | decide +kernel)
  · refine ⟨elandTop { kind := 5, m := 1, k := 64, g := 1, h := 1, aAddr := 3072, cAddr := 3200 }, 0, { desc := { kind := 5, m := 1, k := 64, g := 1, h := 1, aAddr := 3072, cAddr := 3200 } }, ?_⟩
    repeat' (refine And.intro ?_ ?_)
    all_goals (first | rfl | exact ⟨rfl, rfl⟩ | exact ⟨by decide +kernel, by decide +kernel, by decide +kernel⟩ | decide +kernel)
  · refine ⟨elandTop { kind := 6, flags := 4, m := 1, k := 64, g := 1, h := 1 }, 0, { desc := { kind := 6, flags := 4, m := 1, k := 64, g := 1, h := 1 } }, ?_⟩
    repeat' (refine And.intro ?_ ?_)
    all_goals (first | rfl | exact ⟨rfl, rfl⟩ | exact ⟨by decide +kernel, by decide +kernel, by decide +kernel⟩ | decide +kernel)
  · refine ⟨elandTop { kind := 7, m := 1, n := 256, k := 8, g := 8, bAddr := 4096, cAddr := 8192 }, 0, { desc := { kind := 7, m := 1, n := 256, k := 8, g := 8, bAddr := 4096, cAddr := 8192 } }, ?_⟩
    repeat' (refine And.intro ?_ ?_)
    all_goals (first | rfl | exact ⟨rfl, rfl⟩ | exact ⟨by decide +kernel, by decide +kernel, by decide +kernel⟩ | decide +kernel)
  · refine ⟨elandTop { kind := 8, aFmt := 10, m := 1, n := 2 }, 0, { desc := { kind := 8, aFmt := 10, m := 1, n := 2 } }, ?_⟩
    repeat' (refine And.intro ?_ ?_)
    all_goals (first | rfl | exact ⟨rfl, rfl⟩ | exact ⟨by decide +kernel, by decide +kernel, by decide +kernel⟩ | decide +kernel)
  · refine ⟨elandTop { kind := 8 }, 0, { desc := { kind := 8 } }, (.sample, .sample), ?_⟩
    repeat' (refine And.intro ?_ ?_)
    all_goals (first | rfl | decide +kernel | simp)
  · refine ⟨{ elandTop { kind := 8, flags := 1 } with eland := { (elandTop { kind := 8, flags := 1 }).eland with lastStatus := stMALFORMED } }, 0, { desc := { kind := 8, flags := 1 } }, (.sample, .sample), ?_⟩
    repeat' (refine And.intro ?_ ?_)
    all_goals (first | rfl | decide +kernel | simp)

theorem witness_ElandTileAndControlCommands :
    (∃ (s : State) (d : ElandDesc), (s.alive = true))
  ∧ (∃ (s : State) (d : ElandDesc), (s.alive = false) ∧ (s.allFenced = true) ∧ (s.pins.resetN = true))
  ∧ (∃ (s : State) (quad : Fin 4) (sub : Fin 4) (run : TileRun) (r : RunTile) (i : Nat), let sa := 4 * quad.val + sub.val
    (s.alive = true) ∧ (s.saTile sa = some r) ∧ (s.eland.queue.findIdx? (fun op => decide (op.id = r.op)) = some i))
  ∧ (∃ (s : State), (s.Inv)) := by
  refine ⟨?_, ?_, ?_, ?_⟩
  · refine ⟨dev, { kind := 8 }, ?_⟩
    repeat' (refine And.intro ?_ ?_)
    all_goals (first | rfl | exact ⟨rfl, rfl⟩ | exact ⟨by decide +kernel, by decide +kernel, by decide +kernel⟩ | decide +kernel)
  · refine ⟨{ dev with eland := { dev.eland with fenced := 0xFFFF }, fault := { dev.fault with fatal := true } }, { kind := 8 }, ?_⟩
    repeat' (refine And.intro ?_ ?_)
    all_goals (first | rfl | exact ⟨rfl, rfl⟩ | exact ⟨by decide +kernel, by decide +kernel, by decide +kernel⟩ | decide +kernel)
  · refine ⟨{ dev with eland := { dev.eland with running := [(15, some { op := 7, tile := 2 })], queue := [{ begun := true, total := 1 }, { id := 7, begun := true, total := 3, doneTiles := [0, 1] }] } }, 3, 3, {}, { op := 7, tile := 2 }, 1, ?_⟩
    repeat' (refine And.intro ?_ ?_)
    all_goals (first | rfl | exact ⟨rfl, rfl⟩ | exact ⟨by decide +kernel, by decide +kernel, by decide +kernel⟩ | decide +kernel)
  · refine ⟨dev, ?_⟩
    repeat' (refine And.intro ?_ ?_)
    all_goals (first | rfl | exact ⟨rfl, rfl⟩ | exact ⟨by decide +kernel, by decide +kernel, by decide +kernel⟩ | decide +kernel)

theorem witness_SpringbokCommands :
    (∃ (s : State) (k : Nat) (head : Nat) (quad : Fin 4) (stack : Fin 5) (pc : Fin 32), let r := s.reduction k
    let lane := 32 * (5 * quad.val + stack.val) + pc.val
    let v := s.serving_ lane
    let u := s.newUnit k head lane
    let t := (s.setReduction k { r with todo := r.todo.erase (head, lane) }).drawn
    let w : State := { t with spring := { t.spring with nextUnit := t.spring.nextUnit + 1 } }
    (s.alive = true) ∧ (r.active = true) ∧ (r.todo.contains (head, lane) = true) ∧ ((s.laneActive v = true → (s.laneQueue v).length < 64)))
  ∧ (∃ (s : State) (lane : Fin 640) (x : Option UnitResult) (u : LaneUnit) (q : List LaneUnit), let out := x.getD (s.unitRows u)
    let t := ((s.setLaneQueue lane.val q).startUnit lane.val).runUnit u lane.val
    (s.laneQueue lane.val = u :: q) ∧ (s.alive = true) ∧ ((u.checked = false ∨ t.nextLane lane.val = none)))
  ∧ (∃ (s : State) (lane : Fin 640) (x : Option UnitResult) (u : LaneUnit) (q : List LaneUnit) (b : Nat), let out := x.getD (s.unitRows u)
    let t := ((s.setLaneQueue lane.val q).startUnit lane.val).runUnit u lane.val
    let y : LaneUnit := { u with phase := .checking, primary := out, mainLane := lane.val, checkLane := b }
    (s.laneQueue lane.val = u :: q) ∧ (s.alive = true) ∧ (u.checked = true) ∧ (t.nextLane lane.val = some b))
  ∧ (∃ (s : State) (n : Nat) (x : Option UnitResult) (u : LaneUnit), let out := x.getD (s.unitRows u)
    let t : State := { s with spring := { s.spring with checks := s.spring.checks.filter fun y => !(y.id == n) } }
    (s.spring.checks.find? (·.id == n) = some u) ∧ (s.alive = true) ∧ (u.phase = .checking))
  ∧ (∃ (s : State) (n : Nat) (x : Option UnitResult) (u : LaneUnit), let out := x.getD (s.unitRows u)
    let t : State := { s with spring := { s.spring with checks := s.spring.checks.filter fun y => !(y.id == n) } }
    (s.spring.checks.find? (·.id == n) = some u) ∧ (s.alive = true) ∧ (u.phase = .arbitration)) := by
  refine ⟨?_, ?_, ?_, ?_, ?_⟩
  · refine ⟨{ dev with spring := { dev.spring with reductions := [(7, { active := true, slot := 4095, layer := 7, todo := [(0, 639)], units := [(3, 1)] })] } }, 7, 0, 3, 4, 31, ?_⟩
    repeat' (refine And.intro ?_ ?_)
    all_goals (first | rfl | exact ⟨rfl, rfl⟩ | exact ⟨by decide +kernel, by decide +kernel, by decide +kernel⟩ | decide +kernel)
  · refine ⟨{ dev with spring := { dev.spring with queues := [(639, [{ slot := 3 }])] } }, 639, none, { slot := 3 }, [], ?_⟩
    repeat' (refine And.intro ?_ ?_)
    all_goals (first | rfl | exact ⟨rfl, rfl⟩ | exact ⟨by decide +kernel, by decide +kernel, by decide +kernel⟩ | decide +kernel)
  · refine ⟨{ dev with spring := { dev.spring with queues := [(639, [{ checked := true }])] } }, 639, none, { checked := true }, [], 608, ?_⟩
    repeat' (refine And.intro ?_ ?_)
    all_goals (first | rfl | exact ⟨rfl, rfl⟩ | exact ⟨by decide +kernel, by decide +kernel, by decide +kernel⟩ | decide +kernel)
  · refine ⟨{ dev with spring := { dev.spring with checks := [{ id := 5, phase := .checking }] } }, 5, none, { id := 5, phase := .checking }, ?_⟩
    repeat' (refine And.intro ?_ ?_)
    all_goals (first | rfl | exact ⟨rfl, rfl⟩ | exact ⟨by decide +kernel, by decide +kernel, by decide +kernel⟩ | decide +kernel)
  · refine ⟨{ dev with spring := { dev.spring with checks := [{ id := 5, phase := .arbitration }] } }, 5, none, { id := 5, phase := .arbitration }, ?_⟩
    repeat' (refine And.intro ?_ ?_)
    all_goals (first | rfl | exact ⟨rfl, rfl⟩ | exact ⟨by decide +kernel, by decide +kernel, by decide +kernel⟩ | decide +kernel)

theorem witness_ReducerAndLaneControlCommands :
    (∃ (s : State) (home : Fin 4) (k : Nat), let r := s.reduction k
    let t := (s.setReduction k {}).count64 (Reg.SPRING_Q_MERGED_LO + 0x10 * home.val) r.parts.length
    let u := ((if r.merged.any fun x => x.2.poisoned then (t.writeMerged r).poisonWork r.slot else t.writeMerged r)).opDone r.seq
    (s.alive = true) ∧ (r.complete = true) ∧ (r.slot % 4 = home.val) ∧ (r.asker = none))
  ∧ (∃ (s : State) (home : Fin 4) (k : Nat) (a : U16 × U32 × U64 × Nat), let r := s.reduction k
    (s.alive = true) ∧ (r.complete = true) ∧ (r.slot % 4 = home.val) ∧ (r.asker = some a))
  ∧ (∃ (s : State), (s.Inv)) := by
  refine ⟨?_, ?_, ?_⟩
  · refine ⟨{ dev with spring := { dev.spring with reductions := [(7, { active := true, slot := 4095, layer := 7 })] } }, 3, 7, ?_⟩
    repeat' (refine And.intro ?_ ?_)
    all_goals (first | rfl | exact ⟨rfl, rfl⟩ | exact ⟨by decide +kernel, by decide +kernel, by decide +kernel⟩ | decide +kernel)
  · refine ⟨{ dev with spring := { dev.spring with reductions := [(7, { active := true, slot := 4095, layer := 7, asker := some (5, 1, 2, 3) })] } }, 3, 7, (5, 1, 2, 3), ?_⟩
    repeat' (refine And.intro ?_ ?_)
    all_goals (first | rfl | exact ⟨rfl, rfl⟩ | exact ⟨by decide +kernel, by decide +kernel, by decide +kernel⟩ | decide +kernel)
  · refine ⟨dev, ?_⟩
    repeat' (refine And.intro ?_ ?_)
    all_goals (first | rfl | exact ⟨rfl, rfl⟩ | exact ⟨by decide +kernel, by decide +kernel, by decide +kernel⟩ | decide +kernel)

theorem witness_IbexCommands :
    (∃ (s : State) (t : State) (q : Fin 256) (d : IbexDesc) (n : Nat), (s.Accepts q.val d n t) ∧ (d.op.toNat = 1) ∧ (d.formed = true))
  ∧ (∃ (s : State) (t : State) (q : Fin 256) (d : IbexDesc) (n : Nat), (s.Accepts q.val d n t) ∧ (d.op.toNat = 2) ∧ (d.formed = true))
  ∧ (∃ (s : State) (t : State) (q : Fin 256) (d : IbexDesc) (n : Nat), (s.Accepts q.val d n t) ∧ (d.op.toNat = 3) ∧ (d.formed = true))
  ∧ (∃ (s : State) (t : State) (q : Fin 256) (d : IbexDesc) (n : Nat), (s.Accepts q.val d n t) ∧ (d.op.toNat = 4) ∧ (d.formed = true))
  ∧ (∃ (s : State) (t : State) (q : Fin 256) (d : IbexDesc) (n : Nat), (s.Accepts q.val d n t) ∧ (d.op.toNat = 5) ∧ (d.formed = true))
  ∧ (∃ (s : State) (t : State) (q : Fin 256) (d : IbexDesc) (n : Nat), (s.Accepts q.val d n t) ∧ (d.op.toNat = 6) ∧ (d.formed = true))
  ∧ (∃ (s : State) (t : State) (q : Fin 256) (d : IbexDesc) (n : Nat), (s.Accepts q.val d n t) ∧ (d.op.toNat = 7) ∧ (d.formed = true))
  ∧ (∃ (s : State) (t : State) (q : Fin 256) (d : IbexDesc) (n : Nat), (s.Accepts q.val d n t) ∧ (d.op.toNat = 8) ∧ (d.formed = true))
  ∧ (∃ (s : State) (t : State) (q : Fin 256) (d : IbexDesc) (n : Nat), (s.Accepts q.val d n t) ∧ (d.op.toNat = 9) ∧ (d.formed = true))
  ∧ (∃ (s : State) (t : State) (q : Fin 256) (d : IbexDesc) (n : Nat), (s.Accepts q.val d n t) ∧ (d.op.toNat = 10) ∧ (d.formed = true))
  ∧ (∃ (s : State) (t : State) (q : Fin 256) (d : IbexDesc) (n : Nat) (x : ((Fin 256 → Instr) × Nat)), (s.Accepts q.val d n t) ∧ (d.formed = false) ∧ (x ∈ ([(.copy, 1), (.gather, 2), (.scatter, 3), (.pack, 4), (.unpack, 5), (.compact, 6), (.check, 7), (.remotePut, 8), (.remoteGet, 9), (.prefetch, 10)] : List ((Fin 256 → Instr) × Nat))) ∧ (d.op.toNat = x.2)) := by
  refine ⟨?_, ?_, ?_, ?_, ?_, ?_, ?_, ?_, ?_, ?_, ?_⟩
  · refine ⟨queued (descOf 1), accepted (descOf 1), 255, descOf 1, (claimed (descOf 1)).1, ?_⟩
    exact ⟨accepted_accepts _ (by decide), rfl, by decide +kernel⟩
  · refine ⟨queued (descOf 2), accepted (descOf 2), 255, descOf 2, (claimed (descOf 2)).1, ?_⟩
    exact ⟨accepted_accepts _ (by decide), rfl, by decide +kernel⟩
  · refine ⟨queued (descOf 3), accepted (descOf 3), 255, descOf 3, (claimed (descOf 3)).1, ?_⟩
    exact ⟨accepted_accepts _ (by decide), rfl, by decide +kernel⟩
  · refine ⟨queued (descOf 4), accepted (descOf 4), 255, descOf 4, (claimed (descOf 4)).1, ?_⟩
    exact ⟨accepted_accepts _ (by decide), rfl, by decide +kernel⟩
  · refine ⟨queued (descOf 5), accepted (descOf 5), 255, descOf 5, (claimed (descOf 5)).1, ?_⟩
    exact ⟨accepted_accepts _ (by decide), rfl, by decide +kernel⟩
  · refine ⟨queued (descOf 6), accepted (descOf 6), 255, descOf 6, (claimed (descOf 6)).1, ?_⟩
    exact ⟨accepted_accepts _ (by decide), rfl, by decide +kernel⟩
  · refine ⟨queued (descOf 7), accepted (descOf 7), 255, descOf 7, (claimed (descOf 7)).1, ?_⟩
    exact ⟨accepted_accepts _ (by decide), rfl, by decide +kernel⟩
  · refine ⟨queued (descOf 8), accepted (descOf 8), 255, descOf 8, (claimed (descOf 8)).1, ?_⟩
    exact ⟨accepted_accepts _ (by decide), rfl, by decide +kernel⟩
  · refine ⟨queued (descOf 9), accepted (descOf 9), 255, descOf 9, (claimed (descOf 9)).1, ?_⟩
    exact ⟨accepted_accepts _ (by decide), rfl, by decide +kernel⟩
  · refine ⟨queued (descOf 10), accepted (descOf 10), 255, descOf 10, (claimed (descOf 10)).1, ?_⟩
    exact ⟨accepted_accepts _ (by decide), rfl, by decide +kernel⟩
  · refine ⟨queued (descOf 0), accepted (descOf 0), 255, descOf 0, (claimed (descOf 0)).1, (.copy, 1), ?_⟩
    exact ⟨accepted_accepts _ (by decide), by decide +kernel, by simp, rfl⟩

theorem witness_SlotCommands :
    (∃ (s : State) (n : Fin 65536), let x := s.slot n.val
    (s.alive = true) ∧ (x.state = .waiting) ∧ (x.awaits = .descriptor) ∧ (x.left = 0) ∧ (x.replyDue = false))
  ∧ (∃ (s : State) (n : Fin 65536), let x := s.slot n.val
    let u := s.count Reg.IBEX_TIMEOUTS 1
    (s.alive = true) ∧ (x.state = .waiting))
  ∧ (∃ (s : State), (s.ibex.slotsFree + s.ibex.slotsBusy = 65536))
  ∧ (∃ (s : State), (s.ibex.slotsFree + s.ibex.slotsBusy ≠ 65536))
  ∧ (∃ (s : State), (s.Inv))
  ∧ (∃ (s : State), (s.Inv)) := by
  refine ⟨?_, ?_, ?_, ?_, ?_, ?_⟩
  · refine ⟨dev.setSlotAt 65535 { state := .waiting, awaits := .descriptor }, 65535, ?_⟩
    repeat' (refine And.intro ?_ ?_)
    all_goals (first | rfl | exact ⟨rfl, rfl⟩ | exact ⟨by decide +kernel, by decide +kernel, by decide +kernel⟩ | decide +kernel)
  · refine ⟨dev.setSlotAt 65535 { state := .waiting, awaits := .reply }, 65535, ?_⟩
    repeat' (refine And.intro ?_ ?_)
    all_goals (first | rfl | exact ⟨rfl, rfl⟩ | exact ⟨by decide +kernel, by decide +kernel, by decide +kernel⟩ | decide +kernel)
  · refine ⟨dev, ?_⟩
    repeat' (refine And.intro ?_ ?_)
    all_goals (first | rfl | exact ⟨rfl, rfl⟩ | exact ⟨by decide +kernel, by decide +kernel, by decide +kernel⟩ | decide +kernel)
  · refine ⟨{ dev with ibex := { dev.ibex with slotsBusy := 1 } }, ?_⟩
    repeat' (refine And.intro ?_ ?_)
    all_goals (first | rfl | exact ⟨rfl, rfl⟩ | exact ⟨by decide +kernel, by decide +kernel, by decide +kernel⟩ | decide +kernel)
  · refine ⟨dev, ?_⟩
    repeat' (refine And.intro ?_ ?_)
    all_goals (first | rfl | exact ⟨rfl, rfl⟩ | exact ⟨by decide +kernel, by decide +kernel, by decide +kernel⟩ | decide +kernel)
  · refine ⟨dev, ?_⟩
    repeat' (refine And.intro ?_ ?_)
    all_goals (first | rfl | exact ⟨rfl, rfl⟩ | exact ⟨by decide +kernel, by decide +kernel, by decide +kernel⟩ | decide +kernel)

theorem witness_StraitLinkCommands :
    (∃ (s : State) (n : Fin 16) (b : List Byte), let f := Flit.ofBytes b
    (s.pins.resetN = true) ∧ ((s.sport n.val).state = .up) ∧ (f.type = .data) ∧ (f.crcOk = true) ∧ (f.seq % 4096 = ((s.sport n.val).recvSeq + 1) % 4096))
  ∧ (∃ (s : State) (n : Fin 16) (b : List Byte), let f := Flit.ofBytes b
    (s.pins.resetN = true) ∧ ((s.sport n.val).state = .up) ∧ (f.type ≠ .reserved) ∧ (f.crcOk = false ∨ (f.type = .data ∧ f.seq % 4096 ≠ ((s.sport n.val).recvSeq + 1) % 4096)))
  ∧ (∃ (s : State) (n : Fin 16) (b : List Byte), let f := Flit.ofBytes b
    (s.pins.resetN = true) ∧ ((s.sport n.val).state = .up) ∧ (f.type ≠ .reserved) ∧ (f.type ≠ .data) ∧ (f.crcOk = true))
  ∧ (∃ (s : State) (n : Fin 16), ((s.sport n.val).state = .up))
  ∧ (∃ (s : State) (n : Fin 16) (half : Bool) (ack : Fin 4096) (g : List Nat), let p := (s.sport n.val).acknowledge ack.val
    let a := s.setSport n.val { p with state := .up, half := half, replaysNow := 0, nakSent := false, credits := addByChannel [] ((g.zip (bufferedSlots p.buffer)).map fun x => x.1 - x.2) 32 }
    let b := if p.buffer.isEmpty then a else (a.setSport n.val { a.sport n.val with replays := satAdd 32 p.replays 1 }).straitOut (.replay n.val ((p.acked + 1) % 4096))
    (s.pins.resetN = true) ∧ ((s.sport n.val).state = .retraining))
  ∧ (∃ (s : State) (n : Fin 16) (half : Bool) (ack : Fin 4096) (g : List Nat), let p := s.sport n.val
    let a := s.setSport n.val { p with state := .up, half := half, attempt := false, sendSeq := 0, acked := 0, recvSeq := 0, buffer := [], replaysNow := 0, nakSent := false, credits := addByChannel [] g 32, sentSlots := [], received := [], stream := {} }
    (s.pins.resetN = true) ∧ (p.state = .training))
  ∧ (∃ (s : State) (n : Fin 16), let p := s.sport n.val
    ((p.state = .retraining ∨ p.state = .training)))
  ∧ (∃ (s : State) (n : Fin 16), ((s.sport n.val).state = .down) ∧ (s.pins.resetN = true)) := by
  refine ⟨?_, ?_, ?_, ?_, ?_, ?_, ?_, ?_⟩
  · refine ⟨{ dev with strait := { dev.strait with ports := [(15, { state := .up, recvSeq := 4095, credits := [(3, 3)], received := [(2, 1)] })] } }, 15, flitOf 268435456, ?_⟩
    repeat' (refine And.intro ?_ ?_)
    all_goals (first | rfl | exact ⟨rfl, rfl⟩ | exact ⟨by decide +kernel, by decide +kernel, by decide +kernel⟩ | decide +kernel)
  · refine ⟨{ dev with strait := { dev.strait with ports := [(15, { state := .up, recvSeq := 4095, credits := [(3, 3)], received := [(2, 1)] })] } }, 15, flitOf 268439551, ?_⟩
    repeat' (refine And.intro ?_ ?_)
    all_goals (first | exact Or.inr ⟨rfl, by decide +kernel⟩ | rfl | decide +kernel)
  · refine ⟨{ dev with strait := { dev.strait with ports := [(15, { state := .up, recvSeq := 4095, credits := [(3, 3)], received := [(2, 1)] })] } }, 15, flitOf 536870912, ?_⟩
    repeat' (refine And.intro ?_ ?_)
    all_goals (first | rfl | exact ⟨rfl, rfl⟩ | exact ⟨by decide +kernel, by decide +kernel, by decide +kernel⟩ | decide +kernel)
  · refine ⟨{ dev with strait := { dev.strait with ports := [(15, { state := .up })] } }, 15, ?_⟩
    repeat' (refine And.intro ?_ ?_)
    all_goals (first | rfl | exact ⟨rfl, rfl⟩ | exact ⟨by decide +kernel, by decide +kernel, by decide +kernel⟩ | decide +kernel)
  · refine ⟨{ dev with strait := { dev.strait with ports := [(15, { state := .retraining })] } }, 15, true, 0, [], ?_⟩
    repeat' (refine And.intro ?_ ?_)
    all_goals (first | rfl | exact ⟨rfl, rfl⟩ | exact ⟨by decide +kernel, by decide +kernel, by decide +kernel⟩ | decide +kernel)
  · refine ⟨{ dev with strait := { dev.strait with ports := [(15, { state := .training })] } }, 15, true, 0, [], ?_⟩
    repeat' (refine And.intro ?_ ?_)
    all_goals (first | rfl | exact ⟨rfl, rfl⟩ | exact ⟨by decide +kernel, by decide +kernel, by decide +kernel⟩ | decide +kernel)
  · refine ⟨{ dev with strait := { dev.strait with ports := [(15, { state := .training })] } }, 15, ?_⟩
    repeat' (refine And.intro ?_ ?_)
    all_goals (exact Or.inr rfl)
  · refine ⟨dev, 0, ?_⟩
    repeat' (refine And.intro ?_ ?_)
    all_goals (first | rfl | exact ⟨rfl, rfl⟩ | exact ⟨by decide +kernel, by decide +kernel, by decide +kernel⟩ | decide +kernel)

theorem witness_StraitAuditCommands :
    (∃ (s : State) (n : Fin 16), let p := (s.sport n.val).sendNow chCtl 2
    ((s.sport n.val).state = .up) ∧ ((s.sport n.val).canSend chCtl 2 false = true))
  ∧ (∃ (s : State) (n : Fin 16) (ts : List Nat), ((s.sport n.val).state = .up) ∧ (((List.range 4).find? fun ch => decide (ts.getD ch 0 % 2 ^ 32 ≠ (s.sport n.val).received.get ch)) = none))
  ∧ (∃ (s : State) (n : Fin 16) (ts : List Nat) (ch : Nat), let p := s.sport n.val
    let d := (ts.getD ch 0 % 2 ^ 32 + 2 ^ 32 - p.received.get ch) % 2 ^ 32
    let a := (s.setSport n.val { p with auditErrs := satAdd 16 p.auditErrs 1, received := addByChannel [] (ts.take 4) 32 }).setFlag Reg.FAULT_AUDIT 2 true
    (p.state = .up) ∧ (((List.range 4).find? fun ch => decide (ts.getD ch 0 % 2 ^ 32 ≠ p.received.get ch)) = some ch)) := by
  refine ⟨?_, ?_, ?_⟩
  · refine ⟨{ dev with strait := { dev.strait with ports := [(15, { state := .up, recvSeq := 4095, credits := [(3, 3)], received := [(2, 1)] })] } }, 15, ?_⟩
    repeat' (refine And.intro ?_ ?_)
    all_goals (first | rfl | exact ⟨rfl, rfl⟩ | exact ⟨by decide +kernel, by decide +kernel, by decide +kernel⟩ | decide +kernel)
  · refine ⟨{ dev with strait := { dev.strait with ports := [(15, { state := .up, recvSeq := 4095, credits := [(3, 3)], received := [(2, 1)] })] } }, 15, [0, 0, 1], ?_⟩
    repeat' (refine And.intro ?_ ?_)
    all_goals (first | rfl | exact ⟨rfl, rfl⟩ | exact ⟨by decide +kernel, by decide +kernel, by decide +kernel⟩ | decide +kernel)
  · refine ⟨{ dev with strait := { dev.strait with ports := [(15, { state := .up, recvSeq := 4095, credits := [(3, 3)], received := [(2, 1)] })] } }, 15, [], 2, ?_⟩
    repeat' (refine And.intro ?_ ?_)
    all_goals (first | rfl | exact ⟨rfl, rfl⟩ | exact ⟨by decide +kernel, by decide +kernel, by decide +kernel⟩ | decide +kernel)

theorem witness_StraitIssueAndResponseCommands :
    (∃ (s : State) (t : State) (r : StraitHeld), let x := { r with order := s.strait.order }
    let u : State := { s with strait := { s.strait with order := s.strait.order + 1 } }
    (s.alive = true) ∧ ((s.strait.heldReqs.any fun y => decide (y.issuer = r.issuer)) = false) ∧ (u.tryIssue x = some t))
  ∧ (∃ (s : State) (r : StraitHeld), let x := { r with order := s.strait.order }
    let u : State := { s with strait := { s.strait with order := s.strait.order + 1 } }
    (s.alive = true) ∧ ((s.strait.heldReqs.any fun y => decide (y.issuer = r.issuer)) = true))
  ∧ (∃ (s : State) (d : U16), (s.sameDomain d = true) ∧ (s.alive = true))
  ∧ (∃ (s : State) (d : U16), ((s.speer d).paused = true) ∧ (s.alive = true) ∧ ((s.strait.tags.anyWhere fun _ t => decide (t.state = .waiting) && t.dst == d && !t.viaGateway) = false))
  ∧ (∃ (s : State) (n : Fin 4096), let t := s.tag n.val
    let u := s.tagTimedOut n.val stTIMEOUT
    let p := u.speer t.dst
    let v := u.setSpeer t.dst { p with timeouts := p.timeouts + 1 }
    (s.alive = true) ∧ (t.state = .waiting))
  ∧ (∃ (s : State) (r : StraitResp), let n := r.tag.toNat % 4096
    let t := s.tag n
    let u := (s.setSpeer t.dst { s.speer t.dst with timeouts := 0 }).tagDone n r.status r.data (r.sizeFlags.getLsbD 4)
    (s.answers = true) ∧ (t.state = .waiting) ∧ (t.gen = r.tag.toNat / 4096) ∧ (t.op.answer = 0x90) ∧ (t.viaGateway = false) ∧ (r.status ≠ stTARGET_DEAD))
  ∧ (∃ (s : State) (r : StraitResp), let t := s.tag (r.tag.toNat % 4096)
    (s.answers = true) ∧ ((t.state ≠ .waiting ∨ t.gen ≠ r.tag.toNat / 4096)))
  ∧ (∃ (s : State) (r : StraitResp), let n := r.tag.toNat % 4096
    let t := s.tag n
    let u := (s.setSpeer t.dst { s.speer t.dst with timeouts := 0 }).tagDone n r.status r.data (r.sizeFlags.getLsbD 4)
    (s.answers = true) ∧ (t.state = .waiting) ∧ (t.gen = r.tag.toNat / 4096) ∧ (t.op.answer = 0x91) ∧ (t.viaGateway = false) ∧ (r.status ≠ stTARGET_DEAD))
  ∧ (∃ (s : State) (r : StraitResp), let t := s.tag (r.tag.toNat % 4096)
    (s.answers = true) ∧ ((t.state ≠ .waiting ∨ t.gen ≠ r.tag.toNat / 4096)))
  ∧ (∃ (s : State) (r : StraitResp), let n := r.tag.toNat % 4096
    let t := s.tag n
    let u := (s.setSpeer t.dst { s.speer t.dst with timeouts := 0 }).tagDone n r.status r.data (r.sizeFlags.getLsbD 4)
    (s.answers = true) ∧ (t.state = .waiting) ∧ (t.gen = r.tag.toNat / 4096) ∧ (t.op.answer = 0x92) ∧ (t.viaGateway = false) ∧ (r.status ≠ stTARGET_DEAD))
  ∧ (∃ (s : State) (r : StraitResp), let t := s.tag (r.tag.toNat % 4096)
    (s.answers = true) ∧ ((t.state ≠ .waiting ∨ t.gen ≠ r.tag.toNat / 4096)))
  ∧ (∃ (s : State) (u : MoverUnit) (k : Nat), (s.answers = true))
  ∧ (∃ (s : State) (d : U16), (s.answers = true) ∧ (s.livePlanes d ≠ []))
  ∧ (∃ (s : State) (d : U16), let u := s.setSpeer d { s.speer d with unreachable := false, timeouts := 0 }
    (s.answers = true) ∧ ((s.speer d).unreachable = true) ∧ ((s.peerMap d).present = true))
  ∧ (∃ (s : State) (d : U16), (s.answers = true) ∧ ((s.speer d).unreachable = true) ∧ ((s.peerMap d).present = true) ∧ (s.sameDomain d = true))
  ∧ (∃ (s : State) (d : U16) (c : Byte), let u := (s.setFlag Reg.STRAIT_STATUS 3 true).raise { severity := .corrected, block := 0x018, cause := 0x0049, detail0 := d.zeroExtend 64, detail1 := c.zeroExtend 64 }
    (s.answers = true))
  ∧ (∃ (s : State) (r : Fin 1024), (s.alive = true))
  ∧ (∃ (s : State) (i : Fin 4096), let w := s.net.windows.get i.val
    (w.state = .revoking) ∧ (w.inflight = 0))
  ∧ (∃ (s : State) (i : Fin 4096), let w := s.strait.windows.get (i.val % 256)
    (w.state = .revoking) ∧ (w.inflight = 0)) := by
  refine ⟨?_, ?_, ?_, ?_, ?_, ?_, ?_, ?_, ?_, ?_, ?_, ?_, ?_, ?_, ?_, ?_, ?_, ?_, ?_⟩
  · refine ⟨dev, (State.tryIssue { dev with strait := { dev.strait with order := 1 } } { address := BitVec.ofNat 64 (3 * 2 ^ 48) }).getD dev, { address := BitVec.ofNat 64 (3 * 2 ^ 48) }, ?_⟩
    repeat' (refine And.intro ?_ ?_)
    all_goals (first | rfl | exact ⟨rfl, rfl⟩ | exact ⟨by decide +kernel, by decide +kernel, by decide +kernel⟩ | decide +kernel)
  · refine ⟨{ dev with strait := { dev.strait with heldReqs := [{}] } }, {}, ?_⟩
    repeat' (refine And.intro ?_ ?_)
    all_goals (first | rfl | exact ⟨rfl, rfl⟩ | exact ⟨by decide +kernel, by decide +kernel, by decide +kernel⟩ | decide +kernel)
  · refine ⟨dev, 0, ?_⟩
    repeat' (refine And.intro ?_ ?_)
    all_goals (first | rfl | exact ⟨rfl, rfl⟩ | exact ⟨by decide +kernel, by decide +kernel, by decide +kernel⟩ | decide +kernel)
  · refine ⟨dev.setSpeer 511 { paused := true }, 511, ?_⟩
    repeat' (refine And.intro ?_ ?_)
    all_goals (first | rfl | exact ⟨rfl, rfl⟩ | exact ⟨by decide +kernel, by decide +kernel, by decide +kernel⟩ | decide +kernel)
  · refine ⟨{ dev with strait := { dev.strait with tags := [(4095, { state := .waiting })] } }, 4095, ?_⟩
    repeat' (refine And.intro ?_ ?_)
    all_goals (first | rfl | exact ⟨rfl, rfl⟩ | exact ⟨by decide +kernel, by decide +kernel, by decide +kernel⟩ | decide +kernel)
  · refine ⟨{ dev with strait := { dev.strait with tags := [(4095, { state := .waiting, gen := 15 })] } }, { tag := 0xFFFF }, ?_⟩
    repeat' (refine And.intro ?_ ?_)
    all_goals (first | rfl | exact ⟨rfl, rfl⟩ | exact ⟨by decide +kernel, by decide +kernel, by decide +kernel⟩ | decide +kernel)
  · refine ⟨dev, {}, ?_⟩
    repeat' (refine And.intro ?_ ?_)
    all_goals (first | rfl | exact ⟨rfl, rfl⟩ | exact ⟨by decide +kernel, by decide +kernel, by decide +kernel⟩ | decide +kernel)
  · refine ⟨{ dev with strait := { dev.strait with tags := [(4095, { state := .waiting, gen := 15, op := .store })] } }, { tag := 0xFFFF }, ?_⟩
    repeat' (refine And.intro ?_ ?_)
    all_goals (first | rfl | exact ⟨rfl, rfl⟩ | exact ⟨by decide +kernel, by decide +kernel, by decide +kernel⟩ | decide +kernel)
  · refine ⟨dev, {}, ?_⟩
    repeat' (refine And.intro ?_ ?_)
    all_goals (first | rfl | exact ⟨rfl, rfl⟩ | exact ⟨by decide +kernel, by decide +kernel, by decide +kernel⟩ | decide +kernel)
  · refine ⟨{ dev with strait := { dev.strait with tags := [(4095, { state := .waiting, gen := 15, op := .cas })] } }, { tag := 0xFFFF }, ?_⟩
    repeat' (refine And.intro ?_ ?_)
    all_goals (first | rfl | exact ⟨rfl, rfl⟩ | exact ⟨by decide +kernel, by decide +kernel, by decide +kernel⟩ | decide +kernel)
  · refine ⟨dev, {}, ?_⟩
    repeat' (refine And.intro ?_ ?_)
    all_goals (first | rfl | exact ⟨rfl, rfl⟩ | exact ⟨by decide +kernel, by decide +kernel, by decide +kernel⟩ | decide +kernel)
  · refine ⟨dev, {}, 0, ?_⟩
    repeat' (refine And.intro ?_ ?_)
    all_goals (first | rfl | exact ⟨rfl, rfl⟩ | exact ⟨by decide +kernel, by decide +kernel, by decide +kernel⟩ | decide +kernel)
  · refine ⟨{ dev with strait := { dev.strait with ports := [(15, { state := .up, allocated := true })] }, handoff := { dev.handoff with map := [(9, { present := true, planes := 0x8000 })] } }, 9, ?_⟩
    repeat' (refine And.intro ?_ ?_)
    all_goals (first | rfl | exact ⟨rfl, rfl⟩ | exact ⟨by decide +kernel, by decide +kernel, by decide +kernel⟩ | decide +kernel)
  · refine ⟨{ dev with strait := { dev.strait with peers := [(9, { unreachable := true })] }, handoff := { dev.handoff with map := [(9, { present := true, planes := 0x8000 })] } }, 9, ?_⟩
    repeat' (refine And.intro ?_ ?_)
    all_goals (first | rfl | exact ⟨rfl, rfl⟩ | exact ⟨by decide +kernel, by decide +kernel, by decide +kernel⟩ | decide +kernel)
  · refine ⟨{ dev with strait := { dev.strait with peers := [(9, { unreachable := true })] }, handoff := { dev.handoff with map := [(9, { present := true, planes := 0x8000 })] } }, 9, ?_⟩
    repeat' (refine And.intro ?_ ?_)
    all_goals (first | rfl | exact ⟨rfl, rfl⟩ | exact ⟨by decide +kernel, by decide +kernel, by decide +kernel⟩ | decide +kernel)
  · refine ⟨dev, 0, 0, ?_⟩
    repeat' (refine And.intro ?_ ?_)
    all_goals (first | rfl | exact ⟨rfl, rfl⟩ | exact ⟨by decide +kernel, by decide +kernel, by decide +kernel⟩ | decide +kernel)
  · refine ⟨dev, 0, ?_⟩
    repeat' (refine And.intro ?_ ?_)
    all_goals (first | rfl | exact ⟨rfl, rfl⟩ | exact ⟨by decide +kernel, by decide +kernel, by decide +kernel⟩ | decide +kernel)
  · refine ⟨{ dev with net := { dev.net with windows := [(4095, { state := .revoking })] } }, 4095, ?_⟩
    repeat' (refine And.intro ?_ ?_)
    all_goals (first | rfl | exact ⟨rfl, rfl⟩ | exact ⟨by decide +kernel, by decide +kernel, by decide +kernel⟩ | decide +kernel)
  · refine ⟨{ dev with strait := { dev.strait with windows := [(255, { state := .revoking })] } }, 255, ?_⟩
    repeat' (refine And.intro ?_ ?_)
    all_goals (first | rfl | exact ⟨rfl, rfl⟩ | exact ⟨by decide +kernel, by decide +kernel, by decide +kernel⟩ | decide +kernel)

theorem witness_StraitTargetCommands :
    (∃ (s : State) (r : StraitReq) (n : Nat) (w : StraitWin), let off := r.address.toNat % 2 ^ 44
    let x := s.runMemory .load off n r.data (r.sizeFlags.toNat / 16 % 2 = 1)
    (s.answers = true) ∧ (r.address.extractLsb' 48 16 = s.devId) ∧ (r.address.toNat / 2 ^ 44 % 16 = 0) ∧ (sizeOfCode (r.sizeFlags.toNat % 16) = some n) ∧ (spaceAllows 0 n (StraitOp.access .load) = true) ∧ (off % n = 0) ∧ (s.windowCheck r.src r.key (StraitOp.access .load) 0 off n = .ok w) ∧ (s.memoryStatus w 0 off n (StraitOp.access .load != .load) = none))
  ∧ (∃ (s : State) (r : StraitReq) (env : WriteEnv) (n : Nat) (w : StraitWin), let off := r.address.toNat % 2 ^ 44
    let x := s.runMemory .store off n r.data (r.sizeFlags.toNat / 16 % 2 = 1)
    (s.answers = true) ∧ (r.address.extractLsb' 48 16 = s.devId) ∧ (r.address.toNat / 2 ^ 44 % 16 = 0) ∧ (sizeOfCode (r.sizeFlags.toNat % 16) = some n) ∧ (spaceAllows 0 n (StraitOp.access .store) = true) ∧ (off % n = 0) ∧ (s.windowCheck r.src r.key (StraitOp.access .store) 0 off n = .ok w) ∧ (s.memoryStatus w 0 off n (StraitOp.access .store != .load) = none))
  ∧ (∃ (s : State) (r : StraitReq) (n : Nat) (w : StraitWin), let off := r.address.toNat % 2 ^ 44
    let x := s.runMemory .fetchAdd off n r.data (r.sizeFlags.toNat / 16 % 2 = 1)
    (s.answers = true) ∧ (r.address.extractLsb' 48 16 = s.devId) ∧ (r.address.toNat / 2 ^ 44 % 16 = 0) ∧ (sizeOfCode (r.sizeFlags.toNat % 16) = some n) ∧ (spaceAllows 0 n (StraitOp.access .fetchAdd) = true) ∧ (off % n = 0) ∧ (s.windowCheck r.src r.key (StraitOp.access .fetchAdd) 0 off n = .ok w) ∧ (s.memoryStatus w 0 off n (StraitOp.access .fetchAdd != .load) = none))
  ∧ (∃ (s : State) (r : StraitReq) (n : Nat) (w : StraitWin), let off := r.address.toNat % 2 ^ 44
    let x := s.runMemory .swap off n r.data (r.sizeFlags.toNat / 16 % 2 = 1)
    (s.answers = true) ∧ (r.address.extractLsb' 48 16 = s.devId) ∧ (r.address.toNat / 2 ^ 44 % 16 = 0) ∧ (sizeOfCode (r.sizeFlags.toNat % 16) = some n) ∧ (spaceAllows 0 n (StraitOp.access .swap) = true) ∧ (off % n = 0) ∧ (s.windowCheck r.src r.key (StraitOp.access .swap) 0 off n = .ok w) ∧ (s.memoryStatus w 0 off n (StraitOp.access .swap != .load) = none))
  ∧ (∃ (s : State) (r : StraitReq) (n : Nat) (w : StraitWin), let off := r.address.toNat % 2 ^ 44
    let x := s.runMemory .cas off n r.data (r.sizeFlags.toNat / 16 % 2 = 1)
    (s.answers = true) ∧ (r.address.extractLsb' 48 16 = s.devId) ∧ (r.address.toNat / 2 ^ 44 % 16 = 0) ∧ (sizeOfCode (r.sizeFlags.toNat % 16) = some n) ∧ (spaceAllows 0 n (StraitOp.access .cas) = true) ∧ (off % n = 0) ∧ (s.windowCheck r.src r.key (StraitOp.access .cas) 0 off n = .ok w) ∧ (s.memoryStatus w 0 off n (StraitOp.access .cas != .load) = none))
  ∧ (∃ (s : State) (r : StraitReq) (n : Nat) (w : StraitWin), let off := r.address.toNat % 2 ^ 44
    let x := s.runMemory .fetchAnd off n r.data (r.sizeFlags.toNat / 16 % 2 = 1)
    (s.answers = true) ∧ (r.address.extractLsb' 48 16 = s.devId) ∧ (r.address.toNat / 2 ^ 44 % 16 = 0) ∧ (sizeOfCode (r.sizeFlags.toNat % 16) = some n) ∧ (spaceAllows 0 n (StraitOp.access .fetchAnd) = true) ∧ (off % n = 0) ∧ (s.windowCheck r.src r.key (StraitOp.access .fetchAnd) 0 off n = .ok w) ∧ (s.memoryStatus w 0 off n (StraitOp.access .fetchAnd != .load) = none))
  ∧ (∃ (s : State) (r : StraitReq) (n : Nat) (w : StraitWin), let off := r.address.toNat % 2 ^ 44
    let x := s.runMemory .fetchOr off n r.data (r.sizeFlags.toNat / 16 % 2 = 1)
    (s.answers = true) ∧ (r.address.extractLsb' 48 16 = s.devId) ∧ (r.address.toNat / 2 ^ 44 % 16 = 0) ∧ (sizeOfCode (r.sizeFlags.toNat % 16) = some n) ∧ (spaceAllows 0 n (StraitOp.access .fetchOr) = true) ∧ (off % n = 0) ∧ (s.windowCheck r.src r.key (StraitOp.access .fetchOr) 0 off n = .ok w) ∧ (s.memoryStatus w 0 off n (StraitOp.access .fetchOr != .load) = none))
  ∧ (∃ (s : State) (r : StraitReq) (n : Nat) (w : StraitWin), let off := r.address.toNat % 2 ^ 44
    let x := s.runMemory .fetchXor off n r.data (r.sizeFlags.toNat / 16 % 2 = 1)
    (s.answers = true) ∧ (r.address.extractLsb' 48 16 = s.devId) ∧ (r.address.toNat / 2 ^ 44 % 16 = 0) ∧ (sizeOfCode (r.sizeFlags.toNat % 16) = some n) ∧ (spaceAllows 0 n (StraitOp.access .fetchXor) = true) ∧ (off % n = 0) ∧ (s.windowCheck r.src r.key (StraitOp.access .fetchXor) 0 off n = .ok w) ∧ (s.memoryStatus w 0 off n (StraitOp.access .fetchXor != .load) = none))
  ∧ (∃ (s : State) (r : StraitReq) (n : Nat) (w : StraitWin), let off := r.address.toNat % 2 ^ 44
    let x := s.runMemory .fetchMin off n r.data (r.sizeFlags.toNat / 16 % 2 = 1)
    (s.answers = true) ∧ (r.address.extractLsb' 48 16 = s.devId) ∧ (r.address.toNat / 2 ^ 44 % 16 = 0) ∧ (sizeOfCode (r.sizeFlags.toNat % 16) = some n) ∧ (spaceAllows 0 n (StraitOp.access .fetchMin) = true) ∧ (off % n = 0) ∧ (s.windowCheck r.src r.key (StraitOp.access .fetchMin) 0 off n = .ok w) ∧ (s.memoryStatus w 0 off n (StraitOp.access .fetchMin != .load) = none))
  ∧ (∃ (s : State) (r : StraitReq) (n : Nat) (w : StraitWin), let off := r.address.toNat % 2 ^ 44
    let x := s.runMemory .fetchMax off n r.data (r.sizeFlags.toNat / 16 % 2 = 1)
    (s.answers = true) ∧ (r.address.extractLsb' 48 16 = s.devId) ∧ (r.address.toNat / 2 ^ 44 % 16 = 0) ∧ (sizeOfCode (r.sizeFlags.toNat % 16) = some n) ∧ (spaceAllows 0 n (StraitOp.access .fetchMax) = true) ∧ (off % n = 0) ∧ (s.windowCheck r.src r.key (StraitOp.access .fetchMax) 0 off n = .ok w) ∧ (s.memoryStatus w 0 off n (StraitOp.access .fetchMax != .load) = none))
  ∧ (∃ (s : State) (t : State) (u : MoverUnit) (a : MoverUnit), let x := { u with opcode := 0x40 }
    (s.answers = true) ∧ (u.target.extractLsb' 48 16 = s.devId) ∧ (epochDiff u.epoch s.handoff.epoch = 0) ∧ (s.putUnit x = .answer t a))
  ∧ (∃ (s : State) (u : MoverUnit), (s.answers = true) ∧ (u.target.extractLsb' 48 16 = s.devId) ∧ (0 < epochDiff u.epoch s.handoff.epoch))
  ∧ (∃ (s : State) (t : State) (u : MoverUnit) (a : MoverUnit), let x := { u with opcode := 0x41 }
    (s.answers = true) ∧ (u.target.extractLsb' 48 16 = s.devId) ∧ (epochDiff u.epoch s.handoff.epoch = 0) ∧ (s.getUnit x = .answer t a))
  ∧ (∃ (s : State) (u : MoverUnit), (s.answers = true) ∧ (u.target.extractLsb' 48 16 = s.devId) ∧ (0 < epochDiff u.epoch s.handoff.epoch))
  ∧ (∃ (s : State) (t : State) (u : MoverUnit) (a : MoverUnit), let x := { u with opcode := 0x42 }
    (s.answers = true) ∧ (u.target.extractLsb' 48 16 = s.devId) ∧ (epochDiff u.epoch s.handoff.epoch = 0) ∧ (s.bytesUnit x = .answer t a))
  ∧ (∃ (s : State) (u : MoverUnit), (s.answers = true) ∧ (u.target.extractLsb' 48 16 = s.devId) ∧ (0 < epochDiff u.epoch s.handoff.epoch)) := by
  refine ⟨?_, ?_, ?_, ?_, ?_, ?_, ?_, ?_, ?_, ?_, ?_, ?_, ?_, ?_, ?_, ?_⟩
  · refine ⟨windowed, { address := BitVec.ofNat 64 (3 * 2 ^ 48 + 4088), key := 7, data := [1, 2, 3, 4, 5, 6, 7, 8] }, 8, { state := .opened, load := true, store := true, atomic := true, source := 0xFFFF, gen := 7, size := 4096 }, ?_⟩
    repeat' (refine And.intro ?_ ?_)
    all_goals (first | rfl | exact ⟨rfl, rfl⟩ | exact ⟨by decide +kernel, by decide +kernel, by decide +kernel⟩ | decide +kernel)
  · refine ⟨windowed, { address := BitVec.ofNat 64 (3 * 2 ^ 48 + 4088), key := 7, data := [1, 2, 3, 4, 5, 6, 7, 8] }, {}, 8, { state := .opened, load := true, store := true, atomic := true, source := 0xFFFF, gen := 7, size := 4096 }, ?_⟩
    repeat' (refine And.intro ?_ ?_)
    all_goals (first | rfl | exact ⟨rfl, rfl⟩ | exact ⟨by decide +kernel, by decide +kernel, by decide +kernel⟩ | decide +kernel)
  · refine ⟨windowed, { address := BitVec.ofNat 64 (3 * 2 ^ 48 + 4088), key := 7, data := [1, 2, 3, 4, 5, 6, 7, 8] }, 8, { state := .opened, load := true, store := true, atomic := true, source := 0xFFFF, gen := 7, size := 4096 }, ?_⟩
    repeat' (refine And.intro ?_ ?_)
    all_goals (first | rfl | exact ⟨rfl, rfl⟩ | exact ⟨by decide +kernel, by decide +kernel, by decide +kernel⟩ | decide +kernel)
  · refine ⟨windowed, { address := BitVec.ofNat 64 (3 * 2 ^ 48 + 4088), key := 7, data := [1, 2, 3, 4, 5, 6, 7, 8] }, 8, { state := .opened, load := true, store := true, atomic := true, source := 0xFFFF, gen := 7, size := 4096 }, ?_⟩
    repeat' (refine And.intro ?_ ?_)
    all_goals (first | rfl | exact ⟨rfl, rfl⟩ | exact ⟨by decide +kernel, by decide +kernel, by decide +kernel⟩ | decide +kernel)
  · refine ⟨windowed, { address := BitVec.ofNat 64 (3 * 2 ^ 48 + 4088), key := 7, data := [1, 2, 3, 4, 5, 6, 7, 8] }, 8, { state := .opened, load := true, store := true, atomic := true, source := 0xFFFF, gen := 7, size := 4096 }, ?_⟩
    repeat' (refine And.intro ?_ ?_)
    all_goals (first | rfl | exact ⟨rfl, rfl⟩ | exact ⟨by decide +kernel, by decide +kernel, by decide +kernel⟩ | decide +kernel)
  · refine ⟨windowed, { address := BitVec.ofNat 64 (3 * 2 ^ 48 + 4088), key := 7, data := [1, 2, 3, 4, 5, 6, 7, 8] }, 8, { state := .opened, load := true, store := true, atomic := true, source := 0xFFFF, gen := 7, size := 4096 }, ?_⟩
    repeat' (refine And.intro ?_ ?_)
    all_goals (first | rfl | exact ⟨rfl, rfl⟩ | exact ⟨by decide +kernel, by decide +kernel, by decide +kernel⟩ | decide +kernel)
  · refine ⟨windowed, { address := BitVec.ofNat 64 (3 * 2 ^ 48 + 4088), key := 7, data := [1, 2, 3, 4, 5, 6, 7, 8] }, 8, { state := .opened, load := true, store := true, atomic := true, source := 0xFFFF, gen := 7, size := 4096 }, ?_⟩
    repeat' (refine And.intro ?_ ?_)
    all_goals (first | rfl | exact ⟨rfl, rfl⟩ | exact ⟨by decide +kernel, by decide +kernel, by decide +kernel⟩ | decide +kernel)
  · refine ⟨windowed, { address := BitVec.ofNat 64 (3 * 2 ^ 48 + 4088), key := 7, data := [1, 2, 3, 4, 5, 6, 7, 8] }, 8, { state := .opened, load := true, store := true, atomic := true, source := 0xFFFF, gen := 7, size := 4096 }, ?_⟩
    repeat' (refine And.intro ?_ ?_)
    all_goals (first | rfl | exact ⟨rfl, rfl⟩ | exact ⟨by decide +kernel, by decide +kernel, by decide +kernel⟩ | decide +kernel)
  · refine ⟨windowed, { address := BitVec.ofNat 64 (3 * 2 ^ 48 + 4088), key := 7, data := [1, 2, 3, 4, 5, 6, 7, 8] }, 8, { state := .opened, load := true, store := true, atomic := true, source := 0xFFFF, gen := 7, size := 4096 }, ?_⟩
    repeat' (refine And.intro ?_ ?_)
    all_goals (first | rfl | exact ⟨rfl, rfl⟩ | exact ⟨by decide +kernel, by decide +kernel, by decide +kernel⟩ | decide +kernel)
  · refine ⟨windowed, { address := BitVec.ofNat 64 (3 * 2 ^ 48 + 4088), key := 7, data := [1, 2, 3, 4, 5, 6, 7, 8] }, 8, { state := .opened, load := true, store := true, atomic := true, source := 0xFFFF, gen := 7, size := 4096 }, ?_⟩
    repeat' (refine And.intro ?_ ?_)
    all_goals (first | rfl | exact ⟨rfl, rfl⟩ | exact ⟨by decide +kernel, by decide +kernel, by decide +kernel⟩ | decide +kernel)
  · refine ⟨paged .inFlight, takenState (((paged .inFlight).putUnit) { opcode := 0x40, poison := true, target := pageWord, data := List.replicate 4352 0 }), { opcode := 0x40, poison := true, target := pageWord, data := List.replicate 4352 0 }, takenUnit (((paged .inFlight).putUnit) { opcode := 0x40, poison := true, target := pageWord, data := List.replicate 4352 0 }), ?_⟩
    repeat' (refine And.intro ?_ ?_)
    all_goals (first | rfl | exact ⟨rfl, rfl⟩ | exact ⟨by decide +kernel, by decide +kernel, by decide +kernel⟩ | decide +kernel)
  · refine ⟨dev, { target := pageWord, epoch := 1 }, ?_⟩
    repeat' (refine And.intro ?_ ?_)
    all_goals (first | rfl | exact ⟨rfl, rfl⟩ | exact ⟨by decide +kernel, by decide +kernel, by decide +kernel⟩ | decide +kernel)
  · refine ⟨paged .allocated, takenState (((paged .allocated).getUnit) { opcode := 0x41, target := pageWord }), { opcode := 0x41, target := pageWord }, takenUnit (((paged .allocated).getUnit) { opcode := 0x41, target := pageWord }), ?_⟩
    repeat' (refine And.intro ?_ ?_)
    all_goals (first | rfl | exact ⟨rfl, rfl⟩ | exact ⟨by decide +kernel, by decide +kernel, by decide +kernel⟩ | decide +kernel)
  · refine ⟨dev, { target := pageWord, epoch := 1 }, ?_⟩
    repeat' (refine And.intro ?_ ?_)
    all_goals (first | rfl | exact ⟨rfl, rfl⟩ | exact ⟨by decide +kernel, by decide +kernel, by decide +kernel⟩ | decide +kernel)
  · refine ⟨windowed, takenState (((windowed).bytesUnit) { opcode := 0x42, target := BitVec.ofNat 64 (3 * 2 ^ 48 + 4088), key := 7, data := [1, 2, 3, 4, 5, 6, 7, 8] }), { opcode := 0x42, target := BitVec.ofNat 64 (3 * 2 ^ 48 + 4088), key := 7, data := [1, 2, 3, 4, 5, 6, 7, 8] }, takenUnit (((windowed).bytesUnit) { opcode := 0x42, target := BitVec.ofNat 64 (3 * 2 ^ 48 + 4088), key := 7, data := [1, 2, 3, 4, 5, 6, 7, 8] }), ?_⟩
    repeat' (refine And.intro ?_ ?_)
    all_goals (first | rfl | exact ⟨rfl, rfl⟩ | exact ⟨by decide +kernel, by decide +kernel, by decide +kernel⟩ | decide +kernel)
  · refine ⟨dev, { target := pageWord, epoch := 1 }, ?_⟩
    repeat' (refine And.intro ?_ ?_)
    all_goals (first | rfl | exact ⟨rfl, rfl⟩ | exact ⟨by decide +kernel, by decide +kernel, by decide +kernel⟩ | decide +kernel)

theorem witness_NetworkCommands :
    (∃ (s : State) (p : MpPacket), let x := { p with op := 0xC0 }
    let n := p.conn
    let m := s.recvMsg n p.msn
    (s.answers = true) ∧ ((s.netConn n).state = .ready) ∧ (x.srcOk = true) ∧ ((s.netConn n).attr.multipath = true) ∧ (x.formed (s.netConn n) = true) ∧ ((s.netConn n).attr.message = false) ∧ (((msnBelow p.msn (s.netConn n).cumMsn && !m.known) || (m.known && m.bits.contains (x.index (s.netConn n)))) = false) ∧ (((s.netConn n).heldPkts.any fun q => q.msn == p.msn && q.offset == p.offset) = false) ∧ (m.fits x = true) ∧ ((!m.known && decide (256 ≤ (s.netConn n).incomplete)) = false))
  ∧ (∃ (s : State) (t : State) (p : MpPacket), let x := { p with op := 0xC0 }
    let n := p.conn
    let m := t.recvMsg n p.msn
    (s.answers = true) ∧ ((s.netConn n).state = .ready) ∧ (x.srcOk = true) ∧ ((s.netConn n).attr.multipath = true) ∧ (x.formed (s.netConn n) = true) ∧ ((s.netConn n).attr.message = true) ∧ (s.police (s.netConn n).attr.tenant.toNat x.frameLen = (true, t)) ∧ (((msnBelow p.msn (s.netConn n).cumMsn && !m.known) || (m.known && m.bits.contains (x.index (s.netConn n)))) = false) ∧ (((s.netConn n).heldPkts.any fun q => q.msn == p.msn && q.offset == p.offset) = false) ∧ (m.fits x = true) ∧ ((!m.known && decide (256 ≤ (s.netConn n).incomplete)) = false))
  ∧ (∃ (s : State) (p : MpPacket), (s.answers = true) ∧ ((s.netConn p.conn).state ≠ .ready))
  ∧ (∃ (s : State) (p : MpPacket), (s.answers = true) ∧ ((s.netConn p.conn).state = .ready) ∧ (p.srcOk = true) ∧ ((s.netConn p.conn).attr.multipath = true) ∧ ((s.netConn p.conn).attr.message = false))
  ∧ (∃ (s : State) (t : State) (p : MpPacket), let x := { p with op := 0xC1 }
    let n := p.conn
    let m := t.recvMsg n p.msn
    (s.answers = true) ∧ ((s.netConn n).state = .ready) ∧ (x.srcOk = true) ∧ ((s.netConn n).attr.multipath = true) ∧ (x.formed (s.netConn n) = true) ∧ ((s.netConn n).attr.message = true) ∧ (s.police (s.netConn n).attr.tenant.toNat x.frameLen = (true, t)) ∧ (((msnBelow p.msn (s.netConn n).cumMsn && !m.known) || (m.known && m.bits.contains (x.index (s.netConn n)))) = false) ∧ (((s.netConn n).heldPkts.any fun q => q.msn == p.msn && q.offset == p.offset) = false) ∧ (m.fits x = true) ∧ ((!m.known && decide (256 ≤ (s.netConn n).incomplete)) = false))
  ∧ (∃ (s : State) (p : MpPacket), (s.answers = true) ∧ ((s.netConn p.conn).state ≠ .ready))
  ∧ (∃ (s : State) (p : MpPacket), let x := { p with op := 0xC2 }
    let n := p.conn
    let m := s.recvMsg n p.msn
    (s.answers = true) ∧ ((s.netConn n).state = .ready) ∧ (x.srcOk = true) ∧ ((s.netConn n).attr.multipath = true) ∧ (x.formed (s.netConn n) = true) ∧ ((s.netConn n).attr.message = false) ∧ (((msnBelow p.msn (s.netConn n).cumMsn && !m.known) || (m.known && m.bits.contains (x.index (s.netConn n)))) = false) ∧ (((s.netConn n).heldPkts.any fun q => q.msn == p.msn && q.offset == p.offset) = false) ∧ (m.fits x = true) ∧ ((!m.known && decide (256 ≤ (s.netConn n).incomplete)) = false))
  ∧ (∃ (s : State) (t : State) (p : MpPacket), let x := { p with op := 0xC2 }
    let n := p.conn
    let m := t.recvMsg n p.msn
    (s.answers = true) ∧ ((s.netConn n).state = .ready) ∧ (x.srcOk = true) ∧ ((s.netConn n).attr.multipath = true) ∧ (x.formed (s.netConn n) = true) ∧ ((s.netConn n).attr.message = true) ∧ (s.police (s.netConn n).attr.tenant.toNat x.frameLen = (true, t)) ∧ (((msnBelow p.msn (s.netConn n).cumMsn && !m.known) || (m.known && m.bits.contains (x.index (s.netConn n)))) = false) ∧ (((s.netConn n).heldPkts.any fun q => q.msn == p.msn && q.offset == p.offset) = false) ∧ (m.fits x = true) ∧ ((!m.known && decide (256 ≤ (s.netConn n).incomplete)) = false))
  ∧ (∃ (s : State) (p : MpPacket), (s.answers = true) ∧ ((s.netConn p.conn).state ≠ .ready))
  ∧ (∃ (s : State) (p : MpPacket), (s.answers = true) ∧ ((s.netConn p.conn).state = .ready) ∧ (p.srcOk = true) ∧ ((s.netConn p.conn).attr.multipath = true) ∧ ((s.netConn p.conn).attr.message = false))
  ∧ (∃ (s : State) (t : State) (p : MpPacket), let x := { p with op := 0xC4 }
    let n := p.conn
    let m := t.recvMsg n p.msn
    (s.answers = true) ∧ ((s.netConn n).state = .ready) ∧ (x.srcOk = true) ∧ ((s.netConn n).attr.multipath = true) ∧ (x.formed (s.netConn n) = true) ∧ ((s.netConn n).attr.message = true) ∧ (s.police (s.netConn n).attr.tenant.toNat x.frameLen = (true, t)) ∧ (((msnBelow p.msn (s.netConn n).cumMsn && !m.known) || (m.known && m.bits.contains (x.index (s.netConn n)))) = false) ∧ (((s.netConn n).heldPkts.any fun q => q.msn == p.msn && q.offset == p.offset) = false) ∧ (m.fits x = true) ∧ ((!m.known && decide (256 ≤ (s.netConn n).incomplete)) = false))
  ∧ (∃ (s : State) (p : MpPacket), (s.answers = true) ∧ ((s.netConn p.conn).state ≠ .ready))
  ∧ (∃ (s : State) (p : MpPacket), let x := { p with op := 0xC3 }
    let n := p.conn
    let a := s.netConn n
    let u := s.setNetConn n { a with rConsumed := (a.rConsumed + 1) % 2 ^ 32 }
    (s.answers = true) ∧ (a.listens = true) ∧ (x.srcOk = true) ∧ (a.attr.multipath = true) ∧ (x.formed a = true) ∧ (a.attr.message = false) ∧ ((a.resps.get p.msn).bits.contains (x.index a) = false) ∧ (u.awaits n p.msn 0xC3 = none))
  ∧ (∃ (s : State) (p : MpPacket), let x := { p with op := 0xC3 }
    (s.answers = true) ∧ ((s.netConn p.conn).listens = true) ∧ (x.srcOk = true) ∧ ((s.netConn p.conn).attr.multipath = true) ∧ (x.formed (s.netConn p.conn) = true) ∧ (((s.netConn p.conn).resps.get p.msn).bits.contains (x.index (s.netConn p.conn)) = true))
  ∧ (∃ (s : State) (p : MpPacket), let x := { p with op := 0xC5 }
    let n := p.conn
    let a := s.netConn n
    (s.answers = true) ∧ (a.listens = true) ∧ (x.srcOk = true) ∧ (a.attr.multipath = true) ∧ (x.formed a = true) ∧ ((a.resps.get p.msn).bits.contains (x.index a) = false) ∧ (s.awaits n p.msn 0xC5 = none))
  ∧ (∃ (s : State) (p : MpPacket), let x := { p with op := 0xC5 }
    (s.answers = true) ∧ ((s.netConn p.conn).listens = true) ∧ (x.srcOk = true) ∧ ((s.netConn p.conn).attr.multipath = true) ∧ (x.formed (s.netConn p.conn) = true) ∧ (((s.netConn p.conn).resps.get p.msn).bits.contains (x.index (s.netConn p.conn)) = true))
  ∧ (∃ (s : State) (p : MpAckPkt), let n := p.conn
    let a := s.netConn n
    let b := { a with peerCum := newer a.peerCum p.cumMsn }
    let d := if b.attr.message then b else { b with granted := newer b.granted p.granted, seenConsumed := newer b.seenConsumed p.consumed }
    (s.answers = true) ∧ (a.listens = true) ∧ (p.srcOk = true) ∧ (a.attr.multipath = true) ∧ (readable p.level.toNat = true) ∧ (1 ≤ p.entries.length) ∧ (p.entries.length ≤ 4))
  ∧ (∃ (s : State) (p : MpCreditPkt), let n := p.conn
    let a := s.netConn n
    (s.answers = true) ∧ (a.listens = true) ∧ (p.srcOk = true) ∧ (a.attr.multipath = true) ∧ (a.attr.message = false) ∧ (readable p.level.toNat = true))
  ∧ (∃ (s : State) (n : Fin 8192) (m : Nat) (i : Nat) (p : SentPacket), let a := s.netConn n.val
    let others := (s.livePaths a).filter fun x => decide (x ≠ p.path)
    let b := if others.isEmpty then a else { a with avoided := (p.path, s.now + 1000000) :: a.avoided.filter fun y => decide (s.now < y.2) && decide (y.1 ≠ p.path) }
    let d := if s.windowed b then { b with window := s.clampWindow (s.rdN Reg.SHAPE_WIN_MIN) } else b
    ((a.unacked.find? fun p => p.msn == m && p.index == i) = some p) ∧ (s.answers = true) ∧ (a.listens = true))
  ∧ (∃ (s : State) (n : Fin 8192), let a := s.netConn n.val
    let b := { a with returned := (a.returned + a.held) % 2 ^ 32 }
    (a.state = .ready) ∧ (a.attr.message = false) ∧ (a.attr.multipath = true) ∧ (a.held ≠ 0) ∧ (s.answers = true)) := by
  refine ⟨?_, ?_, ?_, ?_, ?_, ?_, ?_, ?_, ?_, ?_, ?_, ?_, ?_, ?_, ?_, ?_, ?_, ?_, ?_, ?_⟩
  · refine ⟨linked false, { conn := 8191, totalLen := 1, payload := [1] }, ?_⟩
    repeat' (refine And.intro ?_ ?_)
    all_goals (first | decide +kernel | rfl)
  · refine ⟨linked true, linked true, { conn := 8191, message := true, totalLen := 1, payload := [1] }, ?_⟩
    repeat' (refine And.intro ?_ ?_)
    all_goals (first | decide +kernel | rfl)
  · refine ⟨dev, {}, ?_⟩
    repeat' (refine And.intro ?_ ?_)
    all_goals (first | rfl | exact ⟨rfl, rfl⟩ | exact ⟨by decide +kernel, by decide +kernel, by decide +kernel⟩ | decide +kernel)
  · refine ⟨linked false, { conn := 8191, totalLen := 1, payload := [1] }, ?_⟩
    repeat' (refine And.intro ?_ ?_)
    all_goals (first | decide +kernel | rfl)
  · refine ⟨linked true, linked true, { conn := 8191, message := true, totalLen := 1, payload := [1] }, ?_⟩
    repeat' (refine And.intro ?_ ?_)
    all_goals (first | decide +kernel | rfl)
  · refine ⟨dev, {}, ?_⟩
    repeat' (refine And.intro ?_ ?_)
    all_goals (first | rfl | exact ⟨rfl, rfl⟩ | exact ⟨by decide +kernel, by decide +kernel, by decide +kernel⟩ | decide +kernel)
  · refine ⟨linked false, { conn := 8191, totalLen := 1, payload := [1] }, ?_⟩
    repeat' (refine And.intro ?_ ?_)
    all_goals (first | decide +kernel | rfl)
  · refine ⟨linked true, linked true, { conn := 8191, message := true, totalLen := 1 }, ?_⟩
    repeat' (refine And.intro ?_ ?_)
    all_goals (first | decide +kernel | rfl)
  · refine ⟨dev, {}, ?_⟩
    repeat' (refine And.intro ?_ ?_)
    all_goals (first | rfl | exact ⟨rfl, rfl⟩ | exact ⟨by decide +kernel, by decide +kernel, by decide +kernel⟩ | decide +kernel)
  · refine ⟨linked false, { conn := 8191, totalLen := 1, payload := [1] }, ?_⟩
    repeat' (refine And.intro ?_ ?_)
    all_goals (first | decide +kernel | rfl)
  · refine ⟨linked true, linked true, { conn := 8191, message := true, totalLen := 8 }, ?_⟩
    repeat' (refine And.intro ?_ ?_)
    all_goals (first | decide +kernel | rfl)
  · refine ⟨dev, {}, ?_⟩
    repeat' (refine And.intro ?_ ?_)
    all_goals (first | rfl | exact ⟨rfl, rfl⟩ | exact ⟨by decide +kernel, by decide +kernel, by decide +kernel⟩ | decide +kernel)
  · refine ⟨linked false, { conn := 8191, totalLen := 1, payload := [1] }, ?_⟩
    repeat' (refine And.intro ?_ ?_)
    all_goals (first | rfl | exact ⟨rfl, rfl⟩ | exact ⟨by decide +kernel, by decide +kernel, by decide +kernel⟩ | decide +kernel)
  · refine ⟨dev.setNetConn 8191 { state := .closing, attr := { multipath := true, mtu := 1024 }, resps := [(0, { bits := [0] })] }, { conn := 8191, totalLen := 1, payload := [1] }, ?_⟩
    repeat' (refine And.intro ?_ ?_)
    all_goals (first | rfl | exact ⟨rfl, rfl⟩ | exact ⟨by decide +kernel, by decide +kernel, by decide +kernel⟩ | decide +kernel)
  · refine ⟨linked true, { conn := 8191, message := true, totalLen := 8 }, ?_⟩
    repeat' (refine And.intro ?_ ?_)
    all_goals (first | rfl | exact ⟨rfl, rfl⟩ | exact ⟨by decide +kernel, by decide +kernel, by decide +kernel⟩ | decide +kernel)
  · refine ⟨dev.setNetConn 8191 { state := .closing, attr := { message := true, multipath := true, mtu := 1024 }, resps := [(0, { bits := [0] })] }, { conn := 8191, message := true, totalLen := 8 }, ?_⟩
    repeat' (refine And.intro ?_ ?_)
    all_goals (first | rfl | exact ⟨rfl, rfl⟩ | exact ⟨by decide +kernel, by decide +kernel, by decide +kernel⟩ | decide +kernel)
  · refine ⟨linked true, { conn := 8191, entries := [{}, {}, {}, {}] }, ?_⟩
    repeat' (refine And.intro ?_ ?_)
    all_goals (first | rfl | exact ⟨rfl, rfl⟩ | exact ⟨by decide +kernel, by decide +kernel, by decide +kernel⟩ | decide +kernel)
  · refine ⟨linked false, { conn := 8191 }, ?_⟩
    repeat' (refine And.intro ?_ ?_)
    all_goals (first | rfl | exact ⟨rfl, rfl⟩ | exact ⟨by decide +kernel, by decide +kernel, by decide +kernel⟩ | decide +kernel)
  · refine ⟨dev.setNetConn 8191 { state := .ready, unacked := [{ msn := 3, index := 1 }] }, 8191, 3, 1, { msn := 3, index := 1 }, ?_⟩
    repeat' (refine And.intro ?_ ?_)
    all_goals (first | rfl | exact ⟨rfl, rfl⟩ | exact ⟨by decide +kernel, by decide +kernel, by decide +kernel⟩ | decide +kernel)
  · refine ⟨dev.setNetConn 8191 { state := .ready, attr := { multipath := true }, granted := 5 }, 8191, ?_⟩
    repeat' (refine And.intro ?_ ?_)
    all_goals (first | rfl | exact ⟨rfl, rfl⟩ | exact ⟨by decide +kernel, by decide +kernel, by decide +kernel⟩ | decide +kernel)

theorem witness_NetworkCommands_part2 :
    (∃ (s : State) (n : Fin 8192), let a := s.netConn n.val
    let t := ((s.setNetConn n.val { a with used := a.seenConsumed, returned := a.seenReturned }).setFlag Reg.NET_STATUS 2 true).setFlag Reg.FAULT_AUDIT 3 true
    (a.state = .ready) ∧ (a.attr.message = false) ∧ (a.attr.multipath = true) ∧ (¬ (a.used = a.seenConsumed ∧ a.returned = a.seenReturned)) ∧ (s.answers = true))
  ∧ (∃ (s : State) (p : MpHelloPkt), let n := p.conn
    let a := s.netConn n
    (s.answers = true) ∧ (a.attr.multipath = true) ∧ (a.state = .connecting) ∧ (p.srcOk = true) ∧ (p.message = a.attr.message) ∧ ((if a.attr.message then a.attr.spaceKey == p.spaceKey else a.attr.spaceKey.toNat / 2 ^ 29 == p.spaceKey.toNat / 2 ^ 29) = true))
  ∧ (∃ (s : State) (t : State) (p : RocePkt), let a := s.netConn p.conn
    let u := t.chargeRx a 0 p.payload.length
    (s.answers = true) ∧ (a.state = .ready) ∧ (p.srcOk = true) ∧ (a.attr.multipath = false) ∧ (p.supported = true) ∧ (p.payload.length ≤ a.attr.mtu) ∧ (s.police a.attr.tenant.toNat p.frameLen = (true, t)))
  ∧ (∃ (s : State) (t : State) (p : RocePkt) (w : Nat) (d : Nat), let a := s.netConn p.conn
    let u := t.chargeRx a 0 p.payload.length
    (s.answers = true) ∧ (a.state = .ready) ∧ (p.srcOk = true) ∧ (a.attr.multipath = false) ∧ (p.supported = true) ∧ (p.payload.length ≤ a.attr.mtu) ∧ (s.police a.attr.tenant.toNat p.frameLen = (true, t)) ∧ (u.rdmaCheck a p.key .store p.target p.payload.length = .ok (w, d)))
  ∧ (∃ (s : State) (t : State) (p : RocePkt) (w : Nat) (d : Nat), let a := s.netConn p.conn
    let u := t.chargeRx a 0 p.payload.length
    (s.answers = true) ∧ (a.state = .ready) ∧ (p.srcOk = true) ∧ (a.attr.multipath = false) ∧ (p.supported = true) ∧ (p.payload.length ≤ a.attr.mtu) ∧ (s.police a.attr.tenant.toNat p.frameLen = (true, t)) ∧ (u.rdmaCheck a p.key .load p.target p.length = .ok (w, d)))
  ∧ (∃ (s : State) (t : State) (p : RocePkt) (w : Nat) (d : Nat), let a := s.netConn p.conn
    let u := t.chargeRx a 0 p.payload.length
    let r := u.runMemory .cas d 8 p.payload false
    (s.answers = true) ∧ (a.state = .ready) ∧ (p.srcOk = true) ∧ (a.attr.multipath = false) ∧ (p.supported = true) ∧ (p.payload.length ≤ a.attr.mtu) ∧ (s.police a.attr.tenant.toNat p.frameLen = (true, t)) ∧ (p.target % 8 = 0) ∧ (u.rdmaCheck a p.key .atomic p.target 8 = .ok (w, d)))
  ∧ (∃ (s : State) (t : State) (p : RocePkt) (w : Nat) (d : Nat), let a := s.netConn p.conn
    let u := t.chargeRx a 0 p.payload.length
    let r := u.runMemory .fetchAdd d 8 p.payload false
    (s.answers = true) ∧ (a.state = .ready) ∧ (p.srcOk = true) ∧ (a.attr.multipath = false) ∧ (p.supported = true) ∧ (p.payload.length ≤ a.attr.mtu) ∧ (s.police a.attr.tenant.toNat p.frameLen = (true, t)) ∧ (p.target % 8 = 0) ∧ (u.rdmaCheck a p.key .atomic p.target 8 = .ok (w, d)))
  ∧ (∃ (s : State) (n : Fin 16) (x : Int), (s.alive = true) ∧ (s.flag Reg.OBS_TIME_CTRL 2 = true) ∧ (s.field Reg.OBS_TIME_CTRL 4 4 = n.val) ∧ ((s.net.ports.get n.val).allocated = true))
  ∧ (∃ (s : State) (n : Fin 16) (k : Byte) (b : Byte), let a := s.net.ports.get n.val
    let m : Byte := if s.flag Reg.NET_CTRL 1 then BitVec.ofNat 8 (s.field Reg.NET_CTRL 2 8) &&& k else 0
    (a.allocated = true) ∧ (s.alive = true))
  ∧ (∃ (s : State) (n : Fin 16) (up : Option Bool), let a := s.net.ports.get n.val
    (a.allocated = true) ∧ (s.alive = true))
  ∧ (∃ (s : State), (s.answers = true))
  ∧ (∃ (s : State) (n : Fin 8192) (p : MpPacket), let a := s.netConn n.val
    let t := s.setNetConn n.val { a with heldPkts := a.heldPkts.filter fun q => !(q.msn == p.msn && q.offset == p.offset) }
    ((a.heldPkts.find? fun p => !s.overlapsEarlier p) = some p) ∧ (a.state = .ready) ∧ (s.answers = true))
  ∧ (∃ (s : State) (p : MpPacket) (y : OutMsg), let x := { p with op := 0xC3 }
    let n := p.conn
    let a := s.netConn n
    let m := (a.resps.get p.msn).join x (x.index a) stOK true
    let v := (s.setNetConn n { a with resps := a.resps.set p.msn m }).chargeRx a 0 p.payload.length
    (s.answers = true) ∧ (a.listens = true) ∧ (x.srcOk = true) ∧ (a.attr.multipath = true) ∧ (x.formed a = true) ∧ (a.attr.message = true) ∧ ((a.resps.get p.msn).bits.contains (x.index a) = false) ∧ (s.awaits n p.msn 0xC3 = some y) ∧ ((a.resps.get p.msn).fits x = true))
  ∧ (∃ (s : State) (p : MpPacket) (y : OutMsg), let x := { p with op := 0xC5 }
    let n := p.conn
    let a := s.netConn n
    let m := (a.resps.get p.msn).join x (x.index a) stOK true
    let v := (s.setNetConn n { a with resps := a.resps.set p.msn m }).chargeRx a 0 p.payload.length
    (s.answers = true) ∧ (a.listens = true) ∧ (x.srcOk = true) ∧ (a.attr.multipath = true) ∧ (x.formed a = true) ∧ (a.attr.message = true) ∧ ((a.resps.get p.msn).bits.contains (x.index a) = false) ∧ (s.awaits n p.msn 0xC5 = some y) ∧ ((a.resps.get p.msn).fits x = true)) := by
  refine ⟨?_, ?_, ?_, ?_, ?_, ?_, ?_, ?_, ?_, ?_, ?_, ?_, ?_, ?_⟩
  · refine ⟨dev.setNetConn 8191 { state := .ready, attr := { multipath := true }, used := 5 }, 8191, ?_⟩
    repeat' (refine And.intro ?_ ?_)
    all_goals (first | rfl | exact ⟨rfl, rfl⟩ | exact ⟨by decide +kernel, by decide +kernel, by decide +kernel⟩ | decide +kernel)
  · refine ⟨dev.setNetConn 8191 { state := .connecting, attr := { multipath := true } }, { conn := 8191 }, ?_⟩
    repeat' (refine And.intro ?_ ?_)
    all_goals (first | rfl | exact ⟨rfl, rfl⟩ | exact ⟨by decide +kernel, by decide +kernel, by decide +kernel⟩ | decide +kernel)
  · refine ⟨verbs, verbs, { conn := 8191, key := 7 * 65536 + 4095, target := 4088, length := 8, payload := [1, 2, 3, 4, 5, 6, 7, 8] }, ?_⟩
    repeat' (refine And.intro ?_ ?_)
    all_goals (first | rfl | exact ⟨rfl, rfl⟩ | exact ⟨by decide +kernel, by decide +kernel, by decide +kernel⟩ | decide +kernel)
  · refine ⟨verbs, verbs, { conn := 8191, key := 7 * 65536 + 4095, target := 4088, length := 8, payload := [1, 2, 3, 4, 5, 6, 7, 8] }, 4095, 4088, ?_⟩
    repeat' (refine And.intro ?_ ?_)
    all_goals (first | rfl | exact ⟨rfl, rfl⟩ | exact ⟨by decide +kernel, by decide +kernel, by decide +kernel⟩ | decide +kernel)
  · refine ⟨verbs, verbs, { conn := 8191, key := 7 * 65536 + 4095, target := 4088, length := 8, payload := [1, 2, 3, 4, 5, 6, 7, 8] }, 4095, 4088, ?_⟩
    repeat' (refine And.intro ?_ ?_)
    all_goals (first | rfl | exact ⟨rfl, rfl⟩ | exact ⟨by decide +kernel, by decide +kernel, by decide +kernel⟩ | decide +kernel)
  · refine ⟨verbs, verbs, { conn := 8191, key := 7 * 65536 + 4095, target := 4088, length := 8, payload := [1, 2, 3, 4, 5, 6, 7, 8] }, 4095, 4088, ?_⟩
    repeat' (refine And.intro ?_ ?_)
    all_goals (first | rfl | exact ⟨rfl, rfl⟩ | exact ⟨by decide +kernel, by decide +kernel, by decide +kernel⟩ | decide +kernel)
  · refine ⟨verbs, verbs, { conn := 8191, key := 7 * 65536 + 4095, target := 4088, length := 8, payload := [1, 2, 3, 4, 5, 6, 7, 8] }, 4095, 4088, ?_⟩
    repeat' (refine And.intro ?_ ?_)
    all_goals (first | rfl | exact ⟨rfl, rfl⟩ | exact ⟨by decide +kernel, by decide +kernel, by decide +kernel⟩ | decide +kernel)
  · refine ⟨{ dev.wr Reg.OBS_TIME_CTRL 0xF4 with net := { dev.net with ports := [(15, { allocated := true })] } }, 15, 0, ?_⟩
    repeat' (refine And.intro ?_ ?_)
    all_goals (first | rfl | exact ⟨rfl, rfl⟩ | exact ⟨by decide +kernel, by decide +kernel, by decide +kernel⟩ | decide +kernel)
  · refine ⟨{ dev with net := { dev.net with ports := [(15, { allocated := true })] } }, 15, 0, 0, ?_⟩
    repeat' (refine And.intro ?_ ?_)
    all_goals (first | rfl | exact ⟨rfl, rfl⟩ | exact ⟨by decide +kernel, by decide +kernel, by decide +kernel⟩ | decide +kernel)
  · refine ⟨{ dev with net := { dev.net with ports := [(15, { allocated := true })] } }, 15, none, ?_⟩
    repeat' (refine And.intro ?_ ?_)
    all_goals (first | rfl | exact ⟨rfl, rfl⟩ | exact ⟨by decide +kernel, by decide +kernel, by decide +kernel⟩ | decide +kernel)
  · refine ⟨dev, ?_⟩
    repeat' (refine And.intro ?_ ?_)
    all_goals (first | rfl | exact ⟨rfl, rfl⟩ | exact ⟨by decide +kernel, by decide +kernel, by decide +kernel⟩ | decide +kernel)
  · refine ⟨dev.setNetConn 8191 { state := .ready, heldPkts := [{ conn := 8191, msn := 4 }] }, 8191, { conn := 8191, msn := 4 }, ?_⟩
    repeat' (refine And.intro ?_ ?_)
    all_goals (first | rfl | exact ⟨rfl, rfl⟩ | exact ⟨by decide +kernel, by decide +kernel, by decide +kernel⟩ | decide +kernel)
  · refine ⟨{ dev.setNetConn 8191 { state := .ready, attr := { message := true, multipath := true, mtu := 1024 }, out := [(2, { item := .read 9 })] } with strait := { dev.strait with tags := [(9, { state := .waiting, viaGateway := true })] } }, { conn := 8191, msn := 2, message := true, totalLen := 8, payload := [1, 2, 3, 4, 5, 6, 7, 8] }, { item := .read 9 }, ?_⟩
    repeat' (refine And.intro ?_ ?_)
    all_goals (first | rfl | exact ⟨rfl, rfl⟩ | exact ⟨by decide +kernel, by decide +kernel, by decide +kernel⟩ | decide +kernel)
  · refine ⟨{ dev.setNetConn 8191 { state := .ready, attr := { message := true, multipath := true, mtu := 1024 }, out := [(2, { item := .atomic 9 })] } with strait := { dev.strait with tags := [(9, { state := .waiting, viaGateway := true })] } }, { conn := 8191, msn := 2, message := true, totalLen := 8, payload := [1, 2, 3, 4, 5, 6, 7, 8] }, { item := .atomic 9 }, ?_⟩
    repeat' (refine And.intro ?_ ?_)
    all_goals (first | rfl | exact ⟨rfl, rfl⟩ | exact ⟨by decide +kernel, by decide +kernel, by decide +kernel⟩ | decide +kernel)

theorem witness_ChamoisCommands :
    (∃ (s : State) (w : WinRef), let u := s.take w.key
    let c := s.frontCmd w.key
    let i := c.arg0.toNat % 16
    let h := u.readHeader c.arg1.toNat
    let v := u.setIndex i { registered := true, header := h, usedSegs := u.framesUsed h }
    (s.Runs w 0x11) ∧ (u.chamEnabled = true) ∧ (c.arg0.toNat < 16) ∧ (addrFormed c.arg1.toNat = true) ∧ (u.registerStatus h c.part = none) ∧ ((u.index i).jobs = []) ∧ ((u.cham.batches.any fun b => b.header.index == i) = false))
  ∧ (∃ (s : State) (w : WinRef), let u := s.take w.key
    let c := s.frontCmd w.key
    let x := u.index c.arg0.toNat
    (s.Runs w 0x12) ∧ (u.chamEnabled = true) ∧ (c.arg0.toNat < 16) ∧ (x.registered = true) ∧ (1 ≤ c.arg2.toNat) ∧ (c.arg2.toNat ≤ 4096) ∧ ((u.tenantOf c.tenantId.toNat).enable = true) ∧ (x.header.partition = c.part) ∧ (u.fnAccess (winFn w.key) c.arg1.toNat (c.arg2.toNat * recordSize x.header.m) c.part true = none))
  ∧ (∃ (s : State) (t : State) (k : Fin 16) (a : Nat) (g : Nat) (slot : Nat), let i := k.val
    let h := (s.index i).header
    let l := s.loadLE (a + 4) 4
    let len := s.loadLE (a + 0x1C) 4
    let seq := t.committed i + 1
    let item : ItemEntry := { id := BitVec.ofNat 64 (t.loadLE (a + 8) 8), seg := g, pos := t.segCount (h.segAt g), used := true, holder := t.loadLE (a + 0x28) 2, prefixLen := len, tokenCrc := t.loadLE (a + 0x20) 8 }
    (s.nextRecord i = some a) ∧ (s.loadLE a 1 = 1) ∧ (s.alive = true) ∧ (l < h.nlist) ∧ ((h.kind = 1 → len % 64 = 0 ∧ 64 ≤ len ∧ len ≤ 1048576)) ∧ ((s.index i).compacting.contains l = false) ∧ (s.freeItem h 0 h.itemCap = some slot) ∧ (s.tailSeg i l = some (g, t)))
  ∧ (∃ (s : State) (k : Fin 16) (a : Nat), (s.nextRecord k.val = some a) ∧ (s.loadLE a 1 ≠ 1) ∧ (s.loadLE a 1 ≠ 2) ∧ (s.alive = true))
  ∧ (∃ (s : State) (j : Fin 16) (a : Nat) (k : Nat), let i := j.val
    let h := (s.index i).header
    let slot := s.loadLE (a + 4) 4
    let x := s.item h slot
    let g := h.segAt x.seg
    let seq := s.committed i + 1
    let t := s.write (h.dellog + 16 * k) (packBytes [(4, slot), (4, 0), (8, seq)])
    let t2 := t.putEntry h g x.pos { t.segEntry h g x.seg x.pos with tombstone := true }
    let t3 := ((t2.putItem h slot { x with deleted := true }).commit i seq).retire i
    (s.nextRecord i = some a) ∧ (s.loadLE a 1 = 2) ∧ (s.alive = true) ∧ (slot < h.itemCap) ∧ (x.used = true) ∧ ((s.index i).compacting.contains (s.loadLE (g + 4) 4) = false) ∧ (x.deleted = false) ∧ (s.freeDel i = some k))
  ∧ (∃ (s : State) (w : WinRef), let u := s.take w.key
    let c := s.frontCmd w.key
    let b := u.readBatch c.arg0.toNat
    let x := u.index b.index
    let t := u.write (b.addr + 0x10) (leBytes 8 (u.committed b.index))
    (s.Runs w 0x13) ∧ (u.chamEnabled = true) ∧ ((u.tenantOf c.tenantId.toNat).enable = true) ∧ ((u.tenantOf c.tenantId.toNat).partition.val = c.part) ∧ (u.fnAccess (winFn w.key) b.addr 64 c.part true = none) ∧ (b.index < 16) ∧ (x.registered = true) ∧ (b.partition = x.header.partition) ∧ (b.partition = c.part) ∧ (u.batchRanges b x.header = true) ∧ (((u.batchReach b x.header).findSome? fun r => (u.fnAccess (winFn w.key) r.1 r.2.1 c.part r.2.2).map fun st => (st, r.1)) = none) ∧ (u.fnMode 5 ≠ .hostAssist) ∧ (u.cham.batches.length < 16))
  ∧ (∃ (s : State) (b : Batch), let h := (s.index b.header.index).header
    (s.runBatch = some b) ∧ (b.phase = .queued) ∧ (s.flag Reg.CHAM_CTRL 0 = false) ∧ (s.alive = true))
  ∧ (∃ (s : State) (b : Batch) (c : ElandCompletion), let h := (s.index b.header.index).header
    let ran := c.status == stOK || c.status == stPOISON
    let qs := b.queries.zipIdx.map fun x => { x.1 with poison := !ran || s.tableBad h x.2 }
    let t := if qs.any QueryState.poison then s.setFlag Reg.CHAM_STATUS 4 true else s
    (s.runBatch = some b) ∧ ((s.eland.completions.find? fun c => decide (c.source = .chamois) && c.serial == BitVec.ofNat 32 b.number) = some c) ∧ (b.phase = .tables) ∧ (s.alive = true))
  ∧ (∃ (s : State) (b : Batch), (s.runBatch = some b) ∧ (b.phase = .coarse) ∧ (s.alive = true))
  ∧ (∃ (s : State) (b : Batch), let d := s.readLists b ((b.queries.filter fun x => !x.poison).flatMap fun x => x.order.take x.probed)
    let r := s.scanRound d fun x => x.order.take x.probed
    (s.runBatch = some b) ∧ (b.phase = .scan) ∧ (s.alive = true))
  ∧ (∃ (s : State) (b : Batch), let more (x : QueryState) : Nat := if b.widens x then min x.order.length (2 * x.probed) else x.probed
    let d := s.readLists b ((b.queries.filter fun x => !x.poison).flatMap fun x => (x.order.take (more x)).drop x.probed)
    let r := s.scanRound d fun x => (x.order.take (more x)).drop x.probed
    (s.runBatch = some b) ∧ (b.phase = .widen) ∧ (s.alive = true))
  ∧ (∃ (s : State) (t : State) (k : Fin 16) (list : Nat) (segs : List Nat), let i := k.val
    let x := s.index i
    let h := x.header
    let es := s.listEntries h list
    let gone (e : ListEntry) : Bool := e.tombstone && !(s.delLog i).any fun d => d.1 == e.slot
    let t1 := (es.filter gone).foldl (fun s e => s.putItem h e.slot { s.item h e.slot with used := false, deleted := false }) t
    let t2 := t1.putDir h list { first := segs.headD noSeg, last := segs.getLastD noSeg, count := (es.filter fun e => !gone e).length }
    let y := t2.index i
    (x.compacting.contains list = true) ∧ (s.flag Reg.CHAM_CTRL 2 = false) ∧ (s.alive = true) ∧ (State.copyEntries i list (es.filter fun e => !gone e) 0 [] s = some (segs, t)))
  ∧ (∃ (s : State) (k : Fin 16), let i := k.val
    let x := s.index i
    let done (o : List Nat × List Nat) : Bool := o.2.all fun n => !s.cham.batches.any fun b => b.number == n
    (x.registered = true)) := by
  refine ⟨?_, ?_, ?_, ?_, ?_, ?_, ?_, ?_, ?_, ?_, ?_, ?_, ?_⟩
  · refine ⟨withCmd ((cham chamRegions).setBytes 0 chamHeader) 0x11 15, pf0, ?_⟩
    repeat' (refine And.intro ?_ ?_)
    all_goals (first | rfl | exact ⟨rfl, rfl⟩ | exact ⟨by decide +kernel, by decide +kernel, by decide +kernel⟩ | decide +kernel)
  · refine ⟨withCmd chamIndex 0x12 15 134217728 1, pf0, ?_⟩
    repeat' (refine And.intro ?_ ?_)
    all_goals (first | rfl | exact ⟨rfl, rfl⟩ | exact ⟨by decide +kernel, by decide +kernel, by decide +kernel⟩ | decide +kernel)
  · refine ⟨(chamIndex.setByte 134217728 1).setByte 8200 1, (chamIndex.setByte 134217728 1).setByte 8200 1, 15, 134217728, 0, 0, ?_⟩
    repeat' (refine And.intro ?_ ?_)
    all_goals (first | rfl | exact ⟨rfl, rfl⟩ | exact ⟨by decide +kernel, by decide +kernel, by decide +kernel⟩ | decide +kernel)
  · refine ⟨chamIndex, 15, 134217728, ?_⟩
    repeat' (refine And.intro ?_ ?_)
    all_goals (first | rfl | exact ⟨rfl, rfl⟩ | exact ⟨by decide +kernel, by decide +kernel, by decide +kernel⟩ | decide +kernel)
  · refine ⟨(chamIndex.setByte 134217728 2).setByte 16397 32, 15, 134217728, 0, ?_⟩
    repeat' (refine And.intro ?_ ?_)
    all_goals (first | rfl | exact ⟨rfl, rfl⟩ | exact ⟨by decide +kernel, by decide +kernel, by decide +kernel⟩ | decide +kernel)
  · refine ⟨withCmd chamBatch 0x13 134217728, pf0, ?_⟩
    repeat' (refine And.intro ?_ ?_)
    all_goals (first | rfl | exact ⟨rfl, rfl⟩ | exact ⟨by decide +kernel, by decide +kernel, by decide +kernel⟩ | decide +kernel)
  · refine ⟨{ chamIndex with cham := { chamIndex.cham with batches := [{ number := 7 }] } }, { number := 7 }, ?_⟩
    repeat' (refine And.intro ?_ ?_)
    all_goals (first | rfl | exact ⟨rfl, rfl⟩ | exact ⟨by decide +kernel, by decide +kernel, by decide +kernel⟩ | decide +kernel)
  · refine ⟨{ chamIndex with cham := { chamIndex.cham with batches := [{ number := 7, phase := .tables }] }, eland := { dev.eland with completions := [{ source := .chamois, serial := 7 }] } }, { number := 7, phase := .tables }, { source := .chamois, serial := 7 }, ?_⟩
    repeat' (refine And.intro ?_ ?_)
    all_goals (first | rfl | exact ⟨rfl, rfl⟩ | exact ⟨by decide +kernel, by decide +kernel, by decide +kernel⟩ | decide +kernel)
  · refine ⟨{ chamIndex with cham := { chamIndex.cham with batches := [{ phase := .coarse }] } }, { phase := .coarse }, ?_⟩
    repeat' (refine And.intro ?_ ?_)
    all_goals (first | rfl | exact ⟨rfl, rfl⟩ | exact ⟨by decide +kernel, by decide +kernel, by decide +kernel⟩ | decide +kernel)
  · refine ⟨{ chamIndex with cham := { chamIndex.cham with batches := [{ phase := .scan }] } }, { phase := .scan }, ?_⟩
    repeat' (refine And.intro ?_ ?_)
    all_goals (first | rfl | exact ⟨rfl, rfl⟩ | exact ⟨by decide +kernel, by decide +kernel, by decide +kernel⟩ | decide +kernel)
  · refine ⟨{ chamIndex with cham := { chamIndex.cham with batches := [{ phase := .widen }] } }, { phase := .widen }, ?_⟩
    repeat' (refine And.intro ?_ ?_)
    all_goals (first | rfl | exact ⟨rfl, rfl⟩ | exact ⟨by decide +kernel, by decide +kernel, by decide +kernel⟩ | decide +kernel)
  · refine ⟨chamIndex.setIndex 15 { chamIndex.index 15 with compacting := [0] }, chamIndex.setIndex 15 { chamIndex.index 15 with compacting := [0] }, 15, 0, [], ?_⟩
    repeat' (refine And.intro ?_ ?_)
    all_goals (first | rfl | exact ⟨rfl, rfl⟩ | exact ⟨by decide +kernel, by decide +kernel, by decide +kernel⟩ | decide +kernel)
  · refine ⟨chamIndex, 15, ?_⟩
    repeat' (refine And.intro ?_ ?_)
    all_goals (first | rfl | exact ⟨rfl, rfl⟩ | exact ⟨by decide +kernel, by decide +kernel, by decide +kernel⟩ | decide +kernel)

/-! ### Small tests, with the values that the spec gives -/

/-- R48: the check value of CRC-64/XZ over "123456789". -/
theorem test_crc64_check_value : crc64 [0x31, 0x32, 0x33, 0x34, 0x35, 0x36, 0x37, 0x38, 0x39] = 0x995DC9BBDF1939FA := by decide +kernel

/-- R43: the tile sizes of BF16, FP8, MXFP6 and MXFP4. -/
theorem test_tile_sizes : [0, 1, 3, 5].map tileSize = [16384, 8192, 6400, 4352] := by decide

/-- R556: the ELAND block reads 0x0004_0100. -/
theorem test_block_id_of_eland : State.reset.readReg 0x400000 = 0x00040100 := by decide +kernel

/-- R557: DEV_DEVICE_ID after reset. -/
theorem test_device_id_after_reset : State.reset.readReg 0x108 = 0xFFFF := by decide +kernel

/-- R360: the status of a query that found enough, too few, lost a table, or had a part left out. -/
theorem test_query_status : ({} : QueryState).status 0 = stOK ∧ ({} : QueryState).status 1 = stSHORT ∧ ({ poison := true } : QueryState).status 0 = stPOISON
    ∧ ({ part := true } : QueryState).status 0 = stPARTIAL := by decide +kernel

/-- R216: a sum of the slot counts that is not 65,536 is FATAL. -/
theorem test_slot_audit_fatal : (match Machine.exec .slotAudit { dev with ibex := { dev.ibex with slotsBusy := 1 } } with
    | .next t => t.fault.fatal
    | _ => false) = true := by decide +kernel

/-- R466: a write of fewer than 64 bytes to a slot is dropped and counted. -/
theorem test_short_slot_write : (match Machine.exec (.commandSlotWrite pf0 0 63 1) (dev.setWin pf0.key { enable := true }) with
    | .next t => decide (t.rd Reg.HOSTIF_DROPPED = 1) && decide ((t.win pf0.key).slots = [])
    | _ => false) = true := by decide +kernel

/-- A step takes the command at the front of the queue and leaves the rest. -/
theorem test_step_takes_front : (match step { withCmd dev 0 with pending := [.nop pf0, .snap] } with
    | .next t => decide (t.pending = [.snap]) && decide ((t.win pf0.key).consumed = 1)
    | _ => false) = true := by decide +kernel

/-- R466: the lap byte of a slot's first command is 1; with it the slot is written, and another value is an error of the window. -/
theorem test_slot_lap : (match Machine.exec (.commandSlotWrite pf0 63 64 (BitVec.ofNat 512 (2 ^ 504))) (dev.setWin pf0.key { enable := true }),
      Machine.exec (.commandSlotWrite pf0 63 64 (BitVec.ofNat 512 (2 ^ 505))) (dev.setWin pf0.key { enable := true }) with
    | .next t, .next u => decide ((t.win pf0.key).laps = [(63, 1)]) && !(t.win pf0.key).error && (u.win pf0.key).error
    | _, _ => false) = true := by decide +kernel

/-- No row of the table gives bits. -/
theorem test_no_row_gives_bits : decodeTableWord 8 0 = none := rfl

/-! ### Premises within a statement's conclusion -/

theorem witness_timer_expiry_kinds : ∀ k ∈ ([.descriptor, .reply, .commit, .peerPartial] : List AwaitKind),
    ((dev.setSlotAt 65535 { state := .waiting, awaits := k }).slot 65535).awaits = k := by decide +kernel

theorem witness_connection_states : ∀ k ∈ ([.connecting, .closing] : List ConnState),
    ((dev.setNetConn 8191 { state := k }).netConn 8191).state = k ∧ ((dev.setNetConn 8191 { state := k }).netConn 8191).out = []
      ∧ (dev.setNetConn 8191 { state := k }).answers = true := by decide +kernel

theorem witness_drain_not_over : ({ dev.setEntry 4095 { state := .decoding } with struct := { dev.struct with drain := some (goodBits, 1, 0, 0) } } : State).drained = false := by
  decide +kernel

theorem witness_messages_of_every_kind : ∀ k ∈ msgKinds, dev.msgOk { msgOf k with kind := k } = true ∧ dev.msgOk { { msgOf k with level := 0 } with kind := k } = false := by
  decide +kernel

theorem witness_other_decisions : ({ dev with herd := { dev.herd with waitHost := true } } : State).herd.waitHost = true
    ∧ ((assist 6).setNetConn 8191 { state := .ready, attr := { message := true, multipath := true } }).windowWaits
        (((assist 6).setNetConn 8191 { state := .ready, attr := { message := true, multipath := true } }).netConn 8191) = true
    ∧ ({ assist 9 with fw := { dev.fw with session := some {} } } : State).fw.session.isSome = true ∧ (assist 9).fnMode 9 = .hostAssist := by
  decide +kernel

end Sys2Proof.Tests
end

section
/-! PROOFS. Chapter 00: every step keeps the canonical forms of memory and registers, and what is written is read back. -/

namespace Sys2Proof.Machine

/-! ### What every command and every step keeps -/

/-- Every command keeps the queue, the fuses and the canonical forms: one arm for each arm of `exec`. -/
theorem exec_keeps {r s : State} (h : r.Keeps s) : ∀ i : Instr, r.KeepsNext (exec i s)
  | .nop .. => execNop_keeps h
  | .admitCmd .. => execAdmitCmd_keeps h
  | .cancel .. => execCancel_keeps h
  | .preempt .. => execPreempt_keeps h
  | .resume .. => execResume_keeps h
  | .restore .. => execRestore_keeps h
  | .stepSubmit .. => execStepSubmit_keeps h
  | .decideCmd .. => execDecideCmd_keeps h
  | .mapInstall .. => execMapInstall_keeps h
  | .windowOpen .. => execWindowOpen_keeps h
  | .windowRevoke .. => execWindowRevoke_keeps h
  | .connect .. => execConnect_keeps h
  | .close .. => execClose_keeps h
  | .routeSet .. => execRouteSet_keeps h
  | .planLoad .. => execPlanLoad_keeps h
  | .planUnload .. => execPlanUnload_keeps h
  | .regionLoad .. => execRegionLoad_keeps h
  | .indexRegister .. => execIndexRegister_keeps h
  | .mutate .. => execMutate_keeps h
  | .insert .. => execInsert_keeps h
  | .delete .. => execDelete_keeps h
  | .search .. => execSearch_keeps h
  | .move .. => execMove_keeps h
  | .treeAttach .. => execTreeAttach_keeps h
  | .recover .. => execRecover_keeps h
  | .loadStruct .. => execLoadStruct_keeps h
  | .fwBegin .. => execFwBegin_keeps h
  | .fwBlock .. => execFwBlock_keeps h
  | .fwEnd .. => execFwEnd_keeps h
  | .fwActivate .. => execFwActivate_keeps h
  | .releaseEntry .. => execReleaseEntry_keeps h
  | .commandSlotWrite .. => execCommandSlotWrite_keeps h
  | .windowReset .. => execWindowReset_keeps h
  | .ringHeadWrite .. => execRingHeadWrite_keeps h
  | .msiDelayExpiry .. => execMsiDelayExpiry_keeps h
  | .tokenHoldExpiry .. => execTokenHoldExpiry_keeps h
  | .portLoss .. => execPortLoss_keeps h
  | .functionLevelReset .. => execFunctionLevelReset_keeps h
  | .portLinkReturn .. => execPortLinkReturn_keeps h
  | .ideStreamInsecure .. => execIdeStreamInsecure_keeps h
  | .bar4Read .. => execBar4Read_keeps h
  | .bar4Write .. => execBar4Write_keeps h
  | .bar4BaseHiWrite .. => execBar4BaseHiWrite_keeps h
  | .query .. => execQuery_keeps h
  | .partialMsg .. => execPartialMsg_keeps h
  | .admitMessage .. => execAdmitMessage_keeps h
  | .promptTokens .. => execPromptTokens_keeps h
  | .openMsg .. => execOpenMsg_keeps h
  | .creditReq .. => execCreditReq_keeps h
  | .queuedCreditGrant .. => execQueuedCreditGrant_keeps h
  | .creditWaitExpiry .. => execCreditWaitExpiry_keeps h
  | .grant .. => execGrant_keeps h
  | .refs .. => execRefs_keeps h
  | .sent .. => execSent_keeps h
  | .commit .. => execCommit_keeps h
  | .reply .. => execReply_keeps h
  | .abort .. => execAbort_keeps h
  | .keepalive .. => execKeepalive_keeps h
  | .keepaliveTimer .. => execKeepaliveTimer_keeps h
  | .receiverHandoffTimer .. => execReceiverHandoffTimer_keeps h
  | .register .. => execRegister_keeps h
  | .redirect .. => execRedirect_keeps h
  | .endMsg .. => execEndMsg_keeps h
  | .released .. => execReleased_keeps h
  | .restoreReq .. => execRestoreReq_keeps h
  | .replicaReq .. => execReplicaReq_keeps h
  | .covered .. => execCovered_keeps h
  | .heldMessageTimeout .. => execHeldMessageTimeout_keeps h
  | .deadlineExpiry .. => execDeadlineExpiry_keeps h
  | .tokenArrival .. => execTokenArrival_keeps h
  | .decisionTimeout .. => execDecisionTimeout_keeps h
  | .idleBoundary => execIdleBoundary_keeps h
  | .stepBoundary .. => execStepBoundary_keeps h
  | .preemptMaxExpiry .. => execPreemptMaxExpiry_keeps h
  | .sequencerIssueOp .. => execSequencerIssueOp_keeps h
  | .stepClose => execStepClose_keeps h
  | .stepRun .. => execStepRun_keeps h
  | .stepPause .. => execStepPause_keeps h
  | .stepSingle => execStepSingle_keeps h
  | .clearMax => execClearMax_keeps h
  | .herdEntrySelWrite .. => execHerdEntrySelWrite_keeps h
  | .herdPeerWeightWrite .. => execHerdPeerWeightWrite_keeps h
  | .gemm => execGemm_keeps h
  | .groupedGemm => execGroupedGemm_keeps h
  | .attnFwd => execAttnFwd_keeps h
  | .attnTree => execAttnTree_keeps h
  | .attnBwd => execAttnBwd_keeps h
  | .kvPack => execKvPack_keeps h
  | .distTable => execDistTable_keeps h
  | .sample => execSample_keeps h
  | .elandOpEnqueue .. => execElandOpEnqueue_keeps h
  | .outputTileDone .. => execOutputTileDone_keeps h
  | .elandFencedWrite .. => execElandFencedWrite_keeps h
  | .elandHold .. => execElandHold_keeps h
  | .elandClearHwm => execElandClearHwm_keeps h
  | .laneUnitDispatch .. => execLaneUnitDispatch_keeps h
  | .laneUnitDone .. => execLaneUnitDone_keeps h
  | .spotCheckResult .. => execSpotCheckResult_keeps h
  | .reducerMergeComplete .. => execReducerMergeComplete_keeps h
  | .springFencedWrite .. => execSpringFencedWrite_keeps h
  | .springClearCounts => execSpringClearCounts_keeps h
  | .patrolScrubRead .. => execPatrolScrubRead_keeps h
  | .quarantineTest .. => execQuarantineTest_keeps h
  | .poolAuditSample => execPoolAuditSample_keeps h
  | .poolAuditResample => execPoolAuditResample_keeps h
  | .recount => execRecount_keeps h
  | .recountDone .. => execRecountDone_keeps h
  | .tierRegionSelWrite .. => execTierRegionSelWrite_keeps h
  | .copy .. => execCopy_keeps h
  | .gather .. => execGather_keeps h
  | .scatter .. => execScatter_keeps h
  | .pack .. => execPack_keeps h
  | .unpack .. => execUnpack_keeps h
  | .compact .. => execCompact_keeps h
  | .check .. => execCheck_keeps h
  | .remotePut .. => execRemotePut_keeps h
  | .remoteGet .. => execRemoteGet_keeps h
  | .prefetch .. => execPrefetch_keeps h
  | .descriptorComplete .. => execDescriptorComplete_keeps h
  | .slotTimerExpiry .. => execSlotTimerExpiry_keeps h
  | .slotAudit => execSlotAudit_keeps h
  | .ibexHold .. => execIbexHold_keeps h
  | .ibexClearHwm => execIbexClearHwm_keeps h
  | .ibexClearCounts => execIbexClearCounts_keeps h
  | .dataFlitReceived .. => execDataFlitReceived_keeps h
  | .replayTimeout .. => execReplayTimeout_keeps h
  | .retrainComplete .. => execRetrainComplete_keeps h
  | .retrainTimeout .. => execRetrainTimeout_keeps h
  | .retrainAttempt .. => execRetrainAttempt_keeps h
  | .retrain .. => execRetrain_keeps h
  | .auditSend .. => execAuditSend_keeps h
  | .audit .. => execAudit_keeps h
  | .ping .. => execPing_keeps h
  | .pong .. => execPong_keeps h
  | .load .. => execLoad_keeps h
  | .loadData .. => execLoadData_keeps h
  | .store .. => execStore_keeps h
  | .storeAck .. => execStoreAck_keeps h
  | .fetchAdd .. => execFetchAdd_keeps h
  | .swap .. => execSwap_keeps h
  | .cas .. => execCas_keeps h
  | .fetchAnd .. => execFetchAnd_keeps h
  | .fetchOr .. => execFetchOr_keeps h
  | .fetchXor .. => execFetchXor_keeps h
  | .fetchMin .. => execFetchMin_keeps h
  | .fetchMax .. => execFetchMax_keeps h
  | .atomicData .. => execAtomicData_keeps h
  | .tilePut .. => execTilePut_keeps h
  | .tileGet .. => execTileGet_keeps h
  | .tileData .. => execTileData_keeps h
  | .bytePut .. => execBytePut_keeps h
  | .unitAck .. => execUnitAck_keeps h
  | .lastGasp .. => execLastGasp_keeps h
  | .straitRequestIssue .. => execStraitRequestIssue_keeps h
  | .fence .. => execFence_keeps h
  | .fenceDest .. => execFenceDest_keeps h
  | .tagTimeout .. => execTagTimeout_keeps h
  | .peerPingTimer .. => execPeerPingTimer_keeps h
  | .liveMaskChange .. => execLiveMaskChange_keeps h
  | .issueResume .. => execIssueResume_keeps h
  | .gatewayFlush .. => execGatewayFlush_keeps h
  | .revocationComplete .. => execRevocationComplete_keeps h
  | .straitWinSelWrite .. => execStraitWinSelWrite_keeps h
  | .straitClearCounts => execStraitClearCounts_keeps h
  | .mpWrite .. => execMpWrite_keeps h
  | .mpSend .. => execMpSend_keeps h
  | .mpReadReq .. => execMpReadReq_keeps h
  | .mpReadResp .. => execMpReadResp_keeps h
  | .mpAtomic .. => execMpAtomic_keeps h
  | .mpAtomicResp .. => execMpAtomicResp_keeps h
  | .mpAck .. => execMpAck_keeps h
  | .mpCredit .. => execMpCredit_keeps h
  | .mpHello .. => execMpHello_keeps h
  | .send .. => execSend_keeps h
  | .rdmaWrite .. => execRdmaWrite_keeps h
  | .rdmaRead .. => execRdmaRead_keeps h
  | .cmpSwap .. => execCmpSwap_keeps h
  | .mpHelloTimer .. => execMpHelloTimer_keeps h
  | .connectTimeout .. => execConnectTimeout_keeps h
  | .retransmitTimeout .. => execRetransmitTimeout_keeps h
  | .closingResolved .. => execClosingResolved_keeps h
  | .heldPacketRelease .. => execHeldPacketRelease_keeps h
  | .creditGrantTick => execCreditGrantTick_keeps h
  | .creditReturn .. => execCreditReturn_keeps h
  | .creditResync .. => execCreditResync_keeps h
  | .ptpMessage .. => execPtpMessage_keeps h
  | .pfcFrame .. => execPfcFrame_keeps h
  | .ethernetLinkChange .. => execEthernetLinkChange_keeps h
  | .cbsSettingApply .. => execCbsSettingApply_keeps h
  | .policerWrite .. => execPolicerWrite_keeps h
  | .shapeConnWindowWrite .. => execShapeConnWindowWrite_keeps h
  | .shapeClearDrops => execShapeClearDrops_keeps h
  | .netWinSelWrite .. => execNetWinSelWrite_keeps h
  | .netClearCounts => execNetClearCounts_keeps h
  | .batchBegin => execBatchBegin_keeps h
  | .batchTablesDone => execBatchTablesDone_keeps h
  | .coarsePassDone => execCoarsePassDone_keeps h
  | .listScanDone => execListScanDone_keeps h
  | .widenRoundDone => execWidenRoundDone_keeps h
  | .compactionDone .. => execCompactionDone_keeps h
  | .oldSegmentsFreed .. => execOldSegmentsFreed_keeps h
  | .chamCompactCmd .. => execChamCompactCmd_keeps h
  | .chamSnapPointHiWrite .. => execChamSnapPointHiWrite_keeps h
  | .chamHold .. => execChamHold_keeps h
  | .chamClearCounts => execChamClearCounts_keeps h
  | .periodBoundary => execPeriodBoundary_keeps h
  | .tenantTokBalanceWrite .. => execTenantTokBalanceWrite_keeps h
  | .tenantAdmBalanceWrite .. => execTenantAdmBalanceWrite_keeps h
  | .tenantCfgWrite .. => execTenantCfgWrite_keeps h
  | .tenantPeriodWrite .. => execTenantPeriodWrite_keeps h
  | .tenantSelWrite .. => execTenantSelWrite_keeps h
  | .accountingIntervalClose => execAccountingIntervalClose_keeps h
  | .faultRingTailWrite .. => execFaultRingTailWrite_keeps h
  | .inject => execInject_keeps h
  | .clearLost => execClearLost_keeps h
  | .faultTenantFenceWrite .. => execFaultTenantFenceWrite_keeps h
  | .recoveryStart => execRecoveryStart_keeps h
  | .recoveryStepDone => execRecoveryStepDone_keeps h
  | .epochPulse .. => execEpochPulse_keeps h
  | .pulseAbsence => execPulseAbsence_keeps h
  | .holdoverExpiry => execHoldoverExpiry_keeps h
  | .tideNextWrite .. => execTideNextWrite_keeps h
  | .alarmCodeSend => execAlarmCodeSend_keeps h
  | .snap => execSnap_keeps h
  | .traceRecordWrite .. => execTraceRecordWrite_keeps h
  | .obsTraceTrigger .. => execObsTraceTrigger_keeps h
  | .obsWinUnlock .. => execObsWinUnlock_keeps h
  | .mark => execMark_keeps h
  | .traceReset => execTraceReset_keeps h
  | .obsTraceRposWrite .. => execObsTraceRposWrite_keeps h
  | .monitorSample .. => execMonitorSample_keeps h
  | .thermalCeiling .. => execThermalCeiling_keeps h
  | .thermalTrip .. => execThermalTrip_keeps h
  | .droopStretch .. => execDroopStretch_keeps h
  | .histogramMinute .. => execHistogramMinute_keeps h
  | .summary .. => execSummary_keeps h
  | .dayEnd => execDayEnd_keeps h
  | .eyeMeasure .. => execEyeMeasure_keeps h
  | .eyeNow .. => execEyeNow_keeps h
  | .healthClearDropped => execHealthClearDropped_keeps h
  | .healthRowSelWrite .. => execHealthRowSelWrite_keeps h
  | .healthLogSelWrite .. => execHealthLogSelWrite_keeps h
  | .lifeLogWrite => execLifeLogWrite_keeps h
  | .sectorEraseDone => execSectorEraseDone_keeps h
  | .drainComplete .. => execDrainComplete_keeps h
  | .drainTimeout => execDrainTimeout_keeps h
  | .abortDrain => execAbortDrain_keeps h
  | .bootSlotWrite .. => execBootSlotWrite_keeps h
  | .fwStagingDone => execFwStagingDone_keeps h
  | .standbyReady => execStandbyReady_keeps h
  | .prepareTimeout => execPrepareTimeout_keeps h
  | .quiesceReady => execQuiesceReady_keeps h
  | .quiesceTimeout => execQuiesceTimeout_keeps h
  | .stateRead => execStateRead_keeps h
  | .pauseTimeout => execPauseTimeout_keeps h
  | .newSetRun => execNewSetRun_keeps h
  | .confirmElapsed => execConfirmElapsed_keeps h
  | .fwAbort => execFwAbort_keeps h
  | .fwSvnAdvance .. => execFwSvnAdvance_keeps h
  | .selftest .. => execSelftest_keeps h
  | .enroll .. => execEnroll_keeps h
  | .blowDebugLock .. => execBlowDebugLock_keeps h
  | .blowMldsaReq .. => execBlowMldsaReq_keeps h
  | .getVersion .. => execGetVersion_keeps h
  | .getCapabilities .. => execGetCapabilities_keeps h
  | .negotiateAlgorithms .. => execNegotiateAlgorithms_keeps h
  | .getDigests .. => execGetDigests_keeps h
  | .getCertificate .. => execGetCertificate_keeps h
  | .challenge .. => execChallenge_keeps h
  | .getMeasurements .. => execGetMeasurements_keeps h
  | .keyExchange .. => execKeyExchange_keeps h
  | .finish .. => execFinish_keeps h
  | .heartbeat .. => execHeartbeat_keeps h
  | .keyUpdate .. => execKeyUpdate_keeps h
  | .endSession .. => execEndSession_keeps h
  | .vendorDefinedRequest .. => execVendorDefinedRequest_keeps h
  | .powerOn .. => execPowerOn_keeps h
  | .resetNRise .. => execResetNRise_keeps h
  | .resetNFall => execResetNFall_keeps h
  | .pwrResetCold .. => execPwrResetCold_keeps h
  | .pwrResetWarm .. => execPwrResetWarm_keeps h
  | .stackTrainingDone .. => execStackTrainingDone_keeps h
  | .supplyNotGood .. => execSupplyNotGood_keeps h
  | .shutdownComplete => execShutdownComplete_keeps h
  | .supplyReturn .. => execSupplyReturn_keeps h
  | .supplyGoodInOff .. => execSupplyGoodInOff_keeps h
  | .auxSupplyLoss .. => execAuxSupplyLoss_keeps h
  | .capLevelChange .. => execCapLevelChange_keeps h
  | .capControlTick => execCapControlTick_keeps h
  | .energyMeterSample .. => execEnergyMeterSample_keeps h
  | .pwrCapWrite .. => execPwrCapWrite_keeps h
  | .preferB .. => execPreferB_keeps h
  | .pwrClearCounts => execPwrClearCounts_keeps h
  | .entdaa .. => execEntdaa_keeps h
  | .readStatus .. => execReadStatus_keeps h
  | .setCap .. => execSetCap_keeps h
  | .setTideNext .. => execSetTideNext_keeps h
  | .logRead .. => execLogRead_keeps h
  | .logNext .. => execLogNext_keeps h
  | .devDeviceIdWrite .. => execDevDeviceIdWrite_keeps h
  | .profileSelect .. => execProfileSelect_keeps h
  | .expertFieldWrite .. => execExpertFieldWrite_keeps h
  | .fwSelWrite .. => execFwSelWrite_keeps h
  | .registerWrite .. => execRegisterWrite_keeps h
  | .standbySetFault => execStandbySetFault_keeps h
  | .continuousEntropyTest => execContinuousEntropyTest_keeps h
  | .auxSupplyReturn .. => execAuxSupplyReturn_keeps h
/-- The step on an empty queue: time passes. -/
theorem step_of_pending_nil {s : State} (h : s.pending = []) : step s = .next s.tick := by
  simp only [step, h]

/-- The step on a waiting command: it runs on the queue's rest. -/
theorem step_of_pending_cons {s : State} {c : Instr} {cs : List Instr} (h : s.pending = c :: cs) :
    step s = exec c { s with pending := cs } := by
  simp only [step, h]

/-- Taking commands off the queue leaves the canonical forms. -/
theorem State.Inv_pending {s : State} (h : s.Inv) (cs : List Instr) : State.Inv { s with pending := cs } := h

/-! ### Stretches of bytes -/

theorem State.Inv_setByte {s : State} (h : s.Inv) (a : Nat) (b : Byte) : (s.setByte a b).Inv :=
  (State.setByte_keeps (.refl s)).forms h

theorem State.Inv_setBytes {s : State} (h : s.Inv) (a : Nat) (bs : List Byte) : (s.setBytes a bs).Inv :=
  (State.setBytes_keeps (.refl s)).forms h

/-- Each byte of a stretch reads as it was written: those written after it lie above it. -/
theorem State.byte_setBytes {s : State} (h : s.Inv) (a : Nat) {bs : List Byte} {i : Nat} (hi : i < bs.length) :
    (s.setBytes a bs).byte (a + i) = bs[i] := by
  induction bs generalizing s a i with
  | nil => simp at hi
  | cons b bs ih =>
    rw [State.setBytes]
    cases i with
    | zero => rw [State.byte_setBytes_ne _ _ _ _ (.inl (by omega))]; exact State.byte_setByte h a b
    | succ i =>
      rw [show a + (i + 1) = a + 1 + i by omega]
      exact ih (State.Inv_setByte h a b) (a + 1) (Nat.lt_of_succ_lt_succ hi)

theorem State.bytesKept_setBytes (s : State) (a : Nat) (bs : List Byte) : s.BytesKept (s.setBytes a bs) a bs.length :=
  State.byte_setBytes_ne bs s a

theorem State.changes_setByte (s : State) (a : Nat) (b : Byte) : s.ChangesOnly (s.setByte a b) [.mem] := by
  intro p hp
  cases p with
  | mem => exact absurd (List.mem_singleton_self _) hp
  | _ => rfl

theorem State.changes_setBytes (s : State) (a : Nat) (bs : List Byte) : s.ChangesOnly (s.setBytes a bs) [.mem] := by
  induction bs generalizing s a with
  | nil => exact .refl s _
  | cons b bs ih => exact (State.changes_setByte s a b).trans (ih _ _)

/-! ### The obligations -/

/-- Settles O4: both tables are empty after reset. -/
theorem resetKeepsForms : Obligations.ResetKeepsForms := by
  unfold Obligations.ResetKeepsForms
  exact ⟨rfl, rfl⟩

/-- Settles O5: an idle step is a tick, any other is its command on the queue's rest, and both keep the forms. -/
theorem stepKeepsForms : Obligations.StepKeepsForms := by
  intro s t hs hstep
  cases hq : s.pending with
  | nil =>
    rw [step_of_pending_nil hq] at hstep
    cases hstep
    exact (State.tick_keeps (.refl s)).forms hs
  | cons c cs =>
    rw [step_of_pending_cons hq] at hstep
    exact ((exec_keeps (.refl _) c).keeps t hstep).forms (State.Inv_pending hs cs)

/-- Settles O7: a register by `State.rd_wr` and its frame, a stretch of bytes by induction on the bytes. -/
theorem registerAndMemoryReadBack : Obligations.RegisterAndMemoryReadBack := by
  refine ⟨fun s a v h => ?_, fun s a i bs h hi => ?_⟩
  · exact ⟨State.rd_wr h a v, State.regsKept_wr s a v, State.changes_wr s a v, State.Inv_wr h a v⟩
  · have read : (s.setBytes a bs).byte (a + i) = bs[i]?.getD 0 := by
      simp [State.byte_setBytes h a hi, hi]
    exact ⟨read, State.bytesKept_setBytes s a bs, State.changes_setBytes s a bs, State.Inv_setBytes h a bs⟩

end Sys2Proof.Machine
end

section
/-! PROOFS. Chapter 01: orders, decisions and boundaries, what the anchor does, and the messages of the map's epoch. -/

namespace Sys2Proof.Machine

/-! ### Orders and decisions (R85 to R88, R172, R470, R475) -/

/-- TREE_ATTACH that runs places its order, which is checked on arrival and again at the boundary (log entry 20). -/
theorem execTreeAttach_runs {s : State} {w : WinRef} (h : s.Runs w 0x15) :
    execTreeAttach w s = .next ((s.take w.key).placeOrder
      { kind := .attach, cmd := s.ref w, value := (s.frontCmd w.key).arg0, handle := (s.frontCmd w.key).arg1 }) :=
  congrArg _ (State.hostCmd_runs h)

/-- STEP_SUBMIT that runs queues its list, which waits for the boundary with the checks of R88 (log entry 60). -/
theorem execStepSubmit_runs {s : State} {w : WinRef} (h : s.Runs w 0x06) :
    execStepSubmit w s = .next (State.decided { s.take w.key with herd := { (s.take w.key).herd with
      waitHost := false
      submits := (s.take w.key).herd.submits
        ++ [((s.ref w).1, (s.ref w).2, (s.frontCmd w.key).arg0.toNat, (s.frontCmd w.key).arg1.toNat)] } } 0) :=
  congrArg _ (State.hostCmd_runs h)

section Decide

variable {s : State} {w : WinRef} (h : s.Runs w 0x07) (href : (s.frontCmd w.key).arg1.toNat < 2 ^ 32)
include h href

/-- DECIDE of a slot that no longer waits is counted and completes LATE (R31). -/
theorem execDecideCmd_late (hslot : (s.take w.key).waitingAt ((s.frontCmd w.key).arg1.truncate 32) = none) :
    execDecideCmd w s = .next (((s.take w.key).count Reg.FAULT_LATE_DECISIONS 1).complete (s.ref w) stLATE) := by
  simp only [execDecideCmd, State.hostCmd_runs h, hslot, decide_eq_true href]

/-- DECIDE of a decision that waits, by its own function and with an answer that is taken, completes OK (R475). -/
theorem execDecideCmd_answered {n a : Nat} {t : State}
    (hslot : (s.take w.key).waitingAt ((s.frontCmd w.key).arg1.truncate 32) = some n)
    (hawaits : ((s.take w.key).slot n).awaits = .decision)
    (hfn : ((s.take w.key).slot n).fn.val = (s.frontCmd w.key).arg0.toNat % 16)
    (hplace : (s.take w.key).answerAt ((s.take w.key).slot n) (s.frontCmd w.key).arg2.toNat = some a)
    (htaken : ((s.take w.key).endSlot n).answer ((s.take w.key).slot n) a = .ok t) :
    execDecideCmd w s = .next ((t.decided ((s.take w.key).slot n).fn.val).complete (s.ref w) stOK) := by
  have accepted : ¬ (((s.take w.key).slot n).awaits ≠ .decision
      ∨ ((s.take w.key).slot n).fn.val ≠ (s.frontCmd w.key).arg0.toNat % 16) := by
    rintro (hne | hne)
    · exact hne hawaits
    · exact hne hfn
  simp only [execDecideCmd, State.hostCmd_runs h, hslot, decide_eq_true href, if_neg accepted, hplace, htaken]

end Decide

section DecisionTimeout

variable {s : State} (halive : s.alive = true)
include halive

/-- The timeout of a slot that awaits a decision. -/
theorem execDecisionTimeout_slot {n : Fin 65536} (hwait : (s.slot n.val).state = .waiting)
    (hawaits : (s.slot n.val).awaits = .decision) :
    execDecisionTimeout (.slot n) s = .next (s.decisionLate (s.slot n.val).fn.val ((s.slotRef n.val).zeroExtend 64)) := by
  simp [execDecisionTimeout, halive, hwait, hawaits]

/-- The timeout of the host's work list; DETAIL0 is a free value (log entry 26). -/
theorem execDecisionTimeout_workList (hwait : s.herd.waitHost = true) :
    execDecisionTimeout .workList s = .next (s.drawn.decisionLate 0 s.freeNow) := by
  simp [execDecisionTimeout, halive, hwait]

/-- The timeout of a connection's window. -/
theorem execDecisionTimeout_window {n : Fin 8192} (hwait : s.windowWaits (s.netConn n.val) = true) :
    execDecisionTimeout (.window n) s = .next (s.drawn.decisionLate 6 s.freeNow) := by
  simp [execDecisionTimeout, halive, hwait]

/-- The timeout of a staging session's next block. -/
theorem execDecisionTimeout_block (hsession : s.fw.session.isSome = true) (hmode : s.fnMode 9 = .hostAssist) :
    execDecisionTimeout .block s = .next (s.drawn.decisionLate 9 s.freeNow) := by
  simp [execDecisionTimeout, halive, hsession, hmode]

end DecisionTimeout

/-- Settles O27: an order's or a decision's own effect, once the command runs (`State.hostCmd_runs`) or its item is awaited. -/
theorem orderAndDecisionCommands : Obligations.OrderAndDecisionCommands := by
  unfold Obligations.OrderAndDecisionCommands
  refine ⟨fun s w => ⟨rfl, rfl⟩, fun s w h => execTreeAttach_runs h, fun s w h => execStepSubmit_runs h,
    fun s w h href hslot => execDecideCmd_late h href hslot,
    fun s w n a t h href hslot hawaits hfn hplace htaken => execDecideCmd_answered h href hslot hawaits hfn hplace htaken,
    fun s n halive hwait hawaits => execDecisionTimeout_slot halive hwait hawaits, fun s halive => ⟨?_, ?_, ?_⟩⟩
  · exact execDecisionTimeout_workList halive
  · exact fun n => execDecisionTimeout_window halive
  · exact execDecisionTimeout_block halive

/-! ### The anchor and the boundary (R21 to R26, R35, R86, R474) -/

/-- The deadline of an active request passes (R25). -/
theorem execDeadlineExpiry_active {s : State} {i : Fin 65536} (halive : s.alive = true)
    (hactive : (s.recordAt i.val).state = .active) (hset : (s.recordAt i.val).deadline ≠ 0) :
    execDeadlineExpiry i s = .next (s.endRequest i.val stTIMEOUT) := by
  simp [execDeadlineExpiry, halive, hactive, hset]

/-- A token of a request that the anchor does not know (R26). -/
theorem execTokenArrival_unknown {s : State} {q : U64} (h : s.findRequest q = none) (k : Nat) (x : U32) :
    execTokenArrival q k x s = .next { s with anchor := { s.anchor with late := satAdd 32 s.anchor.late 1 } } := by
  simp only [execTokenArrival, h]

/-- A token of a known request (R21). -/
theorem execTokenArrival_known {s : State} {q : U64} {i : Nat} (h : s.findRequest q = some i) (k : Nat) (x : U32) :
    execTokenArrival q k x s = .next (s.tokenIn i k x) := by
  simp only [execTokenArrival, h]

/-- The tokens held for an active request are written (R474). -/
theorem execTokenHoldExpiry_active {s : State} {i : Fin 65536} (h : (s.recordAt i.val).state = .active) :
    execTokenHoldExpiry i s = .next (s.flushTokens i.val) := by
  simp only [execTokenHoldExpiry, if_pos h]

/-- An entry stays preempted for too long (R86). -/
theorem execPreemptMaxExpiry_preempted {s : State} {n : Fin 65536} (halive : s.alive = true)
    (h : (s.entry n.val).state = .preempted) :
    execPreemptMaxExpiry n s = .next (s.failQuiet n.val stNO_PAGES) := by
  simp [execPreemptMaxExpiry, halive, h]

/-- A device with no step running passes its boundary (R35). -/
theorem execIdleBoundary_idle {s : State} (h : s.atBoundary = true) : execIdleBoundary s = .next s.boundary := by
  simp only [execIdleBoundary, if_pos h]

/-- Settles O30: each clause is the acting branch of its command. -/
theorem anchorAndBoundaryCommands : Obligations.AnchorAndBoundaryCommands := by
  unfold Obligations.AnchorAndBoundaryCommands
  exact ⟨fun s i halive hactive hset => execDeadlineExpiry_active halive hactive hset,
    fun s q k x h => execTokenArrival_unknown h k x, fun s q k i x h => execTokenArrival_known h k x,
    fun s i h => execTokenHoldExpiry_active h, fun s n halive h => execPreemptMaxExpiry_preempted halive h,
    fun s h => execIdleBoundary_idle h⟩

/-! ### Messages of the map's epoch (R234 to R236, R263) -/

/-- A message that passes the checks and is of the device's epoch is recorded and then does what its kind says. -/
theorem State.takeMsg_same_epoch {s : State} {m : Msg} (hok : s.msgOk m = true)
    (hepoch : epochDiff m.mapEpoch s.handoff.epoch = 0) : s.takeMsg m = (s.msgTrace 1 m).handle m := by
  simp [State.takeMsg, hok, hepoch]

/-- A live device with an ID takes what arrives. -/
theorem State.arrive_live {s : State} (hid : s.unassigned = false) (halive : s.alive = true) (kind : Nat) (m : Msg) :
    s.arrive kind m = s.takeMsg { m with kind := kind } := by
  simp [State.arrive, hid, halive]

/-- A message of the device's epoch that arrives at a live device is recorded and does what its kind says. -/
theorem State.arrive_same_epoch {s : State} {kind : Nat} {m : Msg} (hid : s.unassigned = false) (halive : s.alive = true)
    (hok : s.msgOk { m with kind := kind } = true) (hepoch : epochDiff m.mapEpoch s.handoff.epoch = 0) :
    s.arrive kind m = (s.msgTrace 1 { m with kind := kind }).handle { m with kind := kind } :=
  (State.arrive_live hid halive kind m).trans (State.takeMsg_same_epoch hok hepoch)

section Kinds

variable (s : State) (m : Msg)

theorem State.handle_query : s.handle { m with kind := mQUERY } = s.onQuery { m with kind := mQUERY } := rfl

theorem State.handle_partial : s.handle { m with kind := mPARTIAL } = s.onPartial { m with kind := mPARTIAL } := rfl

theorem State.handle_admit : s.handle { m with kind := mADMIT } = s.onAdmit { m with kind := mADMIT } := rfl

theorem State.handle_promptTokens :
    s.handle { m with kind := mPROMPT_TOKENS } = s.onPromptTokens { m with kind := mPROMPT_TOKENS } := rfl

theorem State.handle_redirect : s.handle { m with kind := mREDIRECT } = s.anchorRedirect { m with kind := mREDIRECT } := rfl

theorem State.handle_register : s.handle { m with kind := mREGISTER } = s.anchorRegister { m with kind := mREGISTER } := rfl

theorem State.handle_end : s.handle { m with kind := mEND } = s.onEnd { m with kind := mEND } := rfl

theorem State.handle_released : s.handle { m with kind := mRELEASED } = s.anchorReleased { m with kind := mRELEASED } := rfl

end Kinds

/-- The step that every clause of a message kind takes: the message is recorded, and `handle` picks its kind's effect. -/
theorem arrive_next_of_handle {s : State} {kind : Nat} {m : Msg} {effect : State → State}
    (hkind : ∀ u : State, u.handle { m with kind := kind } = effect u)
    (hid : s.unassigned = false) (halive : s.alive = true) (hok : s.msgOk { m with kind := kind } = true)
    (hepoch : epochDiff m.mapEpoch s.handoff.epoch = 0) :
    (Host.Outcome.next (s.arrive kind m) : Host.Outcome State Fault Refusal)
      = .next (effect (s.msgTrace 1 { m with kind := kind })) := by
  rw [State.arrive_same_epoch hid halive hok hepoch, hkind]

/-- Settles O32: the shared checks by `arrive_next_of_handle`, then the kind's branch of `State.handle`. -/
theorem messagesOfThisEpoch : Obligations.MessagesOfThisEpoch := by
  unfold Obligations.MessagesOfThisEpoch
  exact ⟨fun _ m => arrive_next_of_handle fun u => u.handle_query m,
    fun _ m => arrive_next_of_handle fun u => u.handle_partial m,
    fun _ m => arrive_next_of_handle fun u => u.handle_admit m,
    fun _ m => arrive_next_of_handle fun u => u.handle_promptTokens m,
    fun _ m => arrive_next_of_handle fun u => u.handle_redirect m,
    fun _ m => arrive_next_of_handle fun u => u.handle_register m,
    fun _ m => arrive_next_of_handle fun u => u.handle_end m,
    fun _ m => arrive_next_of_handle fun u => u.handle_released m⟩

end Sys2Proof.Machine
end

section
/-! PROOFS. Chapters 02 and 07: the check tag of a tile, and the scrub, the page test, the page auditor and the region select. -/

namespace Sys2Proof.Machine

/-! ### CRC-64/XZ (R48) -/

/-- One bit of CRC-64/XZ as its parameters state it: the register's highest bit meets the message bit (R48). -/
def crcShift (r : BitVec 64) (b : Bool) : BitVec 64 :=
  if (r.msb ^^ b) then (r <<< 1) ^^^ 0x42F0E1EBA9EA3693 else r <<< 1

/-- A byte's bits in the order in which a reflected CRC takes them, from the lowest up. -/
def crcBits (x : Byte) : List Bool := (List.range 8).map x.getLsbD

theorem reverse_xor {w : Nat} (x y : BitVec w) : (x ^^^ y).reverse = x.reverse ^^^ y.reverse := by
  ext i hi
  simp only [BitVec.getElem_reverse, BitVec.getElem_xor, BitVec.getMsbD_xor]

theorem reverse_shiftLeft_one {w : Nat} (x : BitVec w) : (x <<< 1).reverse = x.reverse >>> 1 := by
  ext i hi
  simp only [BitVec.getElem_reverse, BitVec.getElem_ushiftRight, BitVec.getMsbD_shiftLeft, BitVec.getLsbD_reverse,
    Nat.add_comm]

/-- The model's polynomial is the stated one, reflected. -/
theorem reverse_crcPolynomial : (0x42F0E1EBA9EA3693 : BitVec 64).reverse = 0xC96C5795D7870F42 := by decide +kernel

theorem reverse_allOnes (w : Nat) : (BitVec.allOnes w).reverse = BitVec.allOnes w := by
  ext i hi
  simp only [BitVec.getElem_reverse, BitVec.getMsbD_allOnes, BitVec.getElem_allOnes, hi, decide_true]

/-- A bit combined into the lowest bit decides the feedback and is then shifted out. -/
theorem crcBit_xor_bit (c : Nat) (b : Bool) :
    crcBit (c ^^^ b.toNat) = if (c.testBit 0 ^^ b) then (c / 2) ^^^ 0xC96C5795D7870F42 else c / 2 := by
  have low : ((c ^^^ b.toNat) % 2 = 1) = ((c.testBit 0 ^^ b) = true) := by
    rw [Nat.mod_two_eq_one_iff_testBit_zero, Nat.testBit_xor]
    cases b <;> rfl
  have rest : (c ^^^ b.toNat) / 2 = c / 2 := by
    rw [Nat.xor_div_two]
    cases b <;> simp
  simp only [crcBit, low, rest]

/-- The reflected register of the model follows the stated one, bit by bit. -/
theorem crcBit_reverse (r : BitVec 64) (b : Bool) : crcBit (r.reverse.toNat ^^^ b.toNat) = (crcShift r b).reverse.toNat := by
  have out : r.reverse.toNat.testBit 0 = r.msb := by
    rw [BitVec.testBit_toNat, BitVec.getLsbD_reverse, BitVec.msb]
  have shifted : (r <<< 1).reverse.toNat = r.reverse.toNat / 2 := by
    rw [reverse_shiftLeft_one, BitVec.toNat_ushiftRight, Nat.shiftRight_one]
  rw [crcBit_xor_bit, out, crcShift]
  split
  · rw [reverse_xor, reverse_crcPolynomial, BitVec.toNat_xor, shifted]
    rfl
  · exact shifted.symm

/-- Bits above the lowest only move down: they may be combined after the shift. -/
theorem crcBit_xor (c x : Nat) : crcBit (c ^^^ x) = crcBit (c ^^^ (x.testBit 0).toNat) ^^^ x / 2 := by
  have low : ((c ^^^ x) % 2 = 1) = ((c.testBit 0 ^^ x.testBit 0) = true) := by
    rw [Nat.mod_two_eq_one_iff_testBit_zero, Nat.testBit_xor]
  rw [crcBit_xor_bit]
  simp only [crcBit, low, Nat.xor_div_two]
  split
  · exact Nat.xor_right_comm _ _ _
  · rfl

/-- Combining `n` bits at once and shifting `n` times is combining and shifting them one by one, from the lowest up. -/
theorem iterate_crcBit_xor (n c x : Nat) (h : x < 2 ^ n) :
    crcBit^[n] (c ^^^ x) = ((List.range n).map x.testBit).foldl (fun c b => crcBit (c ^^^ b.toNat)) c := by
  induction n generalizing c x with
  | zero =>
    obtain rfl : x = 0 := by omega
    simp
  | succ n ih =>
    have higher : x.testBit ∘ Nat.succ = (x / 2).testBit := funext (Nat.testBit_add_one x)
    rw [Function.iterate_succ_apply, crcBit_xor, ih _ _ (by omega), List.range_succ_eq_map, List.map_cons, List.map_map,
      higher, List.foldl_cons]

/-- A byte of the model's CRC is its eight bits of the stated one. -/
theorem crcByte_reverse (r : BitVec 64) (x : Byte) :
    crcByte r.reverse.toNat x = ((crcBits x).foldl crcShift r).reverse.toNat := by
  have bits : crcBits x = (List.range 8).map x.toNat.testBit :=
    congrArg (List.map · _) (funext fun i => (BitVec.testBit_toNat x).symm)
  calc crcByte r.reverse.toNat x
      = crcBit^[8] (r.reverse.toNat ^^^ x.toNat) := rfl
    _ = (crcBits x).foldl (fun c b => crcBit (c ^^^ b.toNat)) r.reverse.toNat := by
      rw [iterate_crcBit_xor 8 _ _ x.isLt, bits]
    _ = _ := List.foldl_hom (fun r : BitVec 64 => r.reverse.toNat) crcBit_reverse

/-- The model's CRC over whole bytes is CRC-64/XZ by its parameters: initial value, reflection and final exclusive-or. -/
theorem crc64_eq_parameters (bs : List Byte) :
    crc64 bs = (((bs.flatMap crcBits).foldl crcShift (BitVec.allOnes 64)).reverse ^^^ BitVec.allOnes 64).toNat := by
  rw [BitVec.toNat_xor, List.foldl_flatMap,
    ← List.foldl_hom (fun r : BitVec 64 => r.reverse.toNat) crcByte_reverse, reverse_allOnes]
  rfl

/-! ### Sealing a tile (R47, R48) -/

/-- A tile without poison is sealed with its tag (R47, R222). -/
theorem State.sealSlot_unpoisoned {s : State} {p slot : Nat} (h : s.tilePoisoned p slot = false) :
    s.sealSlot p slot = s.sealWith p slot (s.tileTag p slot) := by
  rw [State.sealSlot, h, if_neg Bool.false_ne_true]

/-- A page's descriptor once a slot is sealed. -/
def PageDesc.sealedWith (d : PageDesc) (slot : Nat) (tag : U64) : PageDesc :=
  { d with sealed := d.sealed ||| BitVec.ofNat 3 (2 ^ slot), tags := (d.tags ++ [0, 0, 0]).take 3 |>.set slot tag }

theorem State.sealWith_eq (s : State) (p slot : Nat) (tag : U64) :
    s.sealWith p slot tag = s.setPage p ((s.page p).sealedWith slot tag) := rfl

/-- A sealed slot's tag is the one that is recorded. -/
theorem PageDesc.tag_sealedWith (d : PageDesc) {slot : Nat} (h : slot < 3) (tag : U64) :
    (d.sealedWith slot tag).tag slot = tag := by
  simp [PageDesc.sealedWith, PageDesc.tag, List.getD, h]

theorem PageDesc.sealed_sealedWith (d : PageDesc) {slot : Nat} (h : slot < 3) (tag : U64) :
    (d.sealedWith slot tag).sealed.getLsbD slot = true := by
  rw [PageDesc.sealedWith, BitVec.getLsbD_or, BitVec.getLsbD_ofNat, Nat.testBit_two_pow_self, decide_eq_true h,
    Bool.and_self, Bool.or_true]

/-- Settles O8: a simulation of the stated register by the reflected one, bit by bit; then the equations of sealing. -/
theorem tileTagIsCrc64Xz : Obligations.TileTagIsCrc64Xz := by
  unfold Obligations.TileTagIsCrc64Xz
  refine ⟨crc64_eq_parameters, by decide +kernel, fun s p slot h => State.sealSlot_unpoisoned h, fun s p slot h hslot _ => ?_,
    by decide⟩
  have hseal : s.sealSlot p slot = s.setPage p ((s.page p).sealedWith slot (s.tileTag p slot)) := by
    rw [State.sealSlot_unpoisoned h, State.sealWith_eq]
  exact ⟨_, hseal, PageDesc.tag_sealedWith _ hslot _, PageDesc.sealed_sealedWith _ hslot _⟩

/-! ### The patrol scrub (R196 to R200) -/

/-- The code finds what is there where no more than two symbols are wrong (R196), so nothing is misread. -/
theorem State.misread_of_le (s : State) {f : List (Nat × BitVec 4)} (h : wrongSymbols f ≤ 2) (a n : Nat) :
    s.misread f a n = s := by
  rw [State.misread, if_pos h]

/-- A scrub read of a tile-store word that is as stored does nothing. -/
theorem execPatrolScrubRead_tile_clean (s : State) (x b r : Nat) {f : List (Nat × BitVec 4)} (h : wrongSymbols f = 0) :
    execPatrolScrubRead (.tile x) f b r s = .next s := by
  simp [execPatrolScrubRead, h, codeFinds, State.misread_of_le]

section ScrubRead

variable {s : State} {f : List (Nat × BitVec 4)} (hreset : s.pins.resetN = true)
include hreset

/-- One wrong symbol of a tile-store word is corrected and counted (R198). -/
theorem execPatrolScrubRead_tile_corrected {x : Nat} (hformed : addrFormed (poisonUnit x) = true)
    (hspace : addrSpace (poisonUnit x) = 1) (h : wrongSymbols f = 1) (b r : Nat) :
    execPatrolScrubRead (.tile x) f b r s = .next (s.count Reg.TIER_CE_TOTAL 1) := by
  simp [execPatrolScrubRead, hreset, hformed, hspace, h, codeFinds, State.misread_of_le]

section Channel

variable {l : Fin 640} {unit : Nat} (hunit : unit < 11718750)
include hunit

/-- One wrong symbol of a channel's unit is corrected, and counted for its channel and row (R198). -/
theorem execPatrolScrubRead_hbm_corrected {a : Nat} (haddr : s.addrOfChannel l.val (64 * unit) = some a)
    (h : wrongSymbols f = 1) (b r : Nat) :
    execPatrolScrubRead (.hbm l unit) f b r s = .next (s.corrected l.val b r) := by
  simp [execPatrolScrubRead, hreset, hunit, haddr, h, codeFinds, State.misread_of_le]

/-- Two wrong symbols of a unit that a region holds make it uncorrectable at its address (R197). -/
theorem execPatrolScrubRead_hbm_uncorrectable {a : Nat} (haddr : s.addrOfChannel l.val (64 * unit) = some a)
    (h : wrongSymbols f = 2) (b r : Nat) :
    execPatrolScrubRead (.hbm l unit) f b r s = .next (s.uncorrectableAt a b r) := by
  simp [execPatrolScrubRead, hreset, hunit, haddr, h, codeFinds]

/-- Two wrong symbols of a unit that no region holds poison the channel's unit, which has no address (log entry 91). -/
theorem execPatrolScrubRead_unmapped_uncorrectable (haddr : s.addrOfChannel l.val (64 * unit) = none)
    (h : wrongSymbols f = 2) (b r : Nat) :
    execPatrolScrubRead (.hbm l unit) f b r s = .next (s.uncorrectableUnit l.val unit b r) := by
  simp [execPatrolScrubRead, hreset, hunit, haddr, h, codeFinds]

end Channel

end ScrubRead

/-! ### The test of a quarantined page (R201, R202) -/

section QuarantineTest

variable {s : State} {p : U32} (htestable : s.testable p.toNat = true)
include htestable

/-- A page whose test finds no failing row is FREE, and holds the last pattern. -/
theorem execQuarantineTest_passes :
    let u := s.write (s.pageAddr p.toNat) testPattern
    execQuarantineTest p [] [] s
      = .next (u.setPage p.toNat { u.page p.toNat with state := .free, qcause := 0, changed := u.now }) := by
  simp [execQuarantineTest, htestable]

/-- A page with a row that failed and found no spare is retired. -/
theorem execQuarantineTest_fails {failed : List (Nat × Nat)} (hfailed : failed ≠ []) :
    execQuarantineTest p [] failed s
      = .next ((s.write (s.pageAddr p.toNat) testPattern).retirePage p.toNat failed) := by
  simp [execQuarantineTest, htestable, hfailed]

end QuarantineTest

/-! ### The page auditor (R64, R67) -/

section Audit

variable {s : State} (hon : s.auditOn = true)
include hon

/-- The first sample notes whether the counts are off. -/
theorem execPoolAuditSample_on : execPoolAuditSample s = .next { s with tier := { s.tier with suspect := s.poolOff } } := by
  rw [execPoolAuditSample, if_pos hon]

variable (hsuspect : s.tier.suspect = true)
include hsuspect

/-- A mismatch that is gone at the second sample is dropped. -/
theorem execPoolAuditResample_gone (hoff : s.poolOff = false) :
    execPoolAuditResample s = .next { s with tier := { s.tier with suspect := false } } := by
  simp [execPoolAuditResample, hon, hsuspect, hoff]

end Audit

/-- The register marks of a mismatch that lasts (R64, R395): the flags of TIER_POOL_AUDIT and FAULT_AUDIT, and the count. -/
def State.auditMarked (s : State) : State :=
  ((s.setFlag Reg.TIER_POOL_AUDIT 3 true).setFlag Reg.FAULT_AUDIT 0 true).bump Reg.TIER_POOL_AUDIT 16 16 1

/-- The record of a mismatch that lasts: the four counts' sum and the total (R64). -/
def State.auditRecord (s : State) : FaultInfo :=
  { severity := .deferred, block := 0x008, cause := 0x0023
    detail0 := BitVec.ofNat 64 (s.tier.free + s.tier.alloc + s.tier.inFlight + s.tier.quar), detail1 := BitVec.ofNat 64 s.tier.total }

/-- A mismatch that lasts is marked and recorded, and a recount starts. -/
theorem execPoolAuditResample_lasts {s : State} (hon : s.auditOn = true) (hsuspect : s.tier.suspect = true)
    (hoff : s.poolOff = true) (hidle : s.tier.recounting = false) :
    execPoolAuditResample s = .next (s.auditMarked.raise s.auditRecord).startRecount := by
  simp [execPoolAuditResample, hon, hsuspect, hoff, hidle, State.auditMarked, State.auditRecord]

theorem State.regsKept_auditMarked (s : State) : s.RegsKept s.auditMarked [Reg.TIER_POOL_AUDIT, Reg.FAULT_AUDIT] := by
  intro a ha
  obtain ⟨hpool, hfault⟩ : a ≠ Reg.TIER_POOL_AUDIT ∧ a ≠ Reg.FAULT_AUDIT := by simpa using ha
  rw [State.auditMarked, State.rd_bump_ne hpool, State.rd_setFlag_ne hfault, State.rd_setFlag_ne hpool]

theorem State.changes_auditMarked (s : State) : s.ChangesOnly s.auditMarked [.regs] :=
  ((State.changes_wr s _ _).trans (State.changes_wr _ _ _)).trans (State.changes_wr _ _ _)

/-! ### The recount (R64, R67) -/

theorem execRecount_idle {s : State} (h : s.tier.recounting = false) : execRecount s = .next s.startRecount := by
  rw [execRecount, h, if_neg Bool.false_ne_true]

/-- A recount that finds every descriptor valid takes its counts, ends the hold and serves what waited. -/
theorem execRecountDone_good {s : State} (h : s.tier.recounting = true) :
    execRecountDone none s = .next (State.serveAll
      { s.recounted with tier := { s.recounted.tier with recounting := false, held := false } }) := by
  simp [execRecountDone, h]

/-! ### The region select (R203, R561) -/

/-- The state in which a region is selected and its snapshot taken. -/
def State.regionSelected (s : State) (i : Nat) : State :=
  { s.wr Reg.TIER_REGION_SEL (BitVec.ofNat 32 i) with tier := { s.tier with regionSnap := s.tier.regions.get i } }

theorem execTierRegionSelWrite_eq (v : U32) (s : State) :
    execTierRegionSelWrite v s = .next (s.regionSelected (v.toNat % 1024)) := rfl

theorem State.rd_regionSelected {s : State} (h : s.Inv) (i : Nat) :
    (s.regionSelected i).rd Reg.TIER_REGION_SEL = BitVec.ofNat 32 i := State.rd_wr h _ _

theorem State.regsKept_regionSelected (s : State) (i : Nat) : s.RegsKept (s.regionSelected i) [Reg.TIER_REGION_SEL] :=
  State.regsKept_wr s _ _

theorem State.changes_regionSelected (s : State) (i : Nat) : s.ChangesOnly (s.regionSelected i) [.regs, .tier] := by
  intro p hp
  cases p with
  | regs => exact absurd (by decide) hp
  | tier => exact absurd (by decide) hp
  | _ => rfl

/-- Settles O31: each clause is the branch of its command that the clause's hypotheses pick. -/
theorem scrubAuditAndRegionCommands : Obligations.ScrubAuditAndRegionCommands := by
  unfold Obligations.ScrubAuditAndRegionCommands
  refine ⟨fun s x b r f => execPatrolScrubRead_tile_clean s x b r,
    fun s x b r f hreset hformed hspace h => execPatrolScrubRead_tile_corrected hreset hformed hspace h b r,
    fun s l unit a b r f hreset hunit haddr => ⟨fun h => execPatrolScrubRead_hbm_corrected hreset hunit haddr h b r,
      fun h => execPatrolScrubRead_hbm_uncorrectable hreset hunit haddr h b r⟩,
    fun s l unit b r f hreset hunit haddr h => execPatrolScrubRead_unmapped_uncorrectable hreset hunit haddr h b r,
    fun s p f h => ⟨execQuarantineTest_passes h, execQuarantineTest_fails h⟩,
    fun s hon => execPoolAuditSample_on hon,
    fun s hon hsuspect hoff => execPoolAuditResample_gone hon hsuspect hoff,
    fun s hon hsuspect hoff hidle => ⟨s.auditMarked, execPoolAuditResample_lasts hon hsuspect hoff hidle,
      s.regsKept_auditMarked, s.changes_auditMarked⟩,
    fun s h => execRecount_idle h, fun s h => execRecountDone_good h,
    fun s v h => ⟨_, execTierRegionSelWrite_eq v s, State.rd_regionSelected h _, rfl, s.regsKept_regionSelected _,
      s.changes_regionSelected _⟩⟩

end Sys2Proof.Machine
end

section
/-! PROOFS. Chapter 03: the step boundary, the registers of the HERD block, the sequencer's operations and the step's close. -/

namespace Sys2Proof.Machine

/-! ### The step boundary (R73, R88, R91) -/

section StepBoundary

variable {s : State} {n : Nat} {g : List SampleSupply} (hboundary : s.atBoundary = true)
include hboundary

/-- Without leave to build, the boundary's control work and the supplied sampling states are all that happens (R91). -/
theorem execStepBoundary_rests (hbuild : (s.boundary.supplyAll g).mayBuild = false) :
    execStepBoundary n g s = .next (s.boundary.supplyAll g) := by
  simp only [execStepBoundary, hboundary, hbuild, Bool.not_true, Bool.not_false, Bool.false_eq_true, if_true, if_false]

variable (hbuild : (s.boundary.supplyAll g).mayBuild = true)
include hbuild

/-- After the boundary's control work the machine builds the step, unless a host assists (R73). -/
theorem execStepBoundary_builds (hmode : (s.boundary.supplyAll g).fnMode 0 ≠ .hostAssist) :
    execStepBoundary n g s = .next ((s.boundary.supplyAll g).build n) := by
  simp only [execStepBoundary, hboundary, hbuild, Bool.not_true, Bool.false_eq_true, if_false, if_neg hmode]

/-- After the boundary's control work an assisting host's list makes the step (R88). -/
theorem execStepBoundary_assisted (hmode : (s.boundary.supplyAll g).fnMode 0 = .hostAssist) :
    execStepBoundary n g s = .next (s.boundary.supplyAll g).assistedBuild := by
  simp only [execStepBoundary, hboundary, hbuild, Bool.not_true, Bool.false_eq_true, if_false, if_pos hmode]

end StepBoundary

/-! ### Registers of the HERD block (R83, R91, R560) -/

/-- While PAUSE is 1, the order for one step is noted. -/
theorem execStepSingle_paused {s : State} (h : s.flag Reg.HERD_STEP_CTRL 1 = true) :
    execStepSingle s = .next { s with herd := { s.herd with single := true } } := by
  rw [execStepSingle, if_pos h]

/-- The state in which a slot is selected and the snapshot of its entry taken. -/
def State.entrySelected (s : State) (n : Nat) : State :=
  { s.wr Reg.HERD_ENTRY_SEL (BitVec.ofNat 32 n) with herd := { s.herd with snap := some (s.entry n) } }

theorem State.rd_entrySelected {s : State} (h : s.Inv) (n : Nat) :
    (s.entrySelected n).rd Reg.HERD_ENTRY_SEL = BitVec.ofNat 32 n := State.rd_wr h _ _

theorem State.regsKept_entrySelected (s : State) (n : Nat) : s.RegsKept (s.entrySelected n) [Reg.HERD_ENTRY_SEL] :=
  State.regsKept_wr s _ _

theorem State.changes_entrySelected (s : State) (n : Nat) : s.ChangesOnly (s.entrySelected n) [.regs, .herd] := by
  intro p hp
  cases p with
  | regs => exact absurd (by decide) hp
  | herd => exact absurd (by decide) hp
  | _ => rfl

theorem execHerdEntrySelWrite_within {s : State} {n : Fin 65536} (h : n.val < s.herdSize) :
    execHerdEntrySelWrite n s = .next (s.entrySelected n.val) := by
  rw [execHerdEntrySelWrite, if_neg (Nat.not_le.2 h)]
  rfl

/-- A slot beyond the table sets CFG_ERR. -/
theorem execHerdEntrySelWrite_beyond {s : State} {n : Fin 65536} (h : s.herdSize ≤ n.val) :
    execHerdEntrySelWrite n s = .next (s.setFlag Reg.HERD_STEP_STATUS 5 true) := by
  rw [execHerdEntrySelWrite, if_pos h]

/-- At EXPERT level, the weight of a peer that the table holds or has room for is set and pinned as written (R83). -/
theorem execHerdPeerWeightWrite_expert {s : State} {v : U32} (hexpert : s.flag Reg.HERD_PROFILE 4 = true)
    (hroom : (s.peer (s.field Reg.HERD_PEER_SEL 0 16)).present = true ∨ s.peerCount < 512) :
    execHerdPeerWeightWrite v s = .next (s.setPeer (s.field Reg.HERD_PEER_SEL 0 16)
      { s.peer (s.field Reg.HERD_PEER_SEL 0 16) with
        present := true, reduce := 255 - v.toNat % 256, pinned := v.getLsbD 9 }) := by
  have accepted : ¬ (s.flag Reg.HERD_PROFILE 4 = false
      ∨ ((!(s.peer (s.field Reg.HERD_PEER_SEL 0 16)).present) = true ∧ 512 ≤ s.peerCount)) := by
    rintro (hbasic | ⟨habsent, hfull⟩)
    · exact absurd (hexpert.symm.trans hbasic) (by decide)
    · rcases hroom with hpresent | hfree
      · simp [hpresent] at habsent
      · omega
  exact congrArg _ (if_neg accepted)

/-- At BASIC level (log entry 75), or for a peer that a full table does not hold, the write sets CFG_ERR. -/
theorem execHerdPeerWeightWrite_refused {s : State} {v : U32} (h : s.flag Reg.HERD_PROFILE 4 = false
      ∨ ((s.peer (s.field Reg.HERD_PEER_SEL 0 16)).present = false ∧ 512 ≤ s.peerCount)) :
    execHerdPeerWeightWrite v s = .next (s.setFlag Reg.HERD_STEP_STATUS 5 true) := by
  have refused : s.flag Reg.HERD_PROFILE 4 = false
      ∨ ((!(s.peer (s.field Reg.HERD_PEER_SEL 0 16)).present) = true ∧ 512 ≤ s.peerCount) := by
    simpa only [Bool.not_eq_true'] using h
  exact congrArg _ (if_pos refused)

/-- Settles O36: each clause is the branch of its command that the clause's hypotheses pick. -/
theorem stepCommands : Obligations.StepCommands := by
  unfold Obligations.StepCommands
  exact ⟨fun s n g hboundary hbuild hmode => execStepBoundary_builds hboundary hbuild hmode,
    fun s n g hboundary hbuild hmode => execStepBoundary_assisted hboundary hbuild hmode,
    fun s n g hboundary hbuild => execStepBoundary_rests hboundary hbuild,
    fun s b => ⟨rfl, rfl⟩,
    fun s hpaused => execStepSingle_paused hpaused,
    fun s h => ⟨_, rfl, State.rd_wr h _ _, State.regsKept_wr s _ _, State.changes_wr s _ _⟩,
    fun s n h hslot => ⟨_, execHerdEntrySelWrite_within hslot, rfl, State.rd_entrySelected h _, s.regsKept_entrySelected _,
      s.changes_entrySelected _⟩,
    fun s n hslot => execHerdEntrySelWrite_beyond hslot,
    fun s v hexpert hroom => execHerdPeerWeightWrite_expert hexpert hroom,
    fun s v h => execHerdPeerWeightWrite_refused h⟩

/-! ### The sequencer (R87) -/

section Sequencer

variable {s : State} {m : Fin 64} {st : Step} (hstep : s.herd.step = some st)
include hstep

/-- The next operation of a model's sequence is issued once the operations that it needs have completed. -/
theorem execSequencerIssueOp_issues {op : SeqOp} (halive : s.alive = true)
    (hop : (s.plan (BitVec.ofNat 6 m.val)).ops[st.taken.get m.val]? = some op)
    (hmay : s.mayTake st { model := BitVec.ofNat 6 m.val, place := st.taken.get m.val, op := op } = true) :
    execSequencerIssueOp m s = .next (s.issueOp st.number
      { model := BitVec.ofNat 6 m.val, place := st.taken.get m.val, op := op }) := by
  simp only [execSequencerIssueOp, hstep, halive, hop, hmay, if_true]

/-- A sequence that is at its end issues nothing, whether or not the device is alive. -/
theorem execSequencerIssueOp_ended (hop : (s.plan (BitVec.ofNat 6 m.val)).ops[st.taken.get m.val]? = none) :
    execSequencerIssueOp m s = .next s := by
  cases halive : s.alive with
  | false => simp only [execSequencerIssueOp, hstep, halive]
  | true => simp only [execSequencerIssueOp, hstep, halive, hop]

end Sequencer

/-! ### The step's close (R75, R87, R176) -/

section StepClose

variable {s : State} {st : Step} (hstep : s.herd.step = some st) (halive : s.alive = true) (hran : s.stepRan st = true)
include hstep halive hran

/-- With no tree's path left to the host, every entry is closed and the step finishes. -/
theorem execStepClose_closes (htrees : s.hostTrees st = []) :
    execStepClose s = .next ((st.entries.foldl (fun s e => s.closeEntry st e) s).finishStep st) := by
  simp [execStepClose, hstep, halive, hran, htrees]

/-- An assisting host is asked once for the paths of the step's trees. -/
theorem execStepClose_asks (htrees : s.hostTrees st ≠ []) (hasked : st.pathsAsked = false) :
    execStepClose s = .next ((s.hostTrees st).foldl (fun s e => s.askPath st e)
      (s.modStep fun x => { x with pathsAsked := true })) := by
  simp [execStepClose, hstep, halive, hran, htrees, hasked]

end StepClose

/-- Settles O37: an operation that may be taken goes to `State.issueOp`, a step that has run to its close. -/
theorem stepOperations : Obligations.StepOperations := by
  unfold Obligations.StepOperations
  exact ⟨fun s m st op hstep halive hop hmay => execSequencerIssueOp_issues hstep halive hop hmay,
    fun s m st hstep hop => execSequencerIssueOp_ended hstep hop,
    fun s st hstep halive hran htrees => execStepClose_closes hstep halive hran htrees,
    fun s st hstep halive hran htrees hasked => execStepClose_asks hstep halive hran htrees hasked⟩

end Sys2Proof.Machine
end

section
/-! PROOFS. Chapter 04: the Eland array's operations begin, its tiles end, and its control registers are written. -/

namespace Sys2Proof.Machine

/-! ### An operation begins (R97, R100, R103, R120, R123) -/

/-- The state in which operation `i` of the queue has begun: its tiles wait, and it has drawn its place among the free values. -/
def State.opBegun (s : State) (i : Nat) (op : ElandOp) : State :=
  State.drawn (s.setOp i { op with
    begun := true, total := s.elandTiles op, waiting := List.range (s.elandTiles op), beganAt := s.now, draw := s.fresh })

section BeginOp

variable {s : State} {op : ElandOp}

/-- An operation with DEP takes the status of one before it that ended MALFORMED, PRIVILEGE or FENCED (R100). -/
theorem State.beginOp_cascades (i : Nat) (hdep : op.desc.dep = true)
    (hlast : s.eland.lastStatus = stMALFORMED ∨ s.eland.lastStatus = stPRIVILEGE ∨ s.eland.lastStatus = stFENCED) :
    s.beginOp i op = s.refuseOp i op s.eland.lastStatus := by
  rw [State.beginOp, if_pos ⟨hdep, hlast⟩]

variable (hdep : op.desc.dep = false) (hfenced : s.allFenced = false)
include hdep hfenced

/-- An operation without DEP that breaks a limit of its kind is refused before its addresses are looked at (log entry 88). -/
theorem State.beginOp_malformed (i : Nat) (hunits : op.units = []) (hok : s.elandOk op.desc = false) :
    s.beginOp i op = s.refuseOp i op stMALFORMED := by
  simp [State.beginOp, hdep, hfenced, hunits, hok]

/-- An operation without DEP that keeps its limits and reaches its addresses begins. -/
theorem State.beginOp_begins (i : Nat) (hok : s.elandOk op.desc = true) (hreach : s.elandReach op = none) :
    s.beginOp i op = s.opBegun i op := by
  simp [State.beginOp, hdep, hfenced, hok, hreach, State.opBegun]

end BeginOp

section BeginKind

variable {s : State} {i : Nat} {op : ElandOp} {k : ElandKind} (hnext : s.nextToBegin = some (i, op))
  (halive : s.alive = true) (hkind : op.desc.kind.toNat = k.code)
include hnext halive hkind

/-- The command of its kind takes up the operation that may begin next. -/
theorem State.beginKind_next : s.beginKind k = (s.beginOp i op).elandGoesOn := by
  rw [State.beginKind, hnext, halive]
  simp only [hkind, if_true]

theorem State.beginKind_begins (hdep : op.desc.dep = false) (hfenced : s.allFenced = false)
    (hok : s.elandOk op.desc = true) (hreach : s.elandReach op = none) :
    s.beginKind k = (s.opBegun i op).elandGoesOn := by
  rw [State.beginKind_next hnext halive hkind, State.beginOp_begins hdep hfenced i hok hreach]

theorem State.beginKind_malformed (hdep : op.desc.dep = false) (hfenced : s.allFenced = false) (hunits : op.units = [])
    (hok : s.elandOk op.desc = false) : s.beginKind k = (s.refuseOp i op stMALFORMED).elandGoesOn := by
  rw [State.beginKind_next hnext halive hkind, State.beginOp_malformed hdep hfenced i hunits hok]

theorem State.beginKind_cascades (hdep : op.desc.dep = true)
    (hlast : s.eland.lastStatus = stMALFORMED ∨ s.eland.lastStatus = stPRIVILEGE ∨ s.eland.lastStatus = stFENCED) :
    s.beginKind k = (s.refuseOp i op s.eland.lastStatus).elandGoesOn := by
  rw [State.beginKind_next hnext halive hkind, State.beginOp_cascades i hdep hlast]

end BeginKind

/-- The commands that begin an operation, each with its kind (R102). -/
def elandKindCommands : List (Instr × ElandKind) :=
  [(.gemm, .gemm), (.groupedGemm, .groupedGemm), (.attnFwd, .attnFwd), (.attnTree, .attnTree), (.attnBwd, .attnBwd),
    (.kvPack, .kvPack), (.distTable, .distTable), (.sample, .sample)]

/-- Each of these commands is `State.beginKind` of its kind. -/
theorem exec_elandKindCommand {x : Instr × ElandKind} (hx : x ∈ elandKindCommands) (s : State) :
    exec x.1 s = .next (s.beginKind x.2) := by
  revert x
  simp only [elandKindCommands, List.forall_mem_cons]
  exact ⟨rfl, rfl, rfl, rfl, rfl, rfl, rfl, rfl, List.forall_mem_nil _⟩

/-- `State.beginKind_begins` for a descriptor that holds the kind's code. -/
theorem next_beginKind_of_code {k : ElandKind} {n : Byte} (hcode : n.toNat = k.code) (s : State) (i : Nat) (op : ElandOp)
    (hnext : s.nextToBegin = some (i, op)) (halive : s.alive = true) (hkind : op.desc.kind = n)
    (hdep : op.desc.dep = false) (hfenced : s.allFenced = false) (hok : s.elandOk op.desc = true)
    (hreach : s.elandReach op = none) :
    (.next (s.beginKind k) : Host.Outcome State Fault Refusal) = .next (s.opBegun i op).elandGoesOn :=
  congrArg _ (State.beginKind_begins hnext halive (hkind ▸ hcode) hdep hfenced hok hreach)

/-- Settles O39: a command of a kind is `State.beginOp` of the next operation, whose branch the clause's hypotheses pick. -/
theorem elandCommands : Obligations.ElandCommands := by
  unfold Obligations.ElandCommands
  refine ⟨next_beginKind_of_code (k := .gemm) rfl, next_beginKind_of_code (k := .groupedGemm) rfl,
    next_beginKind_of_code (k := .attnFwd) rfl, next_beginKind_of_code (k := .attnTree) rfl,
    next_beginKind_of_code (k := .attnBwd) rfl, next_beginKind_of_code (k := .kvPack) rfl,
    next_beginKind_of_code (k := .distTable) rfl, next_beginKind_of_code (k := .sample) rfl,
    fun s i op hnext halive hdep hfenced hunits hok x hx hkind => ?malformed,
    fun s i op hnext halive hdep hlast x hx hkind => ?cascades⟩
  case malformed => rw [exec_elandKindCommand hx, State.beginKind_malformed hnext halive hkind hdep hfenced hunits hok]
  case cascades => rw [exec_elandKindCommand hx, State.beginKind_cascades hnext halive hkind hdep hlast]

/-! ### An operation joins the queue (R96, R120) -/

section Enqueue

variable {s : State} (d : ElandDesc)

theorem execElandOpEnqueue_alive (halive : s.alive = true) :
    execElandOpEnqueue d s = .next (s.elandAdd { desc := d, source := .firmware }).elandGoesOn := by
  simp only [execElandOpEnqueue, if_pos halive]

/-- With every sub-array fenced the device is FATAL, and what is added to its queue completes FENCED at once (R120). -/
theorem execElandOpEnqueue_fenced (halive : s.alive = false) (hfenced : s.allFenced = true) (hreset : s.pins.resetN = true) :
    execElandOpEnqueue d s = .next (State.fenceOps 1 (s.elandAdd { desc := d, source := .firmware })) := by
  simp [execElandOpEnqueue, halive, hfenced, hreset]

end Enqueue

/-! ### A tile ends (R116 to R119, R122, R374) -/

/-- The state in which a sub-array's run of a tile is charged: the quadrant's busy cycles, and the accounts of its rows. -/
def State.tileCharged (s : State) (q : Nat) (op : ElandOp) (tile : Nat) : State :=
  let p := s.tilePlace op tile
  let c := s.tileCycles op p
  (s.count64 (Reg.ELAND_Q_BUSY_LO + 0x40000 * q) c).chargeTile op p c

/-- The tile that the sub-array runs is charged, and then poisoned, committed, or replayed and moved by its check. -/
theorem execOutputTileDone_runs {s : State} {quad sub : Fin 4} (run : TileRun) {r : RunTile} {i : Nat} (halive : s.alive = true)
    (hrun : s.saTile (4 * quad.val + sub.val) = some r)
    (hop : s.eland.queue.findIdx? (fun op => decide (op.id = r.op)) = some i) :
    let sa := 4 * quad.val + sub.val
    let op := s.eland.queue.getD i {}
    let p := s.tilePlace op r.tile
    let t := s.tileCharged quad.val op r.tile
    execOutputTileDone quad sub r.tile run s = .next (
      if s.tilePoison op p then t.tileDone i op r.tile sa run true
      else if s.runPasses op p run then t.tileDone i op r.tile sa run false
      else t.tileMismatch i op r.tile sa run) := by
  simp only [execOutputTileDone, hrun, halive, hop, ne_eq, not_true_eq_false, if_false, State.tileCharged]

/-! ### Fences, HOLD and the high-water mark (R121, R125) -/

/-- HOLD is set or cleared; the queue of a device that is up goes on once it is cleared. -/
theorem execElandHold_eq (on : Bool) (s : State) :
    execElandHold on s = .next (if on = false ∧ s.alive = true then (s.setFlag Reg.ELAND_CTRL 0 on).elandGoesOn
      else s.setFlag Reg.ELAND_CTRL 0 on) := by
  cases on with
  | true => simp [execElandHold]
  | false => cases halive : s.alive <;> simp [execElandHold, halive]

/-- The high-water mark is cleared, and nothing else written. -/
theorem execElandClearHwm_within {s : State} (h : s.Inv) :
    ∃ t : State, execElandClearHwm s = .next t ∧ t.rd Reg.ELAND_QUEUE_HWM = 0 ∧ s.RegsKept t [Reg.ELAND_QUEUE_HWM]
      ∧ s.ChangesOnly t [.regs] :=
  ⟨_, rfl, State.rd_wr h _ _, s.regsKept_wr _ _, s.changes_wr _ _⟩

/-- Settles O40: each clause is the branch of its command that the clause's hypotheses pick. -/
theorem elandTileAndControlCommands : Obligations.ElandTileAndControlCommands := by
  unfold Obligations.ElandTileAndControlCommands
  exact ⟨fun s d halive => execElandOpEnqueue_alive d halive,
    fun s d halive hfenced hreset => execElandOpEnqueue_fenced d halive hfenced hreset,
    fun s quad sub run r i halive hrun hop => execOutputTileDone_runs run halive hrun hop,
    fun s v => rfl,
    fun s b => execElandHold_eq b s,
    fun s h => execElandClearHwm_within h⟩

end Sys2Proof.Machine
end

section
/-! PROOFS. Registers that one command zeroes together: they read 0, and every other register reads as it did. -/

namespace Sys2Proof.Machine

/-- The state in which each register of a list is written with 0. -/
def State.zeroed (s : State) (l : List Nat) : State := l.foldl (fun s a => s.wr a 0) s

theorem State.zeroed_cons (s : State) (a : Nat) (l : List Nat) : s.zeroed (a :: l) = (s.wr a 0).zeroed l := rfl

theorem State.regsKept_zeroed (s : State) (l : List Nat) : s.RegsKept (s.zeroed l) l := by
  induction l generalizing s with
  | nil => exact .refl s _
  | cons a l ih =>
    have first : s.RegsKept (s.wr a 0) (a :: l) := (s.regsKept_wr a 0).mono (by simp)
    have rest : (s.wr a 0).RegsKept ((s.wr a 0).zeroed l) (a :: l) := (ih _).mono fun _ => List.mem_cons_of_mem a
    exact first.trans rest

/-- A register of the list reads 0: no later write of the list gives it another value. -/
theorem State.rd_zeroed {s : State} (h : s.Inv) {l : List Nat} {a : Nat} (ha : a ∈ l) : (s.zeroed l).rd a = 0 := by
  induction l generalizing s with
  | nil => exact absurd ha List.not_mem_nil
  | cons b l ih =>
    rw [State.zeroed_cons]
    by_cases hl : a ∈ l
    · exact ih (State.Inv_wr h b 0) hl
    · obtain rfl : a = b := (List.mem_cons.mp ha).resolve_right hl
      rw [State.regsKept_zeroed _ l a hl, State.rd_wr h]

theorem State.changes_zeroed (s : State) (l : List Nat) : s.ChangesOnly (s.zeroed l) [.regs] := by
  induction l generalizing s with
  | nil => exact .refl s _
  | cons a l ih => exact (s.changes_wr a 0).trans (ih _)

end Sys2Proof.Machine
end

section
/-! PROOFS. Chapter 05: the lanes' work units and their spot checks, the home reducers, and the lanes' control registers. -/

namespace Sys2Proof.Machine

/-! ### A unit is dispatched (R138, R146, R149) -/

/-- The state in which the unit of a reduction's KV head and lane has left the units to dispatch and taken its number. -/
def State.unitTaken (s : State) (k head lane : Nat) : State :=
  let t := (s.setReduction k { s.reduction k with todo := (s.reduction k).todo.erase (head, lane) }).drawn
  { t with spring := { t.spring with nextUnit := t.spring.nextUnit + 1 } }

/-- The unit goes to the lane that serves its channel, with the check that its quadrant's dispatcher chose, or, in a stack
without an active lane, to the Eland array. -/
theorem execLaneUnitDispatch_takes {s : State} {k head : Nat} {quad : Fin 4} {stack : Fin 5} {pc : Fin 32} :
    let lane := 32 * (5 * quad.val + stack.val) + pc.val
    let v := s.serving_ lane
    let u := s.newUnit k head lane
    let w := s.unitTaken k head lane
    s.alive = true → (s.reduction k).active = true → (s.reduction k).todo.contains (head, lane) = true →
    (s.laneActive v = true → (s.laneQueue v).length < 64) →
    execLaneUnitDispatch k head quad stack pc s = .next (if s.laneActive v then
      (w.pickCheck quad.val).1.enqueueUnit v { u with checked := (w.pickCheck quad.val).2 } else w.elandUnits [u]) := by
  intro lane v u w halive hactive htodo hroom
  have guard : ¬(!s.alive ∨ !(s.reduction k).active ∨ !(s.reduction k).todo.contains (head, lane)) := by
    simp only [halive, hactive, htodo]; decide
  refine congrArg Host.Outcome.next ((if_neg guard).trans ?_)
  cases hlane : s.laneActive v with
  | true => exact (if_neg (by decide)).trans (if_neg (Nat.not_le.mpr (hroom hlane)))
  | false => exact if_pos (by decide)

/-! ### A lane ends a unit (R140, R146) -/

/-- The state in which a lane has ended the unit at its head, charged its run, and begun the next of its queue. -/
def State.unitRun (s : State) (lane : Nat) (u : LaneUnit) (q : List LaneUnit) : State :=
  ((s.setLaneQueue lane q).startUnit lane).runUnit u lane

section UnitDone

variable {s : State} {lane : Fin 640} {u : LaneUnit} {q : List LaneUnit} (x : Option UnitResult)
  (hqueue : s.laneQueue lane.val = u :: q) (halive : s.alive = true)
include hqueue halive

/-- A unit without a check, or in a stack without another active lane, gives its partials to the reducer. -/
theorem execLaneUnitDone_releases
    (hfree : u.checked = false ∨ (s.unitRun lane.val u q).nextLane lane.val = none) :
    execLaneUnitDone lane x s = .next ((s.unitRun lane.val u q).release u (x.getD (s.unitRows u)).rows) := by
  simp only [State.unitRun] at hfree
  simp only [execLaneUnitDone, hqueue, halive, State.unitRun]
  rcases hfree with hchecked | hnext
  · rw [hchecked]
  · rw [hnext]
    cases u.checked <;> rfl

/-- A checked unit keeps its partials until the next active lane has run it. -/
theorem execLaneUnitDone_checks {b : Nat} (hchecked : u.checked = true)
    (hnext : (s.unitRun lane.val u q).nextLane lane.val = some b) :
    let t := s.unitRun lane.val u q
    let y : LaneUnit := { u with
      phase := .checking, primary := x.getD (s.unitRows u), mainLane := lane.val, checkLane := b }
    execLaneUnitDone lane x s = .next
      { t.count Reg.SPRING_CHECKED 1 with spring := { t.spring with checks := t.spring.checks ++ [y] } } := by
  simp only [State.unitRun] at hnext
  simp only [execLaneUnitDone, hqueue, halive, hchecked, hnext, State.unitRun]

end UnitDone

/-! ### A check ends (R147) -/

/-- The state in which a unit has left those under check. -/
def State.checkTaken (s : State) (n : Nat) : State :=
  { s with spring := { s.spring with checks := s.spring.checks.filter fun y => !(y.id == n) } }

section SpotCheck

variable {s : State} {n : Nat} {u : LaneUnit} (x : Option UnitResult)
  (hcheck : s.spring.checks.find? (·.id == n) = some u) (halive : s.alive = true)
include hcheck halive

/-- The checker's run releases a unit of equal bits, and sends one that differs to arbitration. -/
theorem execSpotCheckResult_compares (hphase : u.phase = .checking) :
    let out := x.getD (s.unitRows u)
    let t := (s.checkTaken n).runUnit u u.checkLane
    execSpotCheckResult n x s =
      .next (if out = u.primary then t.release u u.primary.rows else t.checkDiffers u out) := by
  simp only [execSpotCheckResult, hcheck, halive, hphase, State.checkTaken]

theorem execSpotCheckResult_arbitrates (hphase : u.phase = .arbitration) :
    execSpotCheckResult n x s =
      .next (((s.checkTaken n).runUnit u u.arbLane).arbitrate u (x.getD (s.unitRows u))) := by
  simp only [execSpotCheckResult, hcheck, halive, hphase, State.checkTaken]

end SpotCheck

/-- Settles O41: each clause is the branch of its command that the clause's hypotheses pick. -/
theorem springbokCommands : Obligations.SpringbokCommands := by
  unfold Obligations.SpringbokCommands
  exact ⟨fun s k head quad stack pc halive hactive htodo hroom => execLaneUnitDispatch_takes halive hactive htodo hroom,
    fun s lane x u q hqueue halive hfree => execLaneUnitDone_releases x hqueue halive hfree,
    fun s lane x u q b hqueue halive hchecked hnext => execLaneUnitDone_checks x hqueue halive hchecked hnext,
    fun s n x u hcheck halive hphase => execSpotCheckResult_compares x hcheck halive hphase,
    fun s n x u hcheck halive hphase => execSpotCheckResult_arbitrates x hcheck halive hphase⟩

/-! ### The home reducer merges (R143 to R145, R170, R397) -/

/-- The state in which the home reducer of a quadrant has taken up a reduction and counted the rows it merges. -/
def State.mergeTaken (s : State) (home k : Nat) : State :=
  (s.setReduction k {}).count64 (Reg.SPRING_Q_MERGED_LO + 0x10 * home) (s.reduction k).parts.length

/-- The state in which a reduction's merged rows are written, with the entry poisoned where a row is, and its part of the
plan's operation has ended. -/
def State.mergeWritten (s : State) (r : Reduction) : State :=
  (if r.merged.any fun x => x.2.poisoned then (s.writeMerged r).poisonWork r.slot else s.writeMerged r).opDone r.seq

section Merge

variable {s : State} {home : Fin 4} {k : Nat} (halive : s.alive = true) (hcomplete : (s.reduction k).complete = true)
  (hhome : (s.reduction k).slot % 4 = home.val)
include halive hcomplete hhome

/-- The home reducer takes up the reduction: no condition of the command refuses it. -/
theorem mergeComplete_admitted :
    ¬(!s.alive ∨ !(s.reduction k).complete ∨ (s.reduction k).slot % 4 ≠ home.val) := by
  simp [halive, hcomplete, hhome]

/-- A reduction of the step is written, and the last of its layer ends the layer's barrier. -/
theorem execReducerMergeComplete_writes (hasker : (s.reduction k).asker = none) :
    let r := s.reduction k
    let u := (s.mergeTaken home.val k).mergeWritten r
    execReducerMergeComplete home k s = .next
      (if u.spring.reductions.any fun x => x.2.active && x.2.asker.isNone && decide (x.2.layer = r.layer) then u
        else u.endBarrier r.layer) := by
  refine congrArg Host.Outcome.next ((if_neg (mergeComplete_admitted halive hcomplete hhome)).trans ?_)
  rw [hasker]
  rfl

theorem execReducerMergeComplete_answers {a : U16 × U32 × U64 × Nat} (hasker : (s.reduction k).asker = some a) :
    execReducerMergeComplete home k s = .next ((s.mergeTaken home.val k).answerQuery (s.reduction k) a) := by
  refine congrArg Host.Outcome.next ((if_neg (mergeComplete_admitted halive hcomplete hhome)).trans ?_)
  rw [hasker]
  rfl

end Merge

/-! ### The counters (R152) -/

/-- The counters that CLEAR_COUNTS of SPRING_CTRL zeroes (R152). -/
def springCounts : List Nat := [Reg.SPRING_CHECKED, Reg.SPRING_MISMATCH, Reg.SPRING_POISON_UNITS, Reg.SPRING_LATE]

theorem execSpringClearCounts_eq (s : State) : execSpringClearCounts s = .next (s.zeroed springCounts) := rfl

/-- Settles O42: a merge writes or answers by whether a query asked for it, a write of SPRING_FENCED is its fold over the lanes
named, and the counters are zeroed by `State.rd_zeroed` and its frame. -/
theorem reducerAndLaneControlCommands : Obligations.ReducerAndLaneControlCommands := by
  unfold Obligations.ReducerAndLaneControlCommands
  refine ⟨fun s home k halive hcomplete hhome hasker => execReducerMergeComplete_writes halive hcomplete hhome hasker,
    fun s home k a halive hcomplete hhome hasker => execReducerMergeComplete_answers halive hcomplete hhome hasker,
    fun s k v => rfl, fun s h => ?clear⟩
  case clear =>
    have zero (a : Nat) (ha : a ∈ springCounts) : (s.zeroed springCounts).rd a = 0 := State.rd_zeroed h ha
    simp only [springCounts, List.forall_mem_cons] at zero
    obtain ⟨hchecked, hmismatch, hpoison, hlate, -⟩ := zero
    exact ⟨_, execSpringClearCounts_eq s, hchecked, hmismatch, hpoison, hlate, s.regsKept_zeroed _, s.changes_zeroed _⟩

end Sys2Proof.Machine
end

section
/-! PROOFS. Chapter 08: the Ibex completion slots end, are timed out and audited, and the movers' control register is written. -/

namespace Sys2Proof.Machine

/-! ### A slot ends (R214, R219) -/

/-- The state in which the timer of a waiting slot has ended it TIMEOUT, by what the slot awaits (R393, R394). -/
def State.slotTimedOut (s : State) (n : Nat) (x : Slot) : State :=
  match x.awaits with
  | .descriptor => s.completeDesc n stTIMEOUT
  | .reply => (s.endSlot n).answered x stTIMEOUT 0 false
  | .commit => s.failAttempt x.handoffId.toNat stTIMEOUT
  | .peerPartial => (s.endSlot n).peerArrived x [] true true
  | .decision | .none => s

section SlotEnds

variable {s : State} {n : Fin 65536} (halive : s.alive = true) (hwaiting : (s.slot n.val).state = .waiting)
include halive hwaiting

/-- A descriptor with no unit left and no reply due completes with its final status. -/
theorem execDescriptorComplete_completes (hawaits : (s.slot n.val).awaits = .descriptor) (hleft : (s.slot n.val).left = 0)
    (hreply : (s.slot n.val).replyDue = false) :
    execDescriptorComplete n s = .next (s.completeDesc n.val (s.slot n.val).finalStatus) := by
  simp [execDescriptorComplete, State.settleDesc, halive, hwaiting, hawaits, hleft, hreply]

/-- The timer of a waiting slot is counted and ends the slot; a host decision has no such timer. -/
theorem execSlotTimerExpiry_ends (hdecision : (s.slot n.val).awaits ≠ .decision) :
    execSlotTimerExpiry n s = .next ((s.count Reg.IBEX_TIMEOUTS 1).slotTimedOut n.val (s.slot n.val)) := by
  have guard : ¬((s.slot n.val).state ≠ .waiting ∨ (s.slot n.val).awaits = .decision ∨ !s.alive) := by
    simp [hwaiting, hdecision, halive]
  exact congrArg Host.Outcome.next (if_neg guard)

end SlotEnds

/-! ### The slot audit (R216, R395) -/

theorem execSlotAudit_silent {s : State} (h : s.ibex.slotsFree + s.ibex.slotsBusy = 65536) : execSlotAudit s = .next s := by
  rw [execSlotAudit, if_pos h]

/-- Slots that do not add up are marked in both registers, and FATAL. -/
theorem execSlotAudit_fatal {s : State} (h : s.ibex.slotsFree + s.ibex.slotsBusy ≠ 65536) :
    execSlotAudit s = .next (((s.setFlag Reg.IBEX_STATUS 3 true).setFlag Reg.FAULT_AUDIT 1 true).fatal
      { severity := .fatal, block := 0x00A, cause := 0x0028, detail0 := BitVec.ofNat 64 s.ibex.slotsFree,
        detail1 := BitVec.ofNat 64 s.ibex.slotsBusy }) := by
  rw [execSlotAudit, if_neg h]

/-! ### The control register (R230) -/

/-- The counters that CLEAR_COUNTS of IBEX_CTRL zeroes (R230). -/
def ibexCounts : List Nat := [Reg.IBEX_LATE, Reg.IBEX_TIMEOUTS, Reg.IBEX_CHECK_FAILS, Reg.IBEX_POISONED]

theorem execIbexClearCounts_eq (s : State) : execIbexClearCounts s = .next (s.zeroed ibexCounts) := rfl

/-- The high-water mark is set to the busy slots, and nothing else written. -/
theorem execIbexClearHwm_within {s : State} (h : s.Inv) :
    ∃ t : State, execIbexClearHwm s = .next t ∧ t.rd Reg.IBEX_SLOTS_HWM = BitVec.ofNat 32 s.ibex.slotsBusy
      ∧ s.RegsKept t [Reg.IBEX_SLOTS_HWM] ∧ s.ChangesOnly t [.regs] :=
  ⟨_, rfl, State.rd_wr h _ _, s.regsKept_wr _ _, s.changes_wr _ _⟩

/-- Settles O44: a slot's end is the branch of what it awaits, and the counters are zeroed by `State.rd_zeroed` and its frame. -/
theorem slotCommands : Obligations.SlotCommands := by
  unfold Obligations.SlotCommands
  refine ⟨fun s n halive hwaiting hawaits hleft hreply => execDescriptorComplete_completes halive hwaiting hawaits hleft hreply,
    fun s n halive hwaiting => ?timer, fun s h => execSlotAudit_silent h, fun s h => execSlotAudit_fatal h,
    fun s b => rfl, fun s h => execIbexClearHwm_within h, fun s h => ?clear⟩
  case timer =>
    have ends := execSlotTimerExpiry_ends halive hwaiting
    refine ⟨?_, ?_, ?_, ?_⟩ <;>
      · intro hawaits
        have hends := ends (by simp [hawaits])
        simp only [State.slotTimedOut, hawaits] at hends
        exact hends
  case clear =>
    have zero (a : Nat) (ha : a ∈ ibexCounts) : (s.zeroed ibexCounts).rd a = 0 := State.rd_zeroed h ha
    simp only [ibexCounts, List.forall_mem_cons] at zero
    obtain ⟨hlate, htimeouts, hchecks, hpoisoned, -⟩ := zero
    exact ⟨_, execIbexClearCounts_eq s, hlate, htimeouts, hchecks, hpoisoned, s.regsKept_zeroed _, s.changes_zeroed _⟩

end Sys2Proof.Machine
end

section
/-! PROOFS. Chapter 07: plans are loaded and unloaded, regions reloaded, and descriptors moved into a queue, by host commands. -/

namespace Sys2Proof.Machine

/-! ### Plans (R188, R189) -/

/-- The entry that a plan's image and its map leave in the table of plans (R189). -/
def PlanImage.loadedPlan (p : PlanImage) (map : PlaceMap) : Plan :=
  { p.plan with
    loaded := true, loading := false, status := stOK, check := map.check, partition := map.partition, unload := none }

/-- Replaces a model's plan. -/
def State.setPlan (s : State) (m : Nat) (p : Plan) : State :=
  { s with tier := { s.tier with plans := s.tier.plans.set m p } }

section Plans

variable {s : State} {w : WinRef}

/-- PLAN_LOAD of an image that fails no check loads the map's regions, then the plan. -/
theorem execPlanLoad_accepted {p : PlanImage} (h : s.Runs w 0x0E) (hmodel : (s.frontCmd w.key).arg2.toNat < 64)
    (hfault : (s.take w.key).planFault p (s.frontCmd w.key).arg2.toNat (s.frontCmd w.key).arg1.toNat = none) :
    execPlanLoad w p s = .next ((((s.take w.key).loadRegions (PlaceMap.parse p.mapBytes p.image)).setPlan
      (s.frontCmd w.key).arg2.toNat (p.loadedPlan (PlaceMap.parse p.mapBytes p.image))).complete (s.ref w) stOK) := by
  simp only [execPlanLoad, State.hostCmd_runs h, if_neg (Nat.not_le.mpr hmodel), hfault]
  rfl

/-- PLAN_UNLOAD of a loaded plan that no other command unloads marks it, and settles it where nothing names its regions. -/
theorem execPlanUnload_loaded (h : s.Runs w 0x0F) (hmodel : (s.frontCmd w.key).arg2.toNat < 64)
    (hloaded : ((s.take w.key).tier.plans.get (s.frontCmd w.key).arg2.toNat).loaded = true)
    (hunload : ((s.take w.key).tier.plans.get (s.frontCmd w.key).arg2.toNat).unload = none) :
    execPlanUnload w s = .next (((s.take w.key).setPlan (s.frontCmd w.key).arg2.toNat
      { (s.take w.key).tier.plans.get (s.frontCmd w.key).arg2.toNat with unload := some (s.ref w) }).settleUnload
        (s.frontCmd w.key).arg2.toNat) := by
  have accepted : ¬ (64 ≤ (s.frontCmd w.key).arg2.toNat
      ∨ ((s.take w.key).tier.plans.get (s.frontCmd w.key).arg2.toNat).loaded = false) := by
    rintro (hge | hfree)
    · exact Nat.not_le.mpr hmodel hge
    · exact Bool.false_ne_true (hfree.symm.trans hloaded)
  have unmarked : ¬ ((s.take w.key).tier.plans.get (s.frontCmd w.key).arg2.toNat).unload.isSome = true := by
    rw [hunload]; exact Bool.false_ne_true
  simp only [execPlanUnload, State.hostCmd_runs h, if_neg accepted, if_neg unmarked]
  rfl

end Plans

/-! ### Regions (R199) -/

/-- The WEIGHTS or ADAPTERS region of the model and REGION_ID that a REGION_LOAD command names (R199, R470). -/
def State.reloadable (s : State) (c : HostCmd) : Option Region :=
  s.regionList.find? fun r => (decide (r.kind = 1) || decide (r.kind = 3)) && decide (c.arg2.toNat < 64)
    && r.model == some (c.arg2.truncate 6) && decide (r.id.toNat = c.arg3.toNat)

/-- REGION_LOAD of such a region, while every partition's key is usable, writes as much of the content as the region holds. -/
theorem execRegionLoad_found {s : State} {w : WinRef} {r : Region} (content : List Byte) (h : s.Runs w 0x10)
    (hfound : (s.take w.key).reloadable (s.frontCmd w.key) = some r) (hkeys : (s.take w.key).sec.keyUnusable = 0) :
    execRegionLoad w content s =
      .next (((s.take w.key).write r.start (content.take r.size)).complete (s.ref w) stOK) := by
  have usable : ((s.take w.key).sec.keyUnusable.getLsbD r.partition.val && decide (r.space = 0)) = false := by
    simp [hkeys]
  rw [State.reloadable] at hfound
  simp only [execRegionLoad, State.hostCmd_runs h, hfound, usable, Bool.false_eq_true, if_false]

/-! ### Descriptors (R206, R209) -/

/-- MOVE by PF0 enters the queue of PF0 of its port; no tenant owns the function, so its partition is not compared. -/
theorem execMove_pf0 {s : State} {w : WinRef} (d : IbexDesc) (h : s.Runs w 0x14) (hfn : winFn w.key = 0) :
    execMove w d s = .next ((s.take w.key).enqueue (192 + winPort w.key)
      { d with cmd := some (s.ref w), fn := some 0, account := 1024 }) := by
  simp only [execMove, State.hostCmd_runs h, hfn, ne_eq, not_true_eq_false, false_and, if_false, if_true, Nat.mul_zero, Nat.add_zero]

/-- Settles O29: a command that runs (`State.hostCmd_runs`) and passes its own checks has its accepting branch's effect. -/
theorem planRegionAndMoveCommands : Obligations.PlanRegionAndMoveCommands := by
  unfold Obligations.PlanRegionAndMoveCommands
  exact ⟨fun s w p h hmodel hfault => ⟨_, execPlanLoad_accepted h hmodel hfault, rfl⟩,
    fun s w h hmodel hloaded hunload => execPlanUnload_loaded h hmodel hloaded hunload,
    fun s w content r h hfound hkeys => execRegionLoad_found content h hfound hkeys,
    fun s w d h hfn => execMove_pf0 d h hfn⟩

end Sys2Proof.Machine
end

section
/-! PROOFS. Chapter 08: a completion slot is taken and returned, and the descriptor at the front of a queue starts its operation. -/

namespace Sys2Proof.Machine

/-! ### The first entry of a table -/

/-- A search from `i` stops at the least key from there on that satisfies `p`. -/
theorem Tab.firstFrom_eq_some {α : Type} [Inhabited α] {t : Tab α} {p : α → Bool} {k : Nat} :
    ∀ {i fuel : Nat}, t.firstFrom p i fuel = some k →
      i ≤ k ∧ k < i + fuel ∧ p (t.get k) = true ∧ ∀ m, i ≤ m → m < k → p (t.get m) = false
  | i, fuel + 1, h => by
    rw [Tab.firstFrom] at h
    split at h
    case isTrue hp =>
      cases h
      exact ⟨le_refl _, by omega, hp, fun m him hmi => absurd him (by omega)⟩
    case isFalse hp =>
      obtain ⟨hik, hk, hpk, below⟩ := Tab.firstFrom_eq_some h
      refine ⟨by omega, by omega, hpk, fun m him hmk => ?_⟩
      rcases Nat.eq_or_lt_of_le him with rfl | hlt
      · exact eq_false_of_ne_true hp
      · exact below m hlt hmk

/-- `Tab.first` finds the least key that satisfies `p`, below its bound. -/
theorem Tab.first_eq_some {α : Type} [Inhabited α] {t : Tab α} {p : α → Bool} {n k : Nat} (h : t.first p n = some k) :
    k < n ∧ p (t.get k) = true ∧ ∀ m, m < k → p (t.get m) = false := by
  obtain ⟨-, hk, hpk, below⟩ := Tab.firstFrom_eq_some h
  exact ⟨by omega, hpk, fun m => below m (Nat.zero_le m)⟩

/-! ### A slot is taken (R214, R216) -/

/-- The state in which `x` holds slot `n` under its next generation, and the counts have moved with it (R214, R216). -/
def State.slotTaken (s : State) (x : Slot) (n : Nat) : State :=
  { s with ibex := { s.ibex with
      slots := s.ibex.slots.set n { x with state := .waiting, gen := nextGen (s.slot n).gen }
      slotsFree := s.ibex.slotsFree - 1, slotsBusy := s.ibex.slotsBusy + 1 } }

/-- The state in which the high-water mark has risen to the busy slots (R216, R230). -/
def State.slotsMarked (s : State) : State :=
  if s.rdN Reg.IBEX_SLOTS_HWM < s.ibex.slotsBusy then s.wr Reg.IBEX_SLOTS_HWM (BitVec.ofNat 32 s.ibex.slotsBusy) else s

/-- A claim takes the first FREE slot, and raises the mark. -/
theorem State.claim_eq_some {s t : State} {x : Slot} {n : Nat} (h : s.claim x = some (n, t)) :
    s.ibex.slots.first (fun y => decide (y.state = .free)) 65536 = some n ∧ t = (s.slotTaken x n).slotsMarked := by
  rw [State.claim] at h
  split at h
  case h_1 => cases h
  case h_2 k hk =>
    cases h
    exact ⟨hk, rfl⟩

@[simp] theorem State.ibex_slotsMarked (s : State) : s.slotsMarked.ibex = s.ibex := by
  rw [State.slotsMarked]; split <;> rfl

theorem State.regsKept_slotsMarked (s : State) : s.RegsKept s.slotsMarked [Reg.IBEX_SLOTS_HWM] := by
  rw [State.slotsMarked]
  split
  · exact s.regsKept_wr _ _
  · exact .refl s _

theorem State.changes_slotsMarked (s : State) : s.ChangesOnly s.slotsMarked [.regs] := by
  rw [State.slotsMarked]
  split
  · exact s.changes_wr _ _
  · exact .refl s _

/-- Whatever replaces the block of the movers, every other part stays. -/
theorem State.changes_ibex (s : State) (x : IbexSt) : s.ChangesOnly { s with ibex := x } [.ibex] := by
  intro p h
  cases p
  case ibex => exact absurd (List.mem_singleton.mpr rfl) h
  all_goals rfl

theorem State.changes_taken (s : State) (x : Slot) (n : Nat) :
    s.ChangesOnly (s.slotTaken x n).slotsMarked [.regs, .ibex] :=
  ((s.changes_ibex _).mono (by simp)).trans ((State.changes_slotsMarked _).mono (by simp))

theorem State.regsKept_taken (s : State) (x : Slot) (n : Nat) :
    s.RegsKept (s.slotTaken x n).slotsMarked [Reg.IBEX_SLOTS_HWM] :=
  State.RegsKept.trans (State.regsKept_of_regs (t := s.slotTaken x n) rfl _) (State.regsKept_slotsMarked _)

/-- FREE and BUSY keep their sum while a slot is FREE (R216). -/
theorem State.slotsSum_taken {s : State} (x : Slot) (n : Nat) (h : 1 ≤ s.ibex.slotsFree) :
    (s.slotTaken x n).ibex.slotsFree + (s.slotTaken x n).ibex.slotsBusy = s.ibex.slotsFree + s.ibex.slotsBusy := by
  simp only [State.slotTaken]
  omega

/-! ### Generations and references (R214) -/

/-- Generations run from 1 to 65,535 and begin again. -/
theorem nextGen_cycles (g : Nat) :
    1 ≤ nextGen g ∧ nextGen g ≤ 65535 ∧ (g < 65535 → nextGen g = g + 1) ∧ (g = 65535 → nextGen g = 1) := by
  unfold nextGen
  split <;> omega

/-- A reference is the generation above the slot's number. -/
theorem State.slotRef_toNat {s : State} {n : Nat} (hn : n < 65536) (hgen : (s.slot n).gen ≤ 65535) :
    (s.slotRef n).toNat = (s.slot n).gen * 65536 + n := by
  rw [State.slotRef, BitVec.toNat_ofNat, Nat.mod_eq_of_lt (by omega)]

/-- A reference names the slot of its number, when that waits under its generation. -/
theorem State.waitingAt_eq_some_iff (s : State) (r : U32) (n : Nat) :
    s.waitingAt r = some n ↔ n = r.toNat % 65536 ∧ (s.slot n).state = .waiting ∧ (s.slot n).gen = r.toNat / 65536 := by
  rw [State.waitingAt]
  constructor
  · intro h
    split at h
    case isTrue hwaits => cases h; exact ⟨rfl, hwaits⟩
    case isFalse => cases h
  · rintro ⟨rfl, hwaits⟩
    exact if_pos hwaits

/-! ### A slot is returned (R214, R216) -/

/-- A slot that was taken is FREE again, with nothing but its generation, and the counts move back. -/
theorem State.unclaim_taken {s : State} {n : Nat} (h : (s.slot n).state ≠ .free) :
    s.unclaim n = { s with ibex := { s.ibex with
      slots := s.ibex.slots.set n { gen := (s.slot n).gen }
      slotsFree := s.ibex.slotsFree + 1, slotsBusy := s.ibex.slotsBusy - 1 } } :=
  if_neg h

/-- Settles O10: a claim by the first FREE slot of the table (`State.claim_eq_some`), a reference by its two halves. -/
theorem slotTakenAndReturned : Obligations.SlotTakenAndReturned := by
  unfold Obligations.SlotTakenAndReturned
  refine ⟨fun s t x n h => ?taken, nextGen_cycles, fun s n hn hlow hhigh => ?named, fun s n h hbusy => ?returned,
    State.waitingAt_eq_some_iff⟩
  case taken =>
    obtain ⟨hfirst, rfl⟩ := State.claim_eq_some h
    obtain ⟨hn, hfree, below⟩ := Tab.first_eq_some hfirst
    simp only [State.ibex_slotsMarked]
    exact ⟨hn, of_decide_eq_true hfree, fun m hm => of_decide_eq_false (below m hm), rfl, State.slotsSum_taken x n,
      s.changes_taken x n, s.regsKept_taken x n⟩
  case named =>
    have href := State.slotRef_toNat hn hhigh
    have hnumber : (s.slotRef n).toNat % 65536 = n := by omega
    have hgen : (s.slotRef n).toNat / 65536 = (s.slot n).gen := by omega
    have hnonzero : s.slotRef n ≠ 0 := fun h0 => by
      have : (s.slotRef n).toNat = 0 := congrArg BitVec.toNat h0
      omega
    exact ⟨hnonzero, hnumber, hgen, fun hwaits => (s.waitingAt_eq_some_iff _ n).mpr ⟨hnumber.symm, hwaits, hgen.symm⟩⟩
  case returned =>
    rw [State.unclaim_taken h]
    have hsum : s.ibex.slotsFree + 1 + (s.ibex.slotsBusy - 1) = s.ibex.slotsFree + s.ibex.slotsBusy := by omega
    exact ⟨hsum, rfl, s.changes_ibex _⟩

/-! ### A descriptor starts (R205, R207, R210, R214) -/

/-- A descriptor that can be accepted by its operation's row starts it in its slot, or fails MALFORMED there. -/
theorem State.accept_of_accepts {s t : State} {q op n : Nat} {d : IbexDesc} (run : Nat → State → OpRun)
    (h : s.Accepts q d n t) (hop : d.op.toNat = op) :
    s.accept q op run = if d.formed then State.started n (run n t) else t.failDesc n stMALFORMED := by
  obtain ⟨halive, hhold, hwait, hfence, d0, ds, m, u, hqueue, rfl, hmover, hclaim, rfl⟩ := h
  have ready : ¬(!s.alive ∨ s.flag Reg.IBEX_CTRL 0 ∨ !s.ibex.slotWait.isEmpty ∨ (d0.known.flag 0 ∧ s.queueBusy q)
      ∨ !(decide (d0.known.op.toNat = op) || decide (d0.known.op.toNat = 0) || decide (10 < d0.known.op.toNat))) := by
    have hidle (hflag : d0.known.flag 0 = true) : s.queueBusy q = false := (hfence hflag).1
    simpa [halive, hhold, hwait, hop] using hidle
  simp only [State.accept, hqueue, if_neg ready, hmover, hclaim]
  cases hflag : d0.known.flag 0 with
  | false => rfl
  | true => simp only [(hfence hflag).2, List.head?_nil, Option.map_none, if_true]

section Descriptor

variable {s t : State} {q op n : Nat} {d : IbexDesc}

/-- A well-formed descriptor's operation runs, and its first result is put into the slot. -/
theorem accept_next_of_formed (run : Nat → State → OpRun) (h : s.Accepts q d n t) (hop : d.op.toNat = op)
    (hformed : d.formed = true) :
    (Host.Outcome.next (s.accept q op run) : Host.Outcome State Fault Refusal) = .next (State.started n (run n t)) := by
  rw [State.accept_of_accepts run h hop, if_pos hformed]

/-- A descriptor whose fields are not valid fails before it moves anything. -/
theorem accept_next_of_malformed (run : Nat → State → OpRun) (h : s.Accepts q d n t) (hop : d.op.toNat = op)
    (hformed : d.formed = false) :
    (Host.Outcome.next (s.accept q op run) : Host.Outcome State Fault Refusal) = .next (t.failDesc n stMALFORMED) := by
  rw [State.accept_of_accepts run h hop, if_neg (by simp [hformed])]

end Descriptor

/-- The movers' commands, each with the code of its operation (R210). -/
def moverCommands : List ((Fin 256 → Instr) × Nat) :=
  [(.copy, 1), (.gather, 2), (.scatter, 3), (.pack, 4), (.unpack, 5), (.compact, 6), (.check, 7), (.remotePut, 8),
    (.remoteGet, 9), (.prefetch, 10)]

/-- A mover's command accepts the front of its queue for its operation. -/
theorem exec_moverCommand : ∀ x ∈ moverCommands, ∃ run : Nat → State → OpRun, ∀ (q : Fin 256) (s : State),
    Machine.exec (x.1 q) s = .next (s.accept q.val x.2 run) := by
  simp only [moverCommands, List.forall_mem_cons]
  refine ⟨?_, ?_, ?_, ?_, ?_, ?_, ?_, ?_, ?_, ?_, List.forall_mem_nil _⟩ <;> exact ⟨_, fun _ _ => rfl⟩

/-- Settles O43: an acceptable descriptor by `State.accept_of_accepts`, with the operation of its command. -/
theorem ibexCommands : Obligations.IbexCommands := by
  unfold Obligations.IbexCommands
  refine ⟨fun _ _ _ _ _ => accept_next_of_formed _, fun _ _ _ _ _ => accept_next_of_formed _,
    fun _ _ _ _ _ => accept_next_of_formed _, fun _ _ _ _ _ => accept_next_of_formed _,
    fun _ _ _ _ _ => accept_next_of_formed _, fun _ _ _ _ _ => accept_next_of_formed _,
    fun _ _ _ _ _ => accept_next_of_formed _, fun _ _ _ _ _ => accept_next_of_formed _,
    fun _ _ _ _ n => accept_next_of_formed fun n s => s.remotePages n 0x41 (s.slot n).desc.dst (s.slot n).desc.dstFmt false,
    fun _ _ _ _ _ => accept_next_of_formed _, fun s t q d n haccepts hformed x hx hop => ?malformed⟩
  case malformed =>
    obtain ⟨run, hrun⟩ := exec_moverCommand x hx
    rw [hrun]
    exact accept_next_of_malformed run haccepts hop hformed

end Sys2Proof.Machine
end

section
/-! PROOFS. Chapter 09: the messages of a transfer, of the map's epoch. -/

namespace Sys2Proof.Machine

/-! ### The kinds of a transfer (R236 to R243) -/

section TransferKinds

variable (s : State) (m : Msg)

theorem State.handle_open : s.handle { m with kind := mOPEN } = s.onOpen { m with kind := mOPEN } := rfl

theorem State.handle_creditReq : s.handle { m with kind := mCREDIT_REQ } = s.onCreditReq { m with kind := mCREDIT_REQ } := rfl

theorem State.handle_grant : s.handle { m with kind := mGRANT } = s.onGrant { m with kind := mGRANT } := rfl

theorem State.handle_refs : s.handle { m with kind := mREFS } = s.onRefs { m with kind := mREFS } := rfl

theorem State.handle_sent : s.handle { m with kind := mSENT } = s.onSent { m with kind := mSENT } := rfl

theorem State.handle_commit : s.handle { m with kind := mCOMMIT } = s.onCommit { m with kind := mCOMMIT } := rfl

theorem State.handle_reply : s.handle { m with kind := mREPLY } = s.onAnyReply { m with kind := mREPLY } := rfl

end TransferKinds

/-- Settles O33: the shared checks by `arrive_next_of_handle`, then the kind's branch of `State.handle`. -/
theorem transferMessagesOfThisEpoch : Obligations.TransferMessagesOfThisEpoch := by
  unfold Obligations.TransferMessagesOfThisEpoch
  exact ⟨fun _ m => arrive_next_of_handle fun u => u.handle_open m,
    fun _ m => arrive_next_of_handle fun u => u.handle_creditReq m,
    fun _ m => arrive_next_of_handle fun u => u.handle_grant m,
    fun _ m => arrive_next_of_handle fun u => u.handle_refs m,
    fun _ m => arrive_next_of_handle fun u => u.handle_sent m,
    fun _ m => arrive_next_of_handle fun u => u.handle_commit m,
    fun _ m => arrive_next_of_handle fun u => u.handle_reply m⟩

end Sys2Proof.Machine
end

section
/-! PROOFS. Chapter 10: Strait requests are issued, their tags resolved, and the peers and windows behind them kept. -/

namespace Sys2Proof.Machine

/-! ### Issue (R289 to R292) -/

/-- The request with the place that it takes in its issuers' order (R289). -/
def State.ordered (s : State) (r : StraitHeld) : StraitHeld := { r with order := s.strait.order }

/-- The state in which the next place in the order has been given out (R289). -/
def State.orderGiven (s : State) : State := { s with strait := { s.strait with order := s.strait.order + 1 } }

section Issue

variable {s : State} {r : StraitHeld} (halive : s.alive = true)
include halive

/-- A request with none of its issuer's held before it, and which nothing holds up, is issued. -/
theorem execStraitRequestIssue_issued {t : State}
    (hfirst : (s.strait.heldReqs.any fun y => decide (y.issuer = r.issuer)) = false)
    (hissue : s.orderGiven.tryIssue (s.ordered r) = some t) : execStraitRequestIssue r s = .next t.checkFences := by
  simp only [State.orderGiven, State.ordered] at hissue
  simp [execStraitRequestIssue, halive, hfirst, hissue]

/-- A request waits behind its issuer's held ones (log entry 44). -/
theorem execStraitRequestIssue_held (hheld : (s.strait.heldReqs.any fun y => decide (y.issuer = r.issuer)) = true) :
    execStraitRequestIssue r s = .next { s.orderGiven with strait := { s.orderGiven.strait with
      heldReqs := s.strait.heldReqs ++ [s.ordered r] } } := by
  simp only [execStraitRequestIssue, halive, hheld, Bool.not_true, Bool.false_eq_true, if_false, if_true,
    State.orderGiven, State.ordered]

end Issue

/-! ### Responses (R215, R281, R292 to R294) -/

/-- The state in which a response has resolved its tag, and its peer's timeouts are forgotten (R292, R295). -/
def State.tagAnswered (s : State) (r : StraitResp) : State :=
  let n := r.tag.toNat % 4096
  let d := (s.tag n).dst
  (s.setSpeer d { s.speer d with timeouts := 0 }).tagDone n r.status r.data (r.sizeFlags.getLsbD 4)

section Responses

variable {s : State} {opcode : Byte} {r : StraitResp} (hanswers : s.answers = true)
include hanswers

/-- A response that its tag awaits resolves the tag, and held requests are tried again. -/
theorem response_resolves (hwaiting : (s.tag (r.tag.toNat % 4096)).state = .waiting)
    (hgen : (s.tag (r.tag.toNat % 4096)).gen = r.tag.toNat / 4096)
    (hanswer : (s.tag (r.tag.toNat % 4096)).op.answer = opcode)
    (hlocal : (s.tag (r.tag.toNat % 4096)).viaGateway = false) (hreached : r.status ≠ stTARGET_DEAD) :
    (Host.Outcome.next (if s.answers then s.respCame opcode r else s) : Host.Outcome State Fault Refusal)
      = .next (s.tagAnswered r).pumpHeld := by
  have awaited : ¬((s.tag (r.tag.toNat % 4096)).state ≠ .waiting ∨ (s.tag (r.tag.toNat % 4096)).gen ≠ r.tag.toNat / 4096
      ∨ (s.tag (r.tag.toNat % 4096)).op.answer ≠ opcode ∨ (s.tag (r.tag.toNat % 4096)).viaGateway) := by
    simp [hwaiting, hgen, hanswer, hlocal]
  have reached : (r.status == stTARGET_DEAD) = false := beq_eq_false_iff_ne.mpr hreached
  simp only [if_pos hanswers, State.respCame, if_neg awaited, reached, Bool.false_eq_true, if_false, Bool.false_and,
    Bool.false_or, State.tagAnswered]

/-- A response that finds no tag waiting under its generation is discarded and counted. -/
theorem response_late (h : (s.tag (r.tag.toNat % 4096)).state ≠ .waiting
      ∨ (s.tag (r.tag.toNat % 4096)).gen ≠ r.tag.toNat / 4096) :
    (Host.Outcome.next (if s.answers then s.respCame opcode r else s) : Host.Outcome State Fault Refusal)
      = .next (s.count Reg.STRAIT_LATE 1) := by
  have discarded : s.respCame opcode r = s.count Reg.STRAIT_LATE 1 := if_pos (h.imp_right Or.inl)
  rw [if_pos hanswers, discarded]

end Responses

/-! ### Peers and timeouts (R291 to R296) -/

/-- A tag's timeout commits it; a peer of the domain is marked after STRAIT_DEAD_COUNT of them (R295). -/
theorem execTagTimeout_waiting {s : State} {n : Fin 4096} (halive : s.alive = true)
    (hwaiting : (s.tag n.val).state = .waiting) :
    let t := s.tag n.val
    let u := s.tagTimedOut n.val stTIMEOUT
    let p := u.speer t.dst
    let v := u.setSpeer t.dst { p with timeouts := p.timeouts + 1 }
    execTagTimeout n s = .next (if t.viaGateway then u.pumpHeld
      else if v.rdN Reg.STRAIT_DEAD_COUNT ≤ p.timeouts + 1 then v.markUnreachable t.dst else v.pumpHeld) := by
  have guard : ¬((s.tag n.val).state ≠ .waiting ∨ !s.alive) := by simp [hwaiting, halive]
  exact congrArg Host.Outcome.next (if_neg guard)

theorem execLiveMaskChange_domain {s : State} {d : U16} (hdomain : s.sameDomain d = true) (halive : s.alive = true) :
    execLiveMaskChange d s = .next (s.maskChanged d) :=
  congrArg Host.Outcome.next (if_pos ⟨hdomain, halive⟩)

/-- Issuing to a paused peer resumes once nothing to it is outstanding. -/
theorem execIssueResume_paused {s : State} {d : U16} (hpaused : (s.speer d).paused = true) (halive : s.alive = true)
    (hnone : (s.strait.tags.anyWhere fun _ t => decide (t.state = .waiting) && t.dst == d && !t.viaGateway) = false) :
    execIssueResume d s = .next (s.setSpeer d { s.speer d with paused := false }).pumpHeld :=
  congrArg Host.Outcome.next (if_pos ⟨hpaused, halive, hnone⟩)

section Answers

variable {s : State} {d : U16} (hanswers : s.answers = true)
include hanswers

theorem execPing_answered (hlive : s.livePlanes d ≠ []) :
    execPing d s = .next ((s.nextPlane d).2.onPlane (s.nextPlane d).1 chRsp 1 (.pong d)) := by
  have guard : ¬(!s.answers ∨ (s.livePlanes d).isEmpty) := by simp [hanswers, hlive]
  exact congrArg Host.Outcome.next (if_neg guard)

/-- A PONG clears the mark of a peer of the map, and its failure (R248). -/
theorem execPong_clears (hmarked : (s.speer d).unreachable = true) (hpresent : (s.peerMap d).present = true) :
    let u := s.setSpeer d { s.speer d with unreachable := false, timeouts := 0 }
    execPong d s = .next { u with handoff := { u.handoff with failed := u.handoff.failed.set d.toNat false } } :=
  congrArg Host.Outcome.next (if_pos ⟨hanswers, hmarked, hpresent⟩)

/-- A marked peer of the map and the domain is pinged on every live plane. -/
theorem execPeerPingTimer_marked (hmarked : (s.speer d).unreachable = true) (hpresent : (s.peerMap d).present = true)
    (hdomain : s.sameDomain d = true) :
    execPeerPingTimer d s = .next ((s.livePlanes d).foldl (fun s n => s.onPlane n chReq 1 (.ping d n)) s) :=
  congrArg Host.Outcome.next (if_pos ⟨hanswers, hmarked, hpresent, hdomain⟩)

/-- LAST_GASP is recorded as PEER_GASP, and its sender is unreachable and dead. -/
theorem execLastGasp_recorded (c : Byte) :
    let u := (s.setFlag Reg.STRAIT_STATUS 3 true).raise
      { severity := .corrected, block := 0x018, cause := 0x0049, detail0 := d.zeroExtend 64, detail1 := c.zeroExtend 64 }
    execLastGasp d c s = .next ((u.markUnreachable d).peerDead d).settleFailed := by
  have guard : ¬(!s.answers) = true := by simp [hanswers]
  exact congrArg Host.Outcome.next (if_neg guard)

/-- A tile or an acknowledgement of a unit goes to its slot (R215, R221 to R223). -/
theorem execTileData_answers (u : MoverUnit) (k : Nat) : execTileData u k s = .next (s.tileCame u k).settleFailed :=
  congrArg Host.Outcome.next (if_pos hanswers)

theorem execUnitAck_answers (u : MoverUnit) (k : Nat) :
    execUnitAck u k s = .next (s.unitAcked u.slot k u.status).settleFailed :=
  congrArg Host.Outcome.next (if_pos hanswers)

end Answers

/-! ### Routes and windows (R287, R299, R314) -/

theorem execGatewayFlush_alive {s : State} (r : Fin 1024) (halive : s.alive = true) :
    execGatewayFlush r s = .next (s.flushRoute r.val) :=
  congrArg Host.Outcome.next (if_pos halive)

/-- A revoked RDMA window with nothing in flight is FREE, and the command that revoked it completes. -/
theorem execRevocationComplete_rdma {s : State} {i : Fin 4096} (hrevoking : (s.net.windows.get i.val).state = .revoking)
    (hidle : (s.net.windows.get i.val).inflight = 0) :
    let w := s.net.windows.get i.val
    execRevocationComplete true i s = .next (State.completeOpt
      { s with net := { s.net with windows := s.net.windows.set i.val { w with state := .free, revoke := none } } } w.revoke stOK) :=
  congrArg Host.Outcome.next (if_pos (And.intro hrevoking hidle))

/-- A revoked Strait window with nothing in flight is FREE, and the command that revoked it completes. -/
theorem execRevocationComplete_strait {s : State} {i : Fin 4096}
    (hrevoking : (s.strait.windows.get (i.val % 256)).state = .revoking)
    (hidle : (s.strait.windows.get (i.val % 256)).inflight = 0) :
    let w := s.strait.windows.get (i.val % 256)
    execRevocationComplete false i s = .next (State.completeOpt
      { s with strait := { s.strait with
        windows := s.strait.windows.set (i.val % 256) { w with state := .free, revoke := none } } } w.revoke stOK) :=
  congrArg Host.Outcome.next (if_pos (And.intro hrevoking hidle))

/-- Settles O47: each clause is the branch of its command that the clause's hypotheses pick, a response's by its tag. -/
theorem straitIssueAndResponseCommands : Obligations.StraitIssueAndResponseCommands := by
  unfold Obligations.StraitIssueAndResponseCommands
  exact ⟨fun s t r halive hfirst hissue => execStraitRequestIssue_issued halive hfirst hissue,
    fun s r halive hheld => execStraitRequestIssue_held halive hheld,
    fun s i d => ⟨rfl, rfl⟩,
    fun s d hdomain halive => execLiveMaskChange_domain hdomain halive,
    fun s d hpaused halive hnone => execIssueResume_paused hpaused halive hnone,
    fun s n halive hwaiting => execTagTimeout_waiting halive hwaiting,
    fun _ _ => response_resolves, fun _ _ => response_late,
    fun _ _ => response_resolves, fun _ _ => response_late,
    fun _ _ => response_resolves, fun _ _ => response_late,
    fun s u k hanswers => ⟨execTileData_answers hanswers u k, execUnitAck_answers hanswers u k⟩,
    fun s d hanswers hlive => execPing_answered hanswers hlive,
    fun s d hanswers hmarked hpresent => execPong_clears hanswers hmarked hpresent,
    fun s d hanswers hmarked hpresent hdomain => execPeerPingTimer_marked hanswers hmarked hpresent hdomain,
    fun s d c hanswers => execLastGasp_recorded hanswers c,
    fun s r halive => execGatewayFlush_alive r halive,
    fun s i hrevoking hidle => execRevocationComplete_rdma hrevoking hidle,
    fun s i hrevoking hidle => execRevocationComplete_strait hrevoking hidle⟩

end Sys2Proof.Machine
end

section
/-! PROOFS. Chapter 09: the remaining message kinds, messages of a newer epoch and malformed ones, the timers of a transfer;
chapter 23: the register writes of a port. -/

namespace Sys2Proof.Machine

/-! ### The remaining kinds of this epoch (R236, R241 to R246, R254, R255, R261) -/

section OtherKinds

variable (s : State) (m : Msg)

theorem State.handle_abort : s.handle { m with kind := mABORT } = s.onAbort { m with kind := mABORT } := rfl

/-- A KEEPALIVE has no effect of its own: none of the kinds that have one is its kind (R245). -/
theorem State.handle_keepalive : s.handle { m with kind := mKEEPALIVE } = s := rfl

theorem State.handle_restoreReq :
    s.handle { m with kind := mRESTORE_REQ } = s.onRestoreReq { m with kind := mRESTORE_REQ } := rfl

theorem State.handle_replicaReq :
    s.handle { m with kind := mREPLICA_REQ } = s.onReplicaReq { m with kind := mREPLICA_REQ } := rfl

theorem State.handle_covered : s.handle { m with kind := mCOVERED } = s.anchorCovered { m with kind := mCOVERED } := rfl

end OtherKinds

/-- Settles O34: the shared checks by `arrive_next_of_handle`, then the kind's branch of `State.handle`. -/
theorem otherMessagesOfThisEpoch : Obligations.OtherMessagesOfThisEpoch := by
  unfold Obligations.OtherMessagesOfThisEpoch
  exact ⟨fun _ m => arrive_next_of_handle fun u => u.handle_abort m,
    fun _ m => arrive_next_of_handle fun u => u.handle_keepalive m,
    fun _ m => arrive_next_of_handle fun u => u.handle_restoreReq m,
    fun _ m => arrive_next_of_handle fun u => u.handle_replicaReq m,
    fun _ m => arrive_next_of_handle fun u => u.handle_covered m⟩

/-! ### Messages that are held, refused or not taken (R234, R265, R558) -/

/-- A well-formed message of a newer epoch joins the held ones (R265). -/
theorem State.takeMsg_newer {s : State} {m : Msg} (hok : s.msgOk m = true)
    (hepoch : 0 < epochDiff m.mapEpoch s.handoff.epoch) :
    s.takeMsg m = { s with handoff := { s.handoff with heldMsgs := s.handoff.heldMsgs ++ [m] } } := by
  simp [State.takeMsg, hok, hepoch]

theorem State.takeMsg_malformed {s : State} {m : Msg} (hbad : s.msgOk m = false) : s.takeMsg m = s.malformedAny m := by
  simp [State.takeMsg, hbad]

/-- A device without an ID, or not alive, takes no message (R558). -/
theorem State.arrive_absent {s : State} (h : s.unassigned = true ∨ s.alive = false) (kind : Nat) (m : Msg) :
    s.arrive kind m = s := by
  have absent : (s.unassigned || !s.alive) = true := by simpa using h
  exact if_pos absent

/-- The commands that bring a message, each with its kind (R236). -/
def messageCommands : List ((Msg → Instr) × Nat) :=
  [(.query, mQUERY), (.partialMsg, mPARTIAL), (.admitMessage, mADMIT), (.promptTokens, mPROMPT_TOKENS), (.openMsg, mOPEN),
    (.creditReq, mCREDIT_REQ), (.grant, mGRANT), (.refs, mREFS), (.sent, mSENT), (.commit, mCOMMIT), (.reply, mREPLY),
    (.abort, mABORT), (.keepalive, mKEEPALIVE), (.register, mREGISTER), (.redirect, mREDIRECT), (.endMsg, mEND),
    (.released, mRELEASED), (.restoreReq, mRESTORE_REQ), (.replicaReq, mREPLICA_REQ), (.covered, mCOVERED)]

/-- A kind whose malformed message is only dropped: it names the receiver's own slot (log entry 58). -/
def droppedKind (kind : Nat) : Bool := decide (kind = mREPLY ∨ kind = mPARTIAL)

section MessageCommands

variable {s : State} {m : Msg} {x : (Msg → Instr) × Nat}

/-- Each of these commands is the arrival of a message of its kind. -/
theorem exec_messageCommand (hx : x ∈ messageCommands) (m : Msg) (s : State) :
    exec (x.1 m) s = .next (s.arrive x.2 m) := by
  revert x
  simp only [messageCommands, List.forall_mem_cons]
  exact ⟨rfl, rfl, rfl, rfl, rfl, rfl, rfl, rfl, rfl, rfl, rfl, rfl, rfl, rfl, rfl, rfl, rfl, rfl, rfl, rfl,
    List.forall_mem_nil _⟩

theorem exec_messageCommand_absent (h : s.unassigned = true ∨ s.alive = false) (hx : x ∈ messageCommands) :
    exec (x.1 m) s = .next s := by
  rw [exec_messageCommand hx, State.arrive_absent h]

variable (hid : s.unassigned = false) (halive : s.alive = true)
include hid halive

theorem exec_messageCommand_newer (hepoch : 0 < epochDiff m.mapEpoch s.handoff.epoch) (hx : x ∈ messageCommands)
    (hok : s.msgOk { m with kind := x.2 } = true) :
    exec (x.1 m) s = .next { s with handoff := { s.handoff with
      heldMsgs := s.handoff.heldMsgs ++ [{ m with kind := x.2 }] } } := by
  rw [exec_messageCommand hx, State.arrive_live hid halive, State.takeMsg_newer hok hepoch]

/-- A malformed message that names no slot of the receiver is refused. -/
theorem exec_messageCommand_refused (hx : x ∈ messageCommands.filter fun y => !droppedKind y.2)
    (hbad : s.msgOk { m with kind := x.2 } = false) : exec (x.1 m) s = .next (s.malformedMsg { m with kind := x.2 }) := by
  obtain ⟨hcommand, hkind⟩ := List.mem_filter.mp hx
  have answered : ¬(x.2 = mREPLY ∨ x.2 = mPARTIAL) := by simpa [droppedKind] using hkind
  rw [exec_messageCommand hcommand, State.arrive_live hid halive, State.takeMsg_malformed hbad, State.malformedAny,
    if_neg answered]

/-- A malformed REPLY or PARTIAL is dropped and counted. -/
theorem exec_messageCommand_dropped (hx : x ∈ messageCommands.filter fun y => droppedKind y.2)
    (hbad : s.msgOk { m with kind := x.2 } = false) : exec (x.1 m) s = .next (s.setFlag Reg.HANDOFF_STATUS 3 true) := by
  obtain ⟨hcommand, hkind⟩ := List.mem_filter.mp hx
  have dropped : x.2 = mREPLY ∨ x.2 = mPARTIAL := of_decide_eq_true hkind
  rw [exec_messageCommand hcommand, State.arrive_live hid halive, State.takeMsg_malformed hbad, State.malformedAny,
    if_pos dropped]

end MessageCommands

/-- Settles O35: a command of `messageCommands` is an arrival, which the device's state, the message's form and its epoch
decide; the two lists of malformed kinds are that list's halves by `droppedKind`. -/
theorem messagesOfOtherEpochsAndMalformedOnes : Obligations.MessagesOfOtherEpochsAndMalformedOnes := by
  unfold Obligations.MessagesOfOtherEpochsAndMalformedOnes
  exact ⟨fun s m hid halive hepoch x hx hok => exec_messageCommand_newer hid halive hepoch hx hok,
    fun s m hid halive x hx hbad => exec_messageCommand_refused hid halive hx hbad,
    fun s m hid halive x hx hbad => exec_messageCommand_dropped hid halive hx hbad,
    fun s m h x hx => exec_messageCommand_absent h hx⟩

/-! ### The timers of a transfer and of the held messages (R238, R241, R244, R245, R265) -/

section TransferTimers

variable {s : State} {id : U32}

/-- A request for pages that waited too long stalls its transfer, and fails the holder's attempt (R238, R244). -/
theorem execCreditWaitExpiry_waiting (hopen : (s.transfer id.toNat).phase ≠ .closed)
    (hrequests : (s.transfer id.toNat).requests ≠ []) (hkind : (s.transfer id.toNat).kind ≠ .restore) :
    let u := (s.setFlag Reg.HANDOFF_STATUS 2 true).setTransfer id.toNat { s.transfer id.toNat with stalled := true }
    execCreditWaitExpiry id s = .next (if (s.transfer id.toNat).holder then u.failAttempt id.toNat stNO_PAGES else u) := by
  have waiting : ¬((s.transfer id.toNat).phase = .closed ∨ (s.transfer id.toNat).requests = []
      ∨ (s.transfer id.toNat).kind = .restore) := by simp [hopen, hrequests, hkind]
  exact congrArg Host.Outcome.next (if_neg waiting)

/-- Pages have become free for the first request that waits at a live receiver (R238). -/
theorem execQueuedCreditGrant_alive (halive : s.alive = true) :
    execQueuedCreditGrant id s
      = .next (if (s.transfer id.toNat).kind = .restore then s.retryGets id.toNat else s.serveCredit id.toNat) :=
  congrArg Host.Outcome.next (if_pos halive)

/-- Until SENT the holder shows its peer that it is there (R241). -/
theorem execKeepaliveTimer_holder (hholder : (s.transfer id.toNat).holder = true) (hsent : (s.transfer id.toNat).sent = false)
    (hstays : (s.transfer id.toNat).redirecting = false)
    (hphase : (s.transfer id.toNat).phase = .opening ∨ (s.transfer id.toNat).phase = .sending) :
    let t := s.transfer id.toNat
    execKeepaliveTimer id s
      = .next (s.send { kind := mKEEPALIVE, dst := t.peer, requestId := t.requestId, handoffId := t.id }) :=
  congrArg Host.Outcome.next (if_pos ⟨hholder, hsent, hstays, hphase⟩)

/-- A receiver whose holder is silent ends the transfer (R245). -/
theorem execReceiverHandoffTimer_granting (hphase : (s.transfer id.toNat).phase = .granting)
    (hreceiver : (s.transfer id.toNat).holder = false) :
    let t := s.transfer id.toNat
    execReceiverHandoffTimer id s
      = .next ((if t.kind = .restore then s else s.sendAbort t.anchor t stTIMEOUT).closeReceiver id.toNat stTIMEOUT) :=
  congrArg Host.Outcome.next (if_pos ⟨hphase, hreceiver⟩)

end TransferTimers

/-- A message held for HANDOFF_GRACE leaves the held ones and is refused (R265). -/
theorem execHeldMessageTimeout_message {s : State} {i : Nat} {m : Msg} (halive : s.alive = true)
    (hheld : s.handoff.heldMsgs[i]? = some m) :
    execHeldMessageTimeout i s = .next (State.refuseMsg
      { s with handoff := { s.handoff with heldMsgs := s.handoff.heldMsgs.eraseIdx i } } m stNOT_READY) := by
  simp [execHeldMessageTimeout, halive, hheld]

/-! ### Register writes of a port (R11, R559) -/

section RegisterWrite

variable {s : State} {p : Fin 2} (fn : Fin 65) {a : Nat} (v : U64) (e : WriteEnv) (hopen : s.portOpen p = true)
  (hreset : s.pins.resetN = true)
include hopen hreset

theorem execRegisterWrite_word (haligned : a % 4 = 0) :
    execRegisterWrite p fn a 4 v e s = .next (s.hostWrite e p fn a (v.truncate 32)) := by
  simp [execRegisterWrite, hopen, hreset, haligned]

/-- An 8-byte write acts as two, the lower address first (R559). -/
theorem execRegisterWrite_two_words (haligned : a % 8 = 0) :
    execRegisterWrite p fn a 8 v e s
      = .next ((s.hostWrite e p fn a (v.truncate 32)).hostWrite e p fn (a + 4) (BitVec.ofNat 32 (v.toNat / 2 ^ 32))) := by
  simp [execRegisterWrite, hopen, hreset, haligned]

end RegisterWrite

/-- Settles O38: each clause is the branch of its command that the clause's hypotheses pick. -/
theorem handoffTimerAndRegisterCommands : Obligations.HandoffTimerAndRegisterCommands := by
  unfold Obligations.HandoffTimerAndRegisterCommands
  exact ⟨fun s id hopen hrequests hkind => execCreditWaitExpiry_waiting hopen hrequests hkind,
    fun s id halive => execQueuedCreditGrant_alive halive,
    fun s id hholder hsent hstays hphase => execKeepaliveTimer_holder hholder hsent hstays hphase,
    fun s id hphase hreceiver => execReceiverHandoffTimer_granting hphase hreceiver,
    fun s i m halive hheld => execHeldMessageTimeout_message halive hheld,
    fun s p fn a v e hopen hreset =>
      ⟨execRegisterWrite_word fn v e hopen hreset, execRegisterWrite_two_words fn v e hopen hreset⟩⟩

end Sys2Proof.Machine
end

section
/-! PROOFS. Chapter 10: memory requests and mover units at their target. -/

namespace Sys2Proof.Machine

/-- What is sent to a device that answers is not passed by (R279). -/
theorem State.own_transaction {s : State} {d : U16} (hanswers : s.answers = true) (hdev : d = s.devId) :
    ¬(!s.answers ∨ d ≠ s.devId) := by
  simp [hanswers, hdev]

/-! ### Memory requests (R278 to R286, R293) -/

/-- The state in which this device's HBM has executed a request of `n` bytes, and its response has been sent. -/
def State.memoryServed (s : State) (op : StraitOp) (r : StraitReq) (n : Nat) : State :=
  let x := s.runMemory op (r.address.toNat % 2 ^ 44) n r.data (r.sizeFlags.toNat / 16 % 2 = 1)
  x.state.sendResp { opcode := op.answer, sizeFlags := BitVec.ofNat 8 (r.sizeFlags.toNat % 16 + (if x.poison then 16 else 0))
                     src := s.devId, tag := r.tag, status := x.status, dst := r.src, data := x.data }

section MemoryRequest

variable {s : State} {env : WriteEnv} {op : StraitOp} {n : Nat} {w : StraitWin}

/-- A well-formed request to HBM that its window and its partition let through is executed there. -/
theorem State.runRequest_hbm {src key : U16} {addr : U64} {data : List Byte} {poison : Bool}
    (hspace : addr.toNat / 2 ^ 44 % 16 = 0) (hallows : spaceAllows 0 n op.access = true)
    (haligned : addr.toNat % 2 ^ 44 % n = 0)
    (hwindow : s.windowCheck src key op.access 0 (addr.toNat % 2 ^ 44) n = .ok w)
    (hmemory : s.memoryStatus w 0 (addr.toNat % 2 ^ 44) n (op.access != .load) = none) :
    s.runRequest env op src key addr (some n) data poison = s.runMemory op (addr.toNat % 2 ^ 44) n data poison := by
  have formed : ¬(!spaceAllows 0 n op.access ∨ addr.toNat % 2 ^ 44 % n ≠ 0) :=
    not_or.mpr ⟨by simp [hallows], not_not.mpr haligned⟩
  have memory : ¬(0 : Nat) = 2 := by decide
  simp only [State.runRequest, hspace, if_neg formed, hwindow, if_neg memory, hmemory, State.spaceAddr]

/-- The step that every memory request's clause takes: the request is this device's, and HBM executes it. -/
theorem serveRequest_next_of_admitted {r : StraitReq} (hanswers : s.answers = true)
    (hdev : r.address.extractLsb' 48 16 = s.devId) (hspace : r.address.toNat / 2 ^ 44 % 16 = 0)
    (hsize : sizeOfCode (r.sizeFlags.toNat % 16) = some n) (hallows : spaceAllows 0 n op.access = true)
    (haligned : r.address.toNat % 2 ^ 44 % n = 0)
    (hwindow : s.windowCheck r.src r.key op.access 0 (r.address.toNat % 2 ^ 44) n = .ok w)
    (hmemory : s.memoryStatus w 0 (r.address.toNat % 2 ^ 44) n (op.access != .load) = none) :
    (Host.Outcome.next (s.serveRequest env op r) : Host.Outcome State Fault Refusal) = .next (s.memoryServed op r n) := by
  simp only [State.serveRequest, if_neg (State.own_transaction hanswers hdev), hsize,
    State.runRequest_hbm hspace hallows haligned hwindow hmemory, State.memoryServed]

end MemoryRequest

/-! ### Mover units (R264, R265, R284) -/

section Unit

variable {s t : State} {u a : MoverUnit}

/-- A unit of a newer epoch waits for its map (R265). -/
theorem State.takeUnit_newer (hepoch : 0 < epochDiff u.epoch s.handoff.epoch) : s.takeUnit u = .held := if_pos hepoch

/-- A unit of the device's epoch does what its opcode says. -/
theorem State.takeUnit_same_epoch (hepoch : epochDiff u.epoch s.handoff.epoch = 0) :
    s.takeUnit u = if u.opcode = 0x40 then s.putUnit u else if u.opcode = 0x41 then s.getUnit u else s.bytesUnit u := by
  simp [State.takeUnit, hepoch]

variable (hanswers : s.answers = true) (hdev : u.target.extractLsb' 48 16 = s.devId)
include hanswers hdev

/-- A unit of a newer epoch joins the held ones. -/
theorem serveUnit_next_of_newer (hepoch : 0 < epochDiff u.epoch s.handoff.epoch) :
    (Host.Outcome.next (s.serveUnit u) : Host.Outcome State Fault Refusal)
      = .next { s with handoff := { s.handoff with heldUnits := s.handoff.heldUnits ++ [(u, none)] } } := by
  simp only [State.serveUnit, if_neg (State.own_transaction hanswers hdev), State.takeUnit_newer hepoch]

/-- A unit of this epoch is answered with what its opcode's effect gives. -/
theorem serveUnit_next_of_same_epoch (hepoch : epochDiff u.epoch s.handoff.epoch = 0)
    (heffect : (if u.opcode = 0x40 then s.putUnit u else if u.opcode = 0x41 then s.getUnit u else s.bytesUnit u)
      = .answer t a) :
    (Host.Outcome.next (s.serveUnit u) : Host.Outcome State Fault Refusal) = .next (t.answerUnit a) := by
  simp only [State.serveUnit, if_neg (State.own_transaction hanswers hdev), State.takeUnit_same_epoch hepoch, heffect]

end Unit

/-- Settles O48: an admitted request by `serveRequest_next_of_admitted` with its command's operation, a unit by its epoch and,
in this epoch, its opcode. -/
theorem straitTargetCommands : Obligations.StraitTargetCommands := by
  unfold Obligations.StraitTargetCommands
  exact ⟨fun _ _ _ _ => serveRequest_next_of_admitted (op := .load),
    fun _ _ _ _ _ => serveRequest_next_of_admitted (op := .store),
    fun _ _ _ _ => serveRequest_next_of_admitted (op := .fetchAdd),
    fun _ _ _ _ => serveRequest_next_of_admitted (op := .swap),
    fun _ _ _ _ => serveRequest_next_of_admitted (op := .cas),
    fun _ _ _ _ => serveRequest_next_of_admitted (op := .fetchAnd),
    fun _ _ _ _ => serveRequest_next_of_admitted (op := .fetchOr),
    fun _ _ _ _ => serveRequest_next_of_admitted (op := .fetchXor),
    fun _ _ _ _ => serveRequest_next_of_admitted (op := .fetchMin),
    fun _ _ _ _ => serveRequest_next_of_admitted (op := .fetchMax),
    fun _ _ u _ => serveUnit_next_of_same_epoch (u := { u with opcode := 0x40 }),
    fun _ u => serveUnit_next_of_newer (u := { u with opcode := 0x40 }),
    fun _ _ u _ => serveUnit_next_of_same_epoch (u := { u with opcode := 0x41 }),
    fun _ u => serveUnit_next_of_newer (u := { u with opcode := 0x41 }),
    fun _ _ u _ => serveUnit_next_of_same_epoch (u := { u with opcode := 0x42 }),
    fun _ u => serveUnit_next_of_newer (u := { u with opcode := 0x42 })⟩

end Sys2Proof.Machine
end

section
/-! PROOFS. Chapter 10: the flits, replays, retrains and audits of a Strait link. -/

namespace Sys2Proof.Machine

/-! ### Flits (R271 to R276) -/

section Flits

variable {s : State} {n : Fin 16} {b : List Byte} (hreset : s.pins.resetN = true) (hup : (s.sport n.val).state = .up)
include hreset hup

/-- A port that is UP looks at every flit but one of a reserved TYPE: first at its CRC, then at its TYPE, then at its SEQ. -/
theorem execDataFlitReceived_up (htype : (Flit.ofBytes b).type ≠ .reserved) :
    execDataFlitReceived n b s = .next (
      if !(Flit.ofBytes b).crcOk then s.flitBad n.val
      else if (Flit.ofBytes b).type ≠ .data then s.flitHeader n.val (Flit.ofBytes b)
      else if (Flit.ofBytes b).seq % 4096 = ((s.sport n.val).recvSeq + 1) % 4096 then
        (s.flitData n.val (Flit.ofBytes b)).flitHeader n.val (Flit.ofBytes b)
      else s.flitBad n.val) := by
  have looked : ¬((s.sport n.val).state ≠ .up ∨ s.pins.resetN = false ∨ (Flit.ofBytes b).type = .reserved) := by
    simp [hup, hreset, htype]
  exact congrArg Host.Outcome.next (if_neg looked)

/-- A DATA flit in sequence: its slots are taken, then its header fields. -/
theorem execDataFlitReceived_inSequence (hdata : (Flit.ofBytes b).type = .data) (hcrc : (Flit.ofBytes b).crcOk = true)
    (hseq : (Flit.ofBytes b).seq % 4096 = ((s.sport n.val).recvSeq + 1) % 4096) :
    execDataFlitReceived n b s = .next ((s.flitData n.val (Flit.ofBytes b)).flitHeader n.val (Flit.ofBytes b)) := by
  have htype : (Flit.ofBytes b).type ≠ .reserved := by simp [hdata]
  rw [execDataFlitReceived_up hreset hup htype, if_neg (by simp [hcrc]), if_neg (not_not.mpr hdata), if_pos hseq]

/-- A flit with a bad CRC, or a DATA flit out of sequence, is bad; its header is not used (log entry 45). -/
theorem execDataFlitReceived_bad (htype : (Flit.ofBytes b).type ≠ .reserved)
    (hbad : (Flit.ofBytes b).crcOk = false ∨ ((Flit.ofBytes b).type = .data
      ∧ (Flit.ofBytes b).seq % 4096 ≠ ((s.sport n.val).recvSeq + 1) % 4096)) :
    execDataFlitReceived n b s = .next (s.flitBad n.val) := by
  rw [execDataFlitReceived_up hreset hup htype]
  rcases hbad with hcrc | ⟨hdata, hseq⟩
  · rw [if_pos (by simp [hcrc])]
  · rw [if_neg (not_not.mpr hdata), if_neg hseq, ite_self]

/-- A good flit of another TYPE gives its header fields only. -/
theorem execDataFlitReceived_header (htype : (Flit.ofBytes b).type ≠ .reserved) (hother : (Flit.ofBytes b).type ≠ .data)
    (hcrc : (Flit.ofBytes b).crcOk = true) :
    execDataFlitReceived n b s = .next (s.flitHeader n.val (Flit.ofBytes b)) := by
  rw [execDataFlitReceived_up hreset hup htype, if_neg (by simp [hcrc]), if_pos hother]

end Flits

/-- A port that is UP replays when ACK has not advanced (R276). -/
theorem execReplayTimeout_up {s : State} {n : Fin 16} (hup : (s.sport n.val).state = .up) :
    execReplayTimeout n s = .next (s.replay n.val) :=
  congrArg Host.Outcome.next (if_pos hup)

/-! ### Retrains (R268, R277) -/

/-- A port after a retrain: UP, with the grants less what the flits of its retry buffer have taken of them. -/
def StraitPort.retrained (p : StraitPort) (half : Bool) (grants : List Nat) : StraitPort :=
  { p with
    state := .up, half := half, replaysNow := 0, nakSent := false
    credits := addByChannel [] ((grants.zip (bufferedSlots p.buffer)).map fun x => x.1 - x.2) 32 }

/-- A port after its training: UP, with the grants, its sequence numbers and totals anew (log entry 45). -/
def StraitPort.newlyTrained (p : StraitPort) (half : Bool) (grants : List Nat) : StraitPort :=
  { p with
    state := .up, half := half, attempt := false, sendSeq := 0, acked := 0, recvSeq := 0, buffer := [], replaysNow := 0
    nakSent := false, credits := addByChannel [] grants 32, sentSlots := [], received := [], stream := {} }

/-- A port whose retrain has timed out: DOWN, with nothing left to send. -/
def StraitPort.wentDown (p : StraitPort) : StraitPort :=
  { p with state := .down, buffer := [], backlog := [], replaysNow := 0, nakSent := false }

/-- The state in which port `n`, which acknowledged as `p` says, has sent what stays in its retry buffer again, if anything does. -/
def State.replayBuffered (s : State) (n : Nat) (p : StraitPort) : State :=
  if p.buffer.isEmpty then s
  else (s.setSport n { s.sport n with replays := satAdd 32 p.replays 1 }).straitOut (.replay n ((p.acked + 1) % 4096))

/-- The state in which port `n` has sent what waited and may go. -/
def State.pumpPort (s : State) (n : Nat) : State := s.setSport n (s.sport n).pump

section Retrains

variable {s : State} {n : Fin 16}

/-- A retrain that completes acknowledges, takes the grants and replays what stays. -/
theorem execRetrainComplete_retraining (half : Bool) (ack : Fin 4096) (grants : List Nat) (hreset : s.pins.resetN = true)
    (hretraining : (s.sport n.val).state = .retraining) :
    let p := (s.sport n.val).acknowledge ack.val
    execRetrainComplete n half ack grants s =
      .next (((s.setSport n.val (p.retrained half grants)).replayBuffered n.val p).pumpPort n.val) := by
  have running : ¬s.pins.resetN = false := by simp [hreset]
  exact congrArg Host.Outcome.next ((if_neg running).trans (if_pos hretraining))

/-- A training that completes starts the numbers anew, and the plane is live again for the peers on it. -/
theorem execRetrainComplete_training (half : Bool) (ack : Fin 4096) (grants : List Nat) (hreset : s.pins.resetN = true)
    (htraining : (s.sport n.val).state = .training) :
    execRetrainComplete n half ack grants s =
      .next (((s.setSport n.val ((s.sport n.val).newlyTrained half grants)).pumpPort n.val).planeChanged n.val) := by
  have running : ¬s.pins.resetN = false := by simp [hreset]
  have untrained : ¬(s.sport n.val).state = .retraining := by simp [htraining]
  exact congrArg Host.Outcome.next
    ((if_neg running).trans ((if_neg untrained).trans (if_pos (Or.inl htraining))))

/-- A retrain or a training that times out takes the port DOWN. -/
theorem execRetrainTimeout_underWay (h : (s.sport n.val).state = .retraining ∨ (s.sport n.val).state = .training) :
    execRetrainTimeout n s = .next (((s.setSport n.val (s.sport n.val).wentDown).setFlag
      Reg.STRAIT_STATUS 1 true).planeChanged n.val) :=
  congrArg Host.Outcome.next (if_pos h)

/-- A DOWN port tries a retrain. -/
theorem execRetrainAttempt_down (hdown : (s.sport n.val).state = .down) (hreset : s.pins.resetN = true) :
    execRetrainAttempt n s = .next (s.startRetrain n.val) :=
  congrArg Host.Outcome.next (if_pos ⟨hdown, hreset⟩)

end Retrains

/-- Settles O45: a flit by its CRC, TYPE and SEQ (`execDataFlitReceived_up`), a retrain by the state that its port is in. -/
theorem straitLinkCommands : Obligations.StraitLinkCommands := by
  unfold Obligations.StraitLinkCommands
  exact ⟨fun s n b hreset hup hdata hcrc hseq => execDataFlitReceived_inSequence hreset hup hdata hcrc hseq,
    fun s n b hreset hup htype hbad => execDataFlitReceived_bad hreset hup htype hbad,
    fun s n b hreset hup htype hother hcrc => execDataFlitReceived_header hreset hup htype hother hcrc,
    fun s n hup => execReplayTimeout_up hup,
    fun s n half ack g hreset hretraining => execRetrainComplete_retraining half ack g hreset hretraining,
    fun s n half ack g hreset htraining => execRetrainComplete_training half ack g hreset htraining,
    fun s n h => execRetrainTimeout_underWay h,
    fun s n hdown hreset => execRetrainAttempt_down hdown hreset⟩

/-! ### Audits (R275, R395, R396) -/

/-- The first channel whose total of slots sent, as AUDIT brings it, is not that of the slots received (log entry 45). -/
def StraitPort.auditDiffers (p : StraitPort) (totals : List Nat) : Option Nat :=
  (List.range 4).find? fun ch => decide (totals.getD ch 0 % 2 ^ 32 ≠ p.received.get ch)

/-- A port that an AUDIT has found wrong: the error is counted, and the other side's totals are taken. -/
def StraitPort.auditCorrected (p : StraitPort) (totals : List Nat) : StraitPort :=
  { p with auditErrs := satAdd 16 p.auditErrs 1, received := addByChannel [] (totals.take 4) 32 }

/-- The record LINK_AUDIT of a port's channel: the channel, and by how much the totals differ. -/
def linkAudit (p : StraitPort) (n ch : Nat) (totals : List Nat) : FaultInfo :=
  FaultInfo.onIslet
    { severity := .corrected, block := 0x00E, cause := 0x0030, unit := BitVec.ofNat 16 n, detail0 := BitVec.ofNat 64 ch
      detail1 := BitVec.ofNat 64 ((totals.getD ch 0 % 2 ^ 32 + 2 ^ 32 - p.received.get ch) % 2 ^ 32) }
    (straitIslet n)

/-- The state in which an AUDIT whose totals differ on channel `ch` has been answered. -/
def State.auditFailed (s : State) (n : Nat) (totals : List Nat) (ch : Nat) : State :=
  (((s.setSport n ((s.sport n).auditCorrected totals)).setFlag Reg.FAULT_AUDIT 2 true).raise
    (linkAudit (s.sport n) n ch totals)).startRetrain n

section Audits

variable {s : State} {n : Fin 16} (hup : (s.sport n.val).state = .up)
include hup

/-- With a credit of the control channel the totals go out, AUDIT's own slots among them. -/
theorem execAuditSend_up (hcredit : (s.sport n.val).canSend chCtl 2 false = true) :
    execAuditSend n s = .next ((s.setSport n.val ((s.sport n.val).sendNow chCtl 2)).straitOut
      (.audit n.val ((s.sport n.val).sendNow chCtl 2).sentSlots)) :=
  congrArg Host.Outcome.next (if_pos ⟨hup, hcredit⟩)

/-- An AUDIT is answered by the first channel that differs, if any does. -/
theorem execAudit_up (totals : List Nat) :
    execAudit n totals s = .next (((s.sport n.val).auditDiffers totals).elim s (s.auditFailed n.val totals)) := by
  refine congrArg Host.Outcome.next ((if_neg (not_not.mpr hup)).trans ?_)
  rw [StraitPort.auditDiffers]
  split
  next hequal => rw [hequal]; rfl
  next ch hdiffers => rw [hdiffers]; rfl

theorem execAudit_equal {totals : List Nat} (hequal : (s.sport n.val).auditDiffers totals = none) :
    execAudit n totals s = .next s := by
  rw [execAudit_up hup, hequal, Option.elim_none]

theorem execAudit_differs {totals : List Nat} {ch : Nat} (hdiffers : (s.sport n.val).auditDiffers totals = some ch) :
    execAudit n totals s = .next (s.auditFailed n.val totals ch) := by
  rw [execAudit_up hup, hdiffers, Option.elim_some]

end Audits

/-- Settles O46: totals go out where a credit allows it, and are taken by the first channel that differs (`execAudit_up`). -/
theorem straitAuditCommands : Obligations.StraitAuditCommands := by
  unfold Obligations.StraitAuditCommands
  exact ⟨fun s n hup hcredit => execAuditSend_up hup hcredit,
    fun s n totals hup hequal => execAudit_equal hup hequal,
    fun s n totals ch hup hdiffers => execAudit_differs hup hdiffers⟩

end Sys2Proof.Machine
end

section
/-! PROOFS. Chapters 10 and 11: windows opened and revoked, connections made and closed, and routes set, by host commands. -/

namespace Sys2Proof.Machine

/-! ### Windows (R285, R287, R312, R314) -/

/-- The state of an RDMA window or of a Strait window. -/
def State.windowState (s : State) (rdma : Bool) (i : Nat) : WindowState :=
  if rdma then (s.rdmaWin i).state else (s.strait.windows.get i).state

section Windows

variable {s : State} {w : WinRef}

/-- WINDOW_OPEN with fields in range, by a function that may create the window. -/
theorem execWindowOpen_accepted (h : s.Runs w 0x09) (hformed : (s.frontCmd w.key).winArgs.formed = true)
    (hmay : (s.take w.key).mayOpen w.key (s.frontCmd w.key) (s.frontCmd w.key).winArgs = true) :
    execWindowOpen w s = .next (if (s.frontCmd w.key).winArgs.rdma
      then (s.take w.key).openRdma (s.ref w) (s.frontCmd w.key).winArgs
      else (s.take w.key).openStrait (s.ref w) (s.frontCmd w.key).winArgs) := by
  simp only [execWindowOpen, State.hostCmd_runs h, hformed, hmay, Bool.not_true, Bool.false_eq_true, if_false]

/-- WINDOW_REVOKE by PF0 of an open window of either kind. -/
theorem execWindowRevoke_opened {rdma : Bool} (h : s.Runs w 0x0A) (hkind : (s.frontCmd w.key).arg0.getLsbD 0 = rdma)
    (hrange : (s.frontCmd w.key).arg1.toNat % 65536 < if rdma then 4096 else 256)
    (hopened : (s.take w.key).windowState rdma ((s.frontCmd w.key).arg1.toNat % 65536) = .opened) (hfn : winFn w.key = 0) :
    execWindowRevoke w s = .next (if rdma
      then (s.take w.key).revokeRdma ((s.frontCmd w.key).arg1.toNat % 65536) (some (s.ref w))
      else (s.take w.key).revokeStrait ((s.frontCmd w.key).arg1.toNat % 65536) (some (s.ref w))) := by
  rw [State.windowState] at hopened
  simp only [execWindowRevoke, State.hostCmd_runs h, hkind, hopened, hfn, Nat.not_le.mpr hrange, reduceCtorEq, or_self,
    ne_eq, not_true_eq_false, false_and, if_false]

end Windows

/-! ### Connections (R307 to R309) -/

/-- The lowest-numbered FREE connection (log entry 15). -/
def State.lowestFreeConn (s : State) : Option Nat := s.net.conns.first (fun x => decide (x.state = .free)) 8192

/-- The connection that a CONNECT of a tenant makes; only a MULTIPATH one awaits the hello of its peer. -/
def State.connected (s : State) (a : ConnAttr) (tenant : BitVec 10) (ref : CmdRef) : Conn :=
  let conn : Conn :=
    { state := if a.multipath then .connecting else .ready
      attr := { a with paths := if a.multipath then s.rdN Reg.NET_PATHS else 1, tenant := tenant }
      creator := ref.1
      connectCmd := if a.multipath then some ref else none }
  { conn with window := s.startWindow conn }

section Connections

variable {s : State} {w : WinRef} {a : ConnAttr} {n : Nat}

/-- CONNECT with attributes in range takes the lowest free connection, and completes at once unless it is MULTIPATH. -/
theorem execConnect_accepted (h : s.Runs w 0x0B) (hformed : a.formed = true)
    (hagents : (a.ownAgents && (s.take w.key).agentsHave a) = false) (hfree : (s.take w.key).lowestFreeConn = some n) :
    let t := (s.take w.key).setNetConn n ((s.take w.key).connected a (s.frontCmd w.key).tenantId (s.ref w))
    execConnect w a true s =
      .next (if a.multipath then t.netOut (.hello n) else t.complete (s.ref w) stOK (BitVec.ofNat 64 n)) := by
  rw [State.lowestFreeConn] at hfree
  simp only [execConnect, State.hostCmd_runs h, hformed, hagents, hfree, Bool.not_true, Bool.or_self, Bool.false_eq_true,
    if_false]
  rfl

theorem execConnect_standard (h : s.Runs w 0x0B) (hformed : a.formed = true)
    (hagents : (a.ownAgents && (s.take w.key).agentsHave a) = false) (hfree : (s.take w.key).lowestFreeConn = some n)
    (hstandard : a.multipath = false) :
    execConnect w a true s = .next (((s.take w.key).setNetConn n
      ((s.take w.key).connected a (s.frontCmd w.key).tenantId (s.ref w))).complete (s.ref w) stOK (BitVec.ofNat 64 n)) := by
  simp only [execConnect_accepted h hformed hagents hfree, hstandard, Bool.false_eq_true, if_false]

theorem execConnect_multipath (h : s.Runs w 0x0B) (hformed : a.formed = true)
    (hagents : (a.ownAgents && (s.take w.key).agentsHave a) = false) (hfree : (s.take w.key).lowestFreeConn = some n)
    (hmultipath : a.multipath = true) :
    execConnect w a true s = .next (((s.take w.key).setNetConn n
      ((s.take w.key).connected a (s.frontCmd w.key).tenantId (s.ref w))).netOut (.hello n)) := by
  simp only [execConnect_accepted h hformed hagents hfree, hmultipath, if_true]

/-- A STANDARD connection is READY, on one path. -/
theorem State.connected_standard (u : State) (tenant : BitVec 10) (ref : CmdRef) (hstandard : a.multipath = false) :
    (u.connected a tenant ref).state = .ready ∧ (u.connected a tenant ref).attr = { a with paths := 1, tenant := tenant }
      ∧ (u.connected a tenant ref).creator = ref.1 := by
  simp [State.connected, hstandard]

/-- A MULTIPATH connection is CONNECTING, on the device's paths, and keeps its command. -/
theorem State.connected_multipath (u : State) (tenant : BitVec 10) (ref : CmdRef) (hmultipath : a.multipath = true) :
    (u.connected a tenant ref).state = .connecting
      ∧ (u.connected a tenant ref).attr = { a with paths := u.rdN Reg.NET_PATHS, tenant := tenant }
      ∧ (u.connected a tenant ref).connectCmd = some ref := by
  simp [State.connected, hmultipath]

/-- CLOSE of a connection that exists. -/
theorem execClose_inRange (h : s.Runs w 0x0C) (hrange : (s.frontCmd w.key).arg0.toNat < 8192) :
    execClose w s = .next ((s.take w.key).closeConn (s.frontCmd w.key).arg0.toNat (some (s.ref w))) := by
  simp only [execClose, State.hostCmd_runs h, if_neg (Nat.not_le.mpr hrange)]

end Connections

/-! ### Routes (R298) -/

/-- Replaces a route. -/
def State.setRoute (s : State) (i : Nat) (r : Route) : State :=
  { s with strait := { s.strait with routes := s.strait.routes.set i r } }

/-- ROUTE_SET of a route and a connection that exist flushes the route's writes first (log entry 36). -/
theorem execRouteSet_inRange {s : State} {w : WinRef} {r : Route} (h : s.Runs w 0x0D)
    (hroute : (s.frontCmd w.key).arg0.toNat < 1024) (hconn : r.conn < 8192) :
    execRouteSet w r true s = .next ((((s.take w.key).flushRoute (s.frontCmd w.key).arg0.toNat).setRoute
      (s.frontCmd w.key).arg0.toNat r).complete (s.ref w) stOK) := by
  have accepted : ¬(1024 ≤ (s.frontCmd w.key).arg0.toNat ∨ true = false ∨ 8192 ≤ r.conn) := by
    simp [hroute, hconn]
  simp only [execRouteSet, State.hostCmd_runs h, if_neg accepted, State.setRoute]

/-- Settles O28: a command that runs (`State.hostCmd_runs`) and passes its own checks has its accepting branch's effect. -/
theorem windowPlanAndConnectionCommands : Obligations.WindowPlanAndConnectionCommands := by
  unfold Obligations.WindowPlanAndConnectionCommands
  exact ⟨fun s w h hformed hmay => execWindowOpen_accepted h hformed hmay,
    fun s w h hkind hrange hopened hfn => execWindowRevoke_opened h hkind hrange hopened hfn,
    fun s w h hkind hrange hopened hfn => execWindowRevoke_opened h hkind hrange hopened hfn,
    fun s w a n h hformed hagents hfree hstandard =>
      ⟨_, execConnect_standard h hformed hagents hfree hstandard, State.connected_standard _ _ _ hstandard⟩,
    fun s w a n h hformed hagents hfree hmultipath =>
      ⟨_, execConnect_multipath h hformed hagents hfree hmultipath, State.connected_multipath _ _ _ hmultipath⟩,
    fun s w h hrange => execClose_inRange h hrange,
    fun s w r h hroute hconn => execRouteSet_inRange h hroute hconn⟩

end Sys2Proof.Machine
end

section
/-! PROOFS. Chapter 11: the packets, acknowledgements, credits and timers of multipath connections, and standard RoCE v2. -/

namespace Sys2Proof.Machine

/-! ### Requests, writes and messages that arrive (R309, R310, R316, R332) -/

/-- The packet is the first copy of one that connection `c` has room for, where `m` is its message as received (R316, R319). -/
structure MpPacket.FirstCopy (p : MpPacket) (c : Conn) (m : RecvMsg) : Prop where
  new : ((msnBelow p.msn c.cumMsn && !m.known) || (m.known && m.bits.contains (p.index c))) = false
  unheld : (c.heldPkts.any fun q => q.msn == p.msn && q.offset == p.offset) = false
  fits : m.fits p = true
  room : (!m.known && decide (256 ≤ c.incomplete)) = false

/-- MP_SEND and MP_ATOMIC are of the MESSAGE class alone (R310). -/
theorem MpPacket.formed_stateClass {p : MpPacket} {c : Conn} (hop : p.op = 0xC1 ∨ p.op = 0xC4)
    (hclass : c.attr.message = false) : p.formed c = false := by
  rcases hop with hsend | hatomic
  · simp [MpPacket.formed, MpPacket.bare, hsend, hclass]
  · simp [MpPacket.formed, MpPacket.bare, hatomic, hclass]

section Arrivals

variable {s t : State} {p : MpPacket} (hanswers : s.answers = true)
include hanswers

theorem State.mpPacket_unready (hstate : (s.netConn p.conn).state ≠ .ready) : s.mpPacket p = s.netUnready := by
  have answers : ¬(!s.answers) = true := by simp [hanswers]
  exact (if_neg answers).trans (if_pos hstate)

variable (hready : (s.netConn p.conn).state = .ready) (hsrc : p.srcOk = true)
include hready hsrc

theorem State.mpPacket_malformed (hformed : p.formed (s.netConn p.conn) = false) : s.mpPacket p = s.netMalformed := by
  simp [State.mpPacket, hanswers, hready, hsrc, hformed]

variable (hmultipath : (s.netConn p.conn).attr.multipath = true) (hformed : p.formed (s.netConn p.conn) = true)
include hmultipath hformed

/-- A first copy that the policer lets through goes to its class; only the MESSAGE class is policed (R332). -/
theorem State.mpPacket_firstCopy
    (hpass : (if (s.netConn p.conn).attr.message then s.police (s.netConn p.conn).attr.tenant.toNat p.frameLen else (true, s))
      = (true, t))
    (hfirst : p.FirstCopy (s.netConn p.conn) (t.recvMsg p.conn p.msn)) :
    s.mpPacket p = if (s.netConn p.conn).attr.message then t.messagePacket p else t.statePacket p := by
  obtain ⟨hnew, hunheld, hfits, hroom⟩ := hfirst
  simp only [State.mpPacket, hanswers, hready, hsrc, hmultipath, hformed, hpass, hnew, hunheld, hfits, hroom,
    Bool.not_true, Bool.false_eq_true, ne_eq, not_true_eq_false, or_self, if_false]

theorem State.mpPacket_stateClass (hclass : (s.netConn p.conn).attr.message = false)
    (hfirst : p.FirstCopy (s.netConn p.conn) (s.recvMsg p.conn p.msn)) : s.mpPacket p = s.statePacket p := by
  have unpoliced := Bool.eq_false_iff.mp hclass
  rw [State.mpPacket_firstCopy hanswers hready hsrc hmultipath hformed (if_neg unpoliced) hfirst, if_neg unpoliced]

theorem State.mpPacket_messageClass (hclass : (s.netConn p.conn).attr.message = true)
    (hpolice : s.police (s.netConn p.conn).attr.tenant.toNat p.frameLen = (true, t))
    (hfirst : p.FirstCopy (s.netConn p.conn) (t.recvMsg p.conn p.msn)) : s.mpPacket p = t.messagePacket p := by
  rw [State.mpPacket_firstCopy hanswers hready hsrc hmultipath hformed ((if_pos hclass).trans hpolice) hfirst, if_pos hclass]

end Arrivals

/-! ### Responses (R316, R318, R323, R324) -/

/-- The state in which a packet has consumed a credit of its connection (R324). -/
def State.creditConsumed (s : State) (n : Nat) : State :=
  s.setNetConn n { s.netConn n with rConsumed := ((s.netConn n).rConsumed + 1) % 2 ^ 32 }

/-- The state in which a response packet has been counted against its connection's credits: the MESSAGE class has none. -/
def State.respCredited (s : State) (n : Nat) : State :=
  if (s.netConn n).attr.message then s else s.creditConsumed n

theorem State.respCredited_messageClass {s : State} {n : Nat} (hclass : (s.netConn n).attr.message = true) :
    s.respCredited n = s := if_pos hclass

theorem State.respCredited_stateClass {s : State} {n : Nat} (hclass : (s.netConn n).attr.message = false) :
    s.respCredited n = s.creditConsumed n := if_neg (Bool.eq_false_iff.mp hclass)

/-- The state in which a response that nothing awaits has been counted, and its request forgotten (R323). -/
def State.respLate (s : State) (n msn : Nat) : State :=
  (((s.count Reg.NET_LATE 1).forgetOut n msn).grantCredits).sendWaiting n

/-- A response's buffer once the packet has joined it. -/
def State.respBuffer (s : State) (p : MpPacket) : RecvMsg :=
  let c := s.netConn p.conn
  (c.resps.get p.msn).join p (p.index c) stOK true

/-- The state in which a response packet of the MESSAGE class has joined its buffer, and its bytes are charged (R370). -/
def State.respJoined (s : State) (p : MpPacket) : State :=
  let c := s.netConn p.conn
  (s.setNetConn p.conn { c with resps := c.resps.set p.msn (s.respBuffer p) }).chargeRx c 0 p.payload.length

/-- The state in which a whole response has gone to what awaits it, `x`, and what it held up has gone on. -/
def State.respDelivered (s : State) (n msn : Nat) (x : NetItem) (m : RecvMsg) : State :=
  ((((s.deliverResp n msn x m.whole m.poison).grantCredits).sendWaiting n).settleFailed).pumpHeld

/-- MP_ATOMIC_RESP is of the MESSAGE class alone (R310). -/
theorem MpPacket.messageClass_of_atomicResp {p : MpPacket} {c : Conn} (hop : p.op = 0xC5) (hformed : p.formed c = true) :
    c.attr.message = true := by
  by_contra hclass
  simp [MpPacket.formed, MpPacket.bare, hop, hclass] at hformed

section Responses

variable {s : State} {p : MpPacket} (hanswers : s.answers = true) (hlistens : (s.netConn p.conn).listens = true)
  (hsrc : p.srcOk = true) (hmultipath : (s.netConn p.conn).attr.multipath = true)
  (hformed : p.formed (s.netConn p.conn) = true)
include hanswers hlistens hsrc hmultipath hformed

theorem State.respPacket_duplicate
    (hdup : ((s.netConn p.conn).resps.get p.msn).bits.contains (p.index (s.netConn p.conn)) = true) :
    s.respPacket p = s.count Reg.NET_DUP 1 := by
  simp only [State.respPacket, hanswers, hlistens, hsrc, hmultipath, hformed, hdup, Bool.not_true, Bool.false_eq_true,
    or_self, if_false, if_true]

variable (hnew : ((s.netConn p.conn).resps.get p.msn).bits.contains (p.index (s.netConn p.conn)) = false)
include hnew

/-- A response that nothing awaits consumes its credit all the same. -/
theorem State.respPacket_late (hawaits : (s.respCredited p.conn).awaits p.conn p.msn p.op = none) :
    s.respPacket p = (s.respCredited p.conn).respLate p.conn p.msn := by
  rw [State.respCredited, State.creditConsumed] at hawaits ⊢
  simp only [State.respPacket, hanswers, hlistens, hsrc, hmultipath, hformed, hnew, hawaits, Bool.not_true,
    Bool.false_eq_true, or_self, if_false, State.respLate]

theorem State.respPacket_stateLate (hclass : (s.netConn p.conn).attr.message = false)
    (hawaits : (s.creditConsumed p.conn).awaits p.conn p.msn p.op = none) :
    s.respPacket p = (s.creditConsumed p.conn).respLate p.conn p.msn := by
  rw [← State.respCredited_stateClass hclass] at hawaits ⊢
  exact State.respPacket_late hanswers hlistens hsrc hmultipath hformed hnew hawaits

theorem State.respPacket_atomicLate (hop : p.op = 0xC5) (hawaits : s.awaits p.conn p.msn p.op = none) :
    s.respPacket p = s.respLate p.conn p.msn := by
  have uncredited := State.respCredited_messageClass (MpPacket.messageClass_of_atomicResp hop hformed)
  rw [State.respPacket_late hanswers hlistens hsrc hmultipath hformed hnew (uncredited.symm ▸ hawaits), uncredited]

variable {y : OutMsg} (hclass : (s.netConn p.conn).attr.message = true)
  (hawaits : s.awaits p.conn p.msn p.op = some y) (hfits : ((s.netConn p.conn).resps.get p.msn).fits p = true)
include hclass hawaits hfits

/-- An awaited response of the MESSAGE class joins its buffer; an atomic's one packet is whole at once (R310). -/
theorem State.respPacket_joined :
    s.respPacket p = if p.op = 0xC5 ∨ (s.respBuffer p).bytes = (s.respBuffer p).total
      then (s.respJoined p).respDelivered p.conn p.msn y.item (s.respBuffer p) else (s.respJoined p).grantCredits := by
  simp only [State.respPacket, hanswers, hlistens, hsrc, hmultipath, hformed, hnew, hclass, hawaits, hfits, Bool.not_true,
    Bool.false_eq_true, or_self, if_false, if_true, State.respBuffer, State.respJoined, State.respDelivered]
  by_cases hop : p.op = 0xC5
  · simp only [hop, if_true, true_or, Bool.not_true, Bool.false_eq_true, if_false]
  · simp only [hop, if_false, false_or, Bool.not_eq_true', decide_eq_false_iff_not, ite_not]

theorem State.respPacket_readJoined (hop : p.op ≠ 0xC5) :
    s.respPacket p = if (s.respBuffer p).bytes = (s.respBuffer p).total
      then (s.respJoined p).respDelivered p.conn p.msn y.item (s.respBuffer p) else (s.respJoined p).grantCredits := by
  rw [State.respPacket_joined hanswers hlistens hsrc hmultipath hformed hnew hclass hawaits hfits]
  simp only [hop, false_or]

theorem State.respPacket_atomicJoined (hop : p.op = 0xC5) :
    s.respPacket p = (s.respJoined p).respDelivered p.conn p.msn y.item (s.respBuffer p) :=
  (State.respPacket_joined hanswers hlistens hsrc hmultipath hformed hnew hclass hawaits hfits).trans (if_pos (Or.inl hop))

end Responses

/-! ### Acknowledgements and credits (R321 to R327) -/

/-- A connection with the cumulative counts that an MP_ACK brings; the credits are of the STATE class (R321, R325). -/
def Conn.acknowledged (c : Conn) (p : MpAckPkt) : Conn :=
  let b := { c with peerCum := newer c.peerCum p.cumMsn }
  if b.attr.message then b
  else { b with granted := newer b.granted p.granted, seenConsumed := newer b.seenConsumed p.consumed }

theorem execMpAck_taken {s : State} {p : MpAckPkt} (hanswers : s.answers = true)
    (hlistens : (s.netConn p.conn).listens = true) (hsrc : p.srcOk = true)
    (hmultipath : (s.netConn p.conn).attr.multipath = true) (hlevel : readable p.level.toNat = true)
    (hsome : 1 ≤ p.entries.length) (hfew : p.entries.length ≤ 4) :
    let n := p.conn
    let t := p.entries.foldl (fun s e => s.ackEntry n e) (s.setNetConn n ((s.netConn n).acknowledged p))
    execMpAck p s = .next ((((t.settleOut n).fastRetransmit n).sendWaiting n).settleFailed).pumpHeld := by
  have formed : ¬(!(s.netConn p.conn).attr.multipath ∨ readable p.level.toNat = false ∨ p.entries.length < 1
      ∨ 4 < p.entries.length) := by
    simp only [hmultipath, hlevel, Bool.not_true, Bool.false_eq_true, Bool.true_eq_false, false_or]
    omega
  simp only [execMpAck, hanswers, hlistens, hsrc, if_neg formed, Bool.not_true, Bool.false_eq_true, if_false,
    Conn.acknowledged]

section Credits

variable {s : State} {p : MpCreditPkt} (hanswers : s.answers = true) (hlistens : (s.netConn p.conn).listens = true)
  (hsrc : p.srcOk = true) (hmultipath : (s.netConn p.conn).attr.multipath = true)
  (hclass : (s.netConn p.conn).attr.message = false) (hlevel : readable p.level.toNat = true)
include hanswers hlistens hsrc hmultipath hclass hlevel

/-- A grant brings the sender's counts forward, and lets waiting packets go. -/
theorem execMpCredit_grant (hkind : p.kind = 0) :
    let n := p.conn
    let c := s.netConn n
    execMpCredit p s = .next ((s.setNetConn n { c with
      granted := newer c.granted p.granted
      seenConsumed := newer c.seenConsumed p.consumed
      seenReturned := newer c.seenReturned p.returned }).sendWaiting n) := by
  simp [execMpCredit, hanswers, hlistens, hsrc, hmultipath, hclass, hlevel, hkind]

/-- A return brings the receiver's count forward, and tells the sender's demand. -/
theorem execMpCredit_return (hkind : p.kind = 1) :
    let n := p.conn
    let c := s.netConn n
    execMpCredit p s = .next (s.setNetConn n { c with
      rReturned := newer c.rReturned p.returned
      rDemand := p.demand }) := by
  simp [execMpCredit, hanswers, hlistens, hsrc, hmultipath, hclass, hlevel, hkind]

end Credits

section SenderCredits

variable {s : State} {n : Fin 8192} (hready : (s.netConn n.val).state = .ready)
  (hclass : (s.netConn n.val).attr.message = false) (hmultipath : (s.netConn n.val).attr.multipath = true)
include hready hclass hmultipath

theorem execCreditReturn_held (hheld : (s.netConn n.val).held ≠ 0) (hanswers : s.answers = true) :
    let c := s.netConn n.val
    let b := { c with returned := (c.returned + c.held) % 2 ^ 32 }
    execCreditReturn n s = .next ((s.setNetConn n.val b).netOut (.credit n.val 1 b.granted b.used b.returned b.demand)) := by
  have due : ¬((s.netConn n.val).state ≠ .ready ∨ (s.netConn n.val).attr.message ∨ !(s.netConn n.val).attr.multipath
      ∨ (s.netConn n.val).held = 0 ∨ !s.answers) := by
    simp [hready, hclass, hmultipath, hheld, hanswers]
  exact congrArg Host.Outcome.next (if_neg due)

/-- Counts that differ become the receiver's, and CREDIT_RESYNC is recorded. -/
theorem execCreditResync_differs
    (hdiffers : ¬((s.netConn n.val).used = (s.netConn n.val).seenConsumed
      ∧ (s.netConn n.val).returned = (s.netConn n.val).seenReturned)) (hanswers : s.answers = true) :
    let c := s.netConn n.val
    let t := ((s.setNetConn n.val { c with used := c.seenConsumed, returned := c.seenReturned }).setFlag
      Reg.NET_STATUS 2 true).setFlag Reg.FAULT_AUDIT 3 true
    execCreditResync n s = .next ((t.raise { severity := .corrected, block := 0x010, cause := 0x0039
                                             unit := BitVec.ofNat 16 n.val
                                             detail0 := c.attr.peer.zeroExtend 64 }).sendWaiting n.val) := by
  have due : ¬((s.netConn n.val).state ≠ .ready ∨ (s.netConn n.val).attr.message ∨ !(s.netConn n.val).attr.multipath
      ∨ ((s.netConn n.val).used = (s.netConn n.val).seenConsumed
        ∧ (s.netConn n.val).returned = (s.netConn n.val).seenReturned) ∨ !s.answers) := by
    simp only [hready, hclass, hmultipath, hdiffers, hanswers, ne_eq, not_true_eq_false, Bool.false_eq_true, Bool.not_true,
      or_self, not_false_eq_true]
  exact congrArg Host.Outcome.next (if_neg due)

end SenderCredits

theorem execCreditGrantTick_answers {s : State} (hanswers : s.answers = true) :
    execCreditGrantTick s = .next s.grantCredits :=
  congrArg Host.Outcome.next (if_pos hanswers)

/-! ### Timers and states of a connection (R309, R319, R322, R328) -/

/-- A connection on which a packet sent on a path has timed out: the path is avoided for 1 ms, unless no other remains
(R322). -/
def State.avoiding (s : State) (c : Conn) (path : Nat) : Conn :=
  if ((s.livePaths c).filter fun x => decide (x ≠ path)).isEmpty then c
  else { c with avoided := (path, s.now + 1000000) ::
    c.avoided.filter fun y => decide (s.now < y.2) && decide (y.1 ≠ path) }

/-- A connection whose window has gone to its least, where hardware keeps one (R328). -/
def State.leastWindow (s : State) (c : Conn) : Conn :=
  if s.windowed c then { c with window := s.clampWindow (s.rdN Reg.SHAPE_WIN_MIN) } else c

theorem execRetransmitTimeout_unacked {s : State} {n : Fin 8192} {msn index : Nat} {p : SentPacket}
    (hsent : ((s.netConn n.val).unacked.find? fun p => p.msn == msn && p.index == index) = some p)
    (hanswers : s.answers = true) (hlistens : (s.netConn n.val).listens = true) :
    execRetransmitTimeout n msn index s = .next ((s.setNetConn n.val
      (s.leastWindow (s.avoiding (s.netConn n.val) p.path))).retransmit n.val p).settleFailed := by
  have due : ¬(!s.answers ∨ !(s.netConn n.val).listens) := by simp [hanswers, hlistens]
  simp only [execRetransmitTimeout, hsent]
  exact congrArg Host.Outcome.next (if_neg due)

/-- The space keys of the two ends agree, of which a STATE connection compares the partition alone (log entry 49). -/
def Conn.helloAgrees (c : Conn) (key : U32) : Bool :=
  if c.attr.message then c.attr.spaceKey == key else c.attr.spaceKey.toNat / 2 ^ 29 == key.toNat / 2 ^ 29

theorem execMpHello_connecting {s : State} {p : MpHelloPkt} (hanswers : s.answers = true)
    (hmultipath : (s.netConn p.conn).attr.multipath = true) (hconnecting : (s.netConn p.conn).state = .connecting)
    (hsrc : p.srcOk = true) (hclass : p.message = (s.netConn p.conn).attr.message)
    (hkey : (s.netConn p.conn).helloAgrees p.spaceKey = true) :
    let n := p.conn
    let c := s.netConn n
    execMpHello p s = .next (((s.setNetConn n { c with state := .ready, connectCmd := none }).netOut
      (.hello n)).completeOpt c.connectCmd stOK (BitVec.ofNat 64 n)) := by
  rw [Conn.helloAgrees] at hkey
  simp only [execMpHello, hanswers, hmultipath, hconnecting, hsrc, hclass, hkey, Bool.not_true, Bool.false_eq_true, ne_eq,
    not_true_eq_false, false_and, or_self, if_false, if_true]

section ConnectionTimers

variable {s : State} {n : Fin 8192}

theorem execMpHelloTimer_connecting (hconnecting : (s.netConn n.val).state = .connecting) (hanswers : s.answers = true) :
    execMpHelloTimer n s = .next (s.netOut (.hello n.val)) :=
  congrArg Host.Outcome.next (if_pos ⟨hconnecting, hanswers⟩)

theorem execConnectTimeout_connecting (hconnecting : (s.netConn n.val).state = .connecting) (halive : s.alive = true) :
    execConnectTimeout n s =
      .next ((s.setNetConn n.val {}).completeOpt (s.netConn n.val).connectCmd stTIMEOUT) :=
  congrArg Host.Outcome.next (if_pos ⟨hconnecting, halive⟩)

/-- A CLOSING connection with no message outstanding is freed, and its CLOSEs complete. -/
theorem execClosingResolved_closing (hclosing : (s.netConn n.val).state = .closing) (hresolved : (s.netConn n.val).out = [])
    (halive : s.alive = true) :
    execClosingResolved n s =
      .next ((s.netConn n.val).closeCmds.foldl (fun s x => s.complete x stOK) (s.freeConn n.val)) :=
  congrArg Host.Outcome.next (if_pos ⟨hclosing, hresolved, halive⟩)

/-- The oldest held packet that nothing earlier overlaps leaves the hold buffer for its check. -/
theorem execHeldPacketRelease_found {p : MpPacket}
    (hfound : ((s.netConn n.val).heldPkts.find? fun p => !s.overlapsEarlier p) = some p)
    (hready : (s.netConn n.val).state = .ready) (hanswers : s.answers = true) :
    let c := s.netConn n.val
    let t := s.setNetConn n.val
      { c with heldPkts := c.heldPkts.filter fun q => !(q.msn == p.msn && q.offset == p.offset) }
    execHeldPacketRelease n s = .next (State.windowPacket
      { t with net := { t.net with holdBytes := t.net.holdBytes - p.payload.length } } p) := by
  have due : ¬((s.netConn n.val).state ≠ .ready ∨ !s.answers) := by simp [hready, hanswers]
  simp only [execHeldPacketRelease, hfound, if_neg due]

end ConnectionTimers

/-! ### Standard RoCE v2 (R304, R313) -/

section StandardVerbs

variable {s t : State} {p : RocePkt} {w d : Nat} (hanswers : s.answers = true) (hready : (s.netConn p.conn).state = .ready)
  (hsrc : p.srcOk = true) (hstandard : (s.netConn p.conn).attr.multipath = false) (hsupported : p.supported = true)
  (hmtu : p.payload.length ≤ (s.netConn p.conn).attr.mtu)
  (hpolice : s.police (s.netConn p.conn).attr.tenant.toNat p.frameLen = (true, t))
include hanswers hready hsrc hstandard hsupported hmtu hpolice

/-- A standard packet that passes its checks and its policer is charged to its tenant, and runs. -/
theorem State.rocePacket_taken (run : Conn → State → State) :
    s.rocePacket p run = run (s.netConn p.conn) (t.chargeRx (s.netConn p.conn) 0 p.payload.length) := by
  have formed : ¬((s.netConn p.conn).attr.multipath ∨ !p.supported ∨ (s.netConn p.conn).attr.mtu < p.payload.length) := by
    simp [hstandard, hsupported, hmtu]
  simp only [State.rocePacket, hanswers, hready, hsrc, if_neg formed, hpolice, Bool.not_true, Bool.false_eq_true, ne_eq,
    not_true_eq_false, if_false, if_true]

/-- SEND is only acknowledged (log entry 50). -/
theorem execSend_taken :
    execSend p s = .next ((t.chargeRx (s.netConn p.conn) 0 p.payload.length).netOut (.roceAck p.conn p.psn stOK)) :=
  congrArg Host.Outcome.next (State.rocePacket_taken hanswers hready hsrc hstandard hsupported hmtu hpolice _)

theorem execRdmaWrite_admitted
    (hcheck : (t.chargeRx (s.netConn p.conn) 0 p.payload.length).rdmaCheck (s.netConn p.conn) p.key .store p.target
      p.payload.length = .ok (w, d)) :
    execRdmaWrite p s = .next (((t.chargeRx (s.netConn p.conn) 0 p.payload.length).writeP d p.payload false).netOut
      (.roceAck p.conn p.psn stOK)) := by
  simp only [execRdmaWrite, State.rocePacket_taken hanswers hready hsrc hstandard hsupported hmtu hpolice, hcheck]

theorem execRdmaRead_admitted
    (hcheck : (t.chargeRx (s.netConn p.conn) 0 p.payload.length).rdmaCheck (s.netConn p.conn) p.key .load p.target
      p.length = .ok (w, d)) :
    let v := (t.chargeRx (s.netConn p.conn) 0 p.payload.length).tally (s.netConn p.conn).attr.tenant.toNat
      fun x => { x with netTx := x.netTx + p.length }
    execRdmaRead p s = .next (v.netOut (.readResp p.conn p.psn (v.poisoned d p.length) (v.seen d p.length))) := by
  simp only [execRdmaRead, State.rocePacket_taken hanswers hready hsrc hstandard hsupported hmtu hpolice, hcheck]

/-- CMP_SWAP and FETCH_ADD of standard RoCE swap or add in memory, and answer the word that was there. -/
theorem roceAtomic_next_of_admitted {op : StraitOp} (haligned : p.target % 8 = 0)
    (hcheck : (t.chargeRx (s.netConn p.conn) 0 p.payload.length).rdmaCheck (s.netConn p.conn) p.key .atomic p.target 8
      = .ok (w, d)) :
    let r := (t.chargeRx (s.netConn p.conn) 0 p.payload.length).runMemory op d 8 p.payload false
    (Host.Outcome.next (s.roceAtomic p op) : Host.Outcome State Fault Refusal)
      = .next ((r.state.tally (s.netConn p.conn).attr.tenant.toNat fun x => { x with netTx := x.netTx + 8 }).netOut
        (.atomicResp p.conn p.psn r.data)) := by
  simp only [State.roceAtomic, State.rocePacket_taken hanswers hready hsrc hstandard hsupported hmtu hpolice,
    if_neg (not_not.mpr haligned), hcheck]

end StandardVerbs

/-! ### Ports (R303, R306, R334, R417) -/

section Ports

variable {s : State} {n : Fin 16}

/-- The frames of the port PTP_PORT give the slave clock, where PTP_REF is set. -/
theorem execPtpMessage_selected (offset : Int) (halive : s.alive = true) (hptp : s.flag Reg.OBS_TIME_CTRL 2 = true)
    (hport : s.field Reg.OBS_TIME_CTRL 4 4 = n.val) (hallocated : (s.net.ports.get n.val).allocated = true) :
    execPtpMessage n offset s = .next { s with obs := { s.obs with ptpClock := some offset } } :=
  congrArg Host.Outcome.next (if_pos ⟨halive, hptp, hport, hallocated⟩)

variable (hallocated : (s.net.ports.get n.val).allocated = true) (halive : s.alive = true)
include hallocated halive

/-- The priorities that PFC_EN enables and the frame names pause or resume. -/
theorem execPfcFrame_allocated (classes pause : Byte) :
    let e := s.net.ports.get n.val
    let mask : Byte := if s.flag Reg.NET_CTRL 1 then BitVec.ofNat 8 (s.field Reg.NET_CTRL 2 8) &&& classes else 0
    execPfcFrame n classes pause s = .next (s.setEthPort n.val
      { e with pfcRx := satAdd 16 e.pfcRx 1, paused := (e.paused &&& ~~~mask) ||| (pause &&& mask) }) :=
  congrArg Host.Outcome.next (if_pos ⟨hallocated, halive⟩)

theorem execEthernetLinkChange_allocated (up : Option Bool) :
    execEthernetLinkChange n up s = .next (s.setEthPort n.val { s.net.ports.get n.val with
      state := match up with
        | some true => .up
        | some false => .down
        | none => .training
      paused := 0 }) :=
  congrArg Host.Outcome.next (if_pos ⟨hallocated, halive⟩)

end Ports

/-- The outcome of a command that always answers a next state is that state's. -/
theorem next_congr {s t : State} (h : s = t) : (Host.Outcome.next s : Host.Outcome State Fault Refusal) = .next t :=
  congrArg Host.Outcome.next h

/-- Settles O49: a packet by the checks of its arrival (`State.mpPacket_firstCopy`, `State.respPacket_joined`,
`State.rocePacket_taken`), any other command by the branch that the clause's hypotheses pick. -/
theorem networkCommands : Obligations.NetworkCommands := by
  unfold Obligations.NetworkCommands
  have unready (op : Byte) (s : State) (p : MpPacket) hanswers hstate :=
    next_congr (State.mpPacket_unready (s := s) (p := { p with op := op }) hanswers hstate)
  have stateClass (op : Byte) (s : State) (p : MpPacket) hanswers hready hsrc hmultipath hformed hclass hnew hunheld hfits
      hroom :=
    next_congr (State.mpPacket_stateClass (s := s) (p := { p with op := op }) hanswers hready hsrc hmultipath hformed hclass
      ⟨hnew, hunheld, hfits, hroom⟩)
  have messageClass (op : Byte) (s t : State) (p : MpPacket) hanswers hready hsrc hmultipath hformed hclass hpolice hnew
      hunheld hfits hroom :=
    next_congr (State.mpPacket_messageClass (s := s) (t := t) (p := { p with op := op }) hanswers hready hsrc hmultipath
      hformed hclass hpolice ⟨hnew, hunheld, hfits, hroom⟩)
  exact ⟨stateClass 0xC0, messageClass 0xC0, unready 0xC0,
    fun s p hanswers hready hsrc _ hclass => next_congr (State.mpPacket_malformed (p := { p with op := 0xC1 }) hanswers hready
      hsrc (MpPacket.formed_stateClass (Or.inl rfl) hclass)),
    messageClass 0xC1, unready 0xC1, stateClass 0xC2, messageClass 0xC2, unready 0xC2,
    fun s p hanswers hready hsrc _ hclass => next_congr (State.mpPacket_malformed (p := { p with op := 0xC4 }) hanswers hready
      hsrc (MpPacket.formed_stateClass (Or.inr rfl) hclass)),
    messageClass 0xC4, unready 0xC4,
    fun s p hanswers hlistens hsrc hmultipath hformed hclass hnew hawaits => next_congr (State.respPacket_stateLate
      (p := { p with op := 0xC3 }) hanswers hlistens hsrc hmultipath hformed hnew hclass hawaits),
    fun s p hanswers hlistens hsrc hmultipath hformed hdup =>
      next_congr (State.respPacket_duplicate (p := { p with op := 0xC3 }) hanswers hlistens hsrc hmultipath hformed hdup),
    fun s p hanswers hlistens hsrc hmultipath hformed hnew hawaits => next_congr (State.respPacket_atomicLate
      (p := { p with op := 0xC5 }) hanswers hlistens hsrc hmultipath hformed hnew rfl hawaits),
    fun s p hanswers hlistens hsrc hmultipath hformed hdup =>
      next_congr (State.respPacket_duplicate (p := { p with op := 0xC5 }) hanswers hlistens hsrc hmultipath hformed hdup),
    fun s p hanswers hlistens hsrc hmultipath hlevel hsome hfew =>
      execMpAck_taken hanswers hlistens hsrc hmultipath hlevel hsome hfew,
    fun s p hanswers hlistens hsrc hmultipath hclass hlevel =>
      ⟨execMpCredit_grant hanswers hlistens hsrc hmultipath hclass hlevel,
        execMpCredit_return hanswers hlistens hsrc hmultipath hclass hlevel⟩,
    fun s n m i p hsent hanswers hlistens => execRetransmitTimeout_unacked hsent hanswers hlistens,
    fun s n hready hclass hmultipath hheld hanswers => execCreditReturn_held hready hclass hmultipath hheld hanswers,
    fun s n hready hclass hmultipath hdiffers hanswers =>
      execCreditResync_differs hready hclass hmultipath hdiffers hanswers,
    fun s p hanswers hmultipath hconnecting hsrc hclass hkey =>
      execMpHello_connecting hanswers hmultipath hconnecting hsrc hclass hkey,
    fun s n => ⟨execMpHelloTimer_connecting, execConnectTimeout_connecting, execClosingResolved_closing⟩,
    fun s t p => execSend_taken, fun s t p w d => execRdmaWrite_admitted,
    fun s t p w d hanswers hready hsrc hstandard hsupported hmtu hpolice hcheck =>
      execRdmaRead_admitted hanswers hready hsrc hstandard hsupported hmtu hpolice hcheck,
    fun s t p w d => roceAtomic_next_of_admitted (op := .cas),
    fun s t p w d => roceAtomic_next_of_admitted (op := .fetchAdd),
    fun s n x halive hptp hport hallocated => execPtpMessage_selected x halive hptp hport hallocated,
    fun s n classes pause hallocated halive => execPfcFrame_allocated hallocated halive classes pause,
    fun s n up hallocated halive => execEthernetLinkChange_allocated hallocated halive up,
    fun s hanswers => execCreditGrantTick_answers hanswers,
    fun s n p hfound hready hanswers => execHeldPacketRelease_found hfound hready hanswers,
    fun s p y hanswers hlistens hsrc hmultipath hformed hclass hnew hawaits hfits => next_congr (State.respPacket_readJoined
      (p := { p with op := 0xC3 }) hanswers hlistens hsrc hmultipath hformed hnew hclass hawaits hfits
      (show (0xC3 : Byte) ≠ 0xC5 by decide)),
    fun s p y hanswers hlistens hsrc hmultipath hformed hclass hnew hawaits hfits => next_congr (State.respPacket_atomicJoined
      (p := { p with op := 0xC5 }) hanswers hlistens hsrc hmultipath hformed hnew hclass hawaits hfits rfl)⟩

end Sys2Proof.Machine
end

section
/-! PROOFS. Chapters 14, 15 and 20: a step takes the command in front, an idle step is one nanosecond, and every command answers a
next state in which no blown fuse is cleared. -/

namespace Sys2Proof.Machine

/-! ### Steps (R413, R415, log entry 8) -/

/-- Settles O1. -/
theorem stepRunsFrontCommand : Obligations.StepRunsFrontCommand :=
  fun _ _ _ => step_of_pending_cons rfl

theorem State.changes_obs (s : State) (o : ObsSt) : s.ChangesOnly { s with obs := o } [.obs] := by
  intro p hp
  cases p with
  | obs => exact absurd (by decide) hp
  | _ => rfl

theorem State.changes_tick (s : State) : s.ChangesOnly s.tick [.obs] := s.changes_obs _

/-- With no error being slewed out a nanosecond of the Tide passes, in a correction slot as in any other. -/
theorem State.tick_unslewed {s : State} (h : s.obs.slew = 0) :
    s.tick.obs.tide = (s.obs.tide + 1) % 2 ^ 64 ∧ s.tick.obs.slew = 0 := by
  by_cases hslot : s.obs.ticks + 1 < 10000
  · simp [State.tick, hslot, h]
  · simp [State.tick, hslot, h]

/-- Settles O2: the step is a tick. -/
theorem idleStepTicks : Obligations.IdleStepTicks := by
  intro s hempty hslew
  obtain ⟨htide, hkept⟩ := State.tick_unslewed hslew
  exact ⟨s.tick, step_of_pending_nil hempty, htide, hkept, s.changes_tick⟩

/-! ### Commands (R513, R514) -/

/-- Settles O3: the meaning of each command is `.next` of a state, whatever the state. -/
theorem everyCommandAnswersNext : Obligations.EveryCommandAnswersNext := by
  intro c s
  cases c <;> exact ⟨_, rfl⟩

/-- Settles O6, by what every command keeps (`exec_keeps`). -/
theorem commandsKeepFuses : Obligations.CommandsKeepFuses := by
  intro c s t h
  have kept : s.Keeps t := (exec_keeps (.refl s) c).keeps t h
  exact ⟨kept.fuses, kept.queue⟩

end Sys2Proof.Machine
end

section
/-! PROOFS. Chapter 12: the status of a query, and of the batch that it belongs to. -/

namespace Sys2Proof.Machine

/-! ### A query's status (R359, R360) -/

/-- A fault left a unit out of the query, or a result of it is poisoned. -/
def QueryState.bad (x : QueryState) : Prop := x.part = true ∨ ∃ r ∈ x.found, r.bad = true

theorem QueryState.bad_iff (x : QueryState) : (x.part || x.found.any ResultEntry.bad) = true ↔ x.bad := by
  rw [QueryState.bad, Bool.or_eq_true, List.any_eq_true]

section Status

variable {x : QueryState} (k : Nat)

theorem QueryState.status_of_poison (hpoison : x.poison = true) : x.status k = stPOISON := if_pos hpoison

variable (hclean : x.poison = false)
include hclean

theorem QueryState.status_of_bad (hbad : x.bad) : x.status k = stPARTIAL := by
  rw [QueryState.status, hclean, if_neg Bool.false_ne_true, if_pos (x.bad_iff.2 hbad)]

variable (hgood : ¬ x.bad)
include hgood

theorem QueryState.status_of_few (hfew : x.found.length < k) : x.status k = stSHORT := by
  rw [QueryState.status, hclean, if_neg Bool.false_ne_true, if_neg (mt x.bad_iff.1 hgood), if_pos hfew]

theorem QueryState.status_of_enough (henough : k ≤ x.found.length) : x.status k = stOK := by
  rw [QueryState.status, hclean, if_neg Bool.false_ne_true, if_neg (mt x.bad_iff.1 hgood), if_neg (Nat.not_lt.2 henough)]

end Status

/-- Each status is given in its own case, and the four cases exclude one another. -/
theorem QueryState.status_iff (x : QueryState) (k : Nat) :
    (x.status k = stPOISON ↔ x.poison = true) ∧ (x.status k = stPARTIAL ↔ x.poison = false ∧ x.bad)
      ∧ (x.status k = stSHORT ↔ x.poison = false ∧ ¬ x.bad ∧ x.found.length < k)
      ∧ (x.status k = stOK ↔ x.poison = false ∧ ¬ x.bad ∧ k ≤ x.found.length) := by
  cases hpoison : x.poison with
  | true => simp [QueryState.status_of_poison k hpoison]
  | false =>
    by_cases hbad : x.bad
    · simp [QueryState.status_of_bad k hpoison hbad, hbad]
    · rcases Nat.lt_or_ge x.found.length k with hfew | henough
      · simp [QueryState.status_of_few k hpoison hbad hfew, hbad, hfew]
      · simp [QueryState.status_of_enough k hpoison hbad henough, hbad, henough]

/-! ### A batch's status (R360) -/

/-- The batch that finishes completes its command by the number of its queries that are OK. -/
theorem State.finishBatch_completes (s : State) (b : Batch) : ∃ u : State, s.finishBatch b = u.complete b.cmd
    (if (b.queries.filter fun x => x.status b.header.k == stOK).length = b.queries.length then stOK else stPARTIAL) :=
  ⟨_, rfl⟩

/-- Settles O9. -/
theorem queryAndBatchStatus : Obligations.QueryAndBatchStatus := by
  refine ⟨fun x k => x.status_iff k, fun s b => ?_⟩
  obtain ⟨u, hfinish⟩ := s.finishBatch_completes b
  refine ⟨u, ?_⟩
  simpa only [List.length_filter_eq_length_iff, beq_iff_eq] using hfinish

end Sys2Proof.Machine
end

section
/-! PROOFS. Chapter 15: the pulses, timers and registers that move the time state. -/

namespace Sys2Proof.Machine

/-! ### A change of the time state (R414, R422) -/

/-- Entering HOLDOVER, UNLOCKED or LOCKING from another state changes that, and offers a record to the trace. -/
theorem State.timeState_eq {s : State} {t : TimeState} (hother : s.obs.state ≠ t) (hlocked : t ≠ .locked) (hfree : t ≠ .free) :
    ∃ l, s.timeState t = { s with obs := { s.obs with state := t, lockRun := 0, offers := l } } := by
  rw [State.timeState, if_neg hother, if_neg (not_or_intro hlocked hfree), State.offer]
  split
  · exact ⟨_, rfl⟩
  · exact ⟨_, rfl⟩

/-! ### A pulse arrives (R413, R417) -/

/-- The state that a pulse finds: the Tide has come to the pulse, and the PTP reference is sampled. -/
def State.pulsed (s : State) (x : Nat) : State := (s.tideTo x).ptpSample

theorem execEpochPulse_eq (x : Nat) (s : State) : execEpochPulse x s = .next (s.pulsed x).judgePulse := rfl

/-- Sampling the PTP reference touches its samples and OBS_PTP_OFFSET. -/
theorem State.ptpSample_eq (s : State) : ∃ ds l, s.ptpSample.obs = { s.obs with ptp := ds, ptpLocked := l }
    ∧ s.ChangesOnly s.ptpSample [.regs, .obs] ∧ s.RegsKept s.ptpSample [Reg.OBS_PTP_OFFSET] := by
  have sampled (o : ObsSt) : s.ChangesOnly { s with obs := o } [.regs, .obs] := (s.changes_obs o).mono (by simp)
  rw [State.ptpSample]
  split
  · refine ⟨_, _, rfl, (sampled _).trans ((State.changes_wr _ _ _).mono (by simp)), State.regsKept_wr _ _ _⟩
  · exact ⟨_, _, rfl, sampled _, State.RegsKept.refl _ _⟩

section Pulsed

variable (s : State) (x : Nat)

theorem State.pulsed_obs : (s.pulsed x).obs.state = s.obs.state ∧ (s.pulsed x).obs.tideNext = s.obs.tideNext
    ∧ (s.pulsed x).obs.lastPulse = s.obs.lastPulse := by
  obtain ⟨ds, l, hobs, -, -⟩ := (s.tideTo x).ptpSample_eq
  rw [State.pulsed, hobs]
  exact ⟨rfl, rfl, rfl⟩

theorem State.changes_pulsed : s.ChangesOnly (s.pulsed x) [.regs, .obs] := by
  obtain ⟨ds, l, -, hchanges, -⟩ := (s.tideTo x).ptpSample_eq
  exact ((s.changes_obs _).mono (by simp)).trans hchanges

theorem State.regsKept_pulsed : s.RegsKept (s.pulsed x) [Reg.OBS_PTP_OFFSET] := by
  obtain ⟨ds, l, -, -, hregs⟩ := (s.tideTo x).ptpSample_eq
  exact (State.regsKept_of_regs rfl _).trans hregs

theorem State.pulsed_source : (s.pulsed x).flag Reg.OBS_TIME_CTRL 0 = s.flag Reg.OBS_TIME_CTRL 0 :=
  congrArg (fun v : U32 => v.getLsbD 0) (s.regsKept_pulsed x _ (by decide))

end Pulsed

/-! ### A pulse is judged (R414, R415) -/

/-- The armed value `v` becomes the Tide. -/
def State.tideStarted (s : State) (v : Nat) : State :=
  { s with obs := { s.obs with tideNext := none, tide := v % 2 ^ 64, lastPulse := v % 2 ^ 64, slew := 0 } }

/-- In UNSET with SOURCE EPOCH, the armed value starts the Tide, and the pulses after it are to confirm it. -/
theorem State.judgePulse_unset {s : State} {v : Nat} (hstate : s.obs.state = .unset) (hnext : s.obs.tideNext = some v)
    (hsource : s.flag Reg.OBS_TIME_CTRL 0 = false) : s.judgePulse = (s.tideStarted v).timeState .locking := by
  simp only [State.judgePulse, hstate, hnext, hsource, State.tideStarted]

/-- The pulse of an error within 1,000 ns is taken: it is slewed out from now on. -/
def State.pulseTaken (s : State) (e : Int) : State :=
  ({ s with obs := { s.obs with slew := e, lastPulse := s.now } }).wr Reg.OBS_PULSE_ERR (sat32 e)

theorem State.acceptPulse_unarmed {s : State} (hnext : s.obs.tideNext = none) (e : Int) : s.acceptPulse e = s.pulseTaken e := by
  simp only [State.acceptPulse, State.checkTideNext, hnext, State.pulseTaken]

theorem State.changes_pulseTaken (s : State) (e : Int) : s.ChangesOnly (s.pulseTaken e) [.regs, .obs] :=
  ((s.changes_obs _).mono (by simp)).trans ((State.changes_wr _ _ _).mono (by simp))

section Locked

variable {s : State} (hstate : s.obs.state = .locked)
include hstate

theorem State.judgePulse_rejected (hbeyond : 1000 < s.pulseError.natAbs) : s.judgePulse = s.rejectPulse := by
  simp only [State.judgePulse, hstate, if_pos hbeyond]

variable (hnext : s.obs.tideNext = none) (hwithin : s.pulseError.natAbs ≤ 1000)
include hnext hwithin

theorem State.judgePulse_near (hnear : s.pulseError.natAbs ≤ 50) : s.judgePulse = s.pulseTaken s.pulseError := by
  simp only [State.judgePulse, hstate, if_neg (Nat.not_lt.2 hwithin), if_pos hnear, State.acceptPulse_unarmed hnext]

theorem State.judgePulse_between (hfar : 50 < s.pulseError.natAbs) :
    s.judgePulse = (s.pulseTaken s.pulseError).timeState .locking := by
  simp only [State.judgePulse, hstate, if_neg (Nat.not_lt.2 hwithin), if_neg (Nat.not_le.2 hfar),
    State.acceptPulse_unarmed hnext]

end Locked

/-- What a pulse does in LOCKED with no value armed. -/
theorem State.judgePulse_locked {s : State} (hstate : s.obs.state = .locked) (hnext : s.obs.tideNext = none) :
    let e := s.pulseError.natAbs
    let t := s.judgePulse
    t.obs.state = (if 1000 < e then .locked else if e ≤ 50 then .locked else .locking)
      ∧ (e ≤ 1000 → t.obs.slew = s.pulseError ∧ t.obs.lastPulse = s.now) ∧ (1000 < e → t.obs.lastPulse = s.obs.lastPulse)
      ∧ s.ChangesOnly t [.regs, .obs] ∧ s.RegsKept t [Reg.OBS_PULSE_ERR, Reg.OBS_TIME_STATUS] := by
  intro e t
  rcases Nat.lt_or_ge 1000 e with hbeyond | hwithin
  · have ht : t = s.rejectPulse := State.judgePulse_rejected hstate hbeyond
    rw [ht, if_pos hbeyond]
    refine ⟨hstate, fun h => absurd hbeyond (Nat.not_lt.2 h), fun _ => rfl, ?_, ?_⟩
    · exact ((s.changes_obs _).mono (by simp)).trans ((State.changes_wr _ _ _).mono (by simp))
    · exact (State.regsKept_wr { s with obs := { s.obs with lockRun := 0 } } _ _).mono (by simp)
  · have taken : s.RegsKept (s.pulseTaken s.pulseError) [Reg.OBS_PULSE_ERR, Reg.OBS_TIME_STATUS] :=
      (State.regsKept_wr _ _ _).mono (by simp)
    rw [if_neg (Nat.not_lt.2 hwithin)]
    rcases Nat.lt_or_ge 50 e with hfar | hnear
    · obtain ⟨l, hl⟩ := State.timeState_eq (s := s.pulseTaken s.pulseError) (t := .locking)
        (by rw [show (s.pulseTaken s.pulseError).obs.state = .locked from hstate]; decide) (by decide) (by decide)
      have ht : t = _ := (State.judgePulse_between hstate hnext hwithin hfar).trans hl
      rw [ht, if_neg (Nat.not_le.2 hfar)]
      exact ⟨rfl, fun _ => ⟨rfl, rfl⟩, fun h => absurd h (Nat.not_lt.2 hwithin),
        (s.changes_pulseTaken _).trans ((State.changes_obs _ _).mono (by simp)), taken⟩
    · have ht : t = _ := State.judgePulse_near hstate hnext hwithin hnear
      rw [ht, if_pos hnear]
      exact ⟨hstate, fun _ => ⟨rfl, rfl⟩, fun h => absurd h (Nat.not_lt.2 hwithin), s.changes_pulseTaken _, taken⟩

theorem execEpochPulse_unset {s : State} {v : Nat} (x : Nat) (hstate : s.obs.state = .unset)
    (hnext : s.obs.tideNext = some v) (hsource : s.flag Reg.OBS_TIME_CTRL 0 = false) :
    ∃ t, execEpochPulse x s = .next t ∧ t.obs.state = .locking ∧ t.obs.tide = v % 2 ^ 64 ∧ t.obs.tideNext = none
      ∧ s.ChangesOnly t [.regs, .obs] ∧ s.RegsKept t [Reg.OBS_PTP_OFFSET] := by
  obtain ⟨pstate, pnext, -⟩ := s.pulsed_obs x
  have unset : ((s.pulsed x).tideStarted v).obs.state = .unset := pstate.trans hstate
  obtain ⟨l, hl⟩ := State.timeState_eq (t := .locking) (by rw [unset]; decide) (by decide) (by decide)
  refine ⟨_, execEpochPulse_eq x s, ?_⟩
  rw [State.judgePulse_unset (pstate.trans hstate) (pnext.trans hnext) ((s.pulsed_source x).trans hsource), hl]
  exact ⟨rfl, rfl, rfl, (s.changes_pulsed x).trans ((State.changes_obs _ _).mono (by simp)), s.regsKept_pulsed x⟩

theorem execEpochPulse_locked {s : State} (x : Nat) (hstate : s.obs.state = .locked) (hnext : s.obs.tideNext = none) :
    let u := s.pulsed x
    let e := u.pulseError.natAbs
    ∃ t, execEpochPulse x s = .next t ∧ t.obs.state = (if 1000 < e then .locked else if e ≤ 50 then .locked else .locking)
      ∧ (e ≤ 1000 → t.obs.slew = u.pulseError ∧ t.obs.lastPulse = u.now) ∧ (1000 < e → t.obs.lastPulse = s.obs.lastPulse)
      ∧ s.ChangesOnly t [.regs, .obs] ∧ s.RegsKept t [Reg.OBS_PTP_OFFSET, Reg.OBS_PULSE_ERR, Reg.OBS_TIME_STATUS] := by
  obtain ⟨pstate, pnext, plast⟩ := s.pulsed_obs x
  obtain ⟨hjudged, htaken, hrejected, hchanges, hregs⟩ := State.judgePulse_locked (pstate.trans hstate) (pnext.trans hnext)
  exact ⟨_, execEpochPulse_eq x s, hjudged, htaken, fun h => (hrejected h).trans plast, (s.changes_pulsed x).trans hchanges,
    ((s.regsKept_pulsed x).mono (by simp)).trans (hregs.mono (by simp))⟩

/-! ### The timers of the pulse (R414) -/

theorem execPulseAbsence_enters {s : State} (h : s.obs.state = .locking ∨ s.obs.state = .locked) :
    execPulseAbsence s = .next ((s.timeState .holdover).raise
      { severity := .corrected, block := 0x01A, cause := 0x0100, detail0 := BitVec.ofNat 64 s.obs.lastPulse }) := by
  rcases h with h | h
  · simp only [execPulseAbsence, h]
  · simp only [execPulseAbsence, h]

theorem execHoldoverExpiry_enters {s : State} (h : s.obs.state = .holdover) :
    execHoldoverExpiry s = .next ((s.timeState .unlocked).raise
      { severity := .contained, block := 0x01A, cause := 0x0101, detail0 := BitVec.ofNat 64 s.obs.lastPulse }) := by
  simp only [execHoldoverExpiry, h]

/-- A timer's state is entered, and the Tide and all but the time state kept. -/
theorem State.timeState_entered {s : State} {t : TimeState} (hother : s.obs.state ≠ t) (hlocked : t ≠ .locked)
    (hfree : t ≠ .free) : (s.timeState t).obs.state = t ∧ (s.timeState t).obs.tide = s.obs.tide
      ∧ s.ChangesOnly (s.timeState t) [.obs] := by
  obtain ⟨l, hl⟩ := State.timeState_eq hother hlocked hfree
  rw [hl]
  exact ⟨rfl, rfl, s.changes_obs _⟩

/-! ### TIDE_NEXT (R413, R415, R432) -/

/-- The pair of registers is below 2^64. -/
theorem State.tidePair_lt (s : State) (hi : U32) : hi.toNat * 2 ^ 32 + s.rdN Reg.OBS_TIDE_NEXT_LO < 2 ^ 64 := by
  have hlo : s.rdN Reg.OBS_TIDE_NEXT_LO < 2 ^ 32 := (s.rd Reg.OBS_TIDE_NEXT_LO).isLt
  have hhi : hi.toNat < 2 ^ 32 := hi.isLt
  omega

theorem execTideNextWrite_arms {s : State} (hi : U32) (hset : s.obs.state ≠ .unset) :
    execTideNextWrite hi s = .next { s.wr Reg.OBS_TIDE_NEXT_HI hi with
      obs := { s.obs with tideNext := some (hi.toNat * 2 ^ 32 + s.rdN Reg.OBS_TIDE_NEXT_LO) } } := by
  have unset : ¬ ((s.wr Reg.OBS_TIDE_NEXT_HI hi).obs.state = .unset
      ∧ (s.wr Reg.OBS_TIDE_NEXT_HI hi).flag Reg.OBS_TIME_CTRL 0 = true) := fun h => hset h.1
  have low : (s.wr Reg.OBS_TIDE_NEXT_HI hi).rdN Reg.OBS_TIDE_NEXT_LO = s.rdN Reg.OBS_TIDE_NEXT_LO :=
    State.rdN_wr_ne (by decide) s hi
  rw [execTideNextWrite, State.armTide, if_neg unset, low, Nat.mod_eq_of_lt (s.tidePair_lt hi)]
  rfl

/-- Settles O22: a pulse by `execEpochPulse_unset` and `execEpochPulse_locked`, a timer by `State.timeState_entered`. -/
theorem timeStateCommands : Obligations.TimeStateCommands := by
  unfold Obligations.TimeStateCommands
  refine ⟨fun s x v => execEpochPulse_unset x, fun s x => execEpochPulse_locked x, fun s h => ?_, fun s h => ?_,
    fun s hi hset => ⟨_, execTideNextWrite_arms hi hset, rfl, State.regsKept_wr s _ _, ?_⟩,
    fun s hrun => congrArg _ (if_pos hrun), fun s => rfl⟩
  · have hother : s.obs.state ≠ .holdover := by rcases h with h | h <;> rw [h] <;> decide
    exact ⟨_, execPulseAbsence_enters h, State.timeState_entered hother (by decide) (by decide)⟩
  · exact ⟨_, execHoldoverExpiry_enters h, State.timeState_entered (by rw [h]; decide) (by decide) (by decide)⟩
  · exact ((State.changes_wr s _ _).mono (by simp)).trans ((State.changes_obs _ _).mono (by simp))

end Sys2Proof.Machine
end

section
/-! PROOFS. Chapters 21 and 22: what happens to the supplies, the input meter and the cap, and the commands of the I3C target. -/

namespace Sys2Proof.Machine

/-! ### The supplies (R531, R532, R537, R547) -/

section SupplyA

variable {s : State} (v : Nat)

theorem execSupplyNotGood_switches (hon : s.pwr.supply = .onA) (hgood : s.pwr.vinBGood = true) :
    execSupplyNotGood false v s =
      .next (State.moveLoad { s with pwr := { s.pwr with vinA := v, vinAGood := false } } .onB 1 v true) := by
  unfold execSupplyNotGood
  simp only [PwrSt.vin, hon, hgood, Bool.false_eq_true, if_false, if_true]

theorem execSupplyNotGood_lost (hon : s.pwr.supply = .onA) (hbad : s.pwr.vinBGood = false) :
    execSupplyNotGood false v s =
      .next (State.supplyLost { s with pwr := { s.pwr with vinA := v, vinAGood := false } } v) := by
  unfold execSupplyNotGood
  simp only [PwrSt.vin, hon, hbad, Bool.false_eq_true, if_false]

theorem execSupplyReturn_returns (hon : s.pwr.supply = .onB) (hprefer : s.flag Reg.PWR_CTRL 0 = false) :
    execSupplyReturn false v s =
      .next (State.moveLoad { s with pwr := { s.pwr with vinA := v, vinAGood := true } } .onA 2 v false) :=
  congrArg Host.Outcome.next (if_pos ⟨hon, rfl, hprefer⟩)

theorem execSupplyGoodInOff_resets (e : BootEnv) (hoff : s.pwr.supply = .off) (hreset : s.pins.resetN = true) :
    execSupplyGoodInOff false v e s =
      .next (State.coldReset { s with pwr := { s.pwr with vinA := v, vinAGood := true, supply := .onA } } false 0 e) := by
  rw [execSupplyGoodInOff, if_pos hoff]
  exact congrArg Host.Outcome.next (if_pos hreset)

end SupplyA

theorem execShutdownComplete_ends {s : State} (hheld : s.pwr.supply = .holdUp) (hreset : s.pins.resetN = true) :
    execShutdownComplete s =
      .next { s with pwr := { s.pwr with supply := .off }, pins := { s.pins with sbrun := false, phase := .off } } := by
  simp only [execShutdownComplete, if_pos hheld, if_pos hreset]

/-- PREFER_B moves no load that VIN_B carries already. -/
theorem State.preferB_onB {s : State} (hon : s.pwr.supply = .onB) : s.preferB = s :=
  if_neg fun ⟨_, ha, _⟩ => absurd (hon.symm.trans ha) (by decide)

/-- SUPPLY_DEGRADED is said once for a stay on VIN_B. -/
theorem State.degradedOnB_said {s : State} (hsaid : s.pwr.degradedSaid = true) : s.degradedOnB = s :=
  if_neg fun ⟨_, _, hnot⟩ => absurd (hsaid.symm.trans hnot) (by decide)

theorem execPreferB_onB {s : State} (on : Bool) (hon : s.pwr.supply = .onB) (hsaid : s.pwr.degradedSaid = true) :
    execPreferB on s = .next (s.setFlag Reg.PWR_CTRL 0 on) := by
  rw [execPreferB, State.preferB_onB (s := s.setFlag _ _ _) hon, State.degradedOnB_said (s := s.setFlag _ _ _) hsaid]

/-- A bit reads as it was written. -/
theorem State.flag_setFlag {s : State} (h : s.Inv) (a : Nat) {i : Nat} (hi : i < 32) (b : Bool) :
    (s.setFlag a i b).flag a i = b := by
  rw [State.flag, State.setFlag, State.rd_wr h]
  cases b with
  | true => simp [hi]
  | false => simp [hi]

/-! ### The meter and the cap (R533 to R535, R549) -/

theorem execEnergyMeterSample_supplied {s : State} (w : Fin 65536) (hsupplied : s.supplied = true) :
    execEnergyMeterSample w s = .next { s with pwr := { s.pwr with
      energy := (s.pwr.energy + 10 * w.val) % 2 ^ 64, samples := (w.val :: s.pwr.samples).take 1000 } } :=
  congrArg Host.Outcome.next (if_pos hsupplied)

theorem execCapLevelChange_running {s : State} (l : Fin 4) (hrun : s.pins.sbrun = true) :
    execCapLevelChange l s = .next { s with pwr := { s.pwr with capLevel := l } } :=
  congrArg Host.Outcome.next (if_pos hrun)

/-- The work of a millisecond: the cap's, then that of each die in turn. -/
theorem execCapControlTick_eq (s : State) : execCapControlTick s =
    .next ((((((s.capTick).thermTick 0).thermTick 1).thermTick 2).thermTick 3).thermTick 4) := by
  have dies : List.range 5 = [0, 1, 2, 3, 4] := by decide
  simp only [execCapControlTick, dies, List.foldl_cons, List.foldl_nil]

/-- Settles O12: each clause is the branch of its command that the clause's hypotheses pick. -/
theorem supplyCommands : Obligations.SupplyCommands := by
  unfold Obligations.SupplyCommands
  exact ⟨fun s v => execSupplyNotGood_switches v, fun s v => execSupplyNotGood_lost v,
    fun s => execShutdownComplete_ends, fun s v => execSupplyReturn_returns v, fun s v e => execSupplyGoodInOff_resets v e,
    fun s v => rfl, fun s v => rfl, fun s => ⟨rfl, rfl⟩,
    fun s on hon hsaid h => ⟨_, execPreferB_onB on hon hsaid, State.flag_setFlag h _ (by decide) on,
      State.regsKept_wr s _ _, State.changes_wr s _ _⟩,
    fun s => rfl, fun s w => execEnergyMeterSample_supplied w, fun s l => execCapLevelChange_running l,
    fun s v => rfl, execCapControlTick_eq⟩

/-! ### The I3C target (R447, R552) -/

section I3c

variable {s : State}

/-- A target that is not up stays silent (log entry 65). -/
theorem State.i3c_down (hdown : s.i3cUp = false) (inAux ok : Bool) (f : State → State) : s.i3c inAux ok f = s := by
  simp [State.i3c, hdown]

variable {a : BitVec 7} (hup : s.i3cUp = true) (haddr : s.pins.i3cAddr = some a) (hrun : s.pins.phase = .run)
include hup haddr hrun

theorem State.i3c_run {ok : Bool} (hlength : ok = true) (inAux : Bool) (f : State → State) : s.i3c inAux ok f = f s := by
  simp [State.i3c, hup, haddr, hrun, hlength]

theorem State.i3c_malformed {ok : Bool} (hlength : ok = false) (inAux : Bool) (f : State → State) :
    s.i3c inAux ok f = s.i3cAnswer stMALFORMED [] := by
  simp [State.i3c, hup, haddr, hrun, hlength]

end I3c

/-- Settles O13: a command of the right length runs (`State.i3c_run`), another is answered MALFORMED (`State.i3c_malformed`). -/
theorem i3cCommands : Obligations.I3cCommands := by
  unfold Obligations.I3cCommands
  exact ⟨fun s a hup => congrArg Host.Outcome.next (if_pos hup),
    fun s a hup haddr hrun => congrArg Host.Outcome.next (State.i3c_run hup haddr hrun rfl _ _),
    fun s a x y hup haddr hrun => congrArg Host.Outcome.next (State.i3c_run hup haddr hrun rfl _ _),
    fun s a d hup haddr hrun hlength =>
      congrArg Host.Outcome.next (State.i3c_run hup haddr hrun (decide_eq_true hlength) _ _),
    fun s a d hup haddr hrun hlength =>
      congrArg Host.Outcome.next (State.i3c_run hup haddr hrun (decide_eq_true hlength) _ _),
    fun s a hup haddr hrun => congrArg Host.Outcome.next (State.i3c_run hup haddr hrun rfl _ _),
    fun s a d hup haddr hrun hlength =>
      congrArg Host.Outcome.next (State.i3c_malformed hup haddr hrun (decide_eq_false hlength) _ _),
    fun s d hdown => ⟨congrArg Host.Outcome.next (State.i3c_down hdown _ _ _),
      congrArg Host.Outcome.next (State.i3c_down hdown _ _ _)⟩⟩

end Sys2Proof.Machine
end

section
/-! PROOFS. Chapters 19 and 20: firmware staging, handover and anti-rollback, and the self-tests, enrolments and fuse commands. -/

namespace Sys2Proof.Machine

theorem State.changes_fw (s : State) (f : FwSt) : s.ChangesOnly { s with fw := f } [.fw] := by
  intro p hp
  cases p with
  | fw => exact absurd (by decide) hp
  | _ => rfl

theorem State.changes_sec (s : State) (x : SecSt) : s.ChangesOnly { s with sec := x } [.sec] := by
  intro p hp
  cases p with
  | sec => exact absurd (by decide) hp
  | _ => rfl

/-! ### Staging (R491 to R493) -/

section Staging

variable {s : State} {w : WinRef}

/-- A staging that nothing stands in the way of opens its session, which hardware runs. -/
theorem execFwBegin_opens (file : SlotFile) (h : s.Runs w 0x18) (hslot : (s.take w.key).beginSlot (s.frontCmd w.key) ≠ 7)
    (hfits : (s.frontCmd w.key).arg1.toNat ≤ slotSize ((s.take w.key).beginSlot (s.frontCmd w.key)))
    (hsession : (s.take w.key).fw.session = none) (hhandover : (s.take w.key).handingOver = false)
    (hloading : (s.take w.key).structLoading = false) (herror : (s.take w.key).sec.error = false)
    (hloaded : (s.take w.key).struct.loaded = none) (hidle : (s.take w.key).fw.handover = .idle)
    (hservice : (s.take w.key).fw.service = .normal) (hmode : (s.take w.key).fnMode 9 ≠ .hostAssist) :
    let c := s.frontCmd w.key
    let u := s.take w.key
    let t := u.setSlot (u.beginSlot c) { state := .staging }
    execFwBegin w file s = .next { t with fw := { t.fw with session := some {
      slot := u.beginSlot c, port := w.port.val, length := c.arg1.toNat, hw := true, file := file
      cmd := some (s.ref w) } } } := by
  have accepted : ¬ ((s.take w.key).beginSlot (s.frontCmd w.key) = 7
      ∨ slotSize ((s.take w.key).beginSlot (s.frontCmd w.key)) < (s.frontCmd w.key).arg1.toNat) :=
    not_or_intro hslot (Nat.not_lt.2 hfits)
  rw [execFwBegin, State.hostCmd_runs h]
  simp [accepted, hsession, hhandover, hloading, herror, hloaded, hidle, hservice, hmode]

theorem execFwBlock_taken {b : StagedBlock} {x : Session} (h : s.Runs w 0x19) (hsession : (s.take w.key).fw.session = some x)
    (herror : s.sec.error = false) (hhost : x.hw = false) (hnext : (s.frontCmd w.key).arg0.toNat = x.next)
    (htag : b.tagOk = true) :
    execFwBlock w b s = .next ((State.decided { s.take w.key with fw := { (s.take w.key).fw with
      session := some { x with next := x.next + 1, file := x.file.add b.file x.slot x.next } } } 9).fwComplete
        (some (s.ref w)) stOK) := by
  have error : (s.take w.key).sec.error = false := herror
  rw [execFwBlock, State.hostCmd_runs h]
  simp [hsession, error, hhost, hnext, htag]

theorem execFwEnd_ends {x : Session} (h : s.Runs w 0x1A) (hsession : (s.take w.key).fw.session = some x) (hhost : x.hw = false) :
    execFwEnd w s = .next ((s.take w.key).endSession x (some (s.ref w))) := by
  rw [execFwEnd, State.hostCmd_runs h]
  simp [hsession, hhost]

theorem execFwActivate_runs (h : s.Runs w 0x1B) :
    execFwActivate w s = .next ((s.take w.key).activate (some (s.ref w)) ((s.frontCmd w.key).arg0.getLsbD 0)) := by
  rw [execFwActivate, State.hostCmd_runs h]

/-- A staged slot other than 2 and 3 activates nothing. -/
theorem execFwStagingDone_ends {x : Session} (hsession : s.fw.session = some x) (hhw : x.hw = true) (hslot : x.slot = 5) :
    execFwStagingDone s = .next (s.endSession x x.cmd) := by
  simp [execFwStagingDone, hsession, hhw, hslot]

end Staging

/-! ### Handover (R497 to R499) -/

section Handover

variable {s : State}

section Prepare

variable (hprepare : s.fw.handover = .prepare)
include hprepare

theorem execStandbyReady_prepare : execStandbyReady s = .next { s with fw := { s.fw with handover := .quiesce } } :=
  congrArg Host.Outcome.next (if_pos hprepare)

/-- The time-out abandons the handover with TIMEOUT (log entry 63). -/
theorem execPrepareTimeout_prepare : execPrepareTimeout s = .next (s.abandon stTIMEOUT) :=
  congrArg Host.Outcome.next (if_pos hprepare)

/-- A fault of the standby set abandons the handover with TIMEOUT (log entry 63). -/
theorem execStandbySetFault_prepare : execStandbySetFault s = .next (s.abandon stTIMEOUT) := by
  simp only [execStandbySetFault, hprepare]

theorem execFwAbort_prepare (hsession : s.fw.session = none) : execFwAbort s = .next (s.abandon stTIMEOUT) := by
  have dropped : s.dropSession = s := by simp only [State.dropSession, hsession]
  simp only [execFwAbort, dropped, hprepare]

end Prepare

section Quiesce

variable (hquiesce : s.fw.handover = .quiesce)
include hquiesce

/-- With no recovery running and no plan being loaded, the pause begins. -/
theorem execQuiesceReady_pauses (hrecovery : s.fault.recovery.step = 0)
    (hloading : s.tier.plans.anyWhere (fun _ p => p.loading) = false) :
    execQuiesceReady s = .next { s with fw := { s.fw with handover := .pause, pauseStart := s.obs.tide } } :=
  congrArg Host.Outcome.next (if_pos ⟨hquiesce, hrecovery, hloading⟩)

theorem execQuiesceTimeout_quiesce : execQuiesceTimeout s = .next (s.abandon stTIMEOUT) :=
  congrArg Host.Outcome.next (if_pos hquiesce)

end Quiesce

section Pause

variable (hpause : s.fw.handover = .pause)
include hpause

theorem execStateRead_switches : execStateRead s = .next { s with fw := { s.fw with
    handover := .switched, old := s.fw.run, oldSlot := s.fw.runSlot, run := s.fw.next, runSlot := s.fw.nextSlot } } :=
  congrArg Host.Outcome.next (if_pos hpause)

theorem execPauseTimeout_pause : execPauseTimeout s = .next (s.abandon stTIMEOUT) :=
  congrArg Host.Outcome.next (if_pos (.inl hpause))

end Pause

/-- The firmware state once the new set runs, with FW_CONFIRM other than 0. -/
def State.newSetRunning (s : State) (new : Image) : FwSt :=
  { s.fw with
    handover := .confirming, features := s.featuresOf new, conservative := s.fw.nextConservative
    secLevel := (s.sharedSec new).getD 0, completed := satAdd 16 s.fw.completed 1, next := none, cmd := none
    pauseLast := (s.now - s.fw.pauseStart) / 1000 }

theorem execNewSetRun_confirms {i : Image} (hswitched : s.fw.handover = .switched) (hrun : s.fw.run = some i)
    (hconfirm : s.rdN Reg.FW_CONFIRM ≠ 0) (hslot : s.fw.nextSlot = 2) (hcmd : s.fw.cmd = none) :
    execNewSetRun s = .next ((State.writeBoot { s with fw := s.newSetRunning i } fun r =>
      { r with pending := 2 }).fwComplete none stOK) := by
  simp [execNewSetRun, State.newSetRunning, hswitched, hrun, hconfirm, hslot, hcmd]

theorem execConfirmElapsed_confirms (hconfirming : s.fw.handover = .confirming) (halive : s.alive = true) :
    execConfirmElapsed s = .next (State.writeBoot { s with fw := { s.fw with handover := .idle } } fun r =>
      { r with active := s.bootRec.pending, pending := 0 }) :=
  congrArg Host.Outcome.next (if_pos ⟨hconfirming, halive⟩)

end Handover

/-! ### The header's select (R501, R560) -/

section Select

variable {s : State} {v : U32}

theorem execFwSelWrite_valid {i : Image} (hslot : v.toNat % 8 ≠ 7) (hvalid : (s.fw.slots.get (v.toNat % 8)).state = .valid)
    (himage : (s.fw.slots.get (v.toNat % 8)).content = .image i) :
    execFwSelWrite v s =
      .next { s.wr Reg.FW_SEL (BitVec.ofNat 32 (v.toNat % 8)) with fw := { s.fw with hdrSnap := some i } } := by
  simp only [execFwSelWrite, if_neg hslot, hvalid, himage]

theorem execFwSelWrite_beyond (hslot : v.toNat % 8 = 7) : execFwSelWrite v s = .next (s.setFlag Reg.FW_STATUS 10 true) :=
  congrArg Host.Outcome.next (if_pos hslot)

end Select

/-- Settles O18: each clause is the branch of its command that the clause's hypotheses pick. -/
theorem firmwareCommands : Obligations.FirmwareCommands := by
  unfold Obligations.FirmwareCommands
  refine ⟨fun s w x => execFwBegin_opens x, fun s w b x => execFwBlock_taken, fun s w x => execFwEnd_ends,
    fun s w => execFwActivate_runs, fun s x => execFwStagingDone_ends,
    fun s h => ⟨execStandbyReady_prepare h, execPrepareTimeout_prepare h, execStandbySetFault_prepare h,
      execFwAbort_prepare h⟩,
    fun s h hrecovery hplans => ⟨execQuiesceReady_pauses h hrecovery (by rw [hplans]; rfl), execQuiesceTimeout_quiesce h⟩,
    fun s h => ⟨execStateRead_switches h, execPauseTimeout_pause h⟩,
    fun s i hswitched hrun hconfirm hslot hcmd => ⟨_, execNewSetRun_confirms hswitched hrun hconfirm hslot hcmd, rfl, rfl,
      rfl, hrun, s.changes_fw _⟩,
    fun s => execConfirmElapsed_confirms, fun s v => rfl,
    fun s v i hslot hvalid himage h => ⟨_, execFwSelWrite_valid hslot hvalid himage, State.rd_wr h _ _, rfl,
      State.regsKept_wr s _ _, ?_⟩,
    fun s v => execFwSelWrite_beyond⟩
  exact ((State.changes_wr s _ _).mono (by simp)).trans ((State.changes_fw _ _).mono (by simp))

/-! ### Self-tests (R516, R517) -/

/-- The security state after a failing sample: its passed bit is cleared, and the failure counted. -/
def SecSt.entropyFailed (x : SecSt) : SecSt :=
  { x with passed := x.passed &&& 0x1FF#10, failures := satAdd 16 x.failures 1, failedSince := true }

theorem execContinuousEntropyTest_eq (s : State) :
    execContinuousEntropyTest s = .next (State.testFail { s with sec := s.sec.entropyFailed } 9).secError := rfl

/-! ### Enrolment (R509, R510) -/

section Enrol

variable {s : State} {g : Bool}

theorem execEnroll_enrols (hpass : s.enrolFault s.enrolRec g = none) (hop : s.enrolRec.op = 1) :
    let r := s.enrolRec
    let u : State := { s with sec := { s.sec with
      enrollStatus := stOK, skeys := s.sec.skeys.set r.slot { hash := r.newHash, used := true, present := true } } }
    execEnroll g s =
      .next ((u.writeBoot fun c => c.withKey r.slot r.pub).writeBoot fun c => c.withKey r.slot r.pub) := by
  simp only [execEnroll, hpass, hop, if_true, Option.getD_none]

theorem execEnroll_revokes (hpass : s.enrolFault s.enrolRec g = none) (hop : s.enrolRec.op ≠ 1) :
    let u : State := { s with sec := { s.sec with
      enrollStatus := stOK, skeys := s.sec.skeys.mod s.enrolRec.slot fun k => { k with revoked := true } } }
    execEnroll g s = .next ((u.writeBoot id).writeBoot id) := by
  simp only [execEnroll, hpass, if_neg hop, Option.getD_none]

theorem execEnroll_fails {e : Byte} (hfault : s.enrolFault s.enrolRec g = some e) :
    execEnroll g s = .next (State.raise { s with sec := { s.sec with enrollStatus := e } }
      { severity := .corrected, block := 0x022, cause := 0x0142, unit := BitVec.ofNat 16 s.enrolRec.slot
        detail0 := BitVec.ofNat 64 s.enrolRec.op.toNat, detail1 := BitVec.ofNat 64 e.toNat }) := by
  simp only [execEnroll, hfault, Option.getD_some]

end Enrol

/-! ### Fuses (R513, R514, R523) -/

theorem State.fuseCmd_keyless {k : U16} (hkey : k ≠ 0xB10E) (s : State) (f : State → State) :
    s.fuseCmd k f = s.setFlag Reg.SEC_STATUS 4 true := if_neg hkey

theorem execBlowMldsaReq_blows {s : State} (hall : s.allMldsa = true) :
    execBlowMldsaReq 0xB10E s = .next { s with sec := { s.sec with mldsaReq := true } } :=
  congrArg Host.Outcome.next (if_pos hall)

/-- Settles O16: each clause is the branch of its command that the clause's hypotheses pick. -/
theorem fuseAndSelfTestCommands : Obligations.FuseAndSelfTestCommands := by
  unfold Obligations.FuseAndSelfTestCommands
  exact ⟨fun s => rfl, fun s => execBlowMldsaReq_blows,
    fun s k hkey => ⟨congrArg Host.Outcome.next (s.fuseCmd_keyless hkey _),
      congrArg Host.Outcome.next (s.fuseCmd_keyless hkey _)⟩,
    fun s p f => rfl, fun s => ⟨_, execContinuousEntropyTest_eq s, rfl, s.changes_sec _⟩,
    fun s g hpass hop => ⟨_, execEnroll_enrols hpass hop, rfl, s.changes_sec _⟩,
    fun s g hpass hop => ⟨_, execEnroll_revokes hpass hop, rfl, s.changes_sec _⟩,
    fun s g e hfault => execEnroll_fails hfault⟩

end Sys2Proof.Machine
end
